-- ==== Sys2Proof/Word.lean ====
section
/-! DEFINITION. The word types of the module (spec/00_scope.md R2 to R4) and the sparse map that holds indexed contents. -/

namespace Sys2Proof

/-- One byte. -/
abbrev Byte := BitVec 8

/-- One 64-bit register or lane value (05 R103). -/
abbrev Word := BitVec 64

/-- One bit for each of the 32 lanes of a group; bit `l` is lane `l` (03 R58). -/
abbrev Mask := BitVec 32

/-- A byte address of code: the low 48 bits of the address space (03 R57). -/
abbrev Pc := BitVec 48

/-- Contents by number, as a list of pairs in rising order of the number, holding only what differs
from the value that an unlisted number has (Machine/Sparse.lean reads and writes it). -/
abbrev SMap (α : Type) := List (Nat × α)

end Sys2Proof
end

