-- ==== Sys2Proof/Machine/Sparse.lean ====
section
/-! DEFINITION. Sparse contents: a list of pairs in strictly rising order of the number, none of them equal to what an
unlisted number reads as. Memory, register files, tiles and accumulators are such lists. -/

namespace Sys2Proof

/-- The entry of a number, or the default. -/
def sget {α : Type} (dflt : α) (m : SMap α) (k : Nat) : α :=
  match m with
  | [] => dflt
  | p :: t => if p.1 = k then p.2 else sget dflt t k

/-- Take the entry of a number out. -/
def sdel {α : Type} (m : SMap α) (k : Nat) : SMap α := m.filter fun p => p.1 != k

/-- Put an entry in its place. -/
def sins {α : Type} (k : Nat) (v : α) : SMap α → SMap α
  | [] => [(k, v)]
  | p :: t => if k < p.1 then (k, v) :: p :: t else p :: sins k v t

/-- Set the entry of a number; the default is not listed. -/
def sset {α : Type} [DecidableEq α] (dflt : α) (m : SMap α) (k : Nat) (v : α) : SMap α :=
  if v = dflt then sdel m k else sins k v (sdel m k)

/-- The canonical form: numbers strictly rising above `lo`, no entry equal to the default. -/
def swfFrom {α : Type} [DecidableEq α] (dflt : α) (lo : Nat) (m : SMap α) : Bool :=
  match m with
  | [] => true
  | p :: t => decide (lo ≤ p.1) && decide (p.2 ≠ dflt) && swfFrom dflt (p.1 + 1) t

/-- The canonical form of a sparse map. -/
def swf {α : Type} [DecidableEq α] (dflt : α) (m : SMap α) : Bool := swfFrom dflt 0 m

/-- Set the entries of `k, k + 1, …` from a list. -/
def ssetList {α : Type} [DecidableEq α] (dflt : α) (m : SMap α) (k : Nat) : List α → SMap α
  | [] => m
  | v :: vs => ssetList dflt (sset dflt m k v) (k + 1) vs

/-- The entries of `k` to `k + n - 1`. -/
def sgetList {α : Type} (dflt : α) (m : SMap α) (k n : Nat) : List α :=
  (List.range n).map fun j => sget dflt m (k + j)

/-- Put every number of a range back to the default. -/
def sclear {α : Type} (m : SMap α) (k n : Nat) : SMap α := m.filter fun p => decide (p.1 < k ∨ k + n ≤ p.1)

/-- Byte memory: an unlisted address reads as zero (notes/assumptions/4.md). -/
abbrev Memory := SMap Byte

/-- Does the memory have its canonical form? -/
def Memory.wf (m : Memory) : Bool := swf (0 : Byte) m

/-- One byte of a memory. -/
def Memory.get (m : Memory) (a : Nat) : Byte := sget 0 m a

/-- Write one byte. -/
def Memory.set (m : Memory) (a : Nat) (b : Byte) : Memory := sset 0 m a b

/-- The bytes at `a` to `a + n - 1`. -/
def Memory.read (m : Memory) (a n : Nat) : List Byte := sgetList 0 m a n

/-- Write bytes at `a` and on. -/
def Memory.write (m : Memory) (a : Nat) (bs : List Byte) : Memory := ssetList 0 m a bs

end Sys2Proof
end

