-- ==== Sys2Proof/Syntax.lean ====
section
/-! DEFINITION. The instructions: one constructor of `Instr` for each row of spec/opcode_table.json, the words of
the opcode map (06) first and then the indivisible events inside the device (95). -/

namespace Sys2Proof

/-! ## Parts of a word -/

/-- The fields every word but the tandem word's K, E carries alike (05 R110): guard, hints S and Y, reuse K, extent E. -/
structure Hdr where
  pn : Bool
  pg : BitVec 4
  s : Bool
  y : Bool
  k : BitVec 2
  e : BitVec 2
  deriving DecidableEq, Repr

/-- A 12-bit operand field by class (05 R107). -/
inductive Opnd where
  | v (n : BitVec 8)
  | g (n : BitVec 10)
  | p (n : BitVec 4)
  | sp (n : BitVec 3)
  | tile (n : BitVec 7)
  | bar (n : BitVec 4)
  | sreg (n : BitVec 6)
  | imm (n : BitVec 10)
  deriving DecidableEq, Repr

/-- The second source of an instruction that has an R and an I form (05 R115). -/
inductive Src2 where
  | r (o : Opnd)
  | i (imm : BitVec 32)
  deriving DecidableEq, Repr

/-- The second and third sources: two fields in the R form; in the I form the immediate, and D as the third (07 R170). -/
inductive Src3 where
  | r (b c : Opnd)
  | i (imm : BitVec 32)
  deriving DecidableEq, Repr

/-- An M-format address (05 R117). -/
inductive Addr where
  | o (a : Opnd) (ofs : BitVec 28)
  | x (a b : Opnd) (s : BitVec 3)
  deriving DecidableEq, Repr

/-- Integer element width (06 R138). -/
inductive EW where
  | w64 | w32 | w16 | w8
  deriving DecidableEq, Repr

/-- Memory access width (06 R142). -/
inductive MW where
  | b8 | b16 | b32 | b64 | b128
  deriving DecidableEq, Repr

/-- The four arithmetic float types (06 R139). -/
inductive FTy where
  | f64 | f32 | f16 | bf16
  deriving DecidableEq, Repr

/-- The float types of conversions (08 R189). -/
inductive FloatTy where
  | f64 | f32 | f16 | bf16 | e5m2 | e4m3 | e3m2 | e2m3 | e2m1 | ue4m3
  deriving DecidableEq, Repr

/-- The integer types of conversions (08 R189). -/
structure IntTy where
  w : EW
  signed : Bool
  deriving DecidableEq, Repr

/-- Rounding field (04 R81). -/
inductive Rnd where
  | rn | rz | rp | rm | ro | dyn
  deriving DecidableEq, Repr

/-- Comparison of ICMP (07 R164) and FCMP (08 R182). -/
inductive Cmp where
  | eq | ne | lt | le | gt | ge | un | ord
  deriving DecidableEq, Repr

/-- MOD of a floating instruction (05 R114). -/
structure FMod where
  rnd : Rnd
  sat : Bool
  ftz : Bool
  negA : Bool
  negB : Bool
  negC : Bool
  absA : Bool
  absB : Bool
  deriving DecidableEq, Repr

/-- Type of a FOLD (08 R201). -/
inductive FoldTy where
  | int (t : IntTy)
  | flt (t : FTy)
  deriving DecidableEq, Repr

/-- Ordering of a memory access (09 R215). -/
inductive Ord where
  | plain | acq | rel
  deriving DecidableEq, Repr

/-- Scope (09 R215). -/
inductive Scope where
  | grp | crew | core | clu | die | dev | dom | sys
  deriving DecidableEq, Repr

/-- Cache policy (09 R215). -/
inductive Cp where
  | dflt | ef | na | home
  deriving DecidableEq, Repr

/-- Integer atomic operation (09 R225). -/
inductive AOp where
  | add | and | or | xor | mini | maxi | minn | maxn | xchg | inc | dec
  deriving DecidableEq, Repr

/-- Float atomic type and operation (09 R227). -/
inductive AFTy where
  | f32 | f64 | bf16x2
  deriving DecidableEq, Repr
inductive AFOp where
  | add | min | max
  deriving DecidableEq, Repr

/-- A word of a parameter block (05 R123). -/
inductive PWord where
  | val (n : BitVec 31)
  | g (n : BitVec 10)
  deriving DecidableEq, Repr

/-- The parameter block of MST and COPYT (05 R123). -/
structure Params where
  w0 : PWord
  w1 : PWord
  w2 : PWord
  w3 : PWord
  deriving DecidableEq, Repr

/-- Matrix element format (11 R271). -/
inductive MFmt where
  | e4m3 | e5m2 | e3m2 | e2m3 | e2m1 | bf16 | fp16 | i8 | tri | f32 | i32
  deriving DecidableEq, Repr

/-- What an MLW does (11 R286). -/
inductive MlwArg where
  | drop
  | load (t : Opnd) (f : MFmt) (nsw : Bool)
  deriving DecidableEq, Repr

/-! ## What events carry -/

/-- Page kind (15 R370). -/
inductive PKind where
  | so | rc | uo
  deriving DecidableEq, Repr

/-- Aperture (15 R370). -/
inductive Apt where
  | hbm | peer | host | mcast
  deriving DecidableEq, Repr

/-- The page attributes an attribute-cache entry holds (09 R212). -/
structure Attr where
  r : Bool
  w : Bool
  x : Bool
  ok : PKind
  ap : Apt
  rap : Bool
  g : Bool
  d : Bool
  wb : Bool
  deriving DecidableEq, Repr

/-- What an access is, as the fault record's ACCESS field says it (20 R457). -/
inductive Acc where
  | load | store | atomic | copyRead | copyWrite | fetch | queue
  deriving DecidableEq, Repr

/-- A group of a crew. -/
structure Who where
  crew : Nat
  grp : Nat
  deriving DecidableEq, Repr

/-- Who made a request: a group's access with its record's number, a copy, or none that waits. -/
inductive Origin where
  | group (w : Who) (id : Nat) (lane : Nat)
  | copy (crew : Nat) (id : Nat) (chunk : Nat)
  | none
  deriving DecidableEq, Repr

/-- The lane of a group's access. -/
def Origin.lane : Origin → Nat
  | .group _ _ l => l
  | _ => 0

/-- A load or lease request on its way (13 R320): `n` bytes at `va`, all in one 16-byte word. `own`: the core itself gives the
result (its scratchpad, its L1 or its summaries); `qlen`: it asks for the backlog of a queue (10 R261). -/
structure LdReq where
  origin : Origin
  core : Nat
  vf : Nat
  asid : Nat
  va : Nat
  n : Nat
  lclk : Nat
  len : Nat
  first : Nat
  last : Nat
  pc : Nat
  cp : Cp
  ldc : Bool
  e0 : Bool
  renew : Bool
  pref : Bool
  atLocal : Bool
  own : Bool := false
  qlen : Option Nat := none
  pext : Nat × Nat := (0, 0)     -- the predictor's extent, where e0 (12 R303)
  e : BitVec 2 := 1              -- the E hint, while the request has not left its core
  miss : Nat := 0                -- the missed word, where e0
  wt : Option (Nat × Nat × Nat) := none -- the lapsed local copy that it renews: its WT, first and last word (12 R312)
  missed : Bool := false         -- it has missed at its home (17 R415)
  left : Nat := 0                -- its number in the order in which requests leave their cores (16 R403)
  fetch : Bool := false          -- of instruction words: its page's right is X (22 R481)
  late : Bool := false           -- an INVAL of its words at their home has overtaken it (12 R309)
  deriving DecidableEq, Repr

/-- Words on their way to a cache (12 R308): words `first` to `last` of the span `va[50:9]`. -/
structure Fill where
  asid : Nat
  span : Nat
  first : Nat
  last : Nat
  wt : Nat
  le : Nat
  data : SMap Byte
  poison : Mask
  hf : Nat := 0                  -- the words of the block that it was cut from
  hl : Nat := 0
  ap : Apt := .hbm               -- and where its span begins in its backing memory
  pa : Nat := 0
  deriving DecidableEq, Repr

/-- A load's answer (13 R320). Where it is poisoned, `bad` numbers the poisoned bytes of a peer's answer; none stands for all. -/
structure LdRep where
  req : LdReq
  data : List Byte
  poison : Bool
  bad : List Nat := []
  wt : Nat
  fill : Option Fill
  fail : Option (Nat × Nat) := none -- its cause and TRAPINFO where the load is not served
  kept : Bool := false           -- a stop has held it, and its core's cache has taken it (17 R426)
  deriving DecidableEq, Repr

/-- A store part on its way to its home (13 R321). -/
structure StMsg where
  origin : Origin
  part : Nat
  core : Nat
  vf : Nat
  asid : Nat
  va : Nat
  bytes : List Byte
  sclk : Nat
  cp : Cp
  pc : Nat
  wb : Bool                      -- the requester's translation carries WB (15 R385)
  ext : Option (Nat × Nat) := none -- the extent of a miss at the home where it is wider than the word (12 R302, R307)
  spoilt : Bool := false         -- its bytes met an uncorrectable error on their way (20 R458)
  floor : Nat := 0               -- its time is not below this: SCLK as a later part of an ordered access leaves (13 R331, R336)
  missed : Bool := false         -- it has missed at its home (17 R415)
  left : Nat := 0                -- its number in the order in which requests leave their cores (16 R403)
  late : Bool := false           -- an INVAL of its words at their home has overtaken it (12 R309)
  deriving DecidableEq, Repr

/-- A store's acknowledgement (13 R321, 22 R483, R491). -/
inductive AckKind where
  | done (wt : Nat)      -- performed at the home
  | peerDone             -- performed at a peer or by every multicast member
  | dropped              -- dropped under MIGLIMIT (22 R483)
  | failed               -- undeliverable (22 R491)
  | peerFault (cause : Nat)  -- refused at the peer (16 R398)
  deriving DecidableEq, Repr
structure StAck where
  msg : StMsg
  kind : AckKind
  was : Option (Nat × Nat × Nat) := none -- the home block's WT before the store, and its first and last word
  clean : Bool := false          -- the word is not poisoned at its home after the store (22 R486)
  kept : Bool := false           -- a stop has held it, and its core's cache has taken it (17 R426)
  deriving DecidableEq, Repr

/-- The operation of an atomic at its home (09 R226, R227). -/
inductive AtomOp where
  | int (op : AOp)
  | cas (cmp : Word)
  | flt (ty : AFTy) (op : AFOp)
  deriving DecidableEq, Repr

/-- An atomic on its way to its home (13 R322). -/
structure AtMsg where
  origin : Origin
  core : Nat
  vf : Nat
  asid : Nat
  va : Nat
  n : Nat
  op : AtomOp
  b : Word
  sclk : Nat
  lclk : Nat
  len : Nat
  pc : Nat
  wb : Bool
  missed : Bool := false         -- it has missed at its home (17 R415)
  left : Nat := 0                -- its number in the order in which requests leave their cores (16 R403)
  late : Bool := false           -- an INVAL of its words at their home has overtaken it (12 R309)
  deriving DecidableEq, Repr

/-- An atomic's answer (13 R322, 22 R483, R486). -/
inductive AtRes where
  | done (old : Word) (wt : Option Nat)
  | raise (lclk : Nat) (old : Word)
  | dropped
  | poisoned
  | peerFault (cause : Nat)
  deriving DecidableEq, Repr
structure AtRep where
  msg : AtMsg
  res : AtRes
  deriving DecidableEq, Repr

/-- A probe of a page by a core for a group (09 R212). -/
structure Probe where
  who : Who
  core : Nat
  asid : Nat
  va : Nat
  acc : Acc
  wr : Bool
  deriving DecidableEq, Repr

/-- The outcome of a translation (15 R375). -/
inductive XRes where
  | ok (a : Attr) (lvl : Nat)
  | noTrans
  | perm
  | expired                -- held beyond MIGLIMIT (09 R212)
  | stale                  -- its page was invalidated on the way (15 R380): the core probes again
  deriving DecidableEq, Repr
structure ProbeRep where
  probe : Probe
  res : XRes
  deriving DecidableEq, Repr

/-- A fill from backing memory that returns to a home slice, or words that reach a local copy (12 R308). -/
structure FillMsg where
  tag : Nat
  slice : Nat
  asid : Nat
  va : Nat
  first : Nat
  last : Nat
  copy : Option Fill
  core : Nat := 0                -- the core whose request asked for it
  victim : Bool := false         -- under `.EF` (12 R305)
  host : Bool := false           -- it comes over the Zenvex Link (01 R21)
  renewed : Option LdReq := none -- a renewal of a local copy without its data, and the load that it serves then (12 R312)
  bad : Mask := 0                -- its words of backing memory that met an uncorrectable error on their way (20 R458)
  serve : Nat := 0               -- 1: not installed once it has served those that wait (12 R309); 2: they are served
  deriving DecidableEq, Repr

/-- A claim (14 R33, R260): a launch by a core, or a DEQ of a group. -/
inductive ClaimKind where
  | launch (core : Nat) (resv : Nat)
  | deq (w : Who) (out : Nat) (lanes : Mask)
  deriving DecidableEq, Repr
structure Claim where
  stage : Nat
  kind : ClaimKind
  sclk : Nat
  deriving DecidableEq, Repr
structure ClaimRep where
  claim : Claim
  seqs : List Nat
  idx : Option Nat
  wt : Nat
  deriving DecidableEq, Repr

/-- One record that a lane or another producer hands to a queue (10 R252). -/
structure Rec where
  lane : Nat
  queue : Nat
  bytes : List Byte
  deriving DecidableEq, Repr

/-- Who appends (10 R253, 14 R358, 15 R384, 16 R405, R409). -/
inductive Producer where
  | group (w : Who) (wait : Bool) (spawn : Bool) (sclk : Nat)
  | henq (vf : Nat)
  | notify (ctrl : Nat) (asid : Nat) (page : Nat)
  deriving DecidableEq, Repr
structure Append where
  src : Producer
  recs : List Rec
  deriving DecidableEq, Repr

/-- A lane's answer from its queue (10 R255). -/
inductive EnqRes where
  | accepted (seq : Nat)
  | refused (reason : Nat)
  | noRoom (queue : Nat)
  | notDone
  deriving DecidableEq, Repr
structure EnqAns where
  who : Who
  lanes : List (Nat × EnqRes)
  home : Nat := 0                -- the home slice that answers
  deriving DecidableEq, Repr

/-- The summary a home slice sends of a stage input (14 R359). -/
structure Summary where
  num : Nat
  range : Bool
  backlog : Nat
  undel : Nat
  flushdue : Bool
  saved : Nat
  deriving DecidableEq, Repr

/-- A peer request that reaches this module (16 R398), and the answer to one of this module's. -/
inductive PeerOp where
  | load (va n : Nat)
  | store (va : Nat) (bytes : List Byte)
  | atom (va n : Nat) (op : AtomOp) (b : Word)
  deriving DecidableEq, Repr
structure PeerReq where
  src : Nat
  port : Nat
  tag : Nat
  op : PeerOp
  counted : Bool := false        -- its bytes are counted in FRX (17 R420)
  no : Nat := 0                  -- its number in the order of arrival (16 R403)
  deriving DecidableEq, Repr
inductive PeerRes where
  | data (bytes : List Byte) (poison : List Nat) -- the numbers of the poisoned bytes
  | done (old : Word)
  | fault (cause : Nat)
  | lost                         -- the segment has failed on its way (23 R502, R505)
  deriving DecidableEq, Repr
structure PeerRep where
  tag : Nat
  res : PeerRes
  deriving DecidableEq, Repr

/-- A multicast write that reaches this module (16 R404). -/
structure McWrite where
  src : Nat
  tag : Nat
  port : Nat := 0                -- the port it came in by
  group : Nat
  ofs : Nat
  bytes : List Byte
  deriving DecidableEq, Repr

/-- A tagged message that reaches this module (16 R405); port 16 is the Zenvex Link. -/
structure TagMsg where
  tag : Nat
  port : Nat
  srcdev : Nat
  ctag : Nat
  payload : List Byte
  deriving DecidableEq, Repr

/-- A torus segment to pass on (16 R402). -/
structure TorusSeg where
  dst : Nat
  src : Nat
  tag : Nat                      -- the source's number of it
  port : Nat                     -- where it arrived
  turns : List Nat
  payload : List Byte
  deriving DecidableEq, Repr

/-- The summary of a receiving segment (16 R408). -/
structure SegSum where
  queue : Nat
  backlog : Nat
  lq : Nat
  nextExp : Nat
  w : Nat
  deriving DecidableEq, Repr
inductive SegSumEv where
  | send (queue : Nat)
  | arrive (s : SegSum)
  deriving DecidableEq, Repr

/-- A forwarded record that reaches a receiving segment (16 R410). -/
structure FwdRec where
  queue : Nat
  seq : Nat
  port : Nat
  src : Nat
  bytes : List Byte
  deriving DecidableEq, Repr

/-- A link: a fabric port or the Zenvex Link (23 R501, R506). -/
inductive Link where
  | port (n : Nat)
  | zenvex
  deriving DecidableEq, Repr

/-- Where a data error is detected (20 R458, 22 R486): in a slice, by an access to a word of its or by a write-back or a scrub of it;
in a core's L1; in local HBM or host memory; in a word that a bridge or a link carries; and the failure of a memory controller
(24 R513), or of the state that a slice keeps of a queue. -/
inductive ErrAt where
  | slice (slice : Nat) (asid : Nat) (va : Nat) (own : Bool) (fix : Bool)
  | sweep (slice : Nat) (asid : Nat) (va : Nat)
  | l1 (core : Nat) (asid : Nat) (va : Nat)
  | hbm (pa : Nat)
  | host (pa : Nat)
  | carried (zenvex : Bool) (asid : Nat) (va : Nat)
  | controller (n : Nat)
  | queueState (queue : Nat)
  deriving DecidableEq, Repr

/-- The outcomes of the physical steps of a start (18 R439), and the image written for it: an environment's input. -/
structure BootEnv where
  image : Option (List Byte) := none -- what the companion processor has written since the last start
  romOk : Bool
  trimOk : Bool
  hbmOk : Bool
  hbmAltOk : Bool
  badCores : List Nat
  badSlices : List Nat
  routeOk : Bool
  zenvexOk : Bool
  zenvexAltOk : Bool
  ports : BitVec 16
  deriving DecidableEq, Repr

/-! ## The instructions -/

/-- One constructor for each row of spec/opcode_table.json. -/
inductive Instr where
  -- control (07 R153)
  | nop (h : Hdr)
  | bra (h : Hdr) (ofs : BitVec 32)
  | brx (h : Hdr) (a : Opnd)
  | call (h : Hdr) (d : Opnd) (ofs : BitVec 32)
  | callx (h : Hdr) (d a : Opnd)
  | ret (h : Hdr) (a : Opnd)
  | join (h : Hdr)
  | yield (h : Hdr)
  | exit (h : Hdr)
  | region (h : Hdr) (tag : BitVec 16)
  | trap (h : Hdr) (code : BitVec 16)
  | rtt (h : Hdr) (skip : Bool)
  | brk (h : Hdr) (code : BitVec 16)
  -- integer (07 R164 to R174)
  | iadd (h : Hdr) (w : EW) (sgn sat : Bool) (d a : Opnd) (b : Src2)
  | isub (h : Hdr) (w : EW) (sgn sat : Bool) (d a b : Opnd)
  | imul (h : Hdr) (w : EW) (sgn sat : Bool) (d a : Opnd) (b : Src2)
  | imulh (h : Hdr) (w : EW) (sgn : Bool) (d a b : Opnd)
  | imad (h : Hdr) (w : EW) (sgn sat : Bool) (d a : Opnd) (bc : Src3)
  | imin (h : Hdr) (w : EW) (sgn : Bool) (d a b : Opnd)
  | imax (h : Hdr) (w : EW) (sgn : Bool) (d a b : Opnd)
  | iabs (h : Hdr) (w : EW) (sat : Bool) (d a : Opnd)
  | icmp (h : Hdr) (w : EW) (sgn : Bool) (cc : Cmp) (any : Bool) (d a : Opnd) (b : Src2)
  | shl (h : Hdr) (w : EW) (sgn : Bool) (d a : Opnd) (b : Src2)
  | shr (h : Hdr) (w : EW) (sgn : Bool) (d a : Opnd) (b : Src2)
  | shra (h : Hdr) (w : EW) (sgn : Bool) (d a : Opnd) (b : Src2)
  | isad (h : Hdr) (sgn : Bool) (d a b c : Opnd)
  | blut (h : Hdr) (tbl : BitVec 8) (d a : Opnd) (bc : Src3)
  | rot (h : Hdr) (d a : Opnd) (b : Src2)
  | funnel (h : Hdr) (d a b c : Opnd)
  | popc (h : Hdr) (d a : Opnd)
  | clz (h : Hdr) (d a : Opnd)
  | ctz (h : Hdr) (d a : Opnd)
  | brev (h : Hdr) (d a : Opnd)
  | bfx (h : Hdr) (sgn : Bool) (d a : Opnd) (b : Src2)
  | bfi (h : Hdr) (d a : Opnd) (bc : Src3)
  | isel (h : Hdr) (d a b p : Opnd)
  | lea (h : Hdr) (sh : BitVec 3) (d a : Opnd) (b : Src2)
  | iaddc (h : Hdr) (d a b pin : Opnd) (pout : BitVec 4)
  | plut (h : Hdr) (tbl : BitVec 8) (pd pa pb pc : Opnd)
  | idot4 (h : Hdr) (xs ys sat : Bool) (d a b c : Opnd)
  | idot2 (h : Hdr) (xs ys sat : Bool) (d a b c : Opnd)
  -- floating (08 R179 to R188)
  | fadd (h : Hdr) (ty : FTy) (m : FMod) (d a : Opnd) (b : Src2)
  | fmul (h : Hdr) (ty : FTy) (m : FMod) (d a : Opnd) (b : Src2)
  | ffma (h : Hdr) (ty : FTy) (m : FMod) (d a : Opnd) (bc : Src3)
  | fmin (h : Hdr) (ty : FTy) (m : FMod) (d a b : Opnd)
  | fmax (h : Hdr) (ty : FTy) (m : FMod) (d a b : Opnd)
  | fminm (h : Hdr) (ty : FTy) (m : FMod) (d a b : Opnd)
  | fmaxm (h : Hdr) (ty : FTy) (m : FMod) (d a b : Opnd)
  | fcmp (h : Hdr) (ty : FTy) (m : FMod) (cc : Cmp) (any : Bool) (d a b : Opnd)
  | fclass (h : Hdr) (ty : FTy) (any : Bool) (mask : BitVec 10) (d a : Opnd)
  | fdot2 (h : Hdr) (bf : Bool) (m : FMod) (d a b c : Opnd)
  | fdot4 (h : Hdr) (ta tb : Bool) (m : FMod) (d a b c : Opnd)
  | frnd (h : Hdr) (ty : FTy) (m : FMod) (d a : Opnd)
  | fscale (h : Hdr) (ty : FTy) (m : FMod) (d a b : Opnd)
  | fgetexp (h : Hdr) (ty : FTy) (m : FMod) (d a : Opnd)
  | fgetmant (h : Hdr) (ty : FTy) (m : FMod) (d a : Opnd)
  | ferr (h : Hdr) (ty : FTy) (m : FMod) (mul : Bool) (d a b : Opnd)
  -- conversion (08 R189 to R197)
  | cvtFf (h : Hdr) (td ts : FloatTy) (m : FMod) (k : BitVec 4) (d a : Opnd)
  | cvtFi (h : Hdr) (td : IntTy) (ts : FloatTy) (m : FMod) (k : BitVec 4) (d a : Opnd)
  | cvtIf (h : Hdr) (td : FloatTy) (ts : IntTy) (m : FMod) (k : BitVec 4) (d a : Opnd)
  | cvtIi (h : Hdr) (td ts : IntTy) (m : FMod) (k : BitVec 4) (d a : Opnd)
  | cvts (h : Hdr) (td ts : FloatTy) (m : FMod) (k : BitVec 4) (d a b : Opnd)
  | cvtef (h : Hdr) (td : FloatTy) (m : FMod) (k : BitVec 4) (scl : Bool) (d a b c : Opnd)
  | cvtsr (h : Hdr) (td ts : FloatTy) (m : FMod) (k : BitVec 4) (d a b : Opnd)
  | packB6 (h : Hdr) (k : BitVec 2) (d a b : Opnd)
  | unpkB6 (h : Hdr) (k : BitVec 2) (d a b : Opnd)
  | packTri (h : Hdr) (k : BitVec 2) (d a b : Opnd)
  | unpkTri (h : Hdr) (k : BitVec 2) (d a : Opnd)
  | bscl (h : Hdr) (k : BitVec 4) (d a b : Opnd)
  -- special functions (08 R198 to R200)
  | rcp (h : Hdr) (ty : FTy) (m : FMod) (d a : Opnd)
  | rsq (h : Hdr) (ty : FTy) (m : FMod) (d a : Opnd)
  | sqrt (h : Hdr) (ty : FTy) (m : FMod) (d a : Opnd)
  | exp2 (h : Hdr) (ty : FTy) (m : FMod) (d a : Opnd)
  | log2 (h : Hdr) (ty : FTy) (m : FMod) (d a : Opnd)
  | sin (h : Hdr) (ty : FTy) (m : FMod) (d a : Opnd)
  | cos (h : Hdr) (ty : FTy) (m : FMod) (d a : Opnd)
  | tanh (h : Hdr) (ty : FTy) (m : FMod) (d a : Opnd)
  -- move and lane (08 R201 to R209)
  | mov (h : Hdr) (d a : Opnd)
  | movi (h : Hdr) (zx : Bool) (d : Opnd) (imm : BitVec 32)
  | movih (h : Hdr) (d : Opnd) (imm : BitVec 32)
  | lxchIdx (h : Hdr) (ew : EW) (lw : BitVec 3) (d a b p : Opnd)
  | lxchUp (h : Hdr) (lw : BitVec 3) (d a b p : Opnd)
  | lxchDown (h : Hdr) (lw : BitVec 3) (d a b p : Opnd)
  | lxchXor (h : Hdr) (lw : BitVec 3) (d a b p : Opnd)
  | pollAll (h : Hdr) (neg : Bool) (d a : Opnd)
  | pollAny (h : Hdr) (neg : Bool) (d a : Opnd)
  | pollMask (h : Hdr) (neg : Bool) (d a : Opnd)
  | foldAdd (h : Hdr) (ty : FoldTy) (rnd : Rnd) (sat ftz : Bool) (d a : Opnd)
  | foldMinmax (h : Hdr) (ty : FoldTy) (isMax ftz : Bool) (d a : Opnd)
  | bcast (h : Hdr) (d a b : Opnd)
  | selem (h : Hdr) (ins : Bool) (ew : EW) (d a b : Opnd)
  | srd (h : Hdr) (d a : Opnd)
  | swr (h : Hdr) (d a : Opnd)
  | lpr (h : Hdr) (snap : Bool) (d : Opnd)
  | lpw (h : Hdr) (snap : Bool) (a : Opnd)
  -- memory (09 R215 to R233)
  | ldg (h : Hdr) (w : MW) (sx : Bool) (ord : Ord) (scope : Scope) (cp : Cp) (d : Opnd) (addr : Addr)
  | stg (h : Hdr) (w : MW) (ord : Ord) (scope : Scope) (cp : Cp) (d : Opnd) (addr : Addr)
  | lds (h : Hdr) (w : MW) (sx : Bool) (d : Opnd) (addr : Addr)
  | sts (h : Hdr) (w : MW) (d : Opnd) (addr : Addr)
  | ldc (h : Hdr) (w : MW) (sx : Bool) (cp : Cp) (d a : Opnd) (ofs : BitVec 28)
  | atom (h : Hdr) (w64 : Bool) (op : AOp) (ord : Ord) (scope : Scope) (cp : Cp) (d a : Opnd) (ofs : BitVec 28) (b : Opnd)
  | atomc (h : Hdr) (w64 : Bool) (ord : Ord) (scope : Scope) (cp : Cp) (d a : Opnd) (ofs : BitVec 28) (b : Opnd)
  | atomf (h : Hdr) (ty : AFTy) (op : AFOp) (nr : Bool) (ord : Ord) (scope : Scope) (cp : Cp) (d a : Opnd) (ofs : BitVec 28) (b : Opnd)
  | atoms (h : Hdr) (w64 : Bool) (op : AOp) (d a : Opnd) (ofs : BitVec 28) (b : Opnd)
  | red (h : Hdr) (w64 : Bool) (op : AOp) (ord : Ord) (scope : Scope) (cp : Cp) (a : Opnd) (ofs : BitVec 28) (b : Opnd)
  | fence (h : Hdr) (scope : Scope) (async : Bool)
  | flush (h : Hdr) (a : Opnd) (ofs : BitVec 28) (b : Opnd)
  | inval (h : Hdr) (scope : Scope) (a : Opnd) (ofs : BitVec 28) (b : Opnd)
  | pref (h : Hdr) (cp : Cp) (a : Opnd) (ofs : BitVec 28) (b : Opnd)
  | renew (h : Hdr) (a : Opnd) (ofs : BitVec 28)
  | tsadv (h : Hdr) (l s : Bool) (a : Opnd)
  -- tile, copy, stream (09 R234 to R248)
  | tstate (h : Hdr) (d t : Opnd)
  | tstateArm (h : Hdr) (t b : Opnd)
  | copyG2t (h : Hdr) (cp : Cp) (t a b c : Opnd)
  | copyT2g (h : Hdr) (cp : Cp) (t a b c : Opnd)
  | copyG2g (h : Hdr) (cp : Cp) (d a b c : Opnd)
  | copytG2t (h : Hdr) (cp : Cp) (t a b : Opnd) (pb : Params)
  | copytT2g (h : Hdr) (cp : Cp) (t a b : Opnd) (pb : Params)
  | copys (h : Hdr) (cp : Cp) (t a b c : Opnd) (rb : BitVec 13)
  | trel (h : Hdr) (t : Opnd)
  | hand (h : Hdr) (p t b : Opnd)
  | spset (h : Hdr) (wr : Bool) (stride : BitVec 12) (port t b c : Opnd)
  | spget (h : Hdr) (d port : Opnd)
  | sprst (h : Hdr) (port b : Opnd)
  -- queue, synchronisation, system (10 R250)
  | enq (h : Hdr) (p va q st : Opnd)
  | enqt (h : Hdr) (p a q st : Opnd)
  | enqw (h : Hdr) (p va q st : Opnd)
  | enqwt (h : Hdr) (p a q st : Opnd)
  | deq (h : Hdr) (vd vs p : Opnd)
  | qlen (h : Hdr) (exact : Bool) (d q : Opnd)
  | spawn (h : Hdr) (p va q : Opnd)
  | arm (h : Hdr) (p q tag base : Opnd) (lcnt lslot : BitVec 4)
  | bara (h : Hdr) (set : Bool) (b m : Opnd)
  | barw (h : Hdr) (b : Opnd)
  | baraw (h : Hdr) (b : Opnd)
  | sleep (h : Hdr) (a : Opnd)
  | sysc (h : Hdr) (d a b : Opnd) (code : BitVec 16)
  | gload (h : Hdr) (d a b : Opnd)
  | gstop (h : Hdr) (abort : Bool) (d a : Opnd)
  -- matrix (11 R285)
  | mlw (h : Hdr) (arg : MlwArg)
  | mswap (h : Hdr)
  | mst (h : Hdr) (f : MFmt) (t a b : Opnd) (pb : Params)
  | mstz (h : Hdr) (f : MFmt) (t a b c : Opnd)
  | msts (h : Hdr) (f : MFmt) (z nsa : Bool) (a b c : Opnd)
  | msoft (h : Hdr) (f : MFmt) (t a b c : Opnd)
  | mrd (h : Hdr) (div : Option Rnd) (zr : Bool) (n : BitVec 4) (d a c : Opnd)
  | mrdt (h : Hdr) (rnd : Rnd) (sat : Bool) (f : MFmt) (t a b c : Opnd)
  | mzero (h : Hdr) (a b : Opnd)
  | msrd (h : Hdr) (sum : Bool) (n : BitVec 6) (d a : Opnd)
  | mswr (h : Hdr) (sum : Bool) (n : BitVec 6) (a b : Opnd)
  -- tandem word (05 R118)
  | tandemWord (h : Hdr) (opa opb : BitVec 6) (moda modb : BitVec 3) (da aa ba ca db ab bb cb : BitVec 8)
  -- events of the memory system (13, 12, 09)
  | storePerformedAtHome (m : StMsg)
  | storeAcknowledgement (m : StAck)
  | loadRequestAtHome (m : LdReq)
  | loadResultReturn (m : LdRep)
  | atomicAtHome (m : AtMsg)
  | atomicReply (m : AtRep)
  | attributeProbe (m : Probe)
  | attributeProbeReply (m : ProbeRep)
  | homeFillReturn (m : FillMsg)
  | sleepEnd (w : Who)
  -- events of scheduling (14, 02, 10)
  | derailleurEvaluation (core : Nat)
  | claimAtHome (m : Claim)
  | claimReply (m : ClaimRep)
  | crewRetire (crew : Nat)
  | preemption (crew : Nat)
  | sliceEnd (core : Nat)
  | sliceSwitchComplete (core : Nat)
  | queueAppendAtHome (m : Append)
  | queueAnswer (m : EnqAns)
  | spokeSummary (core : Nat) (sum : Summary)
  | summaryStale (core : Nat) (num : Nat) (range : Bool)
  | admissionDecision (w : Who) (va : Nat) (vf : Nat)
  | graphStopComplete (graph : Nat)
  -- events of copies and of the matrix array (09 R243, R244, 11)
  | copyChunkComplete (crew : Nat) (copy : Nat)
  | copyComplete (crew : Nat) (copy : Nat)
  | handTransferComplete (crew : Nat) (copy : Nat)
  | matrixAccept (core : Nat)
  | matrixComplete (core : Nat)
  | mlwBackgroundLoadDone (core : Nat)
  | miglimitExpiry (held : Nat)
  -- events of the host link (14 R346, R523)
  | henq (vf : Nat) (val : Word)
  | henqRecordRead (vf : Nat) (val : Word)
  | svcval (vf : Nat) (val : Word)
  | svctail (vf : Nat) (val : Word)
  | serviceRecordPost (vf : Nat)
  | vfRegisterWrite (vf : Nat) (ofs : Nat) (val : Word)
  -- events of translation (15)
  | tlbinvRange (val : Word)
  | tlbinvAsid (val : Word)
  | tlbinvAll (val : Word)
  | pteRead (val : Word)
  | pteWrite (val : Word)
  | pteOr (val : Word)
  | pteClear (val : Word)
  | checkpointStart (val : Word)
  | companionRead (pa n : Nat)
  | companionWrite (pa : Nat) (bytes : List Byte)
  | regionMerge (base : Nat)
  -- events of the fabric (16, 23)
  | fabcfg (val : Word)
  | planeDeadSet (plane : Nat)
  | planeDeadClear (plane : Nat)
  | planeSwitchDrained (plane : Nat)
  | peerRequestArrival (m : PeerReq)
  | peerReply (m : PeerRep)
  | multicastWriteArrival (m : McWrite)
  | torusForward (m : TorusSeg)
  | taggedMessageArrival (m : TagMsg)
  | hmsga (val : Word)
  | hostMessageDelivery (val : Word)
  | segbindUnbind (val : Word)
  | segbindSend (val : Word)
  | segbindReceive (val : Word)
  | receivingSummary (m : SegSumEv)
  | portForwardBurst (port : Nat)
  | forwardedRecordArrival (m : FwdRec)
  | forwardAcknowledgement (queue : Nat) (seqs : List Nat)
  | linkError (l : Link)
  | retrainComplete (l : Link)
  | portDown (port : Nat)
  | portTrain (port : Nat)
  | portTakeDown (port : Nat)
  | portTrained (port : Nat)
  -- events of observation and power (17, 18)
  | skewUpdate (ps : List Word)
  | energyUpdate (uj : Nat)
  -- events of failure, repair and start-up (20 to 24, 18)
  | flttail (val : Word)
  | fltreplay (val : Word)
  | dataErrorDetected (at_ : ErrAt)
  | contextError (crew : Nat)
  | coreRetire (val : Word) (reason : Nat)
  | sliceRetire (val : Word) (reason : Nat)
  | moduleReset (env : BootEnv)
  | registerWrite (ofs : Nat) (val : Word)
  | matrixRowComplete (core : Nat)
  -- events of every family that carry nothing
  | clockTick
  | invalidationComplete
  | checkpointDrained
  | checkpointPageWritten
  | zenvexLinkDown
  | zenvexDownTimeout
  | zenvexLinkUp
  | budgetWindowBoundary
  | budgetReached
  | pcSample
  | stopTriggerTime
  | stopDumpComplete
  | stopRelease
  | faultRecordPost
  | coreRetireDone
  | sliceRetireDone
  deriving DecidableEq, Repr

end Sys2Proof
end

