-- ==== Sys2Proof/Machine/Bits.lean ====
section
/-! DEFINITION. Elements of a lane (04 R80), lane masks, and natural-number helpers. -/

namespace Sys2Proof

/-- Element `i` of width `w` of a 64-bit value, as a natural number (04 R80). -/
def elemN (x : Word) (w i : Nat) : Nat := (x.toNat >>> (w * i)) % 2 ^ w

/-- A natural number below `2 ^ w` read as two's complement or natural (04 R79). -/
def toI (w : Nat) (sgn : Bool) (n : Nat) : Int :=
  if sgn && decide (2 ^ (w - 1) ≤ n) then (n : Int) - (2 ^ w : Nat) else n

/-- Element `i` as an exact integer (07 R166). -/
def elemI (x : Word) (w : Nat) (sgn : Bool) (i : Nat) : Int := toI w sgn (elemN x w i)

/-- An integer modulo `2 ^ w` (04 R79). -/
def wrapN (w : Nat) (x : Int) : Nat := (x % ((2 ^ w : Nat) : Int)).toNat

/-- The value whose elements of width `w` are the list's, element 0 first. -/
def ofElems (w : Nat) : List Nat → Nat
  | [] => 0
  | e :: es => e % 2 ^ w + 2 ^ w * ofElems w es

/-- The 64-bit value of elements. -/
def packElems (w : Nat) (es : List Nat) : Word := BitVec.ofNat 64 (ofElems w es)

/-- Replace bits `lo` to `lo + n - 1` of a value. -/
def putBits (old : Word) (lo n : Nat) (v : Nat) : Word :=
  let o := old.toNat
  BitVec.ofNat 64 (o % 2 ^ lo + (v % 2 ^ n) * 2 ^ lo + (o >>> (lo + n)) * 2 ^ (lo + n))

/-- Bit `l` of a lane mask. -/
def Mask.has (m : Mask) (l : Nat) : Bool := m.getLsbD l

/-- The mask of one lane. -/
def Mask.one (l : Nat) : Mask := BitVec.ofNat 32 (2 ^ l)

/-- The lanes of a mask in ascending order. -/
def Mask.lanes (m : Mask) : List Nat := (List.range 32).filter fun l => m.getLsbD l

/-- The mask of the lanes of 0 to 31 that a test names. -/
def Mask.ofFn (f : Nat → Bool) : Mask :=
  (List.range 32).foldl (fun m l => if f l then m ||| Mask.one l else m) 0

/-- Set one lane's bit. -/
def Mask.put (m : Mask) (l : Nat) (b : Bool) : Mask := if b then m ||| Mask.one l else m &&& ~~~ Mask.one l

/-- The lowest lane of a mask. -/
def Mask.low (m : Mask) : Option Nat := m.lanes.head?

/-- The number of lanes of a mask. -/
def Mask.count (m : Mask) : Nat := m.lanes.length

/-- A 10-bit immediate as an integer (05 R107). -/
def immI (n : BitVec 10) : Int := n.toInt

/-- The rounded-up quotient. -/
def ceilDiv (a b : Nat) : Nat := (a + b - 1) / b

/-- The integer square root, by binary digits from bit `k` down. -/
def isqrtAux (n : Nat) : Nat → Nat → Nat
  | 0, r => r
  | k + 1, r => let t := r + 2 ^ k
    isqrtAux n k (if t * t ≤ n then t else r)

/-- The greatest `r` with `r * r ≤ n`. -/
def isqrt (n : Nat) : Nat := isqrtAux n (n.log2 / 2 + 1) 0

/-- Update an entry of a list; nothing where there is none. -/
def lupd {α : Type} (l : List α) (i : Nat) (f : α → α) : List α :=
  match l, i with
  | [], _ => []
  | x :: t, 0 => f x :: t
  | x :: t, i + 1 => x :: lupd t i f

/-- Replace the first entry that passes a test. -/
def lupdFirst {α : Type} (p : α → Bool) (f : α → α) : List α → List α
  | [] => []
  | x :: t => if p x then f x :: t else x :: lupdFirst p f t

/-- Update every entry that passes a test. -/
def lupdAll {α : Type} (p : α → Bool) (f : α → α) (l : List α) : List α := l.map fun x => if p x then f x else x

/-- The least number below `n` that passes a test, or `n`. -/
def firstFrom (p : Nat → Bool) (n : Nat) : Nat := ((List.range n).find? p).getD n

/-- Insert by a key, after the entries whose key is not greater. -/
def linsert {α : Type} (key : α → Nat) (x : α) : List α → List α
  | [] => [x]
  | y :: t => if key y ≤ key x then y :: linsert key x t else x :: y :: t

/-- Sort by a key, keeping the order of equal keys. -/
def lsort {α : Type} (key : α → Nat) (l : List α) : List α := l.foldl (fun acc x => linsert key x acc) []

/-- The least and greatest of two integers. -/
def clampI (lo hi x : Int) : Int := if x < lo then lo else if hi < x then hi else x

end Sys2Proof
end

