-- ==== Sys2Proof/WellFormed.lean ====
section
/-! DEFINITION. Which instructions the encoding admits: the operand classes each field accepts (05 R108) and the
modifier values each code accepts (05 R114). Decoding yields only well-formed instructions. -/

namespace Sys2Proof

/-- The operand classes a field accepts (05 R107, R108); `z` accepts the code 0x000 as an absent operand. -/
structure Cls where
  v : Bool := false
  g : Bool := false
  p : Bool := false
  sp : Bool := false
  tile : Bool := false
  bar : Bool := false
  sreg : Bool := false
  imm : Bool := false
  z : Bool := false
  deriving DecidableEq, Repr

namespace Cls
/-- V. -/
def V : Cls where v := true
/-- G. -/
def G : Cls where g := true
/-- V or G. -/
def VG : Cls where
  v := true
  g := true
/-- V, G or an immediate. -/
def VGI : Cls where
  v := true
  g := true
  imm := true
/-- G or an immediate. -/
def GI : Cls where
  g := true
  imm := true
/-- G, an immediate, or 0x000 for an absent operand (11 R285). -/
def GIZ : Cls where
  g := true
  imm := true
  z := true
/-- An arithmetic destination: V, G, SP (07 R151, 08 R177). -/
def dst : Cls where
  v := true
  g := true
  sp := true
/-- An arithmetic source: V, G, SP, immediate (07 R151, 08 R177). -/
def src : Cls where
  v := true
  g := true
  sp := true
  imm := true
/-- The ICMP destination: an integer destination or a predicate (07 R151, R165). -/
def dstP : Cls where
  v := true
  g := true
  sp := true
  p := true
/-- The FCMP and FCLASS destination: V, G, P (08 R177). -/
def VGP : Cls where
  v := true
  g := true
  p := true
/-- P. -/
def P : Cls where p := true
/-- SP. -/
def SP : Cls where sp := true
/-- Tile handle. -/
def T : Cls where tile := true
/-- Barrier. -/
def B : Cls where bar := true
/-- Special register. -/
def S : Cls where sreg := true
end Cls

/-- Is the index one of the listed special registers (05 R125)? -/
def sregListed (n : BitVec 6) : Bool :=
  decide (n.toNat ≤ 0x1D) || (decide (0x20 ≤ n.toNat) && decide (n.toNat ≤ 0x2C))

/-- Does a field of class set `c` accept the operand? An absent operand of `z` is `.v 0`, the code 0x000. -/
def Opnd.ok (o : Opnd) (c : Cls) : Bool :=
  match o with
  | .v n => c.v || (c.z && n == 0)
  | .g _ => c.g
  | .p _ => c.p
  | .sp _ => c.sp
  | .tile _ => c.tile
  | .bar _ => c.bar
  | .sreg n => c.sreg && sregListed n
  | .imm _ => c.imm

/-- The absent operand, encoded 0x000. -/
def Opnd.absent : Opnd := .v 0

def Src2.ok (s : Src2) (c : Cls) : Bool :=
  match s with
  | .r o => o.ok c
  | .i _ => true

/-- A header that step 2 of decoding passes (05 R126): no negated P15; E only in the memory family. -/
def Hdr.ok (h : Hdr) (mem : Bool) : Bool :=
  !(h.pn && h.pg == 15) && (mem || h.e == 0)

/-- Which modifiers of a floating word may be non-zero (08 R179). -/
structure FLegal where
  rnd : Bool := false
  sat : Bool := false
  ftz : Bool := false
  negA : Bool := false
  negB : Bool := false
  negC : Bool := false
  absA : Bool := false
  absB : Bool := false
  deriving DecidableEq, Repr

def FMod.ok (m : FMod) (l : FLegal) : Bool :=
  (l.rnd || m.rnd == .rn) && (l.sat || !m.sat) && (l.ftz || !m.ftz) && (l.negA || !m.negA) &&
    (l.negB || !m.negB) && (l.negC || !m.negC) && (l.absA || !m.absA) && (l.absB || !m.absB)

namespace FLegal
/-- FADD, FMUL (08 R179). -/
def add : FLegal where
  rnd := true
  sat := true
  ftz := true
  negA := true
  negB := true
  absA := true
  absB := true
/-- FFMA. -/
def fma : FLegal where
  rnd := true
  sat := true
  ftz := true
  negA := true
  negB := true
  negC := true
  absA := true
  absB := true
/-- The I forms of FADD and FMUL (08 R188). -/
def addI : FLegal where
  rnd := true
  sat := true
  ftz := true
  negA := true
  absA := true
/-- The I form of FFMA (08 R188). -/
def fmaI : FLegal where
  rnd := true
  sat := true
  ftz := true
  negA := true
  negC := true
  absA := true
/-- FMIN, FMAX, FMINM, FMAXM, FCMP. -/
def cmp : FLegal where
  ftz := true
  negA := true
  negB := true
  absA := true
  absB := true
/-- FDOT2, FDOT4. -/
def dot : FLegal where
  rnd := true
  sat := true
  ftz := true
  negA := true
  negB := true
  negC := true
/-- FRND. -/
def rnd1 : FLegal where
  rnd := true
  ftz := true
  negA := true
  absA := true
/-- FSCALE. -/
def scale : FLegal where
  rnd := true
  sat := true
  ftz := true
  negA := true
  absA := true
/-- FGETEXP, FGETMANT, and the special functions without RND. -/
def one : FLegal where
  ftz := true
  negA := true
  absA := true
/-- FERR. -/
def err : FLegal where
  rnd := true
  ftz := true
  negA := true
  negB := true
  absA := true
  absB := true
/-- CVT.FF, CVT.IF, CVTS. -/
def cvt : FLegal where
  rnd := true
  sat := true
  ftz := true
/-- CVT.FI. -/
def cvtFi : FLegal where
  rnd := true
  ftz := true
/-- CVT.II. -/
def cvtIi : FLegal where sat := true
/-- CVTEF. -/
def cvtef : FLegal where
  rnd := true
  sat := true
/-- CVTSR. -/
def cvtsr : FLegal where
  sat := true
  ftz := true
end FLegal

/-- Width of an integer element in bits. -/
def EW.bits : EW → Nat
  | .w64 => 64
  | .w32 => 32
  | .w16 => 16
  | .w8 => 8

/-- Width of a float type in a register (08 R189). -/
def FloatTy.bits : FloatTy → Nat
  | .f64 => 64
  | .f32 => 32
  | .f16 | .bf16 => 16
  | .e5m2 | .e4m3 | .e3m2 | .e2m3 | .ue4m3 => 8
  | .e2m1 => 4

/-- Number of parts of a conversion (08 R190). -/
def cvtParts (wd ws : Nat) : Nat := max ws wd / min ws wd

/-- The class of a conversion's destination: V or G where part of D is kept (08 R177, R190). -/
def cvtDst (wd ws : Nat) : Cls := if wd < ws then Cls.VG else Cls.dst

/-- The source types CVTS and CVTSR accept (08 R192, R194). -/
def FloatTy.arith : FloatTy → Bool
  | .f64 | .f32 | .f16 | .bf16 => true
  | _ => false

/-- Activation formats (11 R271). -/
def MFmt.act : MFmt → Bool
  | .tri | .f32 | .i32 => false
  | _ => true

/-- Weight formats (11 R271). -/
def MFmt.wt : MFmt → Bool
  | .f32 | .i32 => false
  | _ => true

/-- Formats that take block scales (11 R273). -/
def MFmt.scaled : MFmt → Bool
  | .e4m3 | .e5m2 | .e3m2 | .e2m3 | .e2m1 => true
  | _ => false

/-- MSOFT output formats (11 R271). -/
def MFmt.soft : MFmt → Bool
  | .e4m3 | .e5m2 | .bf16 | .fp16 => true
  | _ => false

/-- MRDT output formats (11 R271). -/
def MFmt.rdt : MFmt → Bool
  | .e4m3 | .e5m2 | .bf16 | .fp16 | .i8 | .f32 | .i32 => true
  | _ => false

def Cmp.int : Cmp → Bool
  | .un | .ord => false
  | _ => true

/-- ANY needs a predicate destination (07 R168). -/
def anyOk (any : Bool) (d : Opnd) : Bool :=
  !any || (match d with | .p _ => true | _ => false)

/-- ORD and SCOPE of a plain load or store (09 R215): no scope without an ordering. -/
def ordScopeOk (o : Ord) (sc : Scope) : Bool := o != .plain || sc == .grp

/-- Sign extension is for accesses narrower than a lane (09 R215). -/
def sxOk (w : MW) (sx : Bool) : Bool :=
  !sx || (match w with | .b64 | .b128 => false | _ => true)

def Addr.ok : Addr → Bool
  | .o a _ => a.ok .VG
  | .x a b _ => a.ok .VG && b.ok .VG

/-- CP of an atomic: 00 or 11 (09 R215). -/
def atomCpOk (cp : Cp) : Bool := cp == .dflt || cp == .home

/-- EW index check of LXCH's sub-group width (08 R201). -/
def lwOk (lw : BitVec 3) : Bool := decide (1 ≤ lw.toNat) && decide (lw.toNat ≤ 5)

def isRFmTy (ty : FTy) : Bool := ty == .f64 || ty == .f32

/-- The tandem entries that exist (05 R120, R121). -/
def tandemListed (opa opb : BitVec 6) : Bool := decide (opa.toNat < 0x30) && decide (opb.toNat < 0x37)

/-- How an operation of a tandem word reads its modifier (05 R119). -/
inductive TKind where
  | r | i | s | t | none
  deriving DecidableEq, Repr

def TKind.ok (k : TKind) (m : BitVec 3) : Bool :=
  match k with
  | .r => decide (m.toNat < 6)
  | .i => m.getLsbD 0 == false
  | .s => m.getLsbD 0 == false && m.getLsbD 2 == false
  | .t => m.getLsbD 0 == false && m.getLsbD 1 == false
  | .none => m == 0

/-- Kind and number of sources of each entry of the FMA-pipe table (05 R120). -/
def tandemA (opa : BitVec 6) : TKind × Nat :=
  let n := opa.toNat
  if n < 0x08 then (.r, 2) else if n < 0x0C then (.r, 3) else if n < 0x1C then (.none, 2)
  else if n < 0x20 then (.r, 2) else if n < 0x24 then (.r, 1) else if n < 0x28 then (.s, 2)
  else if n < 0x2C then (.s, 3) else (.r, 3)

/-- Kind and number of sources of each entry of the integer and convert-pipe table (05 R121). -/
def tandemB (opb : BitVec 6) : TKind × Nat :=
  let n := opb.toNat
  if n < 0x08 then (.i, 2) else if n < 0x10 then (.s, 2) else if n < 0x20 then (.none, 2)
  else if n < 0x24 then (.none, 1) else if n < 0x30 then (.r, 1) else if n == 0x30 then (.s, 3)
  else if n == 0x31 then (.none, 2) else if n == 0x32 then (.none, 3) else (.t, 3)

/-- The source registers an operation of `n` sources reads (05 R119: an unused field is zero and no read). -/
def tandemSrcs (n : Nat) (a b c : BitVec 8) : List (BitVec 8) := [a, b, c].take n

/-- Unused register fields of a tandem operation are zero (05 R119). -/
def tandemUnused (n : Nat) (b c : BitVec 8) : Bool :=
  (decide (2 ≤ n) || b == 0) && (decide (3 ≤ n) || c == 0)

/-- Rules 1 to 3 of a tandem word (05 R122). -/
def tandemRules (da db : BitVec 8) (srcs : List (BitVec 8)) : Bool :=
  let u := srcs.eraseDups
  da != db && decide (u.length ≤ 6) &&
    [0, 1, 2, 3].all fun k => decide ((u.filter fun r => r.toNat % 4 == k).length ≤ 2)

/-- The encoding admits the instruction. Events have no encoding and no check here. -/
def Instr.wf : Instr → Bool
  | .nop h | .join h | .yield h | .exit h | .mswap h => h.ok false
  | .bra h _ | .region h _ | .trap h _ | .brk h _ | .rtt h _ => h.ok false
  | .brx h a => h.ok false && a.ok .VG
  | .call h d _ => h.ok false && d.ok .V
  | .callx h d a => h.ok false && d.ok .V && a.ok .VG
  | .ret h a => h.ok false && a.ok .V
  | .iadd h _ _ _ d a b | .imul h _ _ _ d a b => h.ok false && d.ok .dst && a.ok .src && b.ok .src
  | .isub h _ _ _ d a b => h.ok false && d.ok .dst && a.ok .src && b.ok .src
  | .imulh h _ _ d a b | .imin h _ _ d a b | .imax h _ _ d a b =>
    h.ok false && d.ok .dst && a.ok .src && b.ok .src
  | .imad h _ _ _ d a bc =>
    h.ok false && a.ok .src && (match bc with
      | .r b c => d.ok .dst && b.ok .src && c.ok .src
      | .i _ => d.ok .VG)
  | .iabs h _ _ d a => h.ok false && d.ok .dst && a.ok .src
  | .icmp h _ _ cc any d a b =>
    h.ok false && d.ok .dstP && a.ok .src && b.ok .src && cc.int && anyOk any d
  | .shl h _ _ d a b | .shr h _ _ d a b | .shra h _ _ d a b =>
    h.ok false && d.ok .dst && a.ok .src && b.ok .src
  | .isad h _ d a b c => h.ok false && d.ok .dst && a.ok .src && b.ok .src && c.ok .src
  | .blut h _ d a bc =>
    h.ok false && a.ok .src && (match bc with
      | .r b c => d.ok .dst && b.ok .src && c.ok .src
      | .i _ => d.ok .VG)
  | .rot h d a b => h.ok false && d.ok .dst && a.ok .src && b.ok .src
  | .funnel h d a b c => h.ok false && d.ok .dst && a.ok .src && b.ok .src && c.ok .src
  | .popc h d a | .clz h d a | .ctz h d a | .brev h d a => h.ok false && d.ok .dst && a.ok .src
  | .bfx h _ d a b => h.ok false && d.ok .dst && a.ok .src && b.ok .src
  | .bfi h d a bc =>
    h.ok false && a.ok .src && (match bc with
      | .r b c => d.ok .dst && b.ok .src && c.ok .src
      | .i _ => d.ok .VG)
  | .isel h d a b p => h.ok false && d.ok .dst && a.ok .src && b.ok .src && p.ok .P
  | .lea h _ d a b => h.ok false && d.ok .dst && a.ok .src && b.ok .src
  | .iaddc h d a b pin _ => h.ok false && d.ok .dst && a.ok .src && b.ok .src && pin.ok .P
  | .plut h _ pd pa pb pc => h.ok false && pd.ok .P && pa.ok .P && pb.ok .P && pc.ok .P
  | .idot4 h _ _ _ d a b c | .idot2 h _ _ _ d a b c =>
    h.ok false && d.ok .dst && a.ok .src && b.ok .src && c.ok .src
  | .fadd h ty m d a b | .fmul h ty m d a b =>
    h.ok false && d.ok .dst && a.ok .src && (match b with
      | .r o => o.ok .src && m.ok .add
      | .i _ => isRFmTy ty && m.ok .addI)
  | .ffma h ty m d a bc =>
    h.ok false && a.ok .src && (match bc with
      | .r b c => d.ok .dst && b.ok .src && c.ok .src && m.ok .fma
      | .i _ => d.ok .VG && isRFmTy ty && m.ok .fmaI)
  | .fmin h _ m d a b | .fmax h _ m d a b | .fminm h _ m d a b | .fmaxm h _ m d a b =>
    h.ok false && d.ok .dst && a.ok .src && b.ok .src && m.ok .cmp
  | .fcmp h _ m _ any d a b =>
    h.ok false && d.ok .VGP && a.ok .src && b.ok .src && m.ok .cmp && anyOk any d
  | .fclass h _ any _ d a => h.ok false && d.ok .VGP && a.ok .src && anyOk any d
  | .fdot2 h _ m d a b c | .fdot4 h _ _ m d a b c =>
    h.ok false && d.ok .dst && a.ok .src && b.ok .src && c.ok .src && m.ok .dot
  | .frnd h _ m d a => h.ok false && d.ok .dst && a.ok .src && m.ok .rnd1
  | .fscale h _ m d a b => h.ok false && d.ok .dst && a.ok .src && b.ok .src && m.ok .scale
  | .fgetexp h _ m d a | .fgetmant h _ m d a => h.ok false && d.ok .dst && a.ok .src && m.ok .one
  | .ferr h _ m _ d a b => h.ok false && d.ok .dst && a.ok .src && b.ok .src && m.ok .err
  | .cvtFf h td ts m k d a =>
    h.ok false && d.ok (cvtDst td.bits ts.bits) && a.ok .src && m.ok .cvt && td != .ue4m3 &&
      decide (k.toNat < cvtParts td.bits ts.bits)
  | .cvtFi h td ts m k d a =>
    h.ok false && d.ok (cvtDst td.w.bits ts.bits) && a.ok .src && m.ok .cvtFi &&
      decide (k.toNat < cvtParts td.w.bits ts.bits)
  | .cvtIf h td ts m k d a =>
    h.ok false && d.ok (cvtDst td.bits ts.w.bits) && a.ok .src && m.ok .cvt && td != .ue4m3 &&
      decide (k.toNat < cvtParts td.bits ts.w.bits)
  | .cvtIi h td ts m k d a =>
    h.ok false && d.ok (cvtDst td.w.bits ts.w.bits) && a.ok .src && m.ok .cvtIi &&
      decide (k.toNat < cvtParts td.w.bits ts.w.bits)
  | .cvts h td ts m k d a b =>
    h.ok false && d.ok (cvtDst td.bits ts.bits) && a.ok .src && b.ok .src && m.ok .cvt && ts.arith &&
      td != .ue4m3 && decide (td.bits ≤ ts.bits) && decide (k.toNat < cvtParts td.bits ts.bits)
  | .cvtef h td m k scl d a b c =>
    h.ok false && d.ok .VG && a.ok .src && (if scl then b.ok .src else b == .absent) && c.ok .V &&
      m.ok .cvtef && td != .ue4m3 && decide (td.bits < 32) && decide (k.toNat < cvtParts td.bits 32) && d != c
  | .cvtsr h td ts m k d a b =>
    h.ok false && d.ok .VG && a.ok .src && b.ok .src && m.ok .cvtsr && ts.arith && td != .ue4m3 &&
      decide (td.bits < ts.bits) && decide (k.toNat < cvtParts td.bits ts.bits)
  | .packB6 h k d a b => h.ok false && d.ok .dst && a.ok .src && b.ok .src && decide (k.toNat < 3)
  | .unpkB6 h _ d a b => h.ok false && d.ok .dst && a.ok .src && b.ok .VG
  | .packTri h k d a b => h.ok false && d.ok .VG && a.ok .src && b.ok .src && decide (k.toNat < 2)
  | .unpkTri h _ d a => h.ok false && d.ok .dst && a.ok .src
  | .bscl h k d a b => h.ok false && d.ok .VG && a.ok .src && b.ok .src && decide (k.toNat < 4)
  | .rcp h ty m d a | .sqrt h ty m d a =>
    h.ok false && d.ok .dst && a.ok .src && ty != .bf16 && m.ok .rnd1
  | .rsq h ty m d a => h.ok false && d.ok .dst && a.ok .src && ty != .bf16 && m.ok .one
  | .exp2 h ty m d a | .log2 h ty m d a | .sin h ty m d a | .cos h ty m d a | .tanh h ty m d a =>
    h.ok false && d.ok .dst && a.ok .src && (ty == .f32 || ty == .f16) && m.ok .one
  | .mov h d a => h.ok false && d.ok .dst && a.ok .src
  | .movi h _ d _ | .movih h d _ => h.ok false && d.ok .VG
  | .lxchIdx h _ lw d a b p => h.ok false && d.ok .V && a.ok .V && b.ok .VGI && p.ok .P && lwOk lw
  | .lxchUp h lw d a b p | .lxchDown h lw d a b p | .lxchXor h lw d a b p =>
    h.ok false && d.ok .V && a.ok .V && b.ok .VGI && p.ok .P && lwOk lw
  | .pollAll h _ d a | .pollAny h _ d a => h.ok false && d.ok .P && a.ok .P
  | .pollMask h _ d a => h.ok false && d.ok .VG && a.ok .P
  | .foldAdd h _ _ _ _ d a => h.ok false && d.ok .VG && a.ok .V
  | .foldMinmax h _ _ _ d a => h.ok false && d.ok .VG && a.ok .V
  | .bcast h d a b => h.ok false && d.ok .VG && a.ok .V && b.ok .GI
  | .selem h _ _ d a b => h.ok false && d.ok .V && a.ok .VG && b.ok .VGI
  | .srd h d a => h.ok false && d.ok .VG && a.ok .S
  | .swr h d a => h.ok false && d.ok .S && a.ok .VGI
  | .lpr h _ d => h.ok false && d.ok .V
  | .lpw h _ a => h.ok false && a.ok .V
  | .ldg h w sx ord sc _ d ad =>
    h.ok true && d.ok .VG && ad.ok && ord != .rel && ordScopeOk ord sc && sxOk w sx
  | .stg h _ ord sc _ d ad => h.ok true && d.ok .VGI && ad.ok && ord != .acq && ordScopeOk ord sc
  | .lds h w sx d ad => h.ok true && d.ok .VG && ad.ok && sxOk w sx
  | .sts h _ d ad => h.ok true && d.ok .VGI && ad.ok
  | .ldc h w sx cp d a _ => h.ok true && d.ok .VG && a.ok .VG && cp != .home && sxOk w sx
  | .atom h _ _ _ _ cp d a _ b => h.ok true && d.ok .VG && a.ok .VG && b.ok .VGI && atomCpOk cp
  | .atomc h _ _ _ cp d a _ b => h.ok true && d.ok .VG && a.ok .VG && b.ok .VGI && atomCpOk cp
  | .atomf h _ _ nr _ _ cp d a _ b =>
    h.ok true && (if nr then d == .absent else d.ok .VG) && a.ok .VG && b.ok .VGI && atomCpOk cp
  | .atoms h _ _ d a _ b => h.ok true && d.ok .VG && a.ok .VG && b.ok .VGI
  | .red h _ op _ _ cp a _ b => h.ok true && a.ok .VG && b.ok .VGI && atomCpOk cp && op != .xchg
  | .fence h _ _ => h.ok true
  | .flush h a _ b | .inval h _ a _ b => h.ok true && a.ok .VG && b.ok .VGI
  | .pref h cp a _ b => h.ok true && a.ok .VG && b.ok .VGI && (cp == .dflt || cp == .na)
  | .renew h a _ => h.ok true && a.ok .VG
  | .tsadv h l s a => h.ok true && a.ok .VGI && (l || s)
  | .tstate h d t => h.ok false && d.ok .VG && t.ok .T
  | .tstateArm h t b => h.ok false && t.ok .T && b.ok .VGI
  | .copyG2t h _ t a b c | .copyT2g h _ t a b c =>
    h.ok false && t.ok .T && a.ok .G && b.ok .GI && c.ok .GI
  | .copyG2g h _ d a b c => h.ok false && d.ok .G && a.ok .G && b.ok .GI && c.ok .G
  | .copytG2t h _ t a b _ | .copytT2g h _ t a b _ => h.ok false && t.ok .T && a.ok .G && b.ok .GI
  | .copys h _ t a b c rb =>
    h.ok false && t.ok .T && a.ok .G && b.ok .V && c.ok .GI && decide (1 ≤ rb.toNat) && decide (rb.toNat ≤ 4096)
  | .trel h t => h.ok false && t.ok .T
  | .hand h p t b => h.ok false && p.ok .P && t.ok .T && b.ok .VGI
  | .spset h _ st port t b c =>
    h.ok false && port.ok .SP && t.ok .T && b.ok .VGI && c.ok .VGI && st != 0
  | .spget h d port => h.ok false && d.ok .VG && port.ok .SP
  | .sprst h port b => h.ok false && port.ok .SP && b.ok .VGI
  | .enq h p va q st | .enqw h p va q st => h.ok false && p.ok .P && va.ok .V && q.ok .VGI && st.ok .V
  | .enqt h p a q st | .enqwt h p a q st => h.ok false && p.ok .P && a.ok .VG && q.ok .VGI && st.ok .V
  | .deq h vd vs p => h.ok false && vd.ok .V && vs.ok .V && p.ok .P
  | .qlen h _ d q => h.ok false && d.ok .VG && q.ok .VGI
  | .spawn h p va q => h.ok false && p.ok .P && va.ok .V && q.ok .VGI
  | .arm h p q tag base lcnt lslot =>
    h.ok false && p.ok .P && q.ok .GI && tag.ok .G && base.ok .G && decide (lcnt.toNat ≤ 12) &&
      decide (lslot.toNat ≤ 10)
  | .bara h set b m => h.ok false && b.ok .B && (if set then m.ok .GI else m == .absent)
  | .barw h b | .baraw h b => h.ok false && b.ok .B
  | .sleep h a => h.ok false && a.ok .GI
  | .sysc h d a b _ => h.ok false && d.ok .G && a.ok .G && b.ok .GI
  | .gload h d a b => h.ok false && d.ok .G && a.ok .G && b.ok .GI
  | .gstop h _ d a => h.ok false && d.ok .G && a.ok .GI
  | .mlw h arg =>
    h.ok false && (match arg with
      | .drop => true
      | .load t f nsw => t.ok .T && f.wt && (!nsw || f.scaled))
  | .mst h f t a b pb =>
    h.ok false && t.ok .T && a.ok .GIZ && b.ok .GIZ && f.act && (f.scaled || b == .absent) && (match pb.w3 with
      | .val n => decide (n.toNat < 2 ^ 13)   -- reserved bits of word 3 (11 R288)
      | .g _ => true)
  | .mstz h f t a b c =>
    h.ok false && t.ok .T && a.ok .GIZ && b.ok .GIZ && c.ok .G && f.act && (f.scaled || b == .absent)
  | .msts h f _ nsa a b c =>
    h.ok false && a.ok .V && (if nsa then b == .absent else b.ok .V && f.scaled) && c.ok .GI && f.act
  | .msoft h f t a b c => h.ok false && t.ok .T && a.ok .GIZ && b.ok .G && c.ok .GI && f.soft
  | .mrd h div _ _ d a c =>
    h.ok false && d.ok .V && a.ok .GI && (match div with | some _ => c.ok .GI | none => c == .absent)
  | .mrdt h _ _ f t a b c =>
    h.ok false && t.ok .T && a.ok .GIZ && b.ok .G && c.ok .GIZ && f.rdt &&
      (c == .absent || f == .e4m3 || f == .e5m2)
  | .mzero h a b => h.ok false && a.ok .GI && b.ok .GI
  | .msrd h _ _ d a => h.ok false && d.ok .V && a.ok .GI
  | .mswr h _ _ a b => h.ok false && a.ok .V && b.ok .GI
  | .tandemWord h opa opb ma mb da aa ba ca db ab bb cb =>
    h.ok false && tandemListed opa opb && (tandemA opa).1.ok ma && (tandemB opb).1.ok mb &&
      tandemUnused (tandemA opa).2 ba ca && tandemUnused (tandemB opb).2 bb cb &&
      tandemRules da db (tandemSrcs (tandemA opa).2 aa ba ca ++ tandemSrcs (tandemB opb).2 ab bb cb)
  | _ => true

/-- Is it a word of the opcode map (06), and no event? -/
def Instr.isWord : Instr → Bool
  | .storePerformedAtHome .. | .storeAcknowledgement .. | .loadRequestAtHome .. | .loadResultReturn ..
  | .atomicAtHome .. | .atomicReply .. | .attributeProbe .. | .attributeProbeReply .. | .homeFillReturn ..
  | .clockTick | .sleepEnd .. | .derailleurEvaluation .. | .claimAtHome .. | .claimReply .. | .crewRetire ..
  | .preemption .. | .sliceEnd .. | .sliceSwitchComplete .. | .queueAppendAtHome .. | .queueAnswer ..
  | .spokeSummary .. | .summaryStale .. | .admissionDecision .. | .graphStopComplete .. | .copyChunkComplete ..
  | .copyComplete .. | .handTransferComplete .. | .matrixAccept .. | .matrixComplete ..
  | .mlwBackgroundLoadDone .. | .miglimitExpiry .. | .henq .. | .henqRecordRead .. | .svcval .. | .svctail ..
  | .serviceRecordPost .. | .vfRegisterWrite .. | .tlbinvRange .. | .tlbinvAsid .. | .tlbinvAll ..
  | .invalidationComplete | .pteRead .. | .pteWrite .. | .pteOr .. | .pteClear .. | .checkpointStart ..
  | .checkpointDrained | .checkpointPageWritten | .companionRead .. | .companionWrite .. | .regionMerge ..
  | .fabcfg .. | .planeDeadSet .. | .planeDeadClear .. | .planeSwitchDrained .. | .peerRequestArrival ..
  | .peerReply .. | .multicastWriteArrival .. | .torusForward .. | .taggedMessageArrival .. | .hmsga ..
  | .hostMessageDelivery .. | .segbindUnbind .. | .segbindSend .. | .segbindReceive .. | .receivingSummary ..
  | .portForwardBurst .. | .forwardedRecordArrival .. | .forwardAcknowledgement .. | .linkError ..
  | .retrainComplete .. | .portDown .. | .portTrain .. | .portTakeDown .. | .portTrained .. | .zenvexLinkDown
  | .zenvexDownTimeout | .zenvexLinkUp | .skewUpdate .. | .energyUpdate .. | .budgetWindowBoundary
  | .budgetReached | .pcSample | .stopTriggerTime | .stopDumpComplete | .stopRelease | .faultRecordPost
  | .flttail .. | .fltreplay .. | .dataErrorDetected .. | .contextError .. | .coreRetire .. | .sliceRetire ..
  | .coreRetireDone | .sliceRetireDone | .moduleReset .. | .registerWrite .. | .matrixRowComplete .. => false
  | _ => true

end Sys2Proof
end

