-- ==== Sys2Proof/Machine/IntAlu.lean ====
section
/-! DEFINITION. What the integer family computes for one lane (07 R164 to R174): pure functions of the operands'
64-bit values, giving the destination's value and the flags of FSR that the lane raises. -/

namespace Sys2Proof

/-- FSR[6:0] (04 R94). -/
abbrev Fl := BitVec 7

namespace Fl
/-- invalid operation -/
def nv : Fl := 1
/-- division by zero -/
def dz : Fl := 2
/-- overflow -/
def of : Fl := 4
/-- underflow -/
def uf : Fl := 8
/-- inexact -/
def nx : Fl := 16
/-- invalid code -/
def ic : Fl := 32
/-- saturated -/
def sa : Fl := 64
end Fl

/-- The OR of flags. -/
def flOr (l : List Fl) : Fl := l.foldl (· ||| ·) 0

/-- One lane's value and flags. -/
structure LRes where
  d : Word
  fl : Fl := 0
  deriving DecidableEq, Repr

/-- Compute each element of width `w` and OR the flags. -/
def perElem (w : Nat) (f : Nat → Nat × Fl) : LRes :=
  let rs := (List.range (64 / w)).map f
  { d := packElems w (rs.map (·.1)), fl := flOr (rs.map (·.2)) }

/-- Limits of an integer type (04 R79). -/
def tmin (w : Nat) (sgn : Bool) : Int := if sgn then -((2 ^ (w - 1) : Nat) : Int) else 0
def tmax (w : Nat) (sgn : Bool) : Int := if sgn then ((2 ^ (w - 1) : Nat) : Int) - 1 else ((2 ^ w : Nat) : Int) - 1

/-- Wrap, or clamp and set SA (07 R166). -/
def satWrap (w : Nat) (sgn sat : Bool) (x : Int) : Nat × Fl :=
  if sat && (decide (x < tmin w sgn) || decide (tmax w sgn < x)) then
    (wrapN w (clampI (tmin w sgn) (tmax w sgn) x), Fl.sa)
  else (wrapN w x, 0)

/-- An arithmetic instruction of R166 over three operands. -/
def intArith (w : Nat) (sgn sat : Bool) (f : Int → Int → Int → Int) (a b c : Word) : LRes :=
  perElem w fun i => satWrap w sgn sat (f (elemI a w sgn i) (elemI b w sgn i) (elemI c w sgn i))

/-- f of IMULH: the upper `w` bits of the exact product (07 R166). -/
def mulHigh (w : Nat) (a b : Int) : Int := (a * b) / ((2 ^ w : Nat) : Int)

/-- The comparison of ICMP (07 R168). -/
def cmpI (cc : Cmp) (a b : Int) : Bool :=
  match cc with
  | .eq => a == b
  | .ne => a != b
  | .lt => decide (a < b)
  | .le => decide (a ≤ b)
  | .gt => decide (b < a)
  | .ge => decide (b ≤ a)
  | .un => false
  | .ord => true

/-- ICMP's comparison of each element (07 R168). -/
def icmpElems (w : Nat) (sgn : Bool) (cc : Cmp) (a b : Word) : List Bool :=
  (List.range (64 / w)).map fun i => cmpI cc (elemI a w sgn i) (elemI b w sgn i)

/-- All ones where a comparison holds (07 R168). -/
def maskElems (w : Nat) (bs : List Bool) : Word := packElems w (bs.map fun b => if b then 2 ^ w - 1 else 0)

/-- The predicate of a comparison: AND, or OR under ANY (07 R168). -/
def predElems (any : Bool) (bs : List Bool) : Bool := if any then bs.any id else bs.all id

/-- Shift left, natural (07 R167). -/
def shlN (w a n : Nat) : Nat := if n < w then (a * 2 ^ n) % 2 ^ w else 0
/-- Shift right, natural. -/
def shrN (w a n : Nat) : Nat := if n < w then a / 2 ^ n else 0
/-- Shift right, two's complement. -/
def shraN (w a n : Nat) : Nat :=
  let x := toI w true a
  if n < w then wrapN w (x / ((2 ^ n : Nat) : Int)) else if x < 0 then 2 ^ w - 1 else 0

/-- A shift of each element by the same element of the count (07 R167). -/
def shiftElems (w : Nat) (f : Nat → Nat → Nat → Nat) (a b : Word) : LRes :=
  perElem w fun i => (f w (elemN a w i) (elemN b w i), 0)

/-- A three-input table applied to bits (07 R171). -/
def blutW (tbl : BitVec 8) (a b c : Word) : Word :=
  let t (k : Nat) (x : Word) : Word := if tbl.getLsbD k then x else 0
  t 0 (~~~a &&& ~~~b &&& ~~~c) ||| t 1 (a &&& ~~~b &&& ~~~c) ||| t 2 (~~~a &&& b &&& ~~~c) |||
    t 3 (a &&& b &&& ~~~c) ||| t 4 (~~~a &&& ~~~b &&& c) ||| t 5 (a &&& ~~~b &&& c) |||
    t 6 (~~~a &&& b &&& c) ||| t 7 (a &&& b &&& c)

/-- The same table on lane masks, for PLUT (07 R171). -/
def plutM (tbl : BitVec 8) (a b c : Mask) : Mask :=
  let t (k : Nat) (x : Mask) : Mask := if tbl.getLsbD k then x else 0
  t 0 (~~~a &&& ~~~b &&& ~~~c) ||| t 1 (a &&& ~~~b &&& ~~~c) ||| t 2 (~~~a &&& b &&& ~~~c) |||
    t 3 (a &&& b &&& ~~~c) ||| t 4 (~~~a &&& ~~~b &&& c) ||| t 5 (a &&& ~~~b &&& c) |||
    t 6 (~~~a &&& b &&& c) ||| t 7 (a &&& b &&& c)

/-- Rotate left by B mod 64. -/
def rotW (a b : Word) : Word := a.rotateLeft (b.toNat % 64)

/-- FUNNEL. -/
def funnelW (a b c : Word) : Word := BitVec.ofNat 64 ((b.toNat * 2 ^ 64 + a.toNat) >>> (c.toNat % 64))

/-- Number of set bits. -/
def popcW (a : Word) : Word := BitVec.ofNat 64 ((List.range 64).filter fun k => a.getLsbD k).length

/-- Leading zeros; 64 of zero. -/
def clzW (a : Word) : Word := BitVec.ofNat 64 (firstFrom (fun k => a.getLsbD (63 - k)) 64)

/-- Trailing zeros; 64 of zero. -/
def ctzW (a : Word) : Word := BitVec.ofNat 64 (firstFrom (fun k => a.getLsbD k) 64)

/-- Bits in the opposite order. -/
def brevW (a : Word) : Word := a.reverse

/-- Position and length of a field (07 R172). -/
def bfPos (b : Word) : Nat := b.toNat % 64
def bfLen (b : Word) : Nat := min ((b.toNat >>> 8) % 128) (64 - bfPos b)

/-- BFX (07 R172). -/
def bfxW (sgn : Bool) (a b : Word) : Word :=
  let len := bfLen b
  let f := (a.toNat >>> bfPos b) % 2 ^ len
  if sgn && decide (0 < len) && decide (2 ^ (len - 1) ≤ f) then BitVec.ofNat 64 (f + (2 ^ 64 - 2 ^ len))
  else BitVec.ofNat 64 f

/-- BFI (07 R172). -/
def bfiW (a b c : Word) : Word :=
  let m : Word := BitVec.ofNat 64 ((2 ^ bfLen b - 1) * 2 ^ bfPos b)
  (c &&& ~~~m) ||| (a <<< bfPos b &&& m)

/-- LEA. -/
def leaW (a b : Word) (s : BitVec 3) : Word := a + (b <<< s.toNat)

/-- ISAD: the sum of byte differences (07 R171). -/
def isadW (sgn : Bool) (a b c : Word) : Word :=
  let s := ((List.range 8).map fun j => (elemI a 8 sgn j - elemI b 8 sgn j).natAbs).sum
  BitVec.ofNat 64 (c.toNat + s)

/-- IDOT4 (four byte parts) and IDOT2 (two half parts) (07 R174). -/
def idotW (parts : Nat) (xs ys sat : Bool) (a b c : Word) : LRes :=
  let pw := 32 / parts
  let sgn := xs || ys
  perElem 32 fun e =>
    let s := ((List.range parts).map fun j =>
      elemI a pw xs (parts * e + j) * elemI b pw ys (parts * e + j)).foldl (· + ·) (elemI c 32 sgn e)
    satWrap 32 sgn sat s

/-- IADDC: the sum and the carry (07 R173). -/
def iaddcW (a b : Word) (cin : Bool) : Word × Bool :=
  let x := a.toNat + b.toNat + (if cin then 1 else 0)
  (BitVec.ofNat 64 x, decide (2 ^ 64 ≤ x))

/-- An immediate of an I form in elements of width `w` (07 R170). -/
def immElems (w : Nat) (sgn : Bool) (imm : BitVec 32) : Word :=
  let v : Int := if sgn then imm.toInt else imm.toNat
  packElems w (List.replicate (64 / w) (wrapN w v))

/-- IMM32 sign-extended to 64 bits (07 R170). -/
def imm64 (imm : BitVec 32) : Word := imm.signExtend 64

/-- A 10-bit immediate operand of an integer instruction of element width `w` (05 R109). -/
def immOpnd (w : Nat) (n : BitVec 10) : Word := packElems w (List.replicate (64 / w) (wrapN w n.toInt))

/-- The new value of an integer atomic of width `w` (09 R225). -/
def atomNew (op : AOp) (w : Nat) (old b : Nat) : Nat :=
  match op with
  | .add => (old + b) % 2 ^ w
  | .and => old &&& b
  | .or => old ||| b
  | .xor => old ^^^ b
  | .mini => if toI w true old ≤ toI w true b then old else b
  | .maxi => if toI w true b ≤ toI w true old then old else b
  | .minn => min old b
  | .maxn => max old b
  | .xchg => b
  | .inc => if b ≤ old then 0 else old + 1
  | .dec => if old = 0 ∨ b < old then b else old - 1

/-! ## Fields and outputs of a word -/

/-- The fields of a second source. -/
def Src2.fs : Src2 → List (Nat × Opnd)
  | .r o => [(2, o)]
  | .i _ => []

/-- The fields of a second and third source. -/
def Src3.fs : Src3 → List (Nat × Opnd)
  | .r b c => [(2, b), (3, c)]
  | .i _ => []

/-- The fields of an address. -/
def Addr.fs : Addr → List (Nat × Opnd)
  | .o a _ => [(1, a)]
  | .x a b _ => [(1, a), (2, b)]

/-- What one lane of a vector instruction gives: its results, the bit of a predicate destination, a carry, and flags. -/
structure LaneOut where
  d : Word := 0
  d2 : Word := 0
  pb : Bool := false
  pout : Bool := false
  fl : Fl := 0
  deriving DecidableEq, Repr

/-- A lane's result and flags as its output. -/
def LRes.out (r : LRes) : LaneOut := { d := r.d, fl := r.fl }

end Sys2Proof
end

