-- ==== Sys2Proof/Decode.lean ====
section
/-! DEFINITION. The words of the module as bits: the fields of R110, R115, R118 and R123, the decoder of R126
(steps 1 to 3) and the encoder. Decoding is total: a word is an instruction or a refusal by cause. -/

namespace Sys2Proof

/-! ## Fields -/

/-- A word cut into its fields (05 R110, R115), with the parameter block that follows MST and COPYT (R123; zero for
every other word). The tandem word's fields (R118) are read out of the same bits. -/
structure Raw where
  op : BitVec 9
  h : Hdr
  mod : BitVec 12
  d : BitVec 12
  a : BitVec 12
  b : BitVec 12
  c : BitVec 12
  mod2 : BitVec 16
  pb : BitVec 128
  deriving DecidableEq, Repr

/-- The 96 bits of a word, most significant field first (05 R110, R115). -/
def Raw.pack (r : Raw) : BitVec 96 :=
  r.op ++ BitVec.ofBool r.h.pn ++ r.h.pg ++ BitVec.ofBool r.h.s ++ BitVec.ofBool r.h.y ++ r.h.k ++ r.h.e ++
    r.mod ++ r.d ++ r.a ++ r.b ++ r.c ++ r.mod2

/-- The fields of 96 bits and of the block behind them. -/
def Raw.unpack (w : BitVec 96) (pb : BitVec 128) : Raw where
  op := w.extractLsb' 87 9
  h := {
    pn := w.getLsbD 86
    pg := w.extractLsb' 82 4
    s := w.getLsbD 81
    y := w.getLsbD 80
    k := w.extractLsb' 78 2
    e := w.extractLsb' 76 2 }
  mod := w.extractLsb' 64 12
  d := w.extractLsb' 52 12
  a := w.extractLsb' 40 12
  b := w.extractLsb' 28 12
  c := w.extractLsb' 16 12
  mod2 := w.extractLsb' 0 16
  pb := pb

/-- IMM32 of the I format (05 R115). -/
def Raw.imm32 (r : Raw) : BitVec 32 := r.b ++ r.c ++ r.mod2.extractLsb' 8 8

/-- OFS28 of the M format (05 R115). -/
def Raw.ofs28 (r : Raw) : BitVec 28 := r.c ++ r.mod2

/-- Bits [63:0] of the word. -/
def Raw.low64 (r : Raw) : BitVec 64 := r.d ++ r.a ++ r.b ++ r.c ++ r.mod2

/-- Is the word followed by a parameter block (05 R123, 06 mark P)? -/
def longOp (op : BitVec 9) : Bool := op == 0x1A2 || op == 0x164 || op == 0x165

/-! ## Operands -/

/-- The operand a 12-bit field names (05 R107). A field that names none reads as a special register that is not
listed, which no class accepts. -/
def Opnd.of (n : BitVec 12) : Opnd :=
  let i := (n.extractLsb' 0 10).toNat
  match n.extractLsb' 10 2 with
  | 0 => .v (n.extractLsb' 0 8)
  | 1 => .g (n.extractLsb' 0 10)
  | 2 =>
    if i < 0x010 then .p (BitVec.ofNat 4 i)
    else if i < 0x018 then .sp (BitVec.ofNat 3 (i - 0x010))
    else if i < 0x020 then .sreg 0x3F
    else if i < 0x0A0 then .tile (BitVec.ofNat 7 (i - 0x020))
    else if i < 0x0B0 then .bar (BitVec.ofNat 4 (i - 0x0A0))
    else if i < 0x100 then .sreg 0x3F
    else if i < 0x140 then .sreg (BitVec.ofNat 6 (i - 0x100))
    else .sreg 0x3F
  | _ => .imm (n.extractLsb' 0 10)

/-- The field that names an operand (05 R107). -/
def Opnd.code : Opnd → BitVec 12
  | .v n => 0#4 ++ n
  | .g n => 1#2 ++ n
  | .p n => BitVec.ofNat 12 (0x800 + n.toNat)
  | .sp n => BitVec.ofNat 12 (0x810 + n.toNat)
  | .tile n => BitVec.ofNat 12 (0x820 + n.toNat)
  | .bar n => BitVec.ofNat 12 (0x8A0 + n.toNat)
  | .sreg n => BitVec.ofNat 12 (0x900 + n.toNat)
  | .imm n => 3#2 ++ n

/-- Does the field hold an operand class that `c` does not accept, cause 0x01 (05 R108)? An index of a reserved
range and an unlisted special register are no class of their own where `c` accepts some kind of the special space. -/
def classBad (c : Cls) (n : BitVec 12) : Bool :=
  let i := (n.extractLsb' 0 10).toNat
  match n.extractLsb' 10 2 with
  | 0 => !(c.v || (c.z && n == 0))
  | 1 => !c.g
  | 2 =>
    if i < 0x010 then !c.p
    else if i < 0x018 then !c.sp
    else if 0x020 ≤ i ∧ i < 0x0A0 then !c.tile
    else if 0x0A0 ≤ i ∧ i < 0x0B0 then !c.bar
    else if 0x100 ≤ i ∧ i < 0x140 ∧ sregListed (BitVec.ofNat 6 (i - 0x100)) then !c.sreg
    else !(c.p || c.sp || c.tile || c.bar || c.sreg)
  | _ => !c.imm

/-! ## Small codes -/

/-- Element width by its 2-bit code (06 R138). -/
def EW.of (n : BitVec 2) : EW :=
  match n with
  | 0 => .w64
  | 1 => .w32
  | 2 => .w16
  | _ => .w8

def EW.code : EW → BitVec 2
  | .w64 => 0
  | .w32 => 1
  | .w16 => 2
  | .w8 => 3

/-- Float type by its 2-bit code (06 R139, 08 R179). -/
def FTy.of (n : BitVec 2) : FTy :=
  match n with
  | 0 => .f64
  | 1 => .f32
  | 2 => .f16
  | _ => .bf16

def FTy.code : FTy → BitVec 2
  | .f64 => 0
  | .f32 => 1
  | .f16 => 2
  | .bf16 => 3

/-- Access width by its number (06 R142). -/
def MW.of (n : Nat) : MW :=
  match n with
  | 0 => .b8
  | 1 => .b16
  | 2 => .b32
  | 3 => .b64
  | _ => .b128

def MW.code : MW → Nat
  | .b8 => 0
  | .b16 => 1
  | .b32 => 2
  | .b64 => 3
  | .b128 => 4

/-- Rounding (04 R81); 110 and 111 are reserved. -/
def Rnd.of (n : BitVec 3) : Option Rnd :=
  match n with
  | 0 => some .rn
  | 1 => some .rz
  | 2 => some .rp
  | 3 => some .rm
  | 4 => some .ro
  | 5 => some .dyn
  | _ => none

def Rnd.code : Rnd → BitVec 3
  | .rn => 0
  | .rz => 1
  | .rp => 2
  | .rm => 3
  | .ro => 4
  | .dyn => 5

/-- Comparison (07 R164, 08 R182); 1000 and above are reserved. -/
def Cmp.of (n : BitVec 4) : Option Cmp :=
  match n with
  | 0 => some .eq
  | 1 => some .ne
  | 2 => some .lt
  | 3 => some .le
  | 4 => some .gt
  | 5 => some .ge
  | 6 => some .un
  | 7 => some .ord
  | _ => none

def Cmp.code : Cmp → BitVec 4
  | .eq => 0
  | .ne => 1
  | .lt => 2
  | .le => 3
  | .gt => 4
  | .ge => 5
  | .un => 6
  | .ord => 7

/-- Float type of a conversion (08 R189). -/
def FloatTy.of (n : BitVec 4) : Option FloatTy :=
  match n with
  | 0 => some .f64
  | 1 => some .f32
  | 2 => some .f16
  | 3 => some .bf16
  | 4 => some .e5m2
  | 5 => some .e4m3
  | 6 => some .e3m2
  | 7 => some .e2m3
  | 8 => some .e2m1
  | 9 => some .ue4m3
  | _ => none

def FloatTy.code : FloatTy → BitVec 4
  | .f64 => 0
  | .f32 => 1
  | .f16 => 2
  | .bf16 => 3
  | .e5m2 => 4
  | .e4m3 => 5
  | .e3m2 => 6
  | .e2m3 => 7
  | .e2m1 => 8
  | .ue4m3 => 9

/-- Integer type of a conversion (08 R189). -/
def IntTy.of (n : BitVec 4) : Option IntTy :=
  if n.toNat < 8 then some { w := EW.of (n.extractLsb' 0 2), signed := !n.getLsbD 2 } else none

def IntTy.code (t : IntTy) : BitVec 4 := BitVec.ofBool false ++ BitVec.ofBool (!t.signed) ++ t.w.code

/-- The layout of MOD in floating words (05 R114). -/
def FMod.of (m : BitVec 12) : Option FMod :=
  (Rnd.of (m.extractLsb' 9 3)).map fun rnd => {
    rnd
    sat := m.getLsbD 8
    ftz := m.getLsbD 7
    negA := m.getLsbD 6
    negB := m.getLsbD 5
    negC := m.getLsbD 4
    absA := m.getLsbD 3
    absB := m.getLsbD 2 }

def FMod.code (m : FMod) : BitVec 12 :=
  m.rnd.code ++ BitVec.ofBool m.sat ++ BitVec.ofBool m.ftz ++ BitVec.ofBool m.negA ++ BitVec.ofBool m.negB ++
    BitVec.ofBool m.negC ++ BitVec.ofBool m.absA ++ BitVec.ofBool m.absB ++ 0#2

/-- ORD (09 R215); 11 is reserved. -/
def Ord.of (n : BitVec 2) : Option Ord :=
  match n with
  | 0 => some .plain
  | 1 => some .acq
  | 2 => some .rel
  | _ => none

def Ord.code : Ord → BitVec 2
  | .plain => 0
  | .acq => 1
  | .rel => 2

/-- SCOPE (09 R215). -/
def Scope.of (n : BitVec 3) : Scope :=
  match n with
  | 0 => .grp
  | 1 => .crew
  | 2 => .core
  | 3 => .clu
  | 4 => .die
  | 5 => .dev
  | 6 => .dom
  | _ => .sys

def Scope.code : Scope → BitVec 3
  | .grp => 0
  | .crew => 1
  | .core => 2
  | .clu => 3
  | .die => 4
  | .dev => 5
  | .dom => 6
  | .sys => 7

/-- CP (09 R215). -/
def Cp.of (n : BitVec 2) : Cp :=
  match n with
  | 0 => .dflt
  | 1 => .ef
  | 2 => .na
  | _ => .home

def Cp.code : Cp → BitVec 2
  | .dflt => 0
  | .ef => 1
  | .na => 2
  | .home => 3

/-- OPC of an integer atomic (09 R225); 1011 and above are reserved. -/
def AOp.of (n : BitVec 4) : Option AOp :=
  match n with
  | 0 => some .add
  | 1 => some .and
  | 2 => some .or
  | 3 => some .xor
  | 4 => some .mini
  | 5 => some .maxi
  | 6 => some .minn
  | 7 => some .maxn
  | 8 => some .xchg
  | 9 => some .inc
  | 10 => some .dec
  | _ => none

def AOp.code : AOp → BitVec 4
  | .add => 0
  | .and => 1
  | .or => 2
  | .xor => 3
  | .mini => 4
  | .maxi => 5
  | .minn => 6
  | .maxn => 7
  | .xchg => 8
  | .inc => 9
  | .dec => 10

/-- OPC of ATOMF (09 R227); 0011 and above are reserved. -/
def AFOp.of (n : BitVec 4) : Option AFOp :=
  match n with
  | 0 => some .add
  | 1 => some .min
  | 2 => some .max
  | _ => none

def AFOp.code : AFOp → BitVec 4
  | .add => 0
  | .min => 1
  | .max => 2

/-- Matrix format code (11 R271); 1011 and above are reserved. -/
def MFmt.of (n : BitVec 4) : Option MFmt :=
  match n with
  | 0 => some .e4m3
  | 1 => some .e5m2
  | 2 => some .e3m2
  | 3 => some .e2m3
  | 4 => some .e2m1
  | 5 => some .bf16
  | 6 => some .fp16
  | 7 => some .i8
  | 8 => some .tri
  | 9 => some .f32
  | 10 => some .i32
  | _ => none

def MFmt.code : MFmt → BitVec 4
  | .e4m3 => 0
  | .e5m2 => 1
  | .e3m2 => 2
  | .e2m3 => 3
  | .e2m1 => 4
  | .bf16 => 5
  | .fp16 => 6
  | .i8 => 7
  | .tri => 8
  | .f32 => 9
  | .i32 => 10

/-- Type of a FOLD: MOD2[4] FLT and the code of R189 in [3:0] (08 R201). -/
def FoldTy.of (flt : Bool) (n : BitVec 4) : Option FoldTy :=
  if flt then (if n.toNat < 4 then some (.flt (FTy.of (n.extractLsb' 0 2))) else none)
  else (IntTy.of n).map .int

def FoldTy.code : FoldTy → BitVec 5
  | .int t => BitVec.ofBool false ++ t.code
  | .flt t => 1#1 ++ 0#2 ++ t.code

/-- A word of a parameter block (05 R123). -/
def PWord.of (w : BitVec 32) : PWord :=
  if w.getLsbD 31 then .g (w.extractLsb' 0 10) else .val (w.extractLsb' 0 31)

def PWord.code : PWord → BitVec 32
  | .val n => 0#1 ++ n
  | .g n => 1#1 ++ 0#21 ++ n

def Params.of (b : BitVec 128) : Params where
  w0 := PWord.of (b.extractLsb' 0 32)
  w1 := PWord.of (b.extractLsb' 32 32)
  w2 := PWord.of (b.extractLsb' 64 32)
  w3 := PWord.of (b.extractLsb' 96 32)

def Params.code (p : Params) : BitVec 128 := p.w3.code ++ p.w2.code ++ p.w1.code ++ p.w0.code

/-! ## The opcode tables (06 R137 to R146) -/

/-- What a code of the map reads a word as: the instruction, or none where a field selects a value that is not
listed, and the operand classes of the fields it uses. -/
structure Cand where
  ins : Option Instr
  fs : List (Cls × BitVec 12) := []

/-- A code whose fields D, A, B, C accept the classes given. -/
def cand (i : Option Instr) (fs : List (Cls × BitVec 12)) : Cand := { ins := i, fs := fs }

/-- Control, 0x000 to 0x00C (06 R137, 07 R153). -/
def controlCodes : List (Raw → Cand) := [
  fun r => cand (some (.nop r.h)) [],
  fun r => cand (some (.bra r.h r.imm32)) [],
  fun r => cand (some (.brx r.h (.of r.a))) [(.VG, r.a)],
  fun r => cand (some (.call r.h (.of r.d) r.imm32)) [(.V, r.d)],
  fun r => cand (some (.callx r.h (.of r.d) (.of r.a))) [(.V, r.d), (.VG, r.a)],
  fun r => cand (some (.ret r.h (.of r.a))) [(.V, r.a)],
  fun r => cand (some (.join r.h)) [],
  fun r => cand (some (.yield r.h)) [],
  fun r => cand (some (.exit r.h)) [],
  fun r => cand (some (.region r.h (r.imm32.extractLsb' 0 16))) [],
  fun r => cand (some (.trap r.h (r.imm32.extractLsb' 0 16))) [],
  fun r => cand (some (.rtt r.h (r.mod.getLsbD 0))) [],
  fun r => cand (some (.brk r.h (r.imm32.extractLsb' 0 16))) []]

/-- MOD[75] SGN and MOD[74] SAT of the integer words (07 R164, R169, R171). -/
def Raw.sgn (r : Raw) : Bool := r.mod.getLsbD 11
def Raw.sat (r : Raw) : Bool := r.mod.getLsbD 10

/-- Typed integer codes, 0x020 + 4i + v (06 R138, 07 R164, R165). -/
def intTyped : List (EW → Raw → Cand) := [
  fun w r => cand (some (.iadd r.h w r.sgn r.sat (.of r.d) (.of r.a) (.r (.of r.b))))
    [(.dst, r.d), (.src, r.a), (.src, r.b)],
  fun w r => cand (some (.isub r.h w r.sgn r.sat (.of r.d) (.of r.a) (.of r.b)))
    [(.dst, r.d), (.src, r.a), (.src, r.b)],
  fun w r => cand (some (.imul r.h w r.sgn r.sat (.of r.d) (.of r.a) (.r (.of r.b))))
    [(.dst, r.d), (.src, r.a), (.src, r.b)],
  fun w r => cand (some (.imulh r.h w r.sgn (.of r.d) (.of r.a) (.of r.b)))
    [(.dst, r.d), (.src, r.a), (.src, r.b)],
  fun w r => cand (some (.imad r.h w r.sgn r.sat (.of r.d) (.of r.a) (.r (.of r.b) (.of r.c))))
    [(.dst, r.d), (.src, r.a), (.src, r.b), (.src, r.c)],
  fun w r => cand (some (.imin r.h w r.sgn (.of r.d) (.of r.a) (.of r.b)))
    [(.dst, r.d), (.src, r.a), (.src, r.b)],
  fun w r => cand (some (.imax r.h w r.sgn (.of r.d) (.of r.a) (.of r.b)))
    [(.dst, r.d), (.src, r.a), (.src, r.b)],
  fun w r => cand (some (.iabs r.h w r.sat (.of r.d) (.of r.a))) [(.dst, r.d), (.src, r.a)],
  fun w r => cand ((Cmp.of (r.mod.extractLsb' 6 4)).map fun cc =>
      .icmp r.h w r.sgn cc (r.mod.getLsbD 5) (.of r.d) (.of r.a) (.r (.of r.b)))
    [(.dstP, r.d), (.src, r.a), (.src, r.b)],
  fun w r => cand (some (.shl r.h w r.sgn (.of r.d) (.of r.a) (.r (.of r.b))))
    [(.dst, r.d), (.src, r.a), (.src, r.b)],
  fun w r => cand (some (.shr r.h w r.sgn (.of r.d) (.of r.a) (.r (.of r.b))))
    [(.dst, r.d), (.src, r.a), (.src, r.b)],
  fun w r => cand (some (.shra r.h w r.sgn (.of r.d) (.of r.a) (.r (.of r.b))))
    [(.dst, r.d), (.src, r.a), (.src, r.b)]]

/-- MOD[65:64] W of the immediate forms (07 R169). -/
def Raw.iw (r : Raw) : EW := EW.of (r.mod.extractLsb' 0 2)

/-- Integer immediate forms, 0x050 to 0x05B (07 R169, R170). -/
def intImm : List (Raw → Cand) := [
  fun r => cand (some (.iadd r.h r.iw r.sgn r.sat (.of r.d) (.of r.a) (.i r.imm32))) [(.dst, r.d), (.src, r.a)],
  fun r => cand (some (.imul r.h r.iw r.sgn r.sat (.of r.d) (.of r.a) (.i r.imm32))) [(.dst, r.d), (.src, r.a)],
  fun r => cand (some (.imad r.h r.iw r.sgn r.sat (.of r.d) (.of r.a) (.i r.imm32))) [(.VG, r.d), (.src, r.a)],
  fun r => cand ((Cmp.of (r.mod.extractLsb' 6 4)).map fun cc =>
      .icmp r.h r.iw r.sgn cc (r.mod.getLsbD 5) (.of r.d) (.of r.a) (.i r.imm32)) [(.dstP, r.d), (.src, r.a)],
  fun r => cand (some (.shl r.h r.iw r.sgn (.of r.d) (.of r.a) (.i r.imm32))) [(.dst, r.d), (.src, r.a)],
  fun r => cand (some (.shr r.h r.iw r.sgn (.of r.d) (.of r.a) (.i r.imm32))) [(.dst, r.d), (.src, r.a)],
  fun r => cand (some (.shra r.h r.iw r.sgn (.of r.d) (.of r.a) (.i r.imm32))) [(.dst, r.d), (.src, r.a)],
  fun r => cand (some (.blut r.h (r.mod2.extractLsb' 0 8) (.of r.d) (.of r.a) (.i r.imm32)))
    [(.VG, r.d), (.src, r.a)],
  fun r => cand (some (.rot r.h (.of r.d) (.of r.a) (.i r.imm32))) [(.dst, r.d), (.src, r.a)],
  fun r => cand (some (.bfx r.h r.sgn (.of r.d) (.of r.a) (.i r.imm32))) [(.dst, r.d), (.src, r.a)],
  fun r => cand (some (.bfi r.h (.of r.d) (.of r.a) (.i r.imm32))) [(.VG, r.d), (.src, r.a)],
  fun r => cand (some (.lea r.h (r.mod2.extractLsb' 0 3) (.of r.d) (.of r.a) (.i r.imm32)))
    [(.dst, r.d), (.src, r.a)]]

/-- An integer dot product by the signedness of A and of B (06 R138). -/
def idotCode (four : Bool) (xs ys : Bool) (r : Raw) : Cand :=
  cand (some (if four then .idot4 r.h xs ys r.sat (.of r.d) (.of r.a) (.of r.b) (.of r.c)
      else .idot2 r.h xs ys r.sat (.of r.d) (.of r.a) (.of r.b) (.of r.c)))
    [(.dst, r.d), (.src, r.a), (.src, r.b), (.src, r.c)]

/-- Untyped integer codes, 0x05C to 0x071 (07 R171). -/
def intUntyped : List (Raw → Cand) := [
  fun r => cand (some (.isad r.h r.sgn (.of r.d) (.of r.a) (.of r.b) (.of r.c)))
    [(.dst, r.d), (.src, r.a), (.src, r.b), (.src, r.c)],
  fun r => cand (some (.blut r.h (r.mod2.extractLsb' 0 8) (.of r.d) (.of r.a) (.r (.of r.b) (.of r.c))))
    [(.dst, r.d), (.src, r.a), (.src, r.b), (.src, r.c)],
  fun r => cand (some (.rot r.h (.of r.d) (.of r.a) (.r (.of r.b)))) [(.dst, r.d), (.src, r.a), (.src, r.b)],
  fun r => cand (some (.funnel r.h (.of r.d) (.of r.a) (.of r.b) (.of r.c)))
    [(.dst, r.d), (.src, r.a), (.src, r.b), (.src, r.c)],
  fun r => cand (some (.popc r.h (.of r.d) (.of r.a))) [(.dst, r.d), (.src, r.a)],
  fun r => cand (some (.clz r.h (.of r.d) (.of r.a))) [(.dst, r.d), (.src, r.a)],
  fun r => cand (some (.ctz r.h (.of r.d) (.of r.a))) [(.dst, r.d), (.src, r.a)],
  fun r => cand (some (.brev r.h (.of r.d) (.of r.a))) [(.dst, r.d), (.src, r.a)],
  fun r => cand (some (.bfx r.h r.sgn (.of r.d) (.of r.a) (.r (.of r.b))))
    [(.dst, r.d), (.src, r.a), (.src, r.b)],
  fun r => cand (some (.bfi r.h (.of r.d) (.of r.a) (.r (.of r.b) (.of r.c))))
    [(.dst, r.d), (.src, r.a), (.src, r.b), (.src, r.c)],
  fun r => cand (some (.isel r.h (.of r.d) (.of r.a) (.of r.b) (.of r.c)))
    [(.dst, r.d), (.src, r.a), (.src, r.b), (.P, r.c)],
  fun r => cand (some (.lea r.h (r.mod2.extractLsb' 0 3) (.of r.d) (.of r.a) (.r (.of r.b))))
    [(.dst, r.d), (.src, r.a), (.src, r.b)],
  fun r => cand (some (.iaddc r.h (.of r.d) (.of r.a) (.of r.b) (.of r.c) (r.mod2.extractLsb' 0 4)))
    [(.dst, r.d), (.src, r.a), (.src, r.b), (.P, r.c)],
  fun r => cand (some (.plut r.h (r.mod2.extractLsb' 0 8) (.of r.d) (.of r.a) (.of r.b) (.of r.c)))
    [(.P, r.d), (.P, r.a), (.P, r.b), (.P, r.c)],
  idotCode true true true, idotCode true true false, idotCode true false true, idotCode true false false,
  idotCode false true true, idotCode false true false, idotCode false false true, idotCode false false false]

/-- Classes of a destination and one, two, three sources. -/
def Raw.da (r : Raw) : List (Cls × BitVec 12) := [(.dst, r.d), (.src, r.a)]
def Raw.dab (r : Raw) : List (Cls × BitVec 12) := [(.dst, r.d), (.src, r.a), (.src, r.b)]
def Raw.dabc (r : Raw) : List (Cls × BitVec 12) := [(.dst, r.d), (.src, r.a), (.src, r.b), (.src, r.c)]

/-- Typed floating codes, 0x080 + 4i + v (06 R139, 08 R179). -/
def fltTyped : List (FTy → Raw → Cand) := [
  fun t r => cand ((FMod.of r.mod).map fun m => .fadd r.h t m (.of r.d) (.of r.a) (.r (.of r.b))) r.dab,
  fun t r => cand ((FMod.of r.mod).map fun m => .fmul r.h t m (.of r.d) (.of r.a) (.r (.of r.b))) r.dab,
  fun t r => cand ((FMod.of r.mod).map fun m =>
    .ffma r.h t m (.of r.d) (.of r.a) (.r (.of r.b) (.of r.c))) r.dabc,
  fun t r => cand ((FMod.of r.mod).map fun m => .fmin r.h t m (.of r.d) (.of r.a) (.of r.b)) r.dab,
  fun t r => cand ((FMod.of r.mod).map fun m => .fmax r.h t m (.of r.d) (.of r.a) (.of r.b)) r.dab,
  fun t r => cand ((FMod.of r.mod).map fun m => .fminm r.h t m (.of r.d) (.of r.a) (.of r.b)) r.dab,
  fun t r => cand ((FMod.of r.mod).map fun m => .fmaxm r.h t m (.of r.d) (.of r.a) (.of r.b)) r.dab,
  fun t r => cand ((FMod.of r.mod).bind fun m => (Cmp.of (r.mod2.extractLsb' 0 4)).map fun cc =>
      .fcmp r.h t m cc (r.mod2.getLsbD 4) (.of r.d) (.of r.a) (.of r.b))
    [(.VGP, r.d), (.src, r.a), (.src, r.b)]]

/-- TY, MOD2[15:14] (08 R179). -/
def Raw.ty (r : Raw) : FTy := FTy.of (r.mod2.extractLsb' 14 2)

/-- The immediate forms and the codes with a type in MOD2, 0x0A0 to 0x0AD (06 R139, 08 R179, R188). -/
def fltOther : List (Raw → Cand) := [
  fun r => cand ((FMod.of r.mod).map fun m => .fadd r.h .f64 m (.of r.d) (.of r.a) (.i r.imm32)) r.da,
  fun r => cand ((FMod.of r.mod).map fun m => .fadd r.h .f32 m (.of r.d) (.of r.a) (.i r.imm32)) r.da,
  fun r => cand ((FMod.of r.mod).map fun m => .fmul r.h .f64 m (.of r.d) (.of r.a) (.i r.imm32)) r.da,
  fun r => cand ((FMod.of r.mod).map fun m => .fmul r.h .f32 m (.of r.d) (.of r.a) (.i r.imm32)) r.da,
  fun r => cand ((FMod.of r.mod).map fun m => .ffma r.h .f64 m (.of r.d) (.of r.a) (.i r.imm32))
    [(.VG, r.d), (.src, r.a)],
  fun r => cand ((FMod.of r.mod).map fun m => .ffma r.h .f32 m (.of r.d) (.of r.a) (.i r.imm32))
    [(.VG, r.d), (.src, r.a)],
  fun r => cand (some (.fclass r.h r.ty (r.mod2.getLsbD 10) (r.mod2.extractLsb' 0 10) (.of r.d) (.of r.a)))
    [(.VGP, r.d), (.src, r.a)],
  fun r => cand ((FMod.of r.mod).map fun m =>
    .fdot2 r.h (r.mod2.getLsbD 14) m (.of r.d) (.of r.a) (.of r.b) (.of r.c)) r.dabc,
  fun r => cand ((FMod.of r.mod).map fun m =>
    .fdot4 r.h (r.mod2.getLsbD 15) (r.mod2.getLsbD 14) m (.of r.d) (.of r.a) (.of r.b) (.of r.c)) r.dabc,
  fun r => cand ((FMod.of r.mod).map fun m => .frnd r.h r.ty m (.of r.d) (.of r.a)) r.da,
  fun r => cand ((FMod.of r.mod).map fun m => .fscale r.h r.ty m (.of r.d) (.of r.a) (.of r.b)) r.dab,
  fun r => cand ((FMod.of r.mod).map fun m => .fgetexp r.h r.ty m (.of r.d) (.of r.a)) r.da,
  fun r => cand ((FMod.of r.mod).map fun m => .fgetmant r.h r.ty m (.of r.d) (.of r.a)) r.da,
  fun r => cand ((FMod.of r.mod).map fun m =>
    .ferr r.h r.ty m (r.mod2.getLsbD 0) (.of r.d) (.of r.a) (.of r.b)) r.dab]

/-- Td, Ts and k of a conversion (08 R191). -/
def Raw.td (r : Raw) : BitVec 4 := r.mod2.extractLsb' 12 4
def Raw.ts (r : Raw) : BitVec 4 := r.mod2.extractLsb' 8 4
def Raw.part (r : Raw) : BitVec 4 := r.mod2.extractLsb' 4 4

/-- The classes of a conversion: where a part of D is kept, D is V or G (08 R177, R190). -/
def cvtFs (wd ws : Option Nat) (r : Raw) : List (Cls × BitVec 12) :=
  let dc := match wd, ws with
    | some d, some s => cvtDst d s
    | _, _ => .dst
  [(dc, r.d), (.src, r.a)]

/-- One special function by its type. -/
def sfu (f : Hdr → FTy → FMod → Opnd → Opnd → Instr) (t : FTy) (r : Raw) : Cand :=
  cand ((FMod.of r.mod).map fun m => f r.h t m (.of r.d) (.of r.a)) r.da

/-- Conversions and special functions, 0x0E0 to 0x0FC (06 R140, 08 R191 to R198). -/
def convertCodes : List (Raw → Cand) := [
  fun r => cand ((FMod.of r.mod).bind fun m => (FloatTy.of r.td).bind fun td => (FloatTy.of r.ts).map fun ts =>
      .cvtFf r.h td ts m r.part (.of r.d) (.of r.a))
    (cvtFs ((FloatTy.of r.td).map (·.bits)) ((FloatTy.of r.ts).map (·.bits)) r),
  fun r => cand ((FMod.of r.mod).bind fun m => (IntTy.of r.td).bind fun td => (FloatTy.of r.ts).map fun ts =>
      .cvtFi r.h td ts m r.part (.of r.d) (.of r.a))
    (cvtFs ((IntTy.of r.td).map (·.w.bits)) ((FloatTy.of r.ts).map (·.bits)) r),
  fun r => cand ((FMod.of r.mod).bind fun m => (FloatTy.of r.td).bind fun td => (IntTy.of r.ts).map fun ts =>
      .cvtIf r.h td ts m r.part (.of r.d) (.of r.a))
    (cvtFs ((FloatTy.of r.td).map (·.bits)) ((IntTy.of r.ts).map (·.w.bits)) r),
  fun r => cand ((FMod.of r.mod).bind fun m => (IntTy.of r.td).bind fun td => (IntTy.of r.ts).map fun ts =>
      .cvtIi r.h td ts m r.part (.of r.d) (.of r.a))
    (cvtFs ((IntTy.of r.td).map (·.w.bits)) ((IntTy.of r.ts).map (·.w.bits)) r),
  fun r => cand ((FMod.of r.mod).bind fun m => (FloatTy.of r.td).bind fun td => (FloatTy.of r.ts).map fun ts =>
      .cvts r.h td ts m r.part (.of r.d) (.of r.a) (.of r.b))
    (cvtFs ((FloatTy.of r.td).map (·.bits)) ((FloatTy.of r.ts).map (·.bits)) r ++ [(.src, r.b)]),
  fun r => cand ((FMod.of r.mod).bind fun m => (FloatTy.of r.td).bind fun td =>
      if r.ts == 1 then some (.cvtef r.h td m r.part (r.mod2.getLsbD 0) (.of r.d) (.of r.a) (.of r.b) (.of r.c))
      else none)
    ([(.VG, r.d), (.src, r.a), (.V, r.c)] ++ (if r.mod2.getLsbD 0 then [(.src, r.b)] else [])),
  fun r => cand ((FMod.of r.mod).bind fun m => (FloatTy.of r.td).bind fun td => (FloatTy.of r.ts).map fun ts =>
      .cvtsr r.h td ts m r.part (.of r.d) (.of r.a) (.of r.b))
    [(.VG, r.d), (.src, r.a), (.src, r.b)],
  fun r => match r.mod2.extractLsb' 0 2 with
    | 0 => cand (some (.packB6 r.h (r.mod2.extractLsb' 4 2) (.of r.d) (.of r.a) (.of r.b))) r.dab
    | 1 => cand (some (.packTri r.h (r.mod2.extractLsb' 4 2) (.of r.d) (.of r.a) (.of r.b)))
        [(.VG, r.d), (.src, r.a), (.src, r.b)]
    | _ => cand none r.dab,
  fun r => match r.mod2.extractLsb' 0 2 with
    | 0 => cand (some (.unpkB6 r.h (r.mod2.extractLsb' 4 2) (.of r.d) (.of r.a) (.of r.b)))
        [(.dst, r.d), (.src, r.a), (.VG, r.b)]
    | 1 => cand (some (.unpkTri r.h (r.mod2.extractLsb' 4 2) (.of r.d) (.of r.a))) r.da
    | _ => cand none r.dab,
  fun r => cand (some (.bscl r.h r.part (.of r.d) (.of r.a) (.of r.b))) [(.VG, r.d), (.src, r.a), (.src, r.b)],
  sfu .rcp .f64, sfu .rcp .f32, sfu .rcp .f16, sfu .rsq .f64, sfu .rsq .f32, sfu .rsq .f16,
  sfu .sqrt .f64, sfu .sqrt .f32, sfu .sqrt .f16, sfu .exp2 .f32, sfu .exp2 .f16, sfu .log2 .f32, sfu .log2 .f16,
  sfu .sin .f32, sfu .sin .f16, sfu .cos .f32, sfu .cos .f16, sfu .tanh .f32, sfu .tanh .f16]

/-- Classes of LXCH. -/
def Raw.lx (r : Raw) : List (Cls × BitVec 12) := [(.V, r.d), (.V, r.a), (.VGI, r.b), (.P, r.c)]

/-- Move and lane codes, 0x100 to 0x111 (06 R141, 08 R201). -/
def moveCodes : List (Raw → Cand) := [
  fun r => cand (some (.mov r.h (.of r.d) (.of r.a))) r.da,
  fun r => cand (some (.movi r.h (r.mod2.getLsbD 0) (.of r.d) r.imm32)) [(.VG, r.d)],
  fun r => cand (some (.movih r.h (.of r.d) r.imm32)) [(.VG, r.d)],
  fun r => cand (some (.lxchIdx r.h (EW.of (r.mod2.extractLsb' 4 2)) (r.mod2.extractLsb' 0 3) (.of r.d) (.of r.a)
    (.of r.b) (.of r.c))) r.lx,
  fun r => cand (some (.lxchUp r.h (r.mod2.extractLsb' 0 3) (.of r.d) (.of r.a) (.of r.b) (.of r.c))) r.lx,
  fun r => cand (some (.lxchDown r.h (r.mod2.extractLsb' 0 3) (.of r.d) (.of r.a) (.of r.b) (.of r.c))) r.lx,
  fun r => cand (some (.lxchXor r.h (r.mod2.extractLsb' 0 3) (.of r.d) (.of r.a) (.of r.b) (.of r.c))) r.lx,
  fun r => cand (some (.pollAll r.h (r.mod2.getLsbD 0) (.of r.d) (.of r.a))) [(.P, r.d), (.P, r.a)],
  fun r => cand (some (.pollAny r.h (r.mod2.getLsbD 0) (.of r.d) (.of r.a))) [(.P, r.d), (.P, r.a)],
  fun r => cand (some (.pollMask r.h (r.mod2.getLsbD 0) (.of r.d) (.of r.a))) [(.VG, r.d), (.P, r.a)],
  fun r => cand ((FoldTy.of (r.mod2.getLsbD 4) (r.mod2.extractLsb' 0 4)).bind fun ty =>
      (Rnd.of (r.mod.extractLsb' 9 3)).map fun rnd =>
        .foldAdd r.h ty rnd (r.mod.getLsbD 8) (r.mod.getLsbD 7) (.of r.d) (.of r.a)) [(.VG, r.d), (.V, r.a)],
  fun r => cand ((FoldTy.of (r.mod2.getLsbD 4) (r.mod2.extractLsb' 0 4)).map fun ty =>
      .foldMinmax r.h ty (r.mod2.getLsbD 5) (r.mod.getLsbD 7) (.of r.d) (.of r.a)) [(.VG, r.d), (.V, r.a)],
  fun r => cand (some (.bcast r.h (.of r.d) (.of r.a) (.of r.b))) [(.VG, r.d), (.V, r.a), (.GI, r.b)],
  fun r => cand (some (.selem r.h (r.mod2.getLsbD 2) (EW.of (r.mod2.extractLsb' 0 2)) (.of r.d) (.of r.a)
    (.of r.b))) [(.V, r.d), (.VG, r.a), (.VGI, r.b)],
  fun r => cand (some (.srd r.h (.of r.d) (.of r.a))) [(.VG, r.d), (.S, r.a)],
  fun r => cand (some (.swr r.h (.of r.d) (.of r.a))) [(.S, r.d), (.VGI, r.a)],
  fun r => cand (some (.lpr r.h (r.mod2.getLsbD 0) (.of r.d))) [(.V, r.d)],
  fun r => cand (some (.lpw r.h (r.mod2.getLsbD 0) (.of r.a))) [(.V, r.a)]]

/-- Fields of MOD in the memory family (09 R215). -/
def Raw.ord (r : Raw) : Option Ord := Ord.of (r.mod.extractLsb' 10 2)
def Raw.scope (r : Raw) : Scope := Scope.of (r.mod.extractLsb' 7 3)
def Raw.cp (r : Raw) : Cp := Cp.of (r.mod.extractLsb' 5 2)
def Raw.m4 (r : Raw) : Bool := r.mod.getLsbD 4
def Raw.opc (r : Raw) : BitVec 4 := r.mod.extractLsb' 0 4

/-- The address of an M-format word: O or X form (05 R117). -/
def Raw.addr (r : Raw) (x : Bool) : Addr :=
  if x then .x (.of r.a) (.of r.b) (r.ofs28.extractLsb' 0 3) else .o (.of r.a) r.ofs28

def Raw.addrFs (r : Raw) (x : Bool) : List (Cls × BitVec 12) :=
  if x then [(.VG, r.a), (.VG, r.b)] else [(.VG, r.a)]

/-- Loads and stores by width and address form, 0x120 to 0x147 (06 R142). -/
def memTyped : List (MW → Bool → Raw → Cand) := [
  fun w x r => cand (r.ord.map fun o => .ldg r.h w r.m4 o r.scope r.cp (.of r.d) (r.addr x))
    ((.VG, r.d) :: r.addrFs x),
  fun w x r => cand (r.ord.map fun o => .stg r.h w o r.scope r.cp (.of r.d) (r.addr x))
    ((.VGI, r.d) :: r.addrFs x),
  fun w x r => cand (some (.lds r.h w r.m4 (.of r.d) (r.addr x))) ((.VG, r.d) :: r.addrFs x),
  fun w x r => cand (some (.sts r.h w (.of r.d) (r.addr x))) ((.VGI, r.d) :: r.addrFs x)]

def Raw.atomFs (r : Raw) : List (Cls × BitVec 12) := [(.VG, r.d), (.VG, r.a), (.VGI, r.b)]
def Raw.redFs (r : Raw) : List (Cls × BitVec 12) := [(.VG, r.a), (.VGI, r.b)]

def ldcCode (w : MW) (r : Raw) : Cand :=
  cand (some (.ldc r.h w r.m4 r.cp (.of r.d) (.of r.a) r.ofs28)) [(.VG, r.d), (.VG, r.a)]
def atomCode (w64 : Bool) (r : Raw) : Cand :=
  cand ((AOp.of r.opc).bind fun op => r.ord.map fun o =>
    .atom r.h w64 op o r.scope r.cp (.of r.d) (.of r.a) r.ofs28 (.of r.b)) r.atomFs
def atomcCode (w64 : Bool) (r : Raw) : Cand :=
  cand (r.ord.map fun o => .atomc r.h w64 o r.scope r.cp (.of r.d) (.of r.a) r.ofs28 (.of r.b)) r.atomFs
def atomfCode (ty : AFTy) (r : Raw) : Cand :=
  cand ((AFOp.of r.opc).bind fun op => r.ord.map fun o =>
    .atomf r.h ty op r.m4 o r.scope r.cp (.of r.d) (.of r.a) r.ofs28 (.of r.b))
    ((if r.m4 then [] else [(.VG, r.d)]) ++ r.redFs)
def atomsCode (w64 : Bool) (r : Raw) : Cand :=
  cand ((AOp.of r.opc).map fun op => .atoms r.h w64 op (.of r.d) (.of r.a) r.ofs28 (.of r.b)) r.atomFs
def redCode (w64 : Bool) (r : Raw) : Cand :=
  cand ((AOp.of r.opc).bind fun op => r.ord.map fun o =>
    .red r.h w64 op o r.scope r.cp (.of r.a) r.ofs28 (.of r.b)) r.redFs

/-- The other memory codes, 0x148 to 0x15D (06 R142). -/
def memOther : List (Raw → Cand) := [
  ldcCode .b8, ldcCode .b16, ldcCode .b32, ldcCode .b64, ldcCode .b128,
  atomCode false, atomCode true, atomcCode false, atomcCode true,
  atomfCode .f32, atomfCode .f64, atomfCode .bf16x2, atomsCode false, atomsCode true, redCode false, redCode true,
  fun r => cand (some (.fence r.h r.scope r.m4)) [],
  fun r => cand (some (.flush r.h (.of r.a) r.ofs28 (.of r.b))) r.redFs,
  fun r => cand (some (.inval r.h r.scope (.of r.a) r.ofs28 (.of r.b))) r.redFs,
  fun r => cand (some (.pref r.h r.cp (.of r.a) r.ofs28 (.of r.b))) r.redFs,
  fun r => cand (some (.renew r.h (.of r.a) r.ofs28)) [(.VG, r.a)],
  fun r => cand (some (.tsadv r.h (r.mod2.getLsbD 0) (r.mod2.getLsbD 1) (.of r.a))) [(.VGI, r.a)]]

/-- Tile, copy and stream codes, 0x160 to 0x16B (06 R143). -/
def tileCodes : List (Raw → Cand) := [
  fun r => if r.mod2.getLsbD 0 then cand (some (.tstateArm r.h (.of r.a) (.of r.b))) [(.T, r.a), (.VGI, r.b)]
    else cand (some (.tstate r.h (.of r.d) (.of r.a))) [(.VG, r.d), (.T, r.a)],
  fun r => cand (some (.copyG2t r.h r.cp (.of r.d) (.of r.a) (.of r.b) (.of r.c)))
    [(.T, r.d), (.G, r.a), (.GI, r.b), (.GI, r.c)],
  fun r => cand (some (.copyT2g r.h r.cp (.of r.d) (.of r.a) (.of r.b) (.of r.c)))
    [(.T, r.d), (.G, r.a), (.GI, r.b), (.GI, r.c)],
  fun r => cand (some (.copyG2g r.h r.cp (.of r.d) (.of r.a) (.of r.b) (.of r.c)))
    [(.G, r.d), (.G, r.a), (.GI, r.b), (.G, r.c)],
  fun r => cand (some (.copytG2t r.h r.cp (.of r.d) (.of r.a) (.of r.b) (Params.of r.pb)))
    [(.T, r.d), (.G, r.a), (.GI, r.b)],
  fun r => cand (some (.copytT2g r.h r.cp (.of r.d) (.of r.a) (.of r.b) (Params.of r.pb)))
    [(.T, r.d), (.G, r.a), (.GI, r.b)],
  fun r => cand (some (.copys r.h r.cp (.of r.d) (.of r.a) (.of r.b) (.of r.c) (r.mod2.extractLsb' 0 13)))
    [(.T, r.d), (.G, r.a), (.V, r.b), (.GI, r.c)],
  fun r => cand (some (.trel r.h (.of r.a))) [(.T, r.a)],
  fun r => cand (some (.hand r.h (.of r.d) (.of r.a) (.of r.b))) [(.P, r.d), (.T, r.a), (.VGI, r.b)],
  fun r => cand (some (.spset r.h (r.mod2.getLsbD 15) (r.mod2.extractLsb' 0 12) (.of r.d) (.of r.a) (.of r.b)
    (.of r.c))) [(.SP, r.d), (.T, r.a), (.VGI, r.b), (.VGI, r.c)],
  fun r => cand (some (.spget r.h (.of r.d) (.of r.a))) [(.VG, r.d), (.SP, r.a)],
  fun r => cand (some (.sprst r.h (.of r.d) (.of r.b))) [(.SP, r.d), (.VGI, r.b)]]

/-- Queue, synchronisation and system codes, 0x180 to 0x18E (06 R144, 10 R250). -/
def queueCodes : List (Raw → Cand) := [
  fun r => cand (some (.enq r.h (.of r.d) (.of r.a) (.of r.b) (.of r.c)))
    [(.P, r.d), (.V, r.a), (.VGI, r.b), (.V, r.c)],
  fun r => cand (some (.enqt r.h (.of r.d) (.of r.a) (.of r.b) (.of r.c)))
    [(.P, r.d), (.VG, r.a), (.VGI, r.b), (.V, r.c)],
  fun r => cand (some (.enqw r.h (.of r.d) (.of r.a) (.of r.b) (.of r.c)))
    [(.P, r.d), (.V, r.a), (.VGI, r.b), (.V, r.c)],
  fun r => cand (some (.enqwt r.h (.of r.d) (.of r.a) (.of r.b) (.of r.c)))
    [(.P, r.d), (.VG, r.a), (.VGI, r.b), (.V, r.c)],
  fun r => cand (some (.deq r.h (.of r.d) (.of r.b) (.of r.c))) [(.V, r.d), (.V, r.b), (.P, r.c)],
  fun r => cand (some (.qlen r.h (r.mod2.getLsbD 0) (.of r.d) (.of r.a))) [(.VG, r.d), (.VGI, r.a)],
  fun r => cand (some (.spawn r.h (.of r.d) (.of r.a) (.of r.b))) [(.P, r.d), (.V, r.a), (.VGI, r.b)],
  fun r => cand (some (.arm r.h (.of r.d) (.of r.a) (.of r.b) (.of r.c) (r.mod2.extractLsb' 8 4)
    (r.mod2.extractLsb' 0 4))) [(.P, r.d), (.GI, r.a), (.G, r.b), (.G, r.c)],
  fun r => cand (some (.bara r.h (r.mod2.getLsbD 0) (.of r.a) (.of r.b)))
    ((.B, r.a) :: (if r.mod2.getLsbD 0 then [(.GI, r.b)] else [])),
  fun r => cand (some (.barw r.h (.of r.a))) [(.B, r.a)],
  fun r => cand (some (.baraw r.h (.of r.a))) [(.B, r.a)],
  fun r => cand (some (.sleep r.h (.of r.a))) [(.GI, r.a)],
  fun r => cand (some (.sysc r.h (.of r.d) (.of r.a) (.of r.b) r.mod2)) [(.G, r.d), (.G, r.a), (.GI, r.b)],
  fun r => cand (some (.gload r.h (.of r.d) (.of r.a) (.of r.b))) [(.G, r.d), (.G, r.a), (.GI, r.b)],
  fun r => cand (some (.gstop r.h (r.mod2.getLsbD 0) (.of r.d) (.of r.a))) [(.G, r.d), (.GI, r.a)]]

/-- MOD[75:72], a matrix format (11 R285). -/
def Raw.mf (r : Raw) : Option MFmt := MFmt.of (r.mod.extractLsb' 8 4)

/-- Matrix codes, 0x1A0 to 0x1AA (06 R145, 11 R285). MLW with both NSW and DROP set is no word of the table: it fails decoding with
cause 0x02, a DESIGN CHOICE (notes/assumptions/116.md). -/
def matrixCodes : List (Raw → Cand) := [
  fun r => if r.mod2.getLsbD 1 then cand (some (.mlw r.h .drop)) []
    else cand (r.mf.map fun f => .mlw r.h (.load (.of r.d) f (r.mod2.getLsbD 0))) [(.T, r.d)],
  fun r => cand (some (.mswap r.h)) [],
  fun r => cand (r.mf.map fun f => .mst r.h f (.of r.d) (.of r.a) (.of r.b) (Params.of r.pb))
    [(.T, r.d), (.GIZ, r.a), (.GIZ, r.b)],
  fun r => cand (r.mf.map fun f => .mstz r.h f (.of r.d) (.of r.a) (.of r.b) (.of r.c))
    [(.T, r.d), (.GIZ, r.a), (.GIZ, r.b), (.G, r.c)],
  fun r => cand (r.mf.map fun f => .msts r.h f (r.mod2.getLsbD 0) (r.mod2.getLsbD 1) (.of r.a) (.of r.b) (.of r.c))
    ([(.V, r.a), (.GI, r.c)] ++ (if r.mod2.getLsbD 1 then [] else [(.V, r.b)])),
  fun r => cand (r.mf.map fun f => .msoft r.h f (.of r.d) (.of r.a) (.of r.b) (.of r.c))
    [(.T, r.d), (.GIZ, r.a), (.G, r.b), (.GI, r.c)],
  fun r => if r.mod2.getLsbD 4 then
      cand ((Rnd.of (r.mod.extractLsb' 9 3)).map fun m =>
        .mrd r.h (some m) (r.mod2.getLsbD 5) (r.mod2.extractLsb' 0 4) (.of r.d) (.of r.a) (.of r.c))
        [(.V, r.d), (.GI, r.a), (.GI, r.c)]
    else cand (some (.mrd r.h none (r.mod2.getLsbD 5) (r.mod2.extractLsb' 0 4) (.of r.d) (.of r.a) (.of r.c)))
        [(.V, r.d), (.GI, r.a)],
  fun r => cand ((Rnd.of (r.mod.extractLsb' 9 3)).bind fun m => (MFmt.of (r.mod2.extractLsb' 0 4)).map fun f =>
      .mrdt r.h m (r.mod.getLsbD 8) f (.of r.d) (.of r.a) (.of r.b) (.of r.c))
    [(.T, r.d), (.GIZ, r.a), (.G, r.b), (.GIZ, r.c)],
  fun r => cand (some (.mzero r.h (.of r.a) (.of r.b))) [(.GI, r.a), (.GI, r.b)],
  fun r => cand (some (.msrd r.h (r.mod2.getLsbD 0) (r.mod2.extractLsb' 1 6) (.of r.d) (.of r.a)))
    [(.V, r.d), (.GI, r.a)],
  fun r => cand (some (.mswr r.h (r.mod2.getLsbD 0) (r.mod2.extractLsb' 1 6) (.of r.a) (.of r.b)))
    [(.V, r.a), (.GI, r.b)]]

/-- The tandem word (05 R118); an unlisted entry is cause 0x01. -/
def tandemCode (r : Raw) : Option Cand :=
  let opa := r.op.extractLsb' 0 6
  let opb := r.mod.extractLsb' 6 6
  let x := r.low64
  if tandemListed opa opb then
    some (cand (some (.tandemWord r.h opa opb (r.mod.extractLsb' 3 3) (r.mod.extractLsb' 0 3)
      (x.extractLsb' 56 8) (x.extractLsb' 48 8) (x.extractLsb' 40 8) (x.extractLsb' 32 8)
      (x.extractLsb' 24 8) (x.extractLsb' 16 8) (x.extractLsb' 8 8) (x.extractLsb' 0 8))) [])
  else none

/-- The code space (06 R134): what the map reads the word as; none for an unassigned code or tandem entry. -/
def candidate (r : Raw) : Option Cand :=
  let op := r.op.toNat
  if op < 0x020 then controlCodes[op]?.map (· r)
  else if op < 0x050 then intTyped[(op - 0x020) / 4]?.map (· (EW.of (BitVec.ofNat 2 op)) r)
  else if op < 0x05C then intImm[op - 0x050]?.map (· r)
  else if op < 0x080 then intUntyped[op - 0x05C]?.map (· r)
  else if op < 0x0A0 then fltTyped[(op - 0x080) / 4]?.map (· (FTy.of (BitVec.ofNat 2 op)) r)
  else if op < 0x0E0 then fltOther[op - 0x0A0]?.map (· r)
  else if op < 0x100 then convertCodes[op - 0x0E0]?.map (· r)
  else if op < 0x120 then moveCodes[op - 0x100]?.map (· r)
  else if op < 0x148 then
    memTyped[(op - 0x120) / 10]?.map (· (MW.of ((op - 0x120) % 10 / 2)) (op % 2 == 1) r)
  else if op < 0x160 then memOther[op - 0x148]?.map (· r)
  else if op < 0x180 then tileCodes[op - 0x160]?.map (· r)
  else if op < 0x1A0 then queueCodes[op - 0x180]?.map (· r)
  else if op < 0x1C0 then matrixCodes[op - 0x1A0]?.map (· r)
  else tandemCode r

/-! ## The encoder -/

/-- A word with fields D, A, B, C, MOD and MOD2. -/
def mkRaw (op : Nat) (h : Hdr) (d a b c : BitVec 12 := 0) (mod : BitVec 12 := 0) (mod2 : BitVec 16 := 0)
    (pb : BitVec 128 := 0) : Raw :=
  { op := BitVec.ofNat 9 op, h := h, mod := mod, d := d, a := a, b := b, c := c, mod2 := mod2, pb := pb }

/-- An I-format word. -/
def mkI (op : Nat) (h : Hdr) (d a : BitVec 12) (imm : BitVec 32) (mod : BitVec 12 := 0) (lo : BitVec 8 := 0) :
    Raw :=
  mkRaw op h d a (imm.extractLsb' 20 12) (imm.extractLsb' 8 12) mod (imm.extractLsb' 0 8 ++ lo)

/-- An M-format word. -/
def mkM (op : Nat) (h : Hdr) (d a b : BitVec 12) (ofs : BitVec 28) (mod : BitVec 12 := 0) : Raw :=
  mkRaw op h d a b (ofs.extractLsb' 16 12) mod (ofs.extractLsb' 0 16)

/-- MOD of an integer word (07 R164, R169). -/
def intMod (sgn sat : Bool) (cc : BitVec 4 := 0) (any : Bool := false) (w : BitVec 2 := 0) : BitVec 12 :=
  BitVec.ofBool sgn ++ BitVec.ofBool sat ++ cc ++ BitVec.ofBool any ++ 0#3 ++ w

/-- A typed integer word with an R and an I form. -/
def mkInt (i : Nat) (iop : Nat) (h : Hdr) (w : EW) (sgn sat : Bool) (cc : BitVec 4) (any : Bool) (d a : Opnd)
    (b : Src2) : Raw :=
  match b with
  | .r b => mkRaw (0x020 + 4 * i + w.code.toNat) h d.code a.code b.code 0 (intMod sgn sat cc any)
  | .i imm => mkI iop h d.code a.code imm (intMod sgn sat cc any w.code)

/-- An untyped integer word with an R and an I form, two sources. -/
def mkInt2 (op iop : Nat) (h : Hdr) (sgn : Bool) (lo : BitVec 8) (d a : Opnd) (b : Src2) : Raw :=
  match b with
  | .r b => mkRaw op h d.code a.code b.code 0 (intMod sgn false) (0#8 ++ lo)
  | .i imm => mkI iop h d.code a.code imm (intMod sgn false) lo

/-- An untyped integer word with an R and an I form, three sources. -/
def mkInt3 (op iop : Nat) (h : Hdr) (lo : BitVec 8) (d a : Opnd) (bc : Src3) : Raw :=
  match bc with
  | .r b c => mkRaw op h d.code a.code b.code c.code 0 (0#8 ++ lo)
  | .i imm => mkI iop h d.code a.code imm 0 lo

/-- A floating word with the type in OP. -/
def mkFlt (i : Nat) (h : Hdr) (ty : FTy) (m : FMod) (d a b c : BitVec 12) (mod2 : BitVec 16 := 0) : Raw :=
  mkRaw (0x080 + 4 * i + ty.code.toNat) h d a b c m.code mod2

/-- MOD2[15:14] TY. -/
def tyMod2 (ty : FTy) (lo : BitVec 14 := 0) : BitVec 16 := ty.code ++ lo

/-- MOD2 of a conversion. -/
def cvtMod2 (td ts k : BitVec 4) (lo : BitVec 4 := 0) : BitVec 16 := td ++ ts ++ k ++ lo

/-- MOD of a memory word (09 R215). -/
def memMod (ord : Ord) (scope : Scope) (cp : Cp) (b4 : Bool := false) (opc : BitVec 4 := 0) : BitVec 12 :=
  ord.code ++ scope.code ++ cp.code ++ BitVec.ofBool b4 ++ opc

/-- A load or store. -/
def mkLs (base : Nat) (h : Hdr) (w : MW) (d : Opnd) (ad : Addr) (mod : BitVec 12) : Raw :=
  match ad with
  | .o a ofs => mkM (base + 2 * w.code) h d.code a.code 0 ofs mod
  | .x a b s => mkM (base + 2 * w.code + 1) h d.code a.code b.code (0#25 ++ s) mod

def b2n (b : Bool) : Nat := if b then 1 else 0

def AFTy.num : AFTy → Nat
  | .f32 => 0
  | .f64 => 1
  | .bf16x2 => 2

/-- The number of a special function's code by its type: F64, F32, F16 (06 R140). -/
def sfu3 (ty : FTy) : Nat := match ty with | .f64 => 0 | .f32 => 1 | _ => 2
def sfu2 (ty : FTy) : Nat := match ty with | .f32 => 0 | _ => 1

/-- The word of an instruction, written from the encoding tables of 05 to 11. An event has no word; it answers a
NOP, and `Instr.isWord` tells it from one. FOLD.ADD has MOD2[5] MAX = 0, and with MAX = 1 it is no word but cause 0x02: a DESIGN CHOICE,
for 08 R201 lists MAX for FOLD.ADD too and says of it nothing there (notes/assumptions/134.md). -/
def encRaw : Instr → Raw
  | .nop h => mkRaw 0x000 h
  | .bra h ofs => mkI 0x001 h 0 0 ofs
  | .brx h a => mkRaw 0x002 h (a := a.code)
  | .call h d ofs => mkI 0x003 h d.code 0 ofs
  | .callx h d a => mkRaw 0x004 h (d := d.code) (a := a.code)
  | .ret h a => mkRaw 0x005 h (a := a.code)
  | .join h => mkRaw 0x006 h
  | .yield h => mkRaw 0x007 h
  | .exit h => mkRaw 0x008 h
  | .region h tag => mkI 0x009 h 0 0 (0#16 ++ tag)
  | .trap h code => mkI 0x00A h 0 0 (0#16 ++ code)
  | .rtt h skip => mkRaw 0x00B h (mod := 0#11 ++ BitVec.ofBool skip)
  | .brk h code => mkI 0x00C h 0 0 (0#16 ++ code)
  | .iadd h w sgn sat d a b => mkInt 0 0x050 h w sgn sat 0 false d a b
  | .isub h w sgn sat d a b => mkInt 1 0 h w sgn sat 0 false d a (.r b)
  | .imul h w sgn sat d a b => mkInt 2 0x051 h w sgn sat 0 false d a b
  | .imulh h w sgn d a b => mkInt 3 0 h w sgn false 0 false d a (.r b)
  | .imad h w sgn sat d a bc =>
    match bc with
    | .r b c => mkRaw (0x030 + w.code.toNat) h d.code a.code b.code c.code (intMod sgn sat)
    | .i imm => mkI 0x052 h d.code a.code imm (intMod sgn sat 0 false w.code)
  | .imin h w sgn d a b => mkInt 5 0 h w sgn false 0 false d a (.r b)
  | .imax h w sgn d a b => mkInt 6 0 h w sgn false 0 false d a (.r b)
  | .iabs h w sat d a => mkRaw (0x03C + w.code.toNat) h d.code a.code 0 0 (intMod true sat)
  | .icmp h w sgn cc any d a b => mkInt 8 0x053 h w sgn false cc.code any d a b
  | .shl h w sgn d a b => mkInt 9 0x054 h w sgn false 0 false d a b
  | .shr h w sgn d a b => mkInt 10 0x055 h w sgn false 0 false d a b
  | .shra h w sgn d a b => mkInt 11 0x056 h w sgn false 0 false d a b
  | .isad h sgn d a b c => mkRaw 0x05C h d.code a.code b.code c.code (intMod sgn false)
  | .blut h tbl d a bc => mkInt3 0x05D 0x057 h tbl d a bc
  | .rot h d a b => mkInt2 0x05E 0x058 h false 0 d a b
  | .funnel h d a b c => mkRaw 0x05F h d.code a.code b.code c.code
  | .popc h d a => mkRaw 0x060 h d.code a.code
  | .clz h d a => mkRaw 0x061 h d.code a.code
  | .ctz h d a => mkRaw 0x062 h d.code a.code
  | .brev h d a => mkRaw 0x063 h d.code a.code
  | .bfx h sgn d a b => mkInt2 0x064 0x059 h sgn 0 d a b
  | .bfi h d a bc => mkInt3 0x065 0x05A h 0 d a bc
  | .isel h d a b p => mkRaw 0x066 h d.code a.code b.code p.code
  | .lea h sh d a b => mkInt2 0x067 0x05B h false (0#5 ++ sh) d a b
  | .iaddc h d a b pin pout => mkRaw 0x068 h d.code a.code b.code pin.code 0 (0#12 ++ pout)
  | .plut h tbl pd pa pb pc => mkRaw 0x069 h pd.code pa.code pb.code pc.code 0 (0#8 ++ tbl)
  | .idot4 h xs ys sat d a b c =>
    mkRaw (0x06A + 2 * b2n (!xs) + b2n (!ys)) h d.code a.code b.code c.code (intMod false sat)
  | .idot2 h xs ys sat d a b c =>
    mkRaw (0x06E + 2 * b2n (!xs) + b2n (!ys)) h d.code a.code b.code c.code (intMod false sat)
  | .fadd h ty m d a b =>
    match b with
    | .r b => mkFlt 0 h ty m d.code a.code b.code 0
    | .i imm => mkI (0x0A0 + ty.code.toNat) h d.code a.code imm m.code
  | .fmul h ty m d a b =>
    match b with
    | .r b => mkFlt 1 h ty m d.code a.code b.code 0
    | .i imm => mkI (0x0A2 + ty.code.toNat) h d.code a.code imm m.code
  | .ffma h ty m d a bc =>
    match bc with
    | .r b c => mkFlt 2 h ty m d.code a.code b.code c.code
    | .i imm => mkI (0x0A4 + ty.code.toNat) h d.code a.code imm m.code
  | .fmin h ty m d a b => mkFlt 3 h ty m d.code a.code b.code 0
  | .fmax h ty m d a b => mkFlt 4 h ty m d.code a.code b.code 0
  | .fminm h ty m d a b => mkFlt 5 h ty m d.code a.code b.code 0
  | .fmaxm h ty m d a b => mkFlt 6 h ty m d.code a.code b.code 0
  | .fcmp h ty m cc any d a b =>
    mkFlt 7 h ty m d.code a.code b.code 0 (0#11 ++ BitVec.ofBool any ++ cc.code)
  | .fclass h ty any mask d a =>
    mkRaw 0x0A6 h d.code a.code 0 0 0 (tyMod2 ty (0#3 ++ BitVec.ofBool any ++ mask))
  | .fdot2 h bf m d a b c =>
    mkRaw 0x0A7 h d.code a.code b.code c.code m.code (0#1 ++ BitVec.ofBool bf ++ 0#14)
  | .fdot4 h ta tb m d a b c =>
    mkRaw 0x0A8 h d.code a.code b.code c.code m.code (BitVec.ofBool ta ++ BitVec.ofBool tb ++ 0#14)
  | .frnd h ty m d a => mkRaw 0x0A9 h d.code a.code 0 0 m.code (tyMod2 ty)
  | .fscale h ty m d a b => mkRaw 0x0AA h d.code a.code b.code 0 m.code (tyMod2 ty)
  | .fgetexp h ty m d a => mkRaw 0x0AB h d.code a.code 0 0 m.code (tyMod2 ty)
  | .fgetmant h ty m d a => mkRaw 0x0AC h d.code a.code 0 0 m.code (tyMod2 ty)
  | .ferr h ty m mul d a b => mkRaw 0x0AD h d.code a.code b.code 0 m.code (tyMod2 ty (0#13 ++ BitVec.ofBool mul))
  | .cvtFf h td ts m k d a => mkRaw 0x0E0 h d.code a.code 0 0 m.code (cvtMod2 td.code ts.code k)
  | .cvtFi h td ts m k d a => mkRaw 0x0E1 h d.code a.code 0 0 m.code (cvtMod2 td.code ts.code k)
  | .cvtIf h td ts m k d a => mkRaw 0x0E2 h d.code a.code 0 0 m.code (cvtMod2 td.code ts.code k)
  | .cvtIi h td ts m k d a => mkRaw 0x0E3 h d.code a.code 0 0 m.code (cvtMod2 td.code ts.code k)
  | .cvts h td ts m k d a b => mkRaw 0x0E4 h d.code a.code b.code 0 m.code (cvtMod2 td.code ts.code k)
  | .cvtef h td m k scl d a b c =>
    mkRaw 0x0E5 h d.code a.code b.code c.code m.code (cvtMod2 td.code 1 k (0#3 ++ BitVec.ofBool scl))
  | .cvtsr h td ts m k d a b => mkRaw 0x0E6 h d.code a.code b.code 0 m.code (cvtMod2 td.code ts.code k)
  | .packB6 h k d a b => mkRaw 0x0E7 h d.code a.code b.code 0 0 (0#10 ++ k ++ 0#4)
  | .unpkB6 h k d a b => mkRaw 0x0E8 h d.code a.code b.code 0 0 (0#10 ++ k ++ 0#4)
  | .packTri h k d a b => mkRaw 0x0E7 h d.code a.code b.code 0 0 (0#10 ++ k ++ 1#4)
  | .unpkTri h k d a => mkRaw 0x0E8 h d.code a.code 0 0 0 (0#10 ++ k ++ 1#4)
  | .bscl h k d a b => mkRaw 0x0E9 h d.code a.code b.code 0 0 (0#8 ++ k ++ 0#4)
  | .rcp h ty m d a => mkRaw (0x0EA + sfu3 ty) h d.code a.code 0 0 m.code
  | .rsq h ty m d a => mkRaw (0x0ED + sfu3 ty) h d.code a.code 0 0 m.code
  | .sqrt h ty m d a => mkRaw (0x0F0 + sfu3 ty) h d.code a.code 0 0 m.code
  | .exp2 h ty m d a => mkRaw (0x0F3 + sfu2 ty) h d.code a.code 0 0 m.code
  | .log2 h ty m d a => mkRaw (0x0F5 + sfu2 ty) h d.code a.code 0 0 m.code
  | .sin h ty m d a => mkRaw (0x0F7 + sfu2 ty) h d.code a.code 0 0 m.code
  | .cos h ty m d a => mkRaw (0x0F9 + sfu2 ty) h d.code a.code 0 0 m.code
  | .tanh h ty m d a => mkRaw (0x0FB + sfu2 ty) h d.code a.code 0 0 m.code
  | .mov h d a => mkRaw 0x100 h d.code a.code
  | .movi h zx d imm => mkI 0x101 h d.code 0 imm 0 (0#7 ++ BitVec.ofBool zx)
  | .movih h d imm => mkI 0x102 h d.code 0 imm
  | .lxchIdx h ew lw d a b p => mkRaw 0x103 h d.code a.code b.code p.code 0 (0#10 ++ ew.code ++ 0#1 ++ lw)
  | .lxchUp h lw d a b p => mkRaw 0x104 h d.code a.code b.code p.code 0 (0#13 ++ lw)
  | .lxchDown h lw d a b p => mkRaw 0x105 h d.code a.code b.code p.code 0 (0#13 ++ lw)
  | .lxchXor h lw d a b p => mkRaw 0x106 h d.code a.code b.code p.code 0 (0#13 ++ lw)
  | .pollAll h neg d a => mkRaw 0x107 h d.code a.code 0 0 0 (0#15 ++ BitVec.ofBool neg)
  | .pollAny h neg d a => mkRaw 0x108 h d.code a.code 0 0 0 (0#15 ++ BitVec.ofBool neg)
  | .pollMask h neg d a => mkRaw 0x109 h d.code a.code 0 0 0 (0#15 ++ BitVec.ofBool neg)
  | .foldAdd h ty rnd sat ftz d a =>
    mkRaw 0x10A h d.code a.code 0 0 (rnd.code ++ BitVec.ofBool sat ++ BitVec.ofBool ftz ++ 0#7) (0#11 ++ ty.code)
  | .foldMinmax h ty isMax ftz d a =>
    mkRaw 0x10B h d.code a.code 0 0 (0#4 ++ BitVec.ofBool ftz ++ 0#7) (0#10 ++ BitVec.ofBool isMax ++ ty.code)
  | .bcast h d a b => mkRaw 0x10C h d.code a.code b.code
  | .selem h ins ew d a b => mkRaw 0x10D h d.code a.code b.code 0 0 (0#13 ++ BitVec.ofBool ins ++ ew.code)
  | .srd h d a => mkRaw 0x10E h d.code a.code
  | .swr h d a => mkRaw 0x10F h d.code a.code
  | .lpr h snap d => mkRaw 0x110 h d.code 0 0 0 0 (0#15 ++ BitVec.ofBool snap)
  | .lpw h snap a => mkRaw 0x111 h 0 a.code 0 0 0 (0#15 ++ BitVec.ofBool snap)
  | .ldg h w sx ord scope cp d ad => mkLs 0x120 h w d ad (memMod ord scope cp sx)
  | .stg h w ord scope cp d ad => mkLs 0x12A h w d ad (memMod ord scope cp)
  | .lds h w sx d ad => mkLs 0x134 h w d ad (memMod .plain .grp .dflt sx)
  | .sts h w d ad => mkLs 0x13E h w d ad 0
  | .ldc h w sx cp d a ofs => mkM (0x148 + w.code) h d.code a.code 0 ofs (memMod .plain .grp cp sx)
  | .atom h w64 op ord scope cp d a ofs b =>
    mkM (0x14D + b2n w64) h d.code a.code b.code ofs (memMod ord scope cp false op.code)
  | .atomc h w64 ord scope cp d a ofs b =>
    mkM (0x14F + b2n w64) h d.code a.code b.code ofs (memMod ord scope cp)
  | .atomf h ty op nr ord scope cp d a ofs b =>
    mkM (0x151 + ty.num) h d.code a.code b.code ofs (memMod ord scope cp nr op.code)
  | .atoms h w64 op d a ofs b =>
    mkM (0x154 + b2n w64) h d.code a.code b.code ofs (memMod .plain .grp .dflt false op.code)
  | .red h w64 op ord scope cp a ofs b =>
    mkM (0x156 + b2n w64) h 0 a.code b.code ofs (memMod ord scope cp false op.code)
  | .fence h scope async => mkRaw 0x158 h 0 0 0 0 (memMod .plain scope .dflt async)
  | .flush h a ofs b => mkM 0x159 h 0 a.code b.code ofs
  | .inval h scope a ofs b => mkM 0x15A h 0 a.code b.code ofs (memMod .plain scope .dflt)
  | .pref h cp a ofs b => mkM 0x15B h 0 a.code b.code ofs (memMod .plain .grp cp)
  | .renew h a ofs => mkM 0x15C h 0 a.code 0 ofs
  | .tsadv h l s a => mkRaw 0x15D h 0 a.code 0 0 0 (0#14 ++ BitVec.ofBool s ++ BitVec.ofBool l)
  | .tstate h d t => mkRaw 0x160 h d.code t.code
  | .tstateArm h t b => mkRaw 0x160 h 0 t.code b.code 0 0 1
  | .copyG2t h cp t a b c => mkRaw 0x161 h t.code a.code b.code c.code (memMod .plain .grp cp)
  | .copyT2g h cp t a b c => mkRaw 0x162 h t.code a.code b.code c.code (memMod .plain .grp cp)
  | .copyG2g h cp d a b c => mkRaw 0x163 h d.code a.code b.code c.code (memMod .plain .grp cp)
  | .copytG2t h cp t a b pb => mkRaw 0x164 h t.code a.code b.code 0 (memMod .plain .grp cp) 0 pb.code
  | .copytT2g h cp t a b pb => mkRaw 0x165 h t.code a.code b.code 0 (memMod .plain .grp cp) 0 pb.code
  | .copys h cp t a b c rb => mkRaw 0x166 h t.code a.code b.code c.code (memMod .plain .grp cp) (0#3 ++ rb)
  | .trel h t => mkRaw 0x167 h 0 t.code
  | .hand h p t b => mkRaw 0x168 h p.code t.code b.code
  | .spset h wr stride port t b c =>
    mkRaw 0x169 h port.code t.code b.code c.code 0 (BitVec.ofBool wr ++ 0#3 ++ stride)
  | .spget h d port => mkRaw 0x16A h d.code port.code
  | .sprst h port b => mkRaw 0x16B h port.code 0 b.code
  | .enq h p va q st => mkRaw 0x180 h p.code va.code q.code st.code
  | .enqt h p a q st => mkRaw 0x181 h p.code a.code q.code st.code
  | .enqw h p va q st => mkRaw 0x182 h p.code va.code q.code st.code
  | .enqwt h p a q st => mkRaw 0x183 h p.code a.code q.code st.code
  | .deq h vd vs p => mkRaw 0x184 h vd.code 0 vs.code p.code
  | .qlen h exact d q => mkRaw 0x185 h d.code q.code 0 0 0 (0#15 ++ BitVec.ofBool exact)
  | .spawn h p va q => mkRaw 0x186 h p.code va.code q.code
  | .arm h p q tag base lcnt lslot =>
    mkRaw 0x187 h p.code q.code tag.code base.code 0 (0#4 ++ lcnt ++ 0#4 ++ lslot)
  | .bara h set b m => mkRaw 0x188 h 0 b.code m.code 0 0 (0#15 ++ BitVec.ofBool set)
  | .barw h b => mkRaw 0x189 h 0 b.code
  | .baraw h b => mkRaw 0x18A h 0 b.code
  | .sleep h a => mkRaw 0x18B h 0 a.code
  | .sysc h d a b code => mkRaw 0x18C h d.code a.code b.code 0 0 code
  | .gload h d a b => mkRaw 0x18D h d.code a.code b.code
  | .gstop h abort d a => mkRaw 0x18E h d.code a.code 0 0 0 (0#15 ++ BitVec.ofBool abort)
  | .mlw h arg =>
    match arg with
    | .drop => mkRaw 0x1A0 h 0 0 0 0 0 2
    | .load t f nsw => mkRaw 0x1A0 h t.code 0 0 0 (f.code ++ 0#8) (0#15 ++ BitVec.ofBool nsw)
  | .mswap h => mkRaw 0x1A1 h
  | .mst h f t a b pb => mkRaw 0x1A2 h t.code a.code b.code 0 (f.code ++ 0#8) 0 pb.code
  | .mstz h f t a b c => mkRaw 0x1A3 h t.code a.code b.code c.code (f.code ++ 0#8)
  | .msts h f z nsa a b c =>
    mkRaw 0x1A4 h 0 a.code b.code c.code (f.code ++ 0#8) (0#14 ++ BitVec.ofBool nsa ++ BitVec.ofBool z)
  | .msoft h f t a b c => mkRaw 0x1A5 h t.code a.code b.code c.code (f.code ++ 0#8)
  | .mrd h div zr n d a c =>
    mkRaw 0x1A6 h d.code a.code 0 c.code
      (match div with | some m => m.code ++ 0#9 | none => 0)
      (0#10 ++ BitVec.ofBool zr ++ BitVec.ofBool div.isSome ++ n)
  | .mrdt h rnd sat f t a b c =>
    mkRaw 0x1A7 h t.code a.code b.code c.code (rnd.code ++ BitVec.ofBool sat ++ 0#8) (0#12 ++ f.code)
  | .mzero h a b => mkRaw 0x1A8 h 0 a.code b.code
  | .msrd h sum n d a => mkRaw 0x1A9 h d.code a.code 0 0 0 (0#9 ++ n ++ BitVec.ofBool sum)
  | .mswr h sum n a b => mkRaw 0x1AA h 0 a.code b.code 0 0 (0#9 ++ n ++ BitVec.ofBool sum)
  | .tandemWord h opa opb ma mb da aa ba ca db ab bb cb =>
    let x : BitVec 64 := da ++ aa ++ ba ++ ca ++ db ++ ab ++ bb ++ cb
    { op := 7#3 ++ opa, h := h, mod := opb ++ ma ++ mb, d := x.extractLsb' 52 12, a := x.extractLsb' 40 12,
      b := x.extractLsb' 28 12, c := x.extractLsb' 16 12, mod2 := x.extractLsb' 0 16, pb := 0 }
  | _ => mkRaw 0x000 { pn := false, pg := 15, s := false, y := false, k := 0, e := 0 }

/-! ## Decoding -/

/-- Why a word is no instruction: the cause of the first check of R126 that fails. -/
inductive DErr where
  | illegal    -- cause 0x01: step 1
  | reserved   -- cause 0x02: step 2
  | tandem     -- cause 0x04: step 3
  deriving DecidableEq, Repr

/-- The cause number (20 R449). -/
def DErr.cause : DErr → Nat
  | .illegal => 0x01
  | .reserved => 0x02
  | .tandem => 0x04

/-- A tandem word that passes steps 1 and 2 and breaks rule 1, 2 or 3 of R122. -/
def tandemBroken : Instr → Bool
  | .tandemWord h opa opb ma mb da aa ba ca db ab bb cb =>
    h.ok false && (tandemA opa).1.ok ma && (tandemB opb).1.ok mb &&
      tandemUnused (tandemA opa).2 ba ca && tandemUnused (tandemB opb).2 bb cb &&
      !tandemRules da db (tandemSrcs (tandemA opa).2 aa ba ca ++ tandemSrcs (tandemB opb).2 ab bb cb)
  | _ => false

/-- Steps 1 to 3 of R126. Step 2 says that every bit the instruction does not assign is zero: the word is then the
very word that encodes it. -/
def decodeRaw (r : Raw) : Except DErr Instr :=
  match candidate r with
  | none => .error .illegal
  | some c =>
    if c.fs.any (fun p => classBad p.1 p.2) then .error .illegal
    else
      match c.ins with
      | none => .error .reserved
      | some i =>
        if encRaw i = r then
          if i.wf then .ok i else if tandemBroken i then .error .tandem else .error .reserved
        else .error .reserved

/-- Bytes of a little-endian value (00 R3), lowest address first. -/
def bytesOf (w : Nat) : Nat → List Byte
  | 0 => []
  | n + 1 => BitVec.ofNat 8 w :: bytesOf (w / 256) n

/-- The little-endian value of bytes (00 R3). -/
def leNat : List Byte → Nat
  | [] => 0
  | b :: bs => b.toNat + 256 * leNat bs

/-- The length of an instruction by its code (05 R123): 28 with a parameter block, else 12. -/
def opLen (op : BitVec 9) : Nat := if longOp op then 28 else 12

/-- The fields of the bytes at an instruction's address; the block counts only behind a word that has one. -/
def Raw.ofBytes (bs : List Byte) : Raw :=
  let w := BitVec.ofNat 96 (leNat (bs.take 12))
  let pb := if longOp (w.extractLsb' 87 9) then BitVec.ofNat 128 (leNat ((bs.drop 12).take 16)) else 0
  Raw.unpack w pb

/-- Decode the instruction whose bytes stand at the head of the list. -/
def decodeBytes (bs : List Byte) : Except DErr Instr := decodeRaw (Raw.ofBytes bs)

/-- The bytes of an instruction. -/
def encBytes (i : Instr) : List Byte :=
  let r := encRaw i
  bytesOf r.pack.toNat 12 ++ (if longOp r.op then bytesOf r.pb.toNat 16 else [])

/-- The length of an instruction in bytes. -/
def Instr.len (i : Instr) : Nat := opLen (encRaw i).op

/-- The host's question: the instruction whose bits are `w`, of which the table gives `nbits`. -/
def decodeTableWord (_nbits w : Nat) : Option Instr :=
  match decodeBytes (bytesOf w 28) with
  | .ok i => some i
  | .error _ => none

end Sys2Proof
end

