-- ==== Sys2Proof/Machine/State.lean ====
section
/-! DEFINITION. The state of the module: everything the spec gives it, as plain data, and its value after reset. -/

namespace Sys2Proof.Machine

/-- Why the machine stops. -/
inductive Fault where
  /-- Raised by `step` alone, where the spec ends the machine's issue for good: after a fatal machine check (20 R458) or
  an ended start-up (18 R439), with no register access and no reset waiting. Safe: the spec gives no further step. -/
  | halted
  deriving DecidableEq, Repr

/-- Why an instruction has no meaning here. -/
inductive Refusal where
  /-- Raised by the arms of Dispatch.lean for an instruction that is not modelled. Safe: nothing is claimed of it. -/
  | notModelled (mnemonic : String)
  deriving DecidableEq, Repr

/-! ## Lanes and groups -/

/-- The state of a lane (03 R55). -/
inductive LSt where
  | live | parked | yielded | exited | absent
  deriving DecidableEq, Repr

/-- A lane's entry of LP (03 R54). -/
structure Lp where
  st : LSt
  depth : BitVec 12
  pc : Pc
  deriving DecidableEq, Repr

/-- The entry of a lane that is not listed. -/
def Lp.none : Lp where
  st := .absent
  depth := 0
  pc := 0

/-- A stream port's binding and position (09 R245, R246); count 0 is unbound. -/
structure Port where
  tile : Nat
  ofs : Nat
  count : Nat
  stride : Nat
  wr : Bool
  pos : Nat
  deriving DecidableEq, Repr

def Port.none : Port where
  tile := 0
  ofs := 0
  count := 0
  stride := 0
  wr := false
  pos := 0

/-- One part of a store: the bytes of one lane that go to one home (09 R213, R220). -/
structure SbPart where
  lane : Nat
  va : Nat
  bytes : List Byte
  acked : Bool
  far : Bool := false            -- peer or multicast aperture: a .DOM acknowledgement (13 R334)
  ext : Option (Nat × Nat) := none -- the extent of a miss at its home (12 R307)
  deriving DecidableEq, Repr

/-- An entry of the group's store buffer (09 R220), held until it is committed. -/
structure SbEntry where
  id : Nat
  pc : Nat
  committed : Bool
  cp : Cp
  parts : List SbPart
  dropped : Bool := false        -- a part was dropped: one cause 0x13 for the entry (22 R483)
  inOrder : Bool := false        -- the parts of one lane leave one after the other (13 R331)
  deriving DecidableEq, Repr

/-- What an outstanding result writes when it returns (03 R60). -/
inductive OutKind where
  | load (n : Nat) (sx : Bool)   -- LDG, LDS, LDC of n bytes
  | atom                         -- the old value
  | deq                          -- address, sequence number, predicate
  | qlen
  | mrd (n : Nat)                -- n registers
  deriving DecidableEq, Repr

/-- An outstanding result: its destination, the lanes that still wait, and what has come so far. -/
structure Out where
  id : Nat
  pc : Nat
  kind : OutKind
  dst : Opnd
  dst2 : Opnd
  pred : BitVec 4
  lanes : Mask
  gl : Nat                       -- the lane whose value a G destination takes (05 R105)
  left : SMap Nat                -- parts not yet returned: their addresses plus 1, at 24 · lane + offset
  got : SMap Byte                -- bytes returned, at 24 · lane + byte
  own : List Nat := []           -- bytes taken from the group's own stores (09 R221)
  cancel : Mask                  -- lanes whose result was cancelled (20 R460)
  deriving DecidableEq, Repr

/-- An asynchronous cause that waits for the group's next issue (20 R454, 22 R484). -/
structure Async where
  cause : Nat
  addr : Word
  info : Word
  late : Bool := false               -- it arose while the group was in handler mode (20 R452, 22 R484)
  deriving DecidableEq, Repr

/-- A lane of an access that failed: the access's number, the lane, the cause with its TRAPADDR and TRAPINFO. -/
structure Fail where
  id : Nat
  lane : Nat
  cause : Nat
  addr : Nat
  info : Nat
  deriving DecidableEq, Repr

/-- A trap to be taken: its cause, the lanes it names, TRAPADDR, TRAPINFO, TRAPPC (20 R449) and the length that
RTT.SKIP adds (07 R163). -/
structure TrapRec where
  cause : Nat
  async : Bool := false
  lanes : Mask
  addr : Word := 0
  info : Word := 0
  pc : Pc
  skipLen : Nat := 12
  deriving DecidableEq, Repr

/-- The issue in hand: the group, the word's address and bits, and the issue set (03 R58). -/
structure Issue where
  who : Who
  pc : Pc
  set : Mask
  act : Mask                         -- the lanes of it whose guard is true (03 R59)
  held : Mask                        -- the lanes held in this cycle (03 R58)
  hi : BitVec 32                     -- bits [95:64] of the word, for TRAPINFO (20 R450)
  len : Nat                          -- 12 or 28
  raw : Nat := 0                     -- the word's bytes: a word under way is not fetched again
  deriving DecidableEq, Repr

/-- What keeps a group from issuing besides 03 R58 and R60. -/
inductive Wait where
  | none
  | retry (cycle : Nat)      -- the word at the head waits for a condition; it is tried again in a later cycle
  | probe (left : Nat)       -- attribute probes in flight (09 R212)
  | till (cycle : Nat)       -- SLEEP (10 R266)
  | acq (id : Nat) (sc : Scope) -- an access that must be answered first; then the clocks are set to their maximum (13 R333)
  | answer                   -- a queue, the host driver, admission, a stop or the matrix array
  | trap (t : TrapRec)       -- a trap whose entry waits for outstanding results (20 R447 step 2)
  deriving DecidableEq, Repr

/-- A group (02 R28). -/
structure Group where
  lp : SMap Lp := []                 -- 03 R54, by lane
  wset : SMap Mask := []             -- wait sets of yielded lanes, 03 R62
  snap : SMap Lp := []               -- REGION snapshot, 07 R160
  regionTag : BitVec 16 := 0         -- 20 R457 RTAG
  v : SMap Word := []                -- V registers, at 32 · register + lane, 05 R103
  g : SMap Word := []                -- G registers
  p : SMap Mask := []                -- P0 to P14
  fsr : BitVec 7 := 0                -- 04 R94
  mfl : BitVec 7 := 0                -- flags of its interrupted matrix instruction, 11 R283
  shMfl : BitVec 7 := 0              -- the program's, while the group is in its handler
  fcr : BitVec 6 := 0                -- 04 R95
  shV : SMap Word := []              -- the shadow, 20 R447
  shG : SMap Word := []
  shP : SMap Mask := []
  shFsr : BitVec 7 := 0
  shFcr : BitVec 6 := 0
  trapLp : SMap Lp := []             -- 20 R447
  handler : Bool := false            -- handler mode
  skipLen : Nat := 12                -- 07 R163
  suppress : SMap Nat := []          -- 22 R490, by lane: the address of the word, plus 1
  tcause : Word := 0                 -- 20 R449
  tpc : Word := 0
  taddr : Word := 0
  tlanes : Word := 0
  tinfo : Word := 0
  ports : SMap Port := []            -- 09 R245
  portSnap : SMap Port := []         -- 09 R248
  sb : List SbEntry := []            -- 09 R220, oldest first
  outs : List Out := []              -- 03 R60
  reds : List (Nat × Mask) := []     -- atomics without a result that are not answered, by number and lanes
  atomics : List (Nat × Nat × Nat) := [] -- its atomics younger than a store it still holds: number, address, bytes (13 R330)
  later : List Instr := []           -- parts of an ordered access that leave once the part before them is answered (13 R331)
  async : List Async := []           -- 20 R454
  fails : List Fail := []            -- failed lanes of accesses that are not wholly answered (16 R398, 22 R483)
  failMark : Bool := false           -- 22 R492
  sysWait : Bool := false            -- a .SYS acknowledgement waits for a Zenvex Link that retrains (23 R501, R506)
  latchA : Option Opnd := none       -- 05 R112
  latchB : Option Opnd := none
  wait : Wait := .none
  phase : Nat := 0                   -- the phase of the word at the head
  head : Option Issue := none        -- its issue, while a phase of it is under way
  copyWt : Nat := 0                  -- the greatest WT of the group's completed copies, 13 R339
  probed : List Nat := []            -- pages probed for the word at the head
  answers : SMap Nat := []           -- answers that came for the word at the head
  recs : SMap Byte := []             -- the scratchpad records that it read at its gate, at 256 · lane + byte, 10 R252
  lastIssue : Nat := 0               -- 03 R72
  part : Nat := 0                    -- 02 R37
  slot : Nat := 0
  frozen : Bool := false             -- 20 R452
  deriving DecidableEq, Repr

/-! ## Crews -/

/-- A crew's shape (02 R35): tiles by size in bytes. -/
structure Shape where
  groups : Nat := 1
  vregs : Nat := 8
  gregs : Nat := 0
  barriers : Nat := 0
  tiles : List Nat := []
  acc : Nat := 0
  deriving DecidableEq, Repr

/-- Tile states (09 R234). -/
inductive TSt where
  | empty | filling | ready | draining
  deriving DecidableEq, Repr

/-- A tile-table entry (09 R234, R235). `fills` and `reads` count the copies and array accesses that fill and read it. -/
structure Tile where
  st : TSt := .empty
  owner : Nat := 0
  size : Nat := 0
  fills : Nat := 0
  reads : Nat := 0
  armed : Bool := false
  key : BitVec 16 := 0
  order : Nat := 0
  handed : Bool := false             -- handed away (09 R237)
  deriving DecidableEq, Repr

/-- A barrier (10 R263). -/
structure Bar where
  mask : BitVec 16 := 0
  phase : BitVec 32 := 0
  arr : BitVec 16 := 0
  tgt : SMap (BitVec 32) := []
  deriving DecidableEq, Repr

/-- The life of a crew (02 R40). A crew that is CLAIMING does not exist yet: its reservation is `Core.resv`. LOADING and RESUMING
begin and end in the event that launches or resumes the crew. A crew that is
stopping issues nothing more and is saved once everything its save waits for is settled (02 R48, 03 R73). One that is gone is a saved
one whose context is discarded, while its committed stores and its copies in flight complete (10 R269). -/
inductive CrewSt where
  | running | stopping | saved | held | closing | frozen | gone
  deriving DecidableEq, Repr

/-- One contiguous run of an asynchronous copy: a row (09 R241, R242). -/
structure Run where
  src : Nat
  dst : Nat
  n : Nat
  deriving DecidableEq, Repr

/-- The kinds of copies (09 R239); a HAND in flight is one too (R238). -/
inductive CopyKind where
  | g2t | t2g | g2g | hand
  deriving DecidableEq, Repr

/-- A copy or HAND in flight (09 R238 to R244). -/
structure Copy where
  id : Nat
  kind : CopyKind
  grp : Nat
  pc : Nat
  cp : Cp
  tile : Nat
  runs : List Run                -- rows still to move, the first one from its progress point
  unacked : Nat := 0             -- writes whose acknowledgement is outstanding
  word : Nat := 0                -- completion word of COPY.G2G
  toCrew : Nat := 0              -- receiver of a HAND
  toTile : Nat := 0
  data : List Byte := []
  lclk : Nat := 0
  sclk : Nat := 0
  stopped : Bool := false        -- by a permission fault or poison, 09 R244
  chunks : Nat := 0              -- chunks written
  fails : List (Nat × Nat × Nat × Nat) := [] -- failed writes whose cause is not raised yet: chunk, cause, address, TRAPINFO
  posting : Bool := false        -- its completion is on its way
  adding : Bool := false         -- its completion word is being added to
  timed : Bool := false          -- its cause 0x13 is raised, 22 R483
  wt : Nat := 0                  -- the greatest WT of its writes, 13 R339
  msg : Bool := false            -- a tagged message, 16 R405
  mdst : Nat := 0                -- and where it goes
  payload : List Byte := []
  deriving DecidableEq, Repr

/-- A record a crew holds (02 R47). -/
structure CrewRec where
  queue : Nat
  seq : Nat
  deriving DecidableEq, Repr

/-- A crew (02 R28, R40, R44). -/
structure Crew where
  id : Nat
  st : CrewSt := .running
  stopTo : CrewSt := .saved            -- what a stopping crew becomes when it is saved
  core : Nat := 0
  vf : Nat := 0
  asid : Nat := 0
  stage : Nat := 0
  graph : Nat := 0
  keeper : Option Nat := none
  shape : Shape := {}
  crewid : Word := 0
  seqbase : Word := 0
  reccount : Word := 0
  coordx : Word := 0
  coordy : Word := 0
  coordz : Word := 0
  lclk : Nat := 0                    -- 13 R319
  sclk : Nat := 0
  groups : List Group := []
  tiles : List Tile := []
  scratch : Memory := []             -- tile bytes, 09 R211
  acc : SMap (BitVec 32) := []       -- 11 R278, at 64 · row + column
  rmax : SMap (BitVec 32) := []
  rsum : SMap (BitVec 32) := []
  bars : List Bar := []
  mprog : Word := 0                  -- 11 R281
  mskip : Bool := false              -- RTT.SKIP has passed the interrupted instruction, 20 R453
  mtile : Option (Nat × Bool) := none -- the tile of the instruction with BUSY, and whether it is its destination, 21 R473
  mout : List (Nat × List Byte) := [] -- tile writes of that instruction, which take effect when it ends, 11 R280
  recs : List CrewRec := []
  copies : List Copy := []
  fltSeq : Option Nat := none        -- the highest SEQ of the fault records that it is held by, 20 R455, 22 R477
  abortAt : Option Nat := none       -- the cycle in which cause 0x10 stopped it, 22 R477
  savedAt : Nat := 0                 -- order of saving
  deriving DecidableEq, Repr

/-! ## Cores -/

/-- Performance counters of one VF on one core (17 R413, R414). -/
structure Perf where
  sel : Word := 0
  ctl : BitVec 24 := 0
  pmc : SMap Nat := []
  deriving DecidableEq, Repr

/-- A residue mismatch still to strike a core (04 R99): the lanes, whether the re-execution mismatches too, and the word that it has
struck and strikes again where cause 0x0A came first (21 R472). -/
structure Strike where
  lanes : Mask
  twice : Bool
  at_ : Option (Who × Pc) := none
  deriving DecidableEq, Repr

/-- An entry of an attribute cache (09 R212): `page` numbers the first 32 KiB unit of its page, `lvl` is the leaf's level. -/
structure AttrEnt where
  asid : Nat
  page : Nat
  lvl : Nat := 3
  attr : Attr
  deriving DecidableEq, Repr

/-- A block of a cache (12 R300): a run of words of one 512-byte span, under one ASID. `pa` is where the span begins in
its backing memory. The last two fields belong to L1 blocks: the predictor's entry that chose the block with the missed word
and the predicted extent, and the words used since, the missed one among them (12 R303). -/
structure Blk where
  asid : Nat
  span : Nat
  first : Nat
  last : Nat
  wt : Nat := 0
  le : Nat := 0
  data : SMap Byte := []
  dirty : Mask := 0
  poison : Mask := 0
  victim : Bool := false             -- first victim of its set (12 R305)
  used : Nat := 0                    -- order of last use (12 R308)
  ap : Apt := .hbm
  pa : Nat := 0
  chose : Option (Nat × Nat × Nat × Nat) := none
  seen : Mask := 0
  partly : List (Nat × Nat × Nat) := [] -- poisoned words written in part: word, writing access, bytes so far (22 R486)
  deriving DecidableEq, Repr

/-- An entry of the spatial predictor (12 R303); `ext` none predicts as E = 10. Its confidence is 0 at reset and after a grant to
another VF: a DESIGN CHOICE, for the rule gives only the prediction (notes/assumptions/111.md). -/
structure Pred where
  ext : Option (Nat × Nat) := none
  conf : Nat := 0
  deriving DecidableEq, Repr

/-- A core's copy of a summary (14 R359): when it came, and since when it is stale (23 R497). -/
structure SumEnt where
  sum : Summary
  at_ : Nat
  far : Bool
  stale : Option Nat := none
  deriving DecidableEq, Repr

/-- A reservation of a crew that is CLAIMING (02 R40): its stage, its keeper slot and its base partition. -/
structure Resv where
  id : Nat
  stage : Nat
  keeper : Option Nat
  p0 : Nat
  deriving DecidableEq, Repr

/-- The matrix instructions as the array takes them (11 R285), their operands read at issue. -/
inductive MOp where
  | mlw (arg : Option (Nat × MFmt × Bool))     -- tile, format, unscaled
  | mswap
  | stream (f : MFmt) (tile : Nat) (ofs : Nat) (scl : Option Nat) (rows e stride base : Nat) (z : Bool)
  | msts (f : MFmt) (z : Bool) (row : Nat) (bytes : List Byte) (scl : Option (List Byte))
  | msoft (f : MFmt) (tile ofs : Nat) (alpha : BitVec 32) (ncols osets rows obase sbase : Nat)
  | mrd (div : Option Rnd) (zr : Bool) (n out row sum : Nat)
  | mrdt (rnd : Rnd) (sat : Bool) (f : MFmt) (tile ofs : Nat) (scl : Option Nat) (rows base stride : Nat)
  | mzero (row n : Nat)
  | msrd (sum : Bool) (n d row : Nat)
  | mswr (sum : Bool) (n row : Nat) (vals : List (BitVec 32))
  deriving DecidableEq, Repr

/-- A matrix instruction in the array (11 R279, R282): its issue, the lanes it writes, its row step and flags. -/
structure Job where
  iss : Issue
  h : Hdr
  act : Mask
  op : MOp
  fs : List (Nat × Opnd)             -- the word's operand fields by their number in 20 R450
  code : Nat
  step : Nat := 0
  fl : BitVec 7 := 0
  accepted : Bool := false
  ready : Nat := 0                   -- the cycle of its next row or completion (11 R284)
  stopped : Bool := false            -- stops at the next progress point (11 R282)
  cont : Bool := false               -- continues from MPROG.STEP (11 R282)
  deriving DecidableEq, Repr

/-- A core (01 R14). An unlisted core is as after reset. -/
structure Core where
  phys : Option Nat := none          -- the physical core of its cluster that holds the COREID; none: the slot's own (01 R12)
  absent : Bool := false             -- 24 R512
  lclk : Nat := 0                    -- 13 R329
  sclk : Nat := 0
  trapbase : Word := 0               -- 20 R448
  watch : SMap Word := []            -- 22 R488
  persist : Nat := 0                 -- 04 R101
  mretry : Nat := 0
  vretry : Nat := 0
  perf : SMap Perf := []             -- by VF, 17 R413
  attrs : List AttrEnt := []         -- 09 R212
  resid : List Strike := []          -- 04 R99
  mresid : List Bool := []           -- mismatches still to strike the array: whether the re-execution mismatches too
  lastWho : SMap (Nat × Nat) := []   -- by partition: the group that issued last, 03 R72
  runLen : SMap Nat := []            -- and its consecutive issues
  lastCyc : SMap Nat := []           -- and the cycle of that issue
  l1 : List Blk := []                -- 12 R299, R300
  l1base : Nat := 0                  -- 13 R328
  pred : SMap Pred := []             -- 12 R303
  predVf : Nat := 0                  -- the VF of the last crew granted
  cands : List Nat := []             -- candidate stages, ascending, 14 R351
  sums : List (Nat × Bool × SumEnt) := [] -- by queue or stage number, 14 R359
  resv : List Resv := []             -- crews CLAIMING, 02 R40
  evalDue : Bool := false            -- 14 R360
  skip : List Nat := []              -- stages whose claim found nothing, left out of the next evaluation, 14 R363
  mq : List Job := []                -- the array's instructions in issue order, 11 R279
  bgDone : Option Nat := none        -- background load: the cycle it is done, 11 R286
  bgCrew : Nat := 0
  plActive : Option Nat := none      -- the crew whose active plane the array holds, 11 R276
  plShadow : Option Nat := none      -- and the one whose shadow plane it holds
  tsvf : Option Nat := none          -- the time-sliced VF served, 14 R350
  sliceEnd : Nat := 0                -- ns, die 0's TIME
  switching : Bool := false
  reexT : List Nat := []             -- times of re-executions, 24 R510
  persT : List Nat := []
  deriving DecidableEq, Repr

/-! ## Slices and controllers -/

/-- An L2 slice (01 R16). An unlisted slice is as after reset. -/
structure Slice where
  spare : Option Nat := none         -- the spare slice of the die that stands in for it, 01 R16
  dead : Bool := false               -- the log has retired its unit and no spare is free for it, 18 R438
  home : List Blk := []              -- 12 R300
  loc : List Blk := []               -- 12 R312
  base : Nat := 0                    -- 13 R328
  marks : SMap Nat := []             -- eviction marks by set, 12 R309
  corr : Nat := 0                    -- SLHLTH, 24 R508
  uncorr : Nat := 0
  errT : List Nat := []              -- 24 R510
  deriving DecidableEq, Repr

/-- A TLB entry (15 R373): the ASID (0 where G = 1), the level of the leaf, the page's first VA and the leaf. -/
structure TlbEnt where
  asid : Nat
  lvl : Nat
  va : Nat
  leaf : Word
  deriving DecidableEq, Repr

/-- An access-counter entry (15 R383). -/
structure Cnt where
  asid : Nat
  unit : Nat
  n : Nat
  wr : Bool
  notified : Bool
  asked : Bool := false              -- its notification is on its way to the queue
  deriving DecidableEq, Repr

/-- A memory controller (01 R18). -/
structure Ctrl where
  tlb : List TlbEnt := []            -- most recently used last
  counts : List Cnt := []            -- most recently counted last
  deriving DecidableEq, Repr

/-! ## Graphs, stages and queues (14) -/

/-- Where a stage takes its input (02 R32 to R34). -/
inductive StageIn where
  | range (ex ey ez : Nat)
  | queue (q : Nat)
  deriving DecidableEq, Repr

/-- A stage (14 R343). -/
structure Stage where
  num : Nat
  graph : Nat
  vf : Nat
  asid : Nat
  entry : Pc
  inp : StageIn
  outs : List Nat
  weight : Nat
  batch : Nat
  flush : Nat
  cost : Nat
  shape : Shape
  fcr : BitVec 6
  ctr : Nat := 0                     -- the range counter, 02 R32
  wt : Nat := 0
  le : Nat := 0
  nextCrew : Nat := 0                -- 02 R44
  deriving DecidableEq, Repr

/-- A record at its queue's home (14 R355, R356). -/
structure QRec where
  seq : Nat
  wt : Nat
  at_ : Nat                          -- the cycle it was accepted
  deriving DecidableEq, Repr

/-- The binding of a segment (16 R407). -/
inductive Role where
  | unbound | send | receive
  deriving DecidableEq, Repr

/-- A queue (14 R342, R355). -/
structure Queue where
  num : Nat
  graph : Nat
  vf : Nat
  asid : Nat
  winbase : Nat
  panbase : Nat
  wincnt : Nat
  pancnt : Nat
  size : Nat                         -- bytes of a record
  host : Bool
  lq : Nat
  dq : Rat                           -- ns
  cons : Option Nat                  -- its consumer stage; none for a sending segment
  edge : Option (Nat × Nat) := none  -- peer module and port mask of an edge-table entry, 14 R344
  next : Nat := 0                    -- next sequence number
  backlog : Nat := 0
  win : List QRec := []              -- undelivered records in the window
  busy : List Nat := []              -- sequence numbers whose window slots are taken
  pan : List (Nat × QRec) := []      -- pannier records by slot, oldest first
  panPos : Nat := 0                  -- pannier appends
  panBad : List Nat := []            -- slots out of service, 23 R494
  stopped : Bool := false
  tag : Nat := 0                     -- 10 R262; 0 is not armed
  land : Nat := 0
  lcnt : Nat := 0
  lslot : Nat := 0
  lused : List (Nat × Nat × Nat) := [] -- sequence number, landing address and slot size of armed records, until their crews retire
  lnext : Nat := 0
  role : Role := .unbound            -- 16 R407
  peer : Nat := 0
  peerq : Nat := 0
  expose : Nat := 0                  -- next number to expose, 16 R410
  early : List QRec := []            -- arrived in their window slots and not exposed
  earlyPan : List (Nat × QRec) := [] -- arrived in pannier slots and not exposed
  fwd : Nat := 0                     -- next number to forward, 16 R409
  again : List Nat := []             -- numbers to forward again, 23 R502
  inflight : List (Nat × Nat × Nat) := [] -- number, port and the tag of its burst
  waited : List Nat := []            -- those of them that were already unacknowledged when the last summary came
  psum : Option SegSum := none       -- the last summary received, 16 R408
  deriving DecidableEq, Repr

/-- A claim held at a queue's home (14 R357). -/
structure HeldClaim where
  claim : Claim
  queue : Nat
  deriving DecidableEq, Repr

/-- A graph (14 R351). -/
structure Graph where
  handle : Nat
  vf : Nat
  asid : Nat
  queues : List Nat                  -- queue numbers in table order
  stages : List Nat
  draining : Bool := false
  aborting : Bool := false
  waiters : List Who := []           -- GSTOPs that wait, 10 R269
  deriving DecidableEq, Repr

/-- A keeper or entry slot (14 R352): the stages it serves with the order of their last service (R362). -/
structure Keeper where
  id : Nat
  graph : Nat
  vf : Nat
  core : Nat
  p0 : Nat
  slots : List Nat                   -- the group slot of each group, in its partition (02 R37)
  shape : Shape
  serves : List (Nat × Nat)
  deriving DecidableEq, Repr

/-! ## Requests that wait -/

/-- Why a request is held at its home: write block (15 R385), no valid translation (09 R212), a checkpoint (15 R393). -/
inductive HoldWhy where
  | wb | noTrans | ck
  deriving DecidableEq, Repr

/-- A held request: the event performs again when it is released. -/
structure Held where
  id : Nat
  why : HoldWhy
  since : Nat                        -- ns; MIGLIMIT counts from here (22 R483)
  asid : Nat
  va : Nat
  slice : Nat
  req : Instr
  busy : Bool := false               -- held while an invalidation was in progress (15 R380)
  deriving DecidableEq, Repr

/-- What a fabric segment carries (16 R400). -/
inductive SegUse where
  | load (r : LdReq)
  | store (m : StMsg)
  | mcast (m : StMsg)
  | atom (m : AtMsg)
  | msg (crew copy : Nat)
  | log (bytes : List Byte)          -- bytes of the checkpoint log, 15 R391
  | ck (n : Nat)                     -- a read of a page that a checkpoint copies, 15 R393
  deriving DecidableEq, Repr

/-- A segment that is not answered yet. -/
structure Seg where
  tag : Nat
  dev : Nat
  ofs : Nat                          -- PA of 16 R400, or the offset within the group's unit
  port : Nat
  plane : Nat
  sent : Bool
  use : SegUse
  deriving DecidableEq, Repr

/-- What the module hands to the outside: to ports, to the Zenvex Link. Requests carry this module's number (16 R397), and in
torus mode the ports that the modules on their way send them on by (R402). -/
inductive OutMsg where
  | peer (tag port dev src : Nat) (turns : List Nat) (op : PeerOp)
  | peerAns (tag port : Nat) (res : PeerRes)
  | mcast (tag port src group ofs : Nat) (bytes : List Byte)
  | mcastAns (tag : Nat)
  | message (tag port dev src : Nat) (turns : List Nat) (ctag ofs : Nat) (payload : List Byte)
  | messageAns (tag : Nat)
  | burst (tag port dev src : Nat) (turns : List Nat) (peerq : Nat) (recs : List (Nat × List Byte))
  | burstAck (port src queue seq : Nat)
  | segSum (ports : Nat) (sum : SegSum)
  | torus (port : Nat) (seg : TorusSeg)
  | torusLost (seg : TorusSeg)       -- a segment has met a down link, 23 R505
  | interrupt
  deriving DecidableEq, Repr

/-- A service request or overflow record (14 R523, 17 R419) that waits to be posted. -/
structure SvcReq where
  vf : Nat
  token : Nat
  code : Nat
  pc : Nat
  arga : Word
  argb : Word
  deriving DecidableEq, Repr

/-- An invalidation in progress (15 R380). -/
structure Inv where
  scope : Nat
  asid : Nat
  va : Nat
  units : Nat
  purge : Bool
  deriving DecidableEq, Repr

/-- A checkpoint in progress (15 R393). -/
inductive CkPhase where
  | drain | copy
  deriving DecidableEq, Repr
structure Ck where
  phase : CkPhase
  cut : Nat
  pend : List (Nat × Nat × Nat) := []  -- ASID, VA, level of the copy-pending pages
  pos : Nat := 0                       -- bytes written to the log
  num : Nat := 0
  got : List Byte := []                -- what has come of the page that is read over the fabric
  asked : Bool := false                -- a read of it is unanswered
  wrote : Bool := false                -- the record has left for the log
  logOut : Nat := 0                    -- segments of the log that are unanswered
  deriving DecidableEq, Repr

/-- A region of the host-link directory (15 R387). Its state is DIRTY where some home block holds dirty words of it
(`State.regionDirty`). -/
structure DirEnt where
  base : Nat
  size : Nat
  conflict : Nat                     -- ns of the last conflict
  used : Nat
  deriving DecidableEq, Repr

/-- What an instruction of the matrix array gives its group: registers, at 32 · register + lane, with the outstanding result that they
end, none for MSRD; flags; a trap; the end of the instruction. -/
structure StopRegs where
  who : Who
  pc : Nat := 0
  out : Option Nat := none
  act : Mask := 0
  vals : SMap Word := []
  fl : BitVec 7 := 0
  mine : Bool := false               -- with the flags of its interrupted instruction, 11 R283
  trap : Option TrapRec := none
  done : Option Job := none
  deriving DecidableEq, Repr

/-- A result that a precise stop holds (17 R426): a message, or what the array gives. -/
inductive StopRes where
  | msg (e : Instr)
  | array (r : StopRegs)
  deriving DecidableEq, Repr

/-- A precise stop (17 R426). -/
structure Stop where
  pc : Nat
  cause : Nat
  part : Nat
  core : Nat
  trig : Nat
  time : Word
  trapped : Option Who := none       -- the group frozen before its handler's entry
  held : List StopRes := []          -- in the order of their arrival
  deferred : List Nat := []          -- crews whose pre-emption waits
  dumped : Bool := false
  cyc : Nat := 0                     -- the cycle of the stop
  deriving DecidableEq, Repr

/-- A retirement asked for or in progress (24 R509 to R513). -/
structure Retire where
  slice : Bool
  unit : Nat
  reason : Nat
  req : Bool                         -- asked for by a write of RETIRE
  deriving DecidableEq, Repr

/-- A repair-log entry (24 R507): its fields, and its CRC over them. -/
structure LogEnt where
  reason : Nat
  slice : Bool
  die : Nat
  grp : Nat
  pos : Nat
  spare : Nat
  time : Nat
  crc : BitVec 32 := 0
  deriving DecidableEq, Repr

/-- What a configuration image says (18 R437, R438). -/
structure Image where
  seq : Nat
  spareCores : List Nat              -- by die and cluster, 18 R438
  spareSlices : List (Option Nat)    -- by die and spare slice: the slice of the die it replaces
  trapbase : Word
  deriving DecidableEq, Repr

/-- The record of a start: step, outcome, detail and TIME of each step run (18 R440). -/
structure BootRec where
  steps : List (Nat × Nat × Nat × Nat)
  deriving DecidableEq, Repr

/-- The rewritable store (18 R436): the bytes of the two image copies, the entries of the repair log and the records of the last eight
starts, newest last, and the reserved rest; the image in force and whether it is copy B's; the highest SEQ accepted. `alts` lists the steps
that used their alternate and passed, with the highest SEQ accepted then plus 1 (24 R515), `readB` is the copy that step 2 read
last, and `key` is the key in the mask ROM of die 0, which nothing writes. -/
structure Store where
  a : List Byte
  b : List Byte
  img : Image
  useB : Bool := false
  highest : Nat := 0
  log : List LogEnt := []
  boots : List BootRec := []
  alts : SMap Nat := []
  readB : Bool := false
  key : Nat × Nat
  rest : SMap Byte := []             -- the reserved bytes, by offset; an unlisted one reads 0 (notes/assumptions/106.md)
  deriving DecidableEq, Repr

/-- The sequence of a link's retrain (23 R501). -/
structure Retrain where
  attempts : Nat := 0
  since : Nat := 0
  deriving DecidableEq, Repr

/-! ## The on-chip network (12 R314 to R316) -/

/-- Where a node stands: a physical core of a cluster (18 · die + cluster), a slice position of a sector, a spare slice, a
memory controller or a fabric port of a die, the Zenvex Link; `gone` is the place of an absent core. -/
inductive Site where
  | core (k p : Nat)
  | slice (x j : Nat)
  | spare (d n : Nat)
  | ctrl (d j : Nat)
  | port (d j : Nat)
  | zenvex
  | gone
  deriving DecidableEq, Repr

/-- The routers: a node's own, a cluster port, the two stages of a sector crossbar, a sector's ring stop, and the end of a
bridge that leads up to die d + 1 or down to die d - 1 (notes/assumptions/94.md). -/
inductive Router where
  | site (n : Site)
  | clu (k : Nat)
  | xin (x : Nat)
  | xout (x g : Nat)
  | ring (x : Nat)
  | bridge (d : Nat) (up : Bool)
  deriving DecidableEq, Repr

/-- The virtual networks (12 R315). -/
inductive Vn where
  | req | rsp | ack
  deriving DecidableEq, Repr

/-- A packet at the input of a router that faces the router `came` (12 R315, R316); `ev` is what its transaction does where
it is delivered, none for a packet whose transaction goes on in a later one. -/
structure Packet where
  dst : BitVec 10
  src : BitVec 10
  vn : Vn
  len : BitVec 5
  turns : BitVec 60
  place : Router
  came : Router
  ev : Option Instr
  deriving DecidableEq, Repr

/-! ## The module -/


/-- A fault-ring record before it takes its SEQ (20 R457), and the crew it holds. -/
structure FltRec where
  kind : Nat
  addr : Word
  rtag : BitVec 16 := 0
  asid : Nat := 0
  acc : Nat := 0xFF
  stage : Nat := 0
  vf : Nat := 0
  grp : Nat := 0
  core : Nat := 0
  pc : Pc := 0
  die : Nat := 0
  crew : Option Nat := none
  at_ : Nat := 0                     -- the cycle of its event (20 R460)
  deriving DecidableEq, Repr

/-- The state of the module. -/
structure State where
  cycle : Nat := 0                   -- cycles since module reset, 13 R319
  cores : SMap Core := []            -- by COREID
  crews : List Crew := []
  time : SMap Word := []             -- TIME by die, 17 R429
  tfrac : Nat := 0                   -- what has passed since TIME last rose, in 1/2327925600 ns
  mhz : Nat := 2100                  -- the core clock, 18 R434
  energy : Word := 0                 -- 18 R431
  winE : Word := 0                   -- ENERGY at the start of the budget window, 18 R433
  budget : Nat := 0                  -- the budget of the window in mJ
  leasecfg : Word := 0x0801_0020     -- 13 R325
  win : SMap Word := []              -- the control window by offset, 15 R376
  slices : SMap Slice := []
  ctrls : SMap Ctrl := []
  floorF : SMap Nat := []            -- the ingress floor F by die, 13 R324
  hbm : Memory := []                 -- 01 R19
  host : Memory := []                -- the companion processor's memory
  hbmPoison : SMap Bool := []        -- by 16-byte word, 22 R486
  hostPoison : SMap Bool := []
  graphs : List Graph := []
  stages : List Stage := []
  queues : List Queue := []
  keepers : List Keeper := []
  claims : List HeldClaim := []      -- 14 R357
  waitq : List Append := []          -- ENQW groups that wait for room, 10 R256
  parked : List (Nat × Instr) := []  -- requests that wait for a fill, by its tag
  held : List Held := []
  segs : List Seg := []
  planeSw : List (Nat × Bool) := []  -- plane switches that drain: the plane, and whether DEAD is set, 16 R401
  retrain : SMap Retrain := []       -- by port; 16 is the Zenvex Link
  transit : List TorusSeg := []      -- segments of others that wait at a port for its retrain or drain, 23 R501
  linkWait : List Instr := []        -- accesses of the companion processor that wait for the Zenvex Link, 23 R506
  zdown : Option Nat := none         -- since when the Zenvex Link is down, 23 R506
  routes : List Site := []           -- what the route tables lead to, by node number; empty before they are built, 12 R318
  net : List Packet := []            -- the buffers of the network, each in the order of arrival, 12 R316
  sliceWait : List Instr := []       -- requests that a slice's hand-over holds back, 24 R513
  hbmWait : List (Nat × List Byte) := [] -- samples for frames of local HBM that it holds back: address and bytes
  outbox : List OutMsg := []
  inv : Option Inv := none
  ck : Option Ck := none
  dir : List DirEnt := []            -- 15 R387
  dirMark : Nat := 0                 -- 15 R389
  svcWait : List SvcReq := []        -- 14 R523
  svcOpen : List (Nat × Nat × Who) := [] -- VF, token and group of the open requests
  henq : List (Nat × Word) := []     -- HENQ in progress, by VF, 14 R358
  msg : Option Nat := none           -- the tag of the host-link message that is being read, 16 R406
  training : BitVec 16 := 0          -- ports in training, 23 R500
  downing : BitVec 16 := 0           -- ports that drain before they go down
  smpSlot : Nat := 0                 -- the group slot the sampler visits, 17 R424
  stop : Option Stop := none
  retiring : Option Retire := none
  retWait : List Retire := []
  deadCores : List Nat := []         -- clusters (18 · die + cluster) whose spare core is out of service, 24 R507
  deadSpares : List Nat := []        -- spare slices (2 · die + number) out of service
  store : Store
  fatal : Bool := false              -- 20 R458, kind 0x24
  ended : Bool := false              -- the start has ended without READY, 18 R439
  mute : Bool := false               -- and not even BOOTSTAT answers
  flight : List Instr := []          -- what is under way inside a unit, or waits at a home for an older request of its word
  todo : List Instr := []
  inbox : List Instr := []
  cur : Option Issue := none
  ptr : Nat := 0                     -- the partition next in this cycle: 4 · core + partition
  fltWait : List FltRec := []        -- records not yet posted, 20 R455, R456
  draw : Nat := 0
  fresh : Nat := 0
  deriving DecidableEq, Repr

/-- What the image says that the model takes the store to hold before anything is written (notes/assumptions/5.md): physical core 4 the
spare of every cluster, no spare slice used. -/
def Image.initial : Image where
  seq := 0
  spareCores := []
  spareSlices := []
  trapbase := 0

/-- The public key that the model takes the mask ROM of die 0 to hold, the coordinates of a point of P-384 (18 R436, R437): a DESIGN
CHOICE, for the spec gives no key (notes/assumptions/106.md). -/
def romKey : Nat × Nat :=
  (0xC371E65F686D5121FF85439DB85C5B269F94BA7DA828B5C51C7004FFB944B1589A83203A0DF8796C9994C4F6EE4CD49B,
   0xB123F20D7F905BCFB184ED273C185167BD92226BBCDAC50A8D28173F5458195A533862E203D41440F185964A8BF0D44F)

/-- The signature of that image under that key: r, and s. -/
def Image.initialSig : List Byte :=
  [0x17, 0xED, 0x8D, 0xC9, 0x4D, 0x56, 0x37, 0x39, 0xBB, 0x10, 0xEB, 0x4D, 0xFE, 0x3F, 0xAC, 0x80, 0x2E, 0x98, 0x5C, 0x46, 0x7D, 0x98, 0x2E, 0x1F,
    0x4F, 0xDA, 0x34, 0x54, 0x0E, 0x55, 0x07, 0x8D, 0x90, 0xEC, 0x23, 0xF9, 0x9C, 0x6D, 0xBB, 0xC4, 0x1E, 0xF4, 0x79, 0x6B, 0xB4, 0xE3, 0x20, 0xBF] ++
  [0xB9, 0x0E, 0x7F, 0x8A, 0x40, 0x7E, 0x44, 0xFE, 0x1A, 0xD5, 0x54, 0x39, 0xA0, 0x7F, 0xB8, 0x0B, 0xC7, 0xE4, 0xCD, 0x2A, 0x0D, 0x89, 0x9E, 0xA1,
    0xA3, 0xB6, 0xB2, 0x24, 0x45, 0xCF, 0x66, 0x37, 0x1F, 0x0C, 0x97, 0x9C, 0x9D, 0xD3, 0xA5, 0xDC, 0x2C, 0x14, 0x88, 0x6F, 0xA0, 0x40, 0x33, 0xB9]

/-- The bytes of that image (18 R437, R438): the header with SEQ 0 and its signature, the spare map behind it, no firmware. -/
def Image.initialBytes : List Byte :=
  [0x49, 0x34, 0x58, 0x4A, 0x30, 1, 0, 0] ++ List.replicate 8 0 ++ [0xE0, 0, 0, 0, 0x30, 1, 0, 0] ++ List.replicate 104 0 ++
    Image.initialSig ++ (List.replicate 4 (List.replicate 18 4 ++ [0xFF, 0xFF])).flatten

/-- The bits of TRAPBASE that are not reserved (20 R448). -/
def trapbaseBits : Word := 0x8F00_FFFF_FFFF_FFFC

/-- What SIG of an image signs, bytes 0 to 127 and 224 to the end, and SIG (18 R437). -/
def signedPart (bs : List Byte) : List Byte × List Byte := (bs.take 128 ++ bs.drop 224, (bs.drop 128).take 96)

/-- Right after module reset, before start-up: the control window holds its reset values (15 R376, 18 R432, 24 R510), and
no other register has been written. The first step is the start-up (18 R439). -/
def State.reset : State where
  win := [(0x218, 1000), (0xD40, 1200), (0xD48, 1200), (0xD50, 1200), (0xD58, 1200), (0xD60, 1200), (0xD68, 1200),
    (0xD70, 1200), (0xD78, 1200), (0xD80, 1200), (0xD88, 1200), (0xD90, 1200), (0xD98, 1200), (0xDA0, 1200),
    (0xDA8, 1200), (0xDB0, 1200), (0xDB8, 1200), (0xE10, 0x8000_0000_1000_0402)]
  store := {
    a := Image.initialBytes, b := Image.initialBytes, img := Image.initial, key := romKey }

end Sys2Proof.Machine
end

