-- ==== Sys2Proof/Machine/Ops.lean ====
section
/-! DEFINITION. The named operations over groups, crews and cores: lanes and wait sets (03), the end of an issue, taking
a trap (20 R447), returning from one (R453), the double trap (R452) and abort and requeue (R455). -/

namespace Sys2Proof.Machine

/-! ## Finding and changing -/

/-- A crew by its number. -/
def State.crew? (s : State) (id : Nat) : Option Crew := s.crews.find? fun c => c.id == id

/-- Change a crew. -/
def State.updCrew (s : State) (id : Nat) (f : Crew → Crew) : State :=
  { s with crews := lupdFirst (fun c => c.id == id) f s.crews }

/-- Change a group of a crew. -/
def Crew.updGroup (c : Crew) (g : Nat) (f : Group → Group) : Crew := { c with groups := lupd c.groups g f }

/-- Change a group. -/
def State.updGroup (s : State) (w : Who) (f : Group → Group) : State :=
  s.updCrew w.crew fun c => c.updGroup w.grp f

/-- A group. -/
def State.group? (s : State) (w : Who) : Option Group := (s.crew? w.crew).bind fun c => c.groups[w.grp]?

/-- A core; one that is not listed is as at reset. -/
def State.core (s : State) (c : Nat) : Core := sget {} s.cores c

/-- Change a core. -/
def State.updCore (s : State) (c : Nat) (f : Core → Core) : State := { s with cores := sset {} s.cores c (f (s.core c)) }

/-! ## Lanes -/

/-- A lane's entry of LP. -/
def Group.lpOf (g : Group) (l : Nat) : Lp := sget Lp.none g.lp l

/-- Set a lane's entry of LP. -/
def Group.setLp (g : Group) (l : Nat) (e : Lp) : Group := { g with lp := sset Lp.none g.lp l e }

/-- The lanes whose state passes a test. -/
def Group.lanesIn (g : Group) (p : LSt → Bool) : Mask := Mask.ofFn fun l => p (g.lpOf l).st

/-- Is the state one of a remaining lane (03 R55)? -/
def LSt.remaining : LSt → Bool
  | .live | .parked | .yielded => true
  | _ => false

/-- The remaining lanes. -/
def Group.remain (g : Group) : Mask := g.lanesIn LSt.remaining

/-- The live lanes. -/
def Group.live (g : Group) : Mask := g.lanesIn (· == .live)

/-- Is the group finished (02 R45): every lane exited or absent? -/
def Group.finished (g : Group) : Bool := !g.handler && g.remain == 0

/-- Change the LP entries of lanes. -/
def Group.mapLp (g : Group) (m : Mask) (f : Nat → Lp → Lp) : Group :=
  { g with lp := m.lanes.foldl (fun lp l => sset Lp.none lp l (f l (sget Lp.none lp l))) g.lp }

/-- Move the PC of lanes on by a length (03 R57). Past the top of the 48-bit code space the sum is modulo 2^48: a DESIGN
CHOICE, for the spec gives no outcome there (notes/assumptions/87.md). -/
def Group.advance (g : Group) (m : Mask) (len : Nat) : Group :=
  g.mapLp m fun _ e => { e with pc := e.pc + BitVec.ofNat 48 len }

/-- Lanes with an outstanding result (03 R60). -/
def Group.outLanes (g : Group) : Mask := g.outs.foldl (fun m o => m ||| o.lanes) 0

/-- Keep of every wait set only the live lanes not in `drop`; a yielded lane whose set is empty becomes live
(03 R56, R62). -/
def Group.settle (g : Group) (drop : Mask) : Group :=
  let live := g.live
  (g.lanesIn (· == .yielded)).lanes.foldl (fun g l =>
    let w := sget 0 g.wset l &&& live &&& ~~~drop
    let g := { g with wset := sset 0 g.wset l w }
    if w = 0 then g.setLp l { g.lpOf l with st := .live } else g) g

/-- The lanes of an issue that S parks: active, with an outstanding result after it (03 R61). -/
def Group.parkS (g : Group) (act : Mask) : Group :=
  g.mapLp (act &&& g.outLanes &&& g.live) fun _ e => { e with st := .parked }

/-- Y: each active lane that is live yields, and waits for the live lanes that were not held and did not yield
(03 R62, R63). -/
def Group.yieldY (g : Group) (act held : Mask) : Group :=
  let ys := act &&& g.live
  let w := g.live &&& ~~~held &&& ~~~ys
  if w = 0 then g
  else
    ys.lanes.foldl (fun g l => { g.setLp l { g.lpOf l with st := .yielded } with wset := sset 0 g.wset l w }) g

/-! ## Registers -/

/-- A lane of a V register. -/
def Group.rdV (g : Group) (n l : Nat) : Word := sget 0 g.v (32 * n + l)

/-- A G register. -/
def Group.rdG (g : Group) (n : Nat) : Word := sget 0 g.g n

/-- A predicate register as a mask; P15 is true in every lane (05 R104). -/
def Group.rdP (g : Group) (n : Nat) : Mask := if n = 15 then BitVec.allOnes 32 else sget 0 g.p n

/-- A write to a register clears a reuse latch that holds it (05 R112). -/
def Group.unlatch (g : Group) (o : Opnd) : Group :=
  { g with
    latchA := if g.latchA == some o then none else g.latchA
    latchB := if g.latchB == some o then none else g.latchB }

/-- Write lanes of a V register. -/
def Group.wrV (g : Group) (n : Nat) (m : Mask) (f : Nat → Word) : Group :=
  { g.unlatch (.v (BitVec.ofNat 8 n)) with
    v := m.lanes.foldl (fun v l => sset 0 v (32 * n + l) (f l)) g.v }

/-- Write a G register. -/
def Group.wrG (g : Group) (n : Nat) (x : Word) : Group :=
  { g.unlatch (.g (BitVec.ofNat 10 n)) with g := sset 0 g.g n x }

/-- Write the bits of lanes of a predicate; a write to P15 has no effect (05 R104). -/
def Group.wrP (g : Group) (n : Nat) (m : Mask) (x : Mask) : Group :=
  if n = 15 then g else { g with p := sset 0 g.p n ((g.rdP n &&& ~~~m) ||| (x &&& m)) }

/-! ## Counters -/

/-- Do a VF's counters count on a core: those of a time-sliced VF only during its slices there (17 R418)? -/
def State.counts (s : State) (core vf : Nat) : Bool :=
  !(sget 0 s.win (0x1_0000 + 0x100 * vf)).getLsbD 2 || (s.core core).tsvf == some vf

/-- Add to the counters of a VF on a core that count an event (17 R413 to R418); a wrap sets OVF, and where IE is set and OVF
was not, an overflow record with the die's TIME waits for the VF's service queue (R419). -/
def State.perfAdd (s : State) (core vf ev n : Nat) : State :=
  if !s.counts core vf then s else
  let p := sget {} (s.core core).perf vf
  let hits := (List.range 8).filter fun k =>
    p.ctl.getLsbD k && decide ((p.sel.toNat >>> (8 * k)) % 256 = ev)
  hits.foldl (fun s k =>
    let p := sget {} (s.core core).perf vf
    let c := sget 0 p.pmc k + n
    let wrap := decide (2 ^ 48 ≤ c)
    let p' := { p with
      pmc := sset 0 p.pmc k (c % 2 ^ 48)
      ctl := if wrap then p.ctl ||| BitVec.ofNat 24 (2 ^ (8 + k)) else p.ctl }
    let s := s.updCore core fun co => { co with perf := sset {} co.perf vf p' }
    if wrap && p.ctl.getLsbD (16 + k) && !p.ctl.getLsbD (8 + k) then { s with svcWait := s.svcWait ++ [{
      vf := vf, token := 0, code := 0xFFFF, pc := 0, arga := BitVec.ofNat 64 (core * 8 + k), argb := sget 0 s.time (core / 72) }] }
    else s) s

/-! ## The issue in hand -/

/-- The issue in hand with its crew and group, and the split of its set by the guard (03 R59). -/
structure Ctx where
  iss : Issue
  c : Crew
  g : Group
  act : Mask
  off : Mask

/-- The guard of a lane (05 R111). -/
def Group.guard (g : Group) (h : Hdr) : Mask := let m := g.rdP h.pg.toNat
  if h.pn then ~~~m else m

/-- The context of a word, where a group issues it. -/
def State.ctx? (s : State) (h : Hdr) : Option Ctx :=
  s.cur.bind fun i => (s.crew? i.who.crew).bind fun c => c.groups[i.who.grp]?.map fun g =>
    { iss := i, c := c, g := g, act := i.set &&& g.guard h, off := i.set &&& ~~~g.guard h }

/-- Run a word's meaning on its context; a word that no group issues changes nothing (notes/assumptions/7.md). -/
def State.withCtx (s : State) (h : Hdr) (k : Ctx → State) : State :=
  match s.ctx? h with
  | none => s
  | some c => k c

/-- Add lane-slots to a count register of the control window (17 R420). -/
def State.winCount (s : State) (ofs n : Nat) : State :=
  { s with win := sset 0 s.win ofs (BitVec.ofNat 64 (((sget 0 s.win ofs).toNat + n) % 2 ^ 48)) }

/-- The lane-cycle record of an issue (17 R422). -/
def State.lcrCount (s : State) (i : Issue) (g : Group) (core vf : Nat) : State :=
  let ctl := (sget 0 s.win 0x400).toNat
  if ctl % 2 = 0 ∨ ctl / 2 ^ 4 % 2 ^ 9 ≠ core then s
  else if ctl / 2 ^ 20 % 2 = 0 ∧ ctl / 2 ^ 16 % 2 ^ 4 ≠ vf then s.winCount 0x408 32
  else
    match (List.range 16).find? fun b =>
        decide ((sget 0 s.win (0x500 + 16 * b)).toNat ≤ i.pc.toNat) &&
          decide (i.pc.toNat ≤ (sget 0 s.win (0x508 + 16 * b)).toNat) with
    | none => s.winCount 0x410 32
    | some b =>
      let o := 0x600 + 32 * b
      let act := (i.set &&& i.act).count
      let off := (i.set &&& ~~~i.act).count
      let out := (g.remain &&& ~~~i.set).count
      (((s.winCount o act).winCount (o + 8) out).winCount (o + 16) off).winCount (o + 24) (32 - act - off - out)

/-- A partition stops (17 R426): the dump is then written. -/
def State.freeze (s : State) (core part trig pc cause : Nat) (trapped : Option Who) : State :=
  let time := sget 0 s.time (core / 72)
  { s with
    stop := some { pc := pc, cause := cause, part := part, core := core, trig := trig, time := time, trapped := trapped
                   cyc := s.cycle }
    win := sset 0 (sset 0 s.win 0x900 (sget 0 s.win 0x900 &&& ~~~1)) 0x918 (BitVec.ofNat 64 (2 ^ 63 + time.toNat % 2 ^ 48))
    flight := s.flight ++ [.stopDumpComplete] }

/-- Is a stop armed for a partition with a trigger (17 R425)? -/
def State.stopArmed (s : State) (core part trig : Nat) : Bool :=
  let ctl := (sget 0 s.win 0x900).toNat
  s.stop.isNone && ctl % 2 == 1 && ctl / 2 ^ 6 % 2 ^ 9 == core && ctl / 2 ^ 4 % 4 == part && ctl / 2 ^ 2 % 4 == trig

/-- Has the word at the group's head spent its partition's cycle already: it issued, and waits for an answer, for
acknowledgements, or for the phase that it has arrived at? -/
def Group.paid (g : Group) : Bool := g.phase == 1 || g.phase == 2 || g.phase == 4 || g.phase == 5

/-- The counts of an issue (17 R415): none where no word was fetched. -/
def State.issueCount (s : State) (i : Issue) (core vf : Nat) : State :=
  if i.len = 0 then s
  else
    let s := (s.perfAdd core vf 0x02 1).perfAdd core vf 0x03 (i.set &&& i.act).count
    if i.hi.extractLsb' 29 3 = 7 then s.perfAdd core vf 0x04 1 else s

/-- The partition of a group spends its cycle (03 R58, R71, R72), once for each issue, which is counted; a stop on the word's issue
(17 R425). -/
def State.spent (s : State) (i : Issue) : State :=
  match s.group? i.who, s.crew? i.who.crew with
  | some g, some c => if g.paid then s else
    let key := (i.who.crew, i.who.grp)
    let s := s.updCore c.core fun co =>
      let again := sget (0, 0) co.lastWho g.part == key && decide (sget 0 co.lastCyc g.part = s.cycle)
      { co with
        lastWho := sset (0, 0) co.lastWho g.part key
        runLen := sset 0 co.runLen g.part (if again then min (sget 0 co.runLen g.part + 1) 4 else 1)
        lastCyc := sset 0 co.lastCyc g.part (s.cycle + 1) }
    let s := s.updGroup i.who fun g => { g with lastIssue := s.cycle }
    let s := { (s.lcrCount i g c.core c.vf).issueCount i c.core c.vf with ptr := 4 * c.core + g.part + 1 }
    if s.stopArmed c.core g.part 1 && (sget 0 s.win 0x908).toNat % 2 ^ 48 == i.pc.toNat then
      s.freeze c.core g.part 1 i.pc.toNat 0 none
    else s
  | _, _ => s

/-- Clear what belongs to the word at the group's head. -/
def Group.headDone (g : Group) : Group := { g with wait := .none, phase := 0, head := none, probed := [], answers := [], recs := [] }

/-- Are watchpoints suppressed for a lane's issue of a word (22 R490)? -/
def Group.suppressed (g : Group) (pc : Pc) (l : Nat) : Bool := sget 0 g.suppress l == pc.toNat + 1

/-- The issue of a word ends the suppressions of its lanes for it (22 R490); a handler's words end none. -/
def Group.unsuppress (g : Group) (i : Issue) : Group :=
  if g.handler then g
  else { g with suppress := g.suppress.filter fun p => !(i.set.has p.1 && p.2 == i.pc.toNat + 1) }

/-- The word has performed: the lanes issued and held leave the wait sets, then hints S and Y act on the lanes given
(03 R61 to R63). -/
def State.performed (s : State) (x : Ctx) (h : Hdr) (hint : Mask) : State :=
  s.updGroup x.iss.who fun g =>
    let g := (g.unsuppress x.iss).settle (x.iss.set ||| x.iss.held)
    let g := if h.s then g.parkS hint else g
    let g := if h.y then g.yieldY hint x.iss.held else g
    (g.settle 0).headDone

/-- The word has performed; its partition spends the cycle, if it has not spent one on this issue before (03 R72). -/
def State.issued (s : State) (x : Ctx) (h : Hdr) (hint : Mask) : State := (s.spent x.iss).performed x h hint

/-- The lanes of the issue set go on behind the word, and the word has performed. -/
def State.retire (s : State) (x : Ctx) (h : Hdr) : State :=
  (s.updGroup x.iss.who fun g => g.advance x.iss.set x.iss.len).issued x h x.act

/-- The word waits at the group's head; it is tried again in a later cycle (03 R71: the group is not ready). -/
def State.waitRetry (s : State) (x : Ctx) : State :=
  s.updGroup x.iss.who fun g => { g with wait := .retry s.cycle }

/-! ## Leaving a core -/

/-- Does a crew hold resources of a core (02 R40)? -/
def Crew.resident (c : Crew) : Bool := c.st == .running || c.st == .stopping || c.st == .closing

/-- May copies of a crew move: it holds resources of a core, or its context is discarded and they complete (10 R269)? -/
def Crew.moves (c : Crew) : Bool := c.resident || c.st == .gone

/-- Is a crew RUNNING (02 R40)? One that is stopping is, until its context is written. -/
def Crew.runs (c : Crew) : Bool := c.st == .running || c.st == .stopping

/-- The bytes of L1: 384 KiB less the scratchpad of the crews granted, in steps of 32 KiB. -/
def State.l1Bytes (s : State) (core : Nat) : Nat :=
  let tiles := ((s.crews.filter fun c => c.core == core && c.resident).map fun c => c.shape.tiles.sum).sum
  let claimed := ((s.core core).resv.map fun r =>
    ((s.stages.find? fun t => t.num == r.stage).map fun t => t.shape.tiles.sum).getD 0).sum
  393216 - ceilDiv (tiles + claimed) 32768 * 32768

/-- A change of what a core grants; a change of L1's size drops every block of it (12 R299). -/
def State.divide (s : State) (core : Nat) (f : State → State) : State :=
  let t := f s
  if t.l1Bytes core = s.l1Bytes core then t else t.updCore core fun co => { co with l1 := [] }

/-- Has the word at the group's head had answers of queues or of the outside (10 R255, R267)? -/
def Group.hasAnswers (g : Group) : Bool := g.answers.any fun p => decide (p.1 < 32)

/-- Has the word at its head had answers, and waits for no more of them now? -/
def Group.midAnswer (g : Group) : Bool := g.head.isSome && (g.hasAnswers || g.phase == 2) && g.wait != .answer

/-- What a save keeps of a group: a yielded lane is live (03 R73). A word that has answers, awaits one, or has arrived at its
barrier goes on after the resume (10 R255, R264, R267); a sleep ends (10 R266); any other word is selected afresh under
R58 from its head, an ENQW that waits for room (`waits`) among them (10 R256). -/
def Group.save (g : Group) (waits : Bool) : Group :=
  let g := { g with
    lp := g.lp.map fun (p : Nat × Lp) => (p.1, if p.2.st == LSt.yielded then { p.2 with st := .live } else p.2)
    wset := [] }
  let again := if g.hasAnswers || g.phase == 2 || g.phase == 4 then { g with wait := .none } else g.headDone
  match g.wait with
  | .answer => if waits then again else g
  | .acq _ _ | .trap _ => g
  | .till _ => { g with wait := .none }
  | _ => again

/-- Is an append of a crew's group? -/
def Append.ofCrew (crew : Nat) (m : Append) : Bool :=
  match m.src with
  | .group w _ _ _ => w.crew == crew
  | _ => false

/-- Is it an append of this group? -/
def Append.ofGroup (w : Who) (m : Append) : Bool :=
  match m.src with
  | .group v _ _ _ => v == w
  | _ => false

/-- A crew's context is written in a state (02 R48): its groups stand where they are, a wait of ENQW begins again after the resume
(10 R256), the core's clocks rise to the crew's (13 R329), its planes leave the array (11 R276), and the core evaluates
(14 R360). A background load of its planes that is running ends with nothing loaded, so that no MLW of another crew waits for it: a
DESIGN CHOICE (notes/assumptions/140.md). -/
def State.saveCrew (s : State) (crew : Nat) (st : CrewSt) : State :=
  match s.crew? crew with
  | none => s
  | some c => s.divide c.core fun s =>
    let s := if st = .closing then s else s.perfAdd c.core c.vf 0x0E 1
    let waiting (k : Nat) : Bool := s.waitq.any fun m => Append.ofGroup { crew := crew, grp := k } m
    let groups := ((List.range c.groups.length).zip c.groups).map fun p => p.2.save (waiting p.1)
    let s := { s.updCrew crew (fun c => { c with st := st, groups := groups, savedAt := s.fresh }) with
      waitq := s.waitq.filter fun m => !Append.ofCrew crew m
      fresh := s.fresh + 1 }
    s.updCore c.core fun co => { co with
      lclk := max co.lclk c.lclk
      sclk := max co.sclk c.sclk
      plActive := if co.plActive == some crew then none else co.plActive
      plShadow := if co.plShadow == some crew then none else co.plShadow
      bgDone := if co.bgCrew = crew then none else co.bgDone
      evalDue := true }

/-- What a crew that is stopped twice becomes: frozen before held, held before saved (20 R452, R455). -/
def CrewSt.stronger (a b : CrewSt) : CrewSt :=
  if a == .frozen || b == .frozen then .frozen else if a == .held || b == .held then .held else .saved

/-- A crew is stopped to be saved in a state (02 R48, 20 R452, R455): it issues nothing more, and a closing one goes on to
close when it resumes. PREEMPTION writes its context
once everything is settled that the save waits for (03 R73, 09 R244, 10 R255, 11 R283). A crew that is saved already takes
the state at once. -/
def State.stopCrew (s : State) (crew : Nat) (st : CrewSt) : State :=
  s.updCrew crew fun c =>
    if c.st == .running || (c.st == .closing && st != .saved) then { c with st := .stopping, stopTo := st }
    else if c.st == .stopping then { c with stopTo := c.stopTo.stronger st }
    else if c.st == .saved || c.st == .held then { c with st := c.st.stronger st }
    else c

/-! ## Barriers that a finished group completes (03 R67, 10 R264) -/

/-- Has every group of the barrier's mask arrived or finished (10 R264)? One in handler mode counts as arrived at no barrier
(20 R451). -/
def Crew.barFull (c : Crew) (b : Bar) : Bool :=
  (List.range c.groups.length).all fun g => let x := c.groups.getD g {}
    !b.mask.getLsbD g || (b.arr.getLsbD g && !x.handler) || x.finished

/-- The check of 10 R264; a finish completes a phase only where MASK is not empty. An arrival of a group outside MASK makes the check
as the rule's pseudocode does, so that it completes a phase where every group of MASK is finished: a DESIGN CHOICE between that and
the rule's text (notes/assumptions/115.md). -/
def Crew.barCheck (c : Crew) (k : Nat) (arrival : Bool) : Crew :=
  { c with bars := lupd c.bars k fun b =>
      if c.barFull b && (arrival || b.mask != 0) then { b with phase := b.phase + 1, arr := 0 } else b }

/-- A group has finished: the barriers that this completes. -/
def Crew.finishBars (c : Crew) : Crew := (List.range c.bars.length).foldl (fun c k => c.barCheck k false) c

/-! ## Traps -/

/-- Exchange V0 to V3, G0 to G3, P0 to P3, FSR and FCR with the shadow (20 R447 step 4), and with FSR the flags that the array keeps for
it (notes/assumptions/97.md). -/
def Group.exchange (g : Group) : Group :=
  let lowV (m : SMap Word) := m.filter fun p => decide (p.1 < 128)
  let hiV (m : SMap Word) := m.filter fun p => decide (128 ≤ p.1)
  let low4 {α : Type} (m : SMap α) := m.filter fun p => decide (p.1 < 4)
  let hi4 {α : Type} (m : SMap α) := m.filter fun p => decide (4 ≤ p.1)
  { g with
    v := lowV g.shV ++ hiV g.v, shV := lowV g.v
    g := low4 g.shG ++ hi4 g.g, shG := low4 g.g
    p := low4 g.shP ++ hi4 g.p, shP := low4 g.p
    fsr := g.shFsr, shFsr := g.fsr
    mfl := g.shMfl, shMfl := g.mfl
    fcr := g.shFcr, shFcr := g.fcr
    latchA := none, latchB := none }

/-- The handler's entry address (20 R448). -/
def handlerPc (trapbase : Word) : Pc := BitVec.ofNat 48 (trapbase.toNat % 2 ^ 48 / 4 * 4)

/-- The trap registers and the trap LP (20 R447 steps 1 and 3). -/
def Group.trapRegs (g : Group) (t : TrapRec) : Group :=
  { g with
    trapLp := g.lp.map fun p => (p.1, if p.2.st == .yielded then { p.2 with st := .live } else p.2)
    wset := []
    tcause := BitVec.ofNat 64 (t.cause + (if t.async then 2 ^ 8 else 0))
    tpc := t.pc.setWidth 64
    taddr := t.addr
    tlanes := t.lanes.setWidth 64
    tinfo := t.info
    skipLen := t.skipLen }

/-- The handler's entry (20 R447 steps 4 and 5). -/
def Group.enterTrap (g : Group) (trapbase : Word) (t : TrapRec) : Group :=
  let g := { (g.trapRegs t).exchange with handler := true }
  let g := g.mapLp (g.lanesIn (· != .absent)) fun _ _ => { st := .live, depth := 0, pc := handlerPc trapbase }
  g.headDone

/-- Enter a handler once no result is outstanding; a stop on a trap freezes the group between steps 3 and 4 of R447
(17 R426, 20 R460). -/
def State.enter (s : State) (w : Who) (c : Crew) (g : Group) (t : TrapRec) : State :=
  if s.stopArmed c.core g.part 2 then
    (s.updGroup w fun g => { (g.trapRegs t).headDone with wait := .trap t }).freeze c.core g.part 2 t.pc.toNat t.cause (some w)
  else s.updGroup w fun g => g.enterTrap (s.core c.core).trapbase t

/-- A machine-check or fault record waits to be posted (20 R456). -/
def State.postFlt (s : State) (r : FltRec) : State := { s with fltWait := s.fltWait ++ [{ r with at_ := s.cycle }] }

/-- The fault record of a group's crew (20 R457). -/
def fltOf (c : Crew) (g : Group) (w : Who) (kind : Nat) (addr : Word) (acc : Nat) (pc : Pc) : FltRec where
  kind := kind
  addr := addr
  rtag := g.regionTag
  asid := c.asid
  acc := acc
  stage := c.stage
  vf := c.vf
  grp := w.grp
  core := c.core
  pc := pc
  die := c.core / 72
  crew := some c.id

/-- A double trap (20 R452): the group is frozen, TRAPCAUSE is written with DOUBLE, the crew is saved for good and a
machine-check record of kind 0x21 is posted. It is a trap (R449), so that an armed stop on any trap fires (17 R425), and the save
waits for its release (R426). -/
def State.doubleTrap (s : State) (w : Who) (t : TrapRec) : State :=
  match s.crew? w.crew, s.group? w with
  | some c, some g =>
    let s := if s.stopArmed c.core g.part 2 then s.freeze c.core g.part 2 t.pc.toNat t.cause none else s
    let s := s.updCrew w.crew fun c =>
      c.updGroup w.grp fun g => { g.headDone with
          frozen := true
          tcause := BitVec.ofNat 64 (t.cause + (if t.async then 2 ^ 8 else 0) + 2 ^ 9) }
    (s.stopCrew w.crew .frozen).postFlt (fltOf c g w 0x21 0 0xFF t.pc)
  | _, _ => s

/-- Take a handler trap in a group (20 R447): at once where no result of its lanes is outstanding, else when the last
one is written or cancelled. In handler mode it is a double trap (R452). -/
def State.takeTrap (s : State) (w : Who) (t : TrapRec) : State :=
  match s.crew? w.crew, s.group? w with
  | some c, some g =>
    if g.handler then s.doubleTrap w t
    else if g.outs.isEmpty then s.enter w c g t
    else s.updGroup w fun g => { g.headDone with wait := .trap t }
  | _, _ => s

/-- A trap raised by the issue in hand: the named lanes resume at the word (20 R449). -/
def State.trapIssue (s : State) (x : Ctx) (cause : Nat) (lanes : Mask) (info : Word := 0) (addr : Word := 0) : State :=
  let skip := if x.iss.len = 28 then 28 else 12
  ((s.updGroup x.iss.who fun g => g.unsuppress x.iss).spent x.iss).takeTrap x.iss.who
    { cause := cause, lanes := lanes, addr := addr, info := info, pc := x.iss.pc, skipLen := skip }

/-- Leave handler mode (20 R453): LP from the trap LP, the named lanes as given, the shadow exchanged back. RTT without
SKIP after cause 0x0C suppresses the watchpoints of the named lanes (22 R490). -/
def Group.leaveTrap (g : Group) (named : Lp → Lp) (suppress : Bool) : Group :=
  let lanes : Mask := g.tlanes.setWidth 32
  let g := { g with lp := g.trapLp, trapLp := [], wset := [] }
  let g := g.mapLp lanes fun _ e => named e
  let g := { g.exchange with handler := false, shMfl := 0 }
  let watched := suppress && g.tcause.setWidth 8 == (0x0C : BitVec 8)
  { g with suppress := if watched then
      lanes.lanes.foldl (fun m l => sset 0 m l ((g.tpc.setWidth 48 : Pc).toNat + 1)) g.suppress else g.suppress }.headDone

/-- RTT of a group in handler mode (20 R453). TRAPPC plus the length is modulo 2^48 (notes/assumptions/87.md). -/
def Group.rtt (g : Group) (skip : Bool) : Group :=
  let pc : Pc := g.tpc.setWidth 48 + (if skip then BitVec.ofNat 48 g.skipLen else 0)
  g.leaveTrap (fun e => { e with pc := pc }) (!skip)

/-- The handler exit rule (20 R453): the group leaves handler mode and the named lanes are exited in LP and in their
snapshot entries. -/
def Group.handlerExit (g : Group) : Group :=
  let lanes : Mask := g.tlanes.setWidth 32
  let pc : Pc := g.tpc.setWidth 48
  let g := g.leaveTrap (fun e => { e with st := .exited, pc := pc }) false
  { g with snap := lanes.lanes.foldl (fun m l =>
      sset Lp.none m l { sget Lp.none m l with st := .exited }) g.snap }

/-- Does every lane of a handler stand exited? -/
def Group.handlerGone (g : Group) : Bool := g.handler && g.remain == 0

/-! ## Privilege and allocation -/

/-- Supervisor mode (20 R448): handler mode, or a crew of VF SVF with SVEN. -/
def supervisor (trapbase : Word) (vf : Nat) (g : Group) : Bool :=
  g.handler || (trapbase.getLsbD 63 && decide ((trapbase.toNat >>> 56) % 16 = vf))

/-- Does the operand name a resource beyond the crew's allocation (02 R36, 20 R451)? -/
def beyond (sh : Shape) (handler : Bool) : Opnd → Bool
  | .v n => decide (sh.vregs ≤ n.toNat) && !(handler && decide (n.toNat < 4))
  | .g n => decide (sh.gregs ≤ n.toNat) && !(handler && decide (n.toNat < 4))
  | .tile n => decide (sh.tiles.length ≤ n.toNat)
  | .bar n => decide (sh.barriers ≤ n.toNat)
  | _ => false

/-- The first field, by its number of R450, that is beyond the allocation; `n` registers are named from a register on. -/
def firstBeyond (sh : Shape) (handler : Bool) : List (Nat × Opnd) → Option (Nat × Opnd)
  | [] => none
  | p :: t => if beyond sh handler p.2 then some p else firstBeyond sh handler t

/-- Do `n` registers from a register on pass the allocation, or the end of the file (02 R36, 05 R126 step 4)? -/
def runBeyond (sh : Shape) (handler : Bool) (d : Opnd) (n : Nat) : Bool :=
  let least := if handler then 4 else 0
  match d with
  | .v k => decide (max sh.vregs least < k.toNat + n)
  | .g k => decide (max sh.gregs least < k.toNat + n)
  | _ => false

/-- The value of an offending field: of a parameter word, the register number that it names (05 R123). -/
def fieldVal (p : Nat × Opnd) : Nat := if p.1 = 4 then p.2.code.toNat % 2 ^ 10 else p.2.code.toNat

/-- TRAPINFO of cause 0x03 for a field (20 R450). -/
def info03 (p : Nat × Opnd) : Word := BitVec.ofNat 64 (fieldVal p + p.1 * 2 ^ 12)

/-- Steps 4 and 5 of decoding (05 R126): operands beyond the allocation, cause 0x03, and supervisor rights, cause 0x0E,
for every lane of the issue set. -/
def State.checked (s : State) (x : Ctx) (fs : List (Nat × Opnd)) (super : Bool) (k : Unit → State) : State :=
  match firstBeyond x.c.shape x.g.handler fs with
  | some p => s.trapIssue x 0x03 x.iss.set (info03 p)
  | none =>
    if super && !supervisor (s.core x.c.core).trapbase x.c.vf x.g then
      s.trapIssue x 0x0E x.iss.set (x.iss.hi.setWidth 64)
    else k ()

/-- The same for a word whose field D names `n` registers: a register pair or a range that the word fixes. -/
def State.runChecked (s : State) (x : Ctx) (d : Opnd) (n : Nat) (fs : List (Nat × Opnd)) (k : Unit → State) : State :=
  if runBeyond x.c.shape x.g.handler d n then s.trapIssue x 0x03 x.iss.set (info03 (0, d)) else s.checked x fs false k

/-! ## Watchpoints -/

/-- The lowest WATCH register that matches bytes of an access (22 R488, R489). -/
def watchHit (co : Core) (sp rd wr : Bool) (a n : Nat) : Option Nat :=
  (List.range 4).find? fun k =>
    let w := sget 0 co.watch k
    let len := (w.toNat >>> 56) % 16
    let size := 2 ^ (len + 3)
    let lo := w.toNat % 2 ^ 51 / size * size
    w.getLsbD 63 && decide (len ≤ 12) && (w.getLsbD 60 == sp) && ((rd && w.getLsbD 61) || (wr && w.getLsbD 62)) &&
      decide (a < lo + size) && decide (lo < a + n)

/-- The first byte of an access that a WATCH register matches. -/
def watchByte (co : Core) (sp rd wr : Bool) (a n : Nat) : Nat :=
  match (List.range n).find? (fun k => (watchHit co sp rd wr (a + k) 1).isSome) with
  | some k => a + k
  | none => a

/-! ## Abort and requeue -/

/-- The snapshot brought back (03 R73, 09 R248): parked and yielded lanes are live, the stream ports as recorded, the
held entries of the store buffer discarded (R220), a suppression discarded (22 R490). -/
def Group.rewind (g : Group) : Group :=
  { g.headDone with
    lp := g.snap.map fun p => (p.1, if p.2.st.remaining then { p.2 with st := .live } else p.2)
    wset := []
    ports := g.portSnap
    sb := g.sb.filter (·.committed)
    suppress := [] }

/-- Is it a record of cause 0x10 of the same crew, for a group of a higher number (22 R477)? -/
def FltRec.after (r x : FltRec) : Bool := r.kind == 0x10 && x.kind == 0x10 && r.crew == x.crew && decide (x.grp < r.grp)

/-- The record of a group that met cause 0x10 waits to be posted, before those of its crew's groups of higher numbers (22 R477). -/
def State.postAbort (s : State) (r : FltRec) : State :=
  { s with fltWait :=
      s.fltWait.takeWhile (fun x => !x.after r) ++ { r with at_ := s.cycle } :: s.fltWait.dropWhile (fun x => !x.after r) }

end Sys2Proof.Machine
end

