-- ==== Sys2Proof/Machine/Flags.lean ====
section
/-! DEFINITION. FSR and FCR (04 R94 to R97): the flags an issue sets, the floating-point trap, and the residue checks of
the vector datapaths (R99 to R101). -/

namespace Sys2Proof.Machine

/-- The flags that FCR enables: NV and IC under NVE, OF under OFE (04 R97). -/
def enabledFl (fcr : BitVec 6) (fl : Fl) : Bool :=
  (fcr.getLsbD 4 && (fl.getLsbD 0 || fl.getLsbD 5)) || (fcr.getLsbD 5 && fl.getLsbD 2)

/-- The OR of the flags of lanes (04 R96). -/
def lanesFl (m : Mask) (f : Nat → Fl) : Fl := flOr (m.lanes.map f)

/-- OR flags into FSR (04 R96). -/
def Group.orFsr (g : Group) (fl : Fl) : Group := { g with fsr := g.fsr ||| fl }

/-- The floating-point trap (04 R97), judged on the lanes given: no destination, FSR unchanged, TRAPINFO the flags the
instruction would have set, TRAPLANES the lanes that raised an enabled one. -/
def State.fpGate (s : State) (x : Ctx) (lanes : Mask) (f : Nat → Fl) (k : Unit → State) : State :=
  let bad := Mask.ofFn fun l => lanes.has l && enabledFl x.g.fcr (f l)
  if bad = 0 then k () else s.trapIssue x 0x0A bad ((lanesFl lanes f).setWidth 64)

/-- The time of a re-execution, which the automatic retirement counts for an hour (24 R510). -/
def Core.retried (c : Core) (now : Nat) : Core :=
  { c with reexT := c.reexT.filter (fun t => decide (now < t + 3600000000000)) ++ [now] }

/-- A cause 0x19 is raised (04 R101): PERSIST counts it, and the automatic retirement for 24 hours (24 R510). -/
def Core.persists (c : Core) (now : Nat) : Core :=
  { c with
    persT := c.persT.filter (fun t => decide (now < t + 86400000000000)) ++ [now]
    persist := min (c.persist + 1) 0xFFFF }

/-- Count a vector re-execution (04 R99 to R101, 21 R472). -/
def Core.strike (c : Core) (now : Nat) : Core := { c.retried now with vretry := min (c.vretry + 1) 0xFFFFFF }

/-- Does a mismatch strike the issue: in an active lane, and no other word than it has struck before? -/
def Strike.strikes (st : Strike) (x : Ctx) : Bool :=
  st.lanes &&& x.act != 0 && (st.at_ == none || st.at_ == some (x.iss.who, x.iss.pc))

/-- Residue checking of a vector word (04 R99, R100, 21 R472): a mismatch that is still to strike this core re-executes the word
once; one that mismatches twice is cause 0x19 for its lanes, after the floating-point trap of the other lanes, behind which it
strikes the word again. -/
def State.residGate (s : State) (x : Ctx) (checked : Bool) (f : Nat → Fl) (k : State → State) : State :=
  match checked, (s.core x.c.core).resid.find? (·.strikes x) with
  | true, some st =>
    let hit := st.lanes &&& x.act
    let now := (sget 0 s.time 0).toNat
    let put (l : List Strike) (s : State) : State := s.updCore x.c.core fun c => { c with resid := l ++ c.resid.erase st }
    let s := (s.updCore x.c.core fun c => c.strike now).perfAdd x.c.core x.c.vf 0x10 1
    if st.twice then
      (put [{ st with at_ := some (x.iss.who, x.iss.pc) }] s).fpGate x (x.act &&& ~~~hit) f fun _ =>
        ((put [] s).updCore x.c.core fun c => c.persists now).trapIssue x 0x19 hit
    else
      let s := put [] s
      s.fpGate x x.act f fun _ => k s
  | _, _ => s.fpGate x x.act f fun _ => k s

end Sys2Proof.Machine
end

