-- ==== Sys2Proof/Config.lean ====
section
/-! DEFINITION. What the spec leaves open and the model does not choose: constants without a body. -/

namespace Sys2Proof.Config

/-- A number the spec leaves open, one for each value of `State.draw` (notes/assumptions/2.md): which of the
deliveries and completions in flight comes next, and any other order or time that 12 R317 leaves free. -/
opaque pick : Nat → Nat

/-- A 64-bit value the spec does not state, one for each value of `State.draw` (notes/assumptions/3.md). -/
opaque freeWord : Nat → Word

/-- What LPR.SNAP reads in a handler, which reaches no snapshot entry (21 R462; notes/assumptions/102.md): one value for each cycle,
partition and lane. -/
opaque snapWord : Nat → Word

/-- The ports of a peer's edge mask, which the receiving module's graphs do not hold (16 R408; notes/assumptions/75.md): by the peer's
number and its queue's. -/
opaque peerMask : Nat → Nat → BitVec 16

/-- The energy, in microjoules, that the module draws in the interval the number names (18 R431 says that it is
measured; no rule computes it). -/
opaque energyOf : Nat → Nat

/-- The last bit of a special function's rounding that the model's interval evaluation does not settle
(notes/assumptions/11.md): the argument is the function's number, the format's width and the operand. -/
opaque unsettled : Nat → Nat → Nat → Bool

/-- The UE4M3 code that a negative immediate operand gives (05 R109 states none: notes/assumptions/12.md). -/
opaque ueNegative : BitVec 10 → Byte

/-- Which 128 KiB unit of host physical memory the companion processor gives the control window (15 R376). -/
opaque windowUnit : Nat

/-- The outcomes of the physical steps of a start (18 R439; notes/assumptions/14.md): by number, ROM, trim, HBM training,
HBM training with the alternative setting, routes, Zenvex Link, Zenvex Link with the alternative setting. -/
opaque bootOk : Nat → Bool

/-- The cores (0) and slices (1) that fail the built-in test of a start. -/
opaque bootBad : Nat → List Nat

/-- Does a spare core pass the residue self-test of a retirement (24 R511), one outcome for each value of `State.draw`? -/
opaque spareOk : Nat → Bool

/-- The nanoseconds that a die counts in a step of a start: the dies' counts are not synchronised (17 R429). The number names the start,
the step and the die. -/
opaque dieTime : Nat → Nat

/-- The trap base that the firmware of an image names, by the image's bytes from BODYOFS on (18 R437, 20 R448). -/
opaque bodyTrapbase : List Byte → Word

/-- A byte of the record of a start's step, whose layout no rule gives (18 R440; notes/assumptions/106.md): by its step, outcome, detail
code, TIME and the byte's number. -/
opaque bootByte : Nat → Nat → Nat → Nat → Nat → Byte

/-- The ports that train at a start. -/
opaque bootPorts : BitVec 16

end Sys2Proof.Config
end

