-- ==== Sys2Proof/Machine/Num.lean ====
section
/-! DEFINITION. Floating-point numbers (04): decoding a format exactly, one rounding, sums and products and quotients
that are exact before it, and the special functions of 08 R198 to R200. -/

namespace Sys2Proof

/-- Which special values a format has (04 R74). -/
inductive Spec where
  | ieee   -- infinities, and NaNs by the fraction
  | nan1   -- one NaN and no infinity
  | none
  deriving DecidableEq, Repr

/-- A floating-point format (04 R74): exponent and fraction bits, bias. -/
structure Fmt where
  eb : Nat
  mb : Nat
  bias : Nat
  sp : Spec
  signed : Bool := true
  deriving DecidableEq, Repr

/-- The formats of R74. -/
def FloatTy.fmt : FloatTy → Fmt
  | .f64 => { eb := 11, mb := 52, bias := 1023, sp := .ieee }
  | .f32 => { eb := 8, mb := 23, bias := 127, sp := .ieee }
  | .f16 => { eb := 5, mb := 10, bias := 15, sp := .ieee }
  | .bf16 => { eb := 8, mb := 7, bias := 127, sp := .ieee }
  | .e5m2 => { eb := 5, mb := 2, bias := 15, sp := .ieee }
  | .e4m3 => { eb := 4, mb := 3, bias := 7, sp := .nan1 }
  | .e3m2 => { eb := 3, mb := 2, bias := 3, sp := .none }
  | .e2m3 => { eb := 2, mb := 3, bias := 1, sp := .none }
  | .e2m1 => { eb := 2, mb := 1, bias := 1, sp := .none }
  | .ue4m3 => { eb := 4, mb := 3, bias := 7, sp := .nan1, signed := false }

/-- The float type of an arithmetic instruction. -/
def FTy.ty : FTy → FloatTy
  | .f64 => .f64
  | .f32 => .f32
  | .f16 => .f16
  | .bf16 => .bf16

/-- An exact value: a NaN (signalling or quiet), an infinity, or ±m·2^e. -/
inductive Num where
  | nan (sig : Bool)
  | inf (neg : Bool)
  | fin (neg : Bool) (m : Nat) (e : Int)
  deriving DecidableEq, Repr

namespace Fmt
/-- The bit of the sign. -/
def signBit (f : Fmt) (neg : Bool) : Nat := if f.signed && neg then 2 ^ (f.eb + f.mb) else 0
/-- The code of the largest finite value (04 R75). -/
def maxCode (f : Fmt) : Nat :=
  match f.sp with
  | .ieee => (2 ^ f.eb - 1) * 2 ^ f.mb - 1
  | .nan1 => 2 ^ (f.eb + f.mb) - 2
  | .none => 2 ^ (f.eb + f.mb) - 1
/-- The code of infinity. -/
def infCode (f : Fmt) : Nat := (2 ^ f.eb - 1) * 2 ^ f.mb
/-- The canonical NaN (04 R75); a format without one gives zero (R84). -/
def qnan (f : Fmt) : Nat :=
  match f.sp with
  | .ieee => f.infCode + 2 ^ (f.mb - 1)
  | .nan1 => 2 ^ (f.eb + f.mb) - 1
  | .none => 0
/-- The exponent of the smallest normal. -/
def emin (f : Fmt) : Int := 1 - (f.bias : Int)
end Fmt

/-- Decode a code (04 R74, R76); under `ftz` a subnormal reads as zero of the same sign (R83). -/
def decodeNum (f : Fmt) (ftz : Bool) (x : Nat) : Num :=
  let neg := f.signed && decide (x / 2 ^ (f.eb + f.mb) % 2 = 1)
  let ex := x / 2 ^ f.mb % 2 ^ f.eb
  let fr := x % 2 ^ f.mb
  let special : Option Num :=
    match f.sp with
    | .ieee =>
      if ex = 2 ^ f.eb - 1 then
        (if fr = 0 then some (.inf neg) else some (.nan (decide (fr / 2 ^ (f.mb - 1) = 0))))
      else none
    | .nan1 => if ex = 2 ^ f.eb - 1 ∧ fr = 2 ^ f.mb - 1 then some (.nan false) else none
    | .none => none
  match special with
  | some n => n
  | none =>
    if ex = 0 then .fin neg (if ftz then 0 else fr) (f.emin - f.mb)
    else .fin neg (2 ^ f.mb + fr) ((ex : Int) - f.bias - f.mb)

/-- The truncated magnitude, after rounding under a mode (04 R81): `rem` of `2 * half` was cut off, and `st` says that
more, too small to count in `rem`, was cut off with it. -/
def roundStep (md : Rnd) (neg : Bool) (n rem half : Nat) (st : Bool) : Nat :=
  if rem = 0 && !st then n
  else
    match md with
    | .rn | .dyn => if half < rem || (rem == half && (st || n % 2 == 1)) then n + 1 else n
    | .rz => n
    | .rp => if neg then n else n + 1
    | .rm => if neg then n + 1 else n
    | .ro => n ||| 1

/-- The result that overflows (04 R82). -/
def overflowCode (f : Fmt) (md : Rnd) (sat neg : Bool) : Nat × Fl :=
  let s := f.signBit neg
  if sat then (s + f.maxCode, Fl.of ||| Fl.nx ||| Fl.sa)
  else
    (match f.sp with
      | .ieee =>
        (match md with
          | .rn | .dyn => s + f.infCode
          | .rz | .ro => s + f.maxCode
          | .rp => if neg then s + f.maxCode else f.infCode
          | .rm => if neg then s + f.infCode else f.maxCode)
      | .nan1 => f.qnan
      | .none => s + f.maxCode, Fl.of ||| Fl.nx)

/-- Round ±(m + ε)·2^e, 0 < ε < 1 where `st`, by the given step (04 R82, R83). A magnitude given with `st` has at
least two bits more than the format's precision. -/
def roundBy (f : Fmt) (step : Nat → Nat → Nat → Bool → Nat) (omd : Rnd) (sat ftz neg : Bool) (m : Nat) (e : Int)
    (st : Bool) : Nat × Fl :=
  if m = 0 then (f.signBit neg, 0)
  else
    let len := m.log2 + 1
    let top : Int := e + len - 1
    let q := max (top - f.mb) (f.emin - f.mb)
    let tiny := decide (top < f.emin)
    if ftz && tiny then (f.signBit neg, Fl.uf ||| Fl.nx)
    else
      let sh := q - e
      let k := min sh.toNat (len + 5000)
      let n := if sh ≤ 0 then m <<< (-sh).toNat else m >>> k
      let rem := if sh ≤ 0 then 0 else m % 2 ^ k
      let half := if sh ≤ 0 then 1 else 2 ^ (k - 1)
      let inex := rem != 0 || st
      let code := (q - (f.emin - f.mb)).toNat * 2 ^ f.mb + step n rem half st
      if f.maxCode < code then overflowCode f omd sat neg
      else (f.signBit neg + code, if inex then (if tiny then Fl.uf ||| Fl.nx else Fl.nx) else 0)

/-- round(x, m) of R82. -/
def roundFin (f : Fmt) (md : Rnd) (sat ftz neg : Bool) (m : Nat) (e : Int) (st : Bool) : Nat × Fl :=
  roundBy f (roundStep md neg) md sat ftz neg m e st

/-- The code of an exact result, and its flags. An infinity in a format without one is decided as an overflow without
its flags: the instructions that can meet it are conversions, which R84 decides before. -/
def finish (f : Fmt) (md : Rnd) (sat ftz : Bool) (x : Num) (st : Bool := false) : Nat × Fl :=
  match x with
  | .nan _ => (f.qnan, 0)
  | .inf neg =>
    (match f.sp with
      | .ieee => f.signBit neg + f.infCode
      | .nan1 => f.qnan
      | .none => f.signBit neg + f.maxCode, 0)
  | .fin neg m e => roundFin f md sat ftz neg m e st

/-- Is it a NaN? -/
def Num.isNan : Num → Bool
  | .nan _ => true
  | _ => false

/-- NV of a signalling operand (04 R76). -/
def Num.sigFl : Num → Fl
  | .nan true => Fl.nv
  | _ => 0

def Num.isZero : Num → Bool
  | .fin _ m _ => m == 0
  | _ => false

def Num.neg : Num → Num
  | .nan s => .nan s
  | .inf n => .inf (!n)
  | .fin n m e => .fin (!n) m e

def Num.abs : Num → Num
  | .nan s => .nan s
  | .inf _ => .inf false
  | .fin _ m e => .fin false m e

/-- A source element after R178: FTZ, ABS, NEG. -/
def prepNum (f : Fmt) (ftz ab ng : Bool) (x : Nat) : Num :=
  let v := decodeNum f ftz x
  let v := if ab then v.abs else v
  if ng then v.neg else v

/-- An exact product; ∞ × 0 is invalid (04 R88). -/
def mulNum (a b : Num) : Num × Fl :=
  match a, b with
  | .nan _, _ | _, .nan _ => (.nan false, 0)
  | .inf s, .inf t => (.inf (s != t), 0)
  | .inf s, .fin t m _ | .fin t m _, .inf s => if m = 0 then (.nan false, Fl.nv) else (.inf (s != t), 0)
  | .fin s m e, .fin t n g => (.fin (s != t) (m * n) (e + g), 0)

/-- The signed magnitude of a finite value in units of 2^lo. -/
def Num.units (lo : Int) : Num → Int
  | .fin n m e => if n then -((m <<< (e - lo).toNat : Nat) : Int) else ((m <<< (e - lo).toNat : Nat) : Int)
  | _ => 0

/-- The least exponent of the addends that are not zero. -/
def minExp (xs : List Num) : Int :=
  (xs.foldl (fun acc x => match x with
    | .fin _ m e => if m = 0 then acc else (match acc with | none => some e | some g => some (min g e))
    | _ => acc) (none : Option Int)).getD 0

/-- An exact sum (04 R88, R89): opposite infinities are invalid; an exact zero sum is −0 when every addend is −0,
else +0, or −0 under RM. A quiet NaN among the addends decides before opposite infinities do, and sets no NV: a DESIGN CHOICE
(notes/assumptions/99.md). -/
def sumNum (md : Rnd) (xs : List Num) : Num × Fl :=
  let pinf := xs.any fun x => x == .inf false
  let ninf := xs.any fun x => x == .inf true
  if xs.any Num.isNan then (.nan false, 0)
  else if pinf && ninf then (.nan false, Fl.nv)
  else if pinf then (.inf false, 0)
  else if ninf then (.inf true, 0)
  else
    let lo := minExp xs
    let s := (xs.map (Num.units lo)).foldl (· + ·) 0
    if s = 0 then
      let allNeg := xs.all fun x => match x with | .fin n m _ => n && m == 0 | _ => false
      (.fin (allNeg || md == .rm) 0 lo, 0)
    else (.fin (decide (s < 0)) s.natAbs lo, 0)

/-- d = round(Σ products + Σ addends), one rounding, with the flags of R76, R88, R89. -/
def combine (f : Fmt) (md : Rnd) (sat ftz : Bool) (prods : List (Num × Num)) (adds : List Num) : Nat × Fl :=
  let sig := flOr (adds.map Num.sigFl ++ prods.map fun p => p.1.sigFl ||| p.2.sigFl)
  let ps := prods.map fun p => mulNum p.1 p.2
  let x := sumNum md (ps.map (·.1) ++ adds)
  let r := finish f md sat ftz x.1
  (r.1, sig ||| flOr (ps.map (·.2)) ||| x.2 ||| r.2)

/-- The order of two values; none where one is a NaN; −0 equals +0 (08 R182). -/
def cmpNum (a b : Num) : Option Ordering :=
  match a, b with
  | .nan _, _ | _, .nan _ => none
  | .inf s, .inf t => some (compare (if s then (-1 : Int) else 1) (if t then -1 else 1))
  | .inf s, .fin .. => some (if s then .lt else .gt)
  | .fin .., .inf t => some (if t then .gt else .lt)
  | .fin .., .fin .. =>
    let lo := minExp [a, b]
    some (compare (a.units lo) (b.units lo))

/-- The sign of a value that is no NaN. -/
def Num.sign : Num → Bool
  | .nan _ => false
  | .inf n => n
  | .fin n _ _ => n

/-- a < b with −0 below +0 (08 R181). -/
def ltNum (a b : Num) : Bool :=
  match cmpNum a b with
  | some .lt => true
  | some .eq => a.sign && !b.sign
  | _ => false

/-- minimumNumber, maximumNumber; with `strict`, minimum and maximum (08 R181). -/
def minMax (f : Fmt) (isMax strict : Bool) (a b : Num) : Nat × Fl :=
  let sig := a.sigFl ||| b.sigFl
  let code (x : Num) := (finish f .rn false false x).1
  if a.isNan && b.isNan then (f.qnan, sig)
  else if a.isNan || b.isNan then ((if strict then f.qnan else code (if a.isNan then b else a)), sig)
  else
    let l := ltNum a b
    (code (if l != isMax then a else b), sig)

/-- The comparison of FCMP and its NV (08 R182). -/
def fcmpNum (cc : Cmp) (a b : Num) : Bool × Fl :=
  let sig := a.sigFl ||| b.sigFl
  let o := cmpNum a b
  let un := a.isNan || b.isNan
  let q : Fl := if un then Fl.nv else 0
  match cc with
  | .eq => (o == some .eq, sig)
  | .ne => (o != some .eq, sig)
  | .lt => (o == some .lt, sig ||| q)
  | .le => (o == some .lt || o == some .eq, sig ||| q)
  | .gt => (o == some .gt, sig ||| q)
  | .ge => (o == some .gt || o == some .eq, sig ||| q)
  | .un => (un, sig)
  | .ord => (!un, sig)

/-- The class of a code (08 R183). -/
def classOf (f : Fmt) (x : Nat) : Nat :=
  match decodeNum f false x with
  | .nan true => 0
  | .nan false => 1
  | .inf n => if n then 2 else 9
  | .fin n m _ =>
    if m = 0 then (if n then 5 else 6)
    else if m < 2 ^ f.mb then (if n then 4 else 7)
    else (if n then 3 else 8)

/-- Round to an integer (08 R185): the magnitude, and whether it differs. -/
def rint (md : Rnd) (neg : Bool) (m : Nat) (e : Int) : Nat × Bool :=
  if 0 ≤ e then (m <<< e.toNat, false)
  else
    let k := min (-e).toNat (m.log2 + 5)
    let rem := m % 2 ^ k
    (roundStep md neg (m >>> k) rem (2 ^ (k - 1)) false, rem != 0)

/-- FRND (08 R185). -/
def frndE (f : Fmt) (md : Rnd) (x : Num) : Nat × Fl :=
  match x with
  | .fin neg m e =>
    let r := rint md neg m e
    ((finish f .rn false false (.fin neg r.1 0)).1, if r.2 then Fl.nx else 0)
  | _ => ((finish f .rn false false x).1, x.sigFl)

/-- FSCALE (08 R185). -/
def fscaleE (f : Fmt) (md : Rnd) (sat ftz : Bool) (x : Num) (n : Int) : Nat × Fl :=
  match x with
  | .fin neg m e => roundFin f md sat ftz neg m (e + n) false
  | _ => ((finish f .rn false false x).1, x.sigFl)

/-- floor(log2 |a|) of a finite non-zero value. -/
def topExp (m : Nat) (e : Int) : Int := e + m.log2

/-- FGETEXP (08 R186). -/
def fgetexpE (f : Fmt) (x : Num) : Nat × Fl :=
  match x with
  | .fin _ m e =>
    if m = 0 then (f.signBit true + f.infCode, Fl.dz)
    else let t := topExp m e
      finish f .rn false false (.fin (decide (t < 0)) t.natAbs 0)
  | .inf _ => (f.infCode, 0)
  | .nan _ => (f.qnan, x.sigFl)

/-- FGETMANT (08 R186). -/
def fgetmantE (f : Fmt) (x : Num) : Nat × Fl :=
  match x with
  | .fin neg m e =>
    if m = 0 then (f.signBit neg, 0) else finish f .rn false false (.fin neg m (e - topExp m e))
  | .inf _ => (f.qnan, Fl.nv)
  | .nan _ => (f.qnan, x.sigFl)

/-- FERR (08 R187). -/
def ferrE (f : Fmt) (md : Rnd) (ftz mul : Bool) (a b : Num) : Nat × Fl :=
  let prods := if mul then [(a, b)] else []
  let adds := if mul then [] else [a, b]
  let s := if mul then finish f md false ftz (mulNum a b).1 else combine f md false ftz [] [a, b]
  match decodeNum f false s.1 with
  | .fin n m e => combine f .rn false ftz prods (adds ++ [Num.fin (!n) m e])
  | _ => (f.qnan, a.sigFl ||| b.sigFl)

/-! ## Quotients -/

/-- A value that may stand a little above its magnitude, with the flags of its forming. -/
structure QNum where
  x : Num
  st : Bool := false
  fl : Fl := 0

/-- The IEEE 754 quotient (04 R85). -/
def divNum (a b : Num) : QNum :=
  match a, b with
  | .nan _, _ | _, .nan _ => { x := .nan false, fl := a.sigFl ||| b.sigFl }
  | .inf _, .inf _ => { x := .nan false, fl := Fl.nv }
  | .inf s, .fin t _ _ => { x := .inf (s != t) }
  | .fin s _ _, .inf t => { x := .fin (s != t) 0 0 }
  | .fin s m e, .fin t n g =>
    if n = 0 then (if m = 0 then { x := .nan false, fl := Fl.nv } else { x := .inf (s != t), fl := Fl.dz })
    else if m = 0 then { x := .fin (s != t) 0 0 }
    else
      let k := 80 + n.log2 - m.log2
      { x := .fin (s != t) ((m <<< k) / n) (e - g - k), st := (m <<< k) % n != 0 }

/-! ## Conversions -/

/-- A source element of a conversion: UE4M3 codes 0x80 and above are NaN with IC (04 R77), and a 6-bit element
ignores bits [7:6] (R80). -/
def decodeTy (t : FloatTy) (ftz : Bool) (x : Nat) : Num × Fl :=
  match t with
  | .ue4m3 => if 0x80 ≤ x then (.nan false, Fl.ic) else (decodeNum t.fmt ftz x, 0)
  | .e3m2 | .e2m3 => (decodeNum t.fmt ftz (x % 64), 0)
  | _ => (decodeNum t.fmt ftz x, 0)

/-- To a float type (04 R82, R84). -/
def toFloat (t : FloatTy) (md : Rnd) (sat ftz : Bool) (q : QNum) : Nat × Fl :=
  let f := t.fmt
  match q.x with
  | .nan s =>
    let sig : Fl := if s then Fl.nv else 0
    (match f.sp with
      | .none => 0
      | _ => f.qnan, q.fl ||| sig ||| (match f.sp with | .none => Fl.nv | _ => 0))
  | .inf neg =>
    (match f.sp with
      | .ieee => (f.signBit neg + f.infCode, q.fl)
      | .nan1 => if sat then (f.signBit neg + f.maxCode, q.fl ||| Fl.sa) else (f.qnan, q.fl ||| Fl.nv)
      | .none => (f.signBit neg + f.maxCode, q.fl ||| Fl.of))
  | .fin neg m e =>
    let r := roundFin f md sat ftz neg m e q.st
    (r.1, q.fl ||| r.2)

/-- To an integer type (04 R84, 08 R191). -/
def toIntTy (t : IntTy) (md : Rnd) (x : Num) : Nat × Fl :=
  let w := t.w.bits
  let lo := tmin w t.signed
  let hi := tmax w t.signed
  match x with
  | .nan _ => (0, Fl.nv)
  | .inf neg => (wrapN w (if neg then lo else hi), Fl.nv)
  | .fin neg m e =>
    if 0 ≤ e ∧ 200 < topExp m e ∧ m ≠ 0 then (wrapN w (if neg then lo else hi), Fl.nv)
    else
      let r := rint md neg m e
      let v : Int := if neg then -(r.1 : Int) else r.1
      if v < lo ∨ hi < v then (wrapN w (clampI lo hi v), Fl.nv)
      else (wrapN w v, if r.2 then Fl.nx else 0)

/-- An integer as a value. -/
def intNum (v : Int) : Num := .fin (decide (v < 0)) v.natAbs 0

/-- Stochastic rounding (04 R87). -/
def roundSr (t : FloatTy) (sat ftz : Bool) (r : Nat) (x : Num) : Nat × Fl :=
  match x with
  | .fin neg m e =>
    roundBy t.fmt (fun n rem half _ => if r < (rem * 2 ^ 32) / (2 * half) then n + 1 else n) .rn sat ftz neg m e false
  | _ => toFloat t .rn sat ftz { x := x }

/-- The elements that a conversion between widths converts, and where they go (08 R190). -/
def cvtLane (wd ws k : Nat) (a dOld : Word) (f : Nat → Nat → Nat × Fl) : LRes :=
  let n := 64 / max ws wd
  if wd < ws then
    let rs := (List.range n).map fun i => f i (elemN a ws i)
    { d := putBits dOld (wd * (k * n)) (wd * n) (ofElems wd (rs.map (·.1))), fl := flOr (rs.map (·.2)) }
  else
    let rs := (List.range n).map fun i => f i (elemN a ws (k * n + i))
    { d := packElems wd (rs.map (·.1)), fl := flOr (rs.map (·.2)) }

/-- One element of BSCL (08 R195). -/
def bsclE (a t : Num) : Nat × Fl :=
  match a, t with
  | .fin _ m e, .fin tn n g =>
    if n = 0 || tn then (0x7F, Fl.nv)
    else if m = 0 then (0, 0)
    else
      let q := divNum (.fin false m e) (.fin false n g)
      match cmpNum q.x (.fin false 448 0) with
      | some .gt => (0x7E, Fl.sa ||| Fl.nx)
      | some .eq => if q.st then (0x7E, Fl.sa ||| Fl.nx) else (0x7E, 0)
      | _ => toFloat .ue4m3 .rp false false q
  | _, _ => (0x7F, Fl.nv)

/-! ## Special functions (08 R198 to R200) -/

/-- A special function's number. -/
inductive Sf where
  | rcp | rsq | sqrt | exp2 | log2 | sin | cos | tanh
  deriving DecidableEq, Repr

def Sf.num : Sf → Nat
  | .rcp => 0
  | .rsq => 1
  | .sqrt => 2
  | .exp2 => 3
  | .log2 => 4
  | .sin => 5
  | .cos => 6
  | .tanh => 7

/-- π/2 in units of 2^-1024. -/
def piHalf : Nat := 0x1921fb54442d18469898cc51701b839a252049c1114cf98e804177d4c76273644a29410f31c6809bbdf2a33679a748636605614dbe4be286e9fc26adadaa3848bc90b6aecc4bcfd8de89885d34c6fdad617feb96de80d6fdbdc70d7f6b5133f4b5d3e4822f8963fcc9250cca3d9c8b67b8400f97142c77e0b31b4906c38aba734

/-- ln 2 in units of 2^-768. -/
def ln2 : Nat := 0xb17217f7d1cf79abc9e3b39803f2f6af40f343267298b62d8a0d175b8baafa2be7b876206debac98559552fb4afa1b10ed2eae35c138214427573b291169b8253e96ca16224ae8c51acbda11317c387eb9ea9bc3b136603b256fa0ec7657f74b

/-- Fractional bits of the interval arithmetic. -/
def fxP : Nat := 700

/-- Σ y^k / k! from the k-th term on, in units of 2^-700. -/
def expTail (y : Nat) : Nat → Nat → Nat → Nat
  | 0, _, _ => 0
  | fuel + 1, k, t => t + expTail y fuel (k + 1) ((t * y) >>> fxP / (k + 1))

/-- exp of y in [0, 1), both in units of 2^-700. -/
def fxExp (y : Nat) : Nat := expTail y 160 0 (2 ^ fxP)

/-- 2^f of f in [0, 1). -/
def fxExp2 (f : Nat) : Nat := fxExp ((f * ln2) >>> 768)

/-- Σ (−1)^k t_k of a sine or cosine series: the next term is t·z / ((k + 1)(k + 2)). -/
def trigTail (z : Nat) : Nat → Nat → Nat → Int
  | 0, _, _ => 0
  | fuel + 1, k, t => (t : Int) - trigTail z fuel (k + 2) ((t * z) >>> fxP / ((k + 1) * (k + 2)))

/-- sin and cos of r in [0, π/2). -/
def fxSin (r : Nat) : Int := trigTail ((r * r) >>> fxP) 90 1 r
def fxCos (r : Nat) : Int := trigTail ((r * r) >>> fxP) 90 0 (2 ^ fxP)

/-- Σ t^(2k+1) / (2k+1), k up. -/
def atanhTail (z : Nat) : Nat → Nat → Nat → Nat
  | 0, _, _ => 0
  | fuel + 1, k, t => t / (2 * k + 1) + atanhTail z fuel (k + 1) ((t * z) >>> fxP)

/-- ln of z in [1, 2), in units of 2^-700. -/
def fxLn (z : Nat) : Nat :=
  let t := ((z - 2 ^ fxP) <<< fxP) / (z + 2 ^ fxP)
  2 * atanhTail ((t * t) >>> fxP) 240 0 t

/-- A finite positive magnitude in units of 2^-700, rounded down. -/
def fxOf (m : Nat) (e : Int) : Nat :=
  if 0 ≤ e + fxP then m <<< (e + fxP).toNat else m >>> (-(e + fxP)).toNat

/-- What a special function gives before it is rounded: a value, one that stands a little above its magnitude, or
bounds of a magnitude in units of 2^e. -/
inductive SfRes where
  | exact (x : Num) (fl : Fl)
  | above (neg : Bool) (m : Nat) (e : Int)
  | between (neg : Bool) (lo hi : Nat) (e : Int)

/-- Bounds about a computed magnitude: the series above are exact to 2^-680. -/
def about (neg : Bool) (v : Nat) (e : Int) : SfRes := .between neg (v - 2 ^ 20) (v + 2 ^ 20) e

/-- The quadrant and remainder of a magnitude by π/2: the remainder in units of 2^-700. -/
def trigReduce (m : Nat) (e : Int) : Nat × Nat :=
  let x := if 0 ≤ e + 1024 then m <<< (e + 1024).toNat else 0
  (x / piHalf, (x % piHalf) >>> (1024 - fxP))

/-- sin (or cos, with the quadrant one further) of a finite non-zero value. -/
def trigRes (neg isCos : Bool) (m : Nat) (e : Int) : SfRes :=
  let r := trigReduce m e
  let q := (r.1 + (if isCos then 1 else 0)) % 4
  let v := if q % 2 = 0 then fxSin r.2 else fxCos r.2
  let s := (decide (2 ≤ q)) != (neg && !isCos)
  about s v.natAbs (-(fxP : Int))

/-- e^(−2x) of a magnitude, in units of 2^-700; zero beyond 2^9. -/
def fxExpNeg2 (m : Nat) (e : Int) : Nat :=
  if 9 < topExp m e then 0
  else
    let y := (fxOf m e * 2 <<< 768) / ln2
    let n := y >>> fxP
    let f := y % 2 ^ fxP
    if f = 0 then (2 ^ fxP) >>> n else fxExp2 (2 ^ fxP - f) >>> (n + 1)

/-- The special function of a prepared operand (08 R199, R200). -/
def sfRes (g : Sf) (x : Num) : SfRes :=
  match x with
  | .nan s => .exact (.nan false) (if s then Fl.nv else 0)
  | .inf neg =>
    match g with
    | .rcp => .exact (.fin neg 0 0) 0
    | .rsq => if neg then .exact (.nan false) Fl.nv else .exact (.fin false 0 0) 0
    | .sqrt | .log2 => if neg then .exact (.nan false) Fl.nv else .exact (.inf false) 0
    | .exp2 => if neg then .exact (.fin false 0 0) 0 else .exact (.inf false) 0
    | .sin | .cos => .exact (.nan false) Fl.nv
    | .tanh => .exact (.fin neg 1 0) 0
  | .fin neg m e =>
    if m = 0 then
      match g with
      | .rcp | .rsq => .exact (.inf neg) Fl.dz
      | .sqrt | .sin | .tanh => .exact (.fin neg 0 0) 0
      | .exp2 | .cos => .exact (.fin false 1 0) 0
      | .log2 => .exact (.inf true) Fl.dz
    else
      match g with
      | .rcp =>
        let q := divNum (.fin false 1 0) (.fin neg m e)
        (match q.x with
          | .fin s n k => if q.st then .above s n k else .exact q.x 0
          | y => .exact y 0)
      | .rsq =>
        if neg then .exact (.nan false) Fl.nv
        else
          let odd := e % 2 != 0
          let m' := if odd then 2 * m else m
          let e' := if odd then e - 1 else e
          let k := 80 + m'.log2
          let r := isqrt (2 ^ (2 * k) / m')
          let e2 : Int := -(e' / 2) - k
          if r * r * m' = 2 ^ (2 * k) then .exact (.fin false r e2) 0 else .above false r e2
      | .sqrt =>
        if neg then .exact (.nan false) Fl.nv
        else
          let odd := e % 2 != 0
          let m' := (if odd then 2 * m else m) * 2 ^ 160
          let e' := if odd then e - 1 else e
          let r := isqrt m'
          let e2 : Int := e' / 2 - 80
          if r * r = m' then .exact (.fin false r e2) 0 else .above false r e2
      | .exp2 =>
        if 12 < topExp m e then .above false (2 ^ 80) (if neg then -10000 else 10000)
        else
          let y := fxOf m e
          let n := y >>> fxP
          let f := y % 2 ^ fxP
          if f = 0 then .exact (.fin false 1 (if neg then -(n : Int) else n)) 0
          else if neg then about false (fxExp2 (2 ^ fxP - f)) (-(n : Int) - 1 - fxP)
          else about false (fxExp2 f) ((n : Int) - fxP)
      | .log2 =>
        if neg then .exact (.nan false) Fl.nv
        else
          let t := topExp m e
          let z := m <<< (fxP - m.log2)
          if z = 2 ^ fxP then .exact (intNum t) 0
          else
            let l := (fxLn z <<< 768) / ln2
            let v : Int := t * (2 ^ fxP : Nat) + l
            about (decide (v < 0)) v.natAbs (-(fxP : Int))
      | .sin => trigRes neg false m e
      | .cos => trigRes neg true m e
      | .tanh =>
        let q := fxExpNeg2 m e
        let v := ((2 ^ fxP - q) <<< fxP) / (2 ^ fxP + q)
        .between neg (v - 2 ^ 20) (min (v + 2 ^ 20) (2 ^ fxP - 1)) (-(fxP : Int))

/-- A special function of one element, rounded once (08 R199). Where the two bounds round apart, the value is the one
the spec's exact result decides and the model does not settle. -/
def sfE (g : Sf) (f : Fmt) (md : Rnd) (ftz : Bool) (code : Nat) (x : Num) : Nat × Fl :=
  match sfRes g x with
  | .exact y fl =>
    let r := finish f md false ftz y
    (r.1, fl ||| r.2)
  | .above neg m e => roundFin f md false ftz neg m e true
  | .between neg lo hi e =>
    let a := roundFin f md false ftz neg lo e true
    let b := roundFin f md false ftz neg hi e true
    if a = b then a else if Config.unsettled g.num (f.eb + f.mb) code then a else b

end Sys2Proof
end

