-- ==== Sys2Proof/Machine/FloatAlu.lean ====
section
/-! DEFINITION. What the floating, conversion and special-function families compute for one lane (08): pure functions of
the operands' 64-bit values under a resolved rounding mode. -/

namespace Sys2Proof

/-- The rounding mode of an instruction: `.DYN` takes FCR.RMODE (04 R81, R95). -/
def Rnd.resolve (r : Rnd) (rmode : BitVec 3) : Rnd :=
  match r with
  | .dyn =>
    (match rmode with
      | 1 => .rz
      | 2 => .rp
      | 3 => .rm
      | 4 => .ro
      | _ => .rn)
  | r => r

/-- Prepared elements of A, B and C (08 R178). -/
def prepA (f : Fmt) (m : FMod) (x : Nat) : Num := prepNum f m.ftz m.absA m.negA x
def prepB (f : Fmt) (m : FMod) (x : Nat) : Num := prepNum f m.ftz m.absB m.negB x
def prepC (f : Fmt) (m : FMod) (x : Nat) : Num := prepNum f m.ftz false m.negC x

/-- FADD of one lane (08 R180). -/
def faddW (ty : FTy) (m : FMod) (md : Rnd) (a b : Word) : LRes :=
  let t := ty.ty
  perElem t.bits fun i =>
    combine t.fmt md m.sat m.ftz [] [prepA t.fmt m (elemN a t.bits i), prepB t.fmt m (elemN b t.bits i)]

/-- One product, rounded (08 R180). -/
def fmulE (f : Fmt) (md : Rnd) (sat ftz : Bool) (a b : Num) : Nat × Fl :=
  let p := mulNum a b
  let r := finish f md sat ftz p.1
  (r.1, a.sigFl ||| b.sigFl ||| p.2 ||| r.2)

/-- FMUL of one lane. -/
def fmulW (ty : FTy) (m : FMod) (md : Rnd) (a b : Word) : LRes :=
  let t := ty.ty
  perElem t.bits fun i =>
    fmulE t.fmt md m.sat m.ftz (prepA t.fmt m (elemN a t.bits i)) (prepB t.fmt m (elemN b t.bits i))

/-- FFMA of one lane. -/
def ffmaW (ty : FTy) (m : FMod) (md : Rnd) (a b c : Word) : LRes :=
  let t := ty.ty
  perElem t.bits fun i =>
    combine t.fmt md m.sat m.ftz [(prepA t.fmt m (elemN a t.bits i), prepB t.fmt m (elemN b t.bits i))]
      [prepC t.fmt m (elemN c t.bits i)]

/-- FMIN, FMAX, FMINM, FMAXM of one lane (08 R181). -/
def fminmaxW (ty : FTy) (m : FMod) (isMax strict : Bool) (a b : Word) : LRes :=
  let t := ty.ty
  perElem t.bits fun i =>
    minMax t.fmt isMax strict (prepA t.fmt m (elemN a t.bits i)) (prepB t.fmt m (elemN b t.bits i))

/-- FCMP of each element: the comparisons and the flags (08 R182). -/
def fcmpElems (ty : FTy) (m : FMod) (cc : Cmp) (a b : Word) : List Bool × Fl :=
  let t := ty.ty
  let rs := (List.range (64 / t.bits)).map fun i =>
    fcmpNum cc (prepA t.fmt m (elemN a t.bits i)) (prepB t.fmt m (elemN b t.bits i))
  (rs.map (·.1), flOr (rs.map (·.2)))

/-- FCLASS of each element (08 R183). -/
def fclassElems (ty : FTy) (mask : BitVec 10) (a : Word) : List Bool :=
  let t := ty.ty
  (List.range (64 / t.bits)).map fun i => mask.getLsbD (classOf t.fmt (elemN a t.bits i))

/-- FDOT2 and FDOT4 of one lane: `parts` products a result (08 R184). -/
def fdotW (ta tb : FloatTy) (parts : Nat) (m : FMod) (md : Rnd) (a b c : Word) : LRes :=
  let w := 32 / parts
  let f := FloatTy.f32.fmt
  perElem 32 fun e =>
    combine f md m.sat m.ftz
      ((List.range parts).map fun j =>
        (prepA ta.fmt m (elemN a w (parts * e + j)), prepB tb.fmt m (elemN b w (parts * e + j))))
      [prepC f m (elemN c 32 e)]

/-- FRND of one lane (08 R185). -/
def frndW (ty : FTy) (m : FMod) (md : Rnd) (a : Word) : LRes :=
  let t := ty.ty
  perElem t.bits fun i => frndE t.fmt md (prepA t.fmt m (elemN a t.bits i))

/-- FSCALE of one lane; the count is read as two's complement of the element width (08 R185). -/
def fscaleW (ty : FTy) (m : FMod) (md : Rnd) (a b : Word) : LRes :=
  let t := ty.ty
  perElem t.bits fun i =>
    fscaleE t.fmt md m.sat m.ftz (prepA t.fmt m (elemN a t.bits i)) (elemI b t.bits true i)

/-- FGETEXP and FGETMANT of one lane (08 R186). -/
def fgetexpW (ty : FTy) (m : FMod) (a : Word) : LRes :=
  perElem ty.ty.bits fun i => fgetexpE ty.ty.fmt (prepA ty.ty.fmt m (elemN a ty.ty.bits i))
def fgetmantW (ty : FTy) (m : FMod) (a : Word) : LRes :=
  perElem ty.ty.bits fun i => fgetmantE ty.ty.fmt (prepA ty.ty.fmt m (elemN a ty.ty.bits i))

/-- FERR of one lane (08 R187). -/
def ferrW (ty : FTy) (m : FMod) (md : Rnd) (mul : Bool) (a b : Word) : LRes :=
  let t := ty.ty
  perElem t.bits fun i =>
    ferrE t.fmt md m.ftz mul (prepA t.fmt m (elemN a t.bits i)) (prepB t.fmt m (elemN b t.bits i))

/-- A special function of one lane (08 R198). -/
def sfW (g : Sf) (ty : FTy) (m : FMod) (md : Rnd) (a : Word) : LRes :=
  let t := ty.ty
  perElem t.bits fun i => sfE g t.fmt md m.ftz (elemN a t.bits i) (prepA t.fmt m (elemN a t.bits i))

/-! ## Conversions (08 R189 to R197) -/

def cvtFfW (td ts : FloatTy) (m : FMod) (md : Rnd) (k : Nat) (a dOld : Word) : LRes :=
  cvtLane td.bits ts.bits k a dOld fun _ x =>
    let v := decodeTy ts m.ftz x
    toFloat td md m.sat m.ftz { x := v.1, fl := v.2 }

def cvtFiW (td : IntTy) (ts : FloatTy) (m : FMod) (md : Rnd) (k : Nat) (a dOld : Word) : LRes :=
  cvtLane td.w.bits ts.bits k a dOld fun _ x =>
    let v := decodeTy ts m.ftz x
    let r := toIntTy td md v.1
    (r.1, v.2 ||| r.2)

def cvtIfW (td : FloatTy) (ts : IntTy) (m : FMod) (md : Rnd) (k : Nat) (a dOld : Word) : LRes :=
  cvtLane td.bits ts.w.bits k a dOld fun _ x =>
    toFloat td md m.sat m.ftz { x := intNum (toI ts.w.bits ts.signed x) }

def cvtIiW (td ts : IntTy) (m : FMod) (k : Nat) (a dOld : Word) : LRes :=
  cvtLane td.w.bits ts.w.bits k a dOld fun _ x => satWrap td.w.bits td.signed m.sat (toI ts.w.bits ts.signed x)

def cvtsW (td ts : FloatTy) (m : FMod) (md : Rnd) (k : Nat) (a b dOld : Word) : LRes :=
  cvtLane td.bits ts.bits k a dOld fun i x =>
    toFloat td md m.sat m.ftz (divNum (decodeNum ts.fmt m.ftz x) (decodeNum ts.fmt m.ftz (elemN b ts.bits i)))

/-- One element of CVTEF: the narrowed value and the residual (04 R86). -/
def cvtefE (td : FloatTy) (m : FMod) (md : Rnd) (x s : Num) : (Nat × Fl) × (Nat × Fl) :=
  let f := FloatTy.f32.fmt
  let d1 := toFloat td md m.sat false (divNum x s)
  (d1, combine f .rn false false [(s.neg, decodeNum td.fmt false d1.1)] [x])

/-- CVTEF of one lane: D, and the residual register (08 R193). -/
def cvtefW (td : FloatTy) (m : FMod) (md : Rnd) (k : Nat) (a : Word) (b : Option Word) (dOld : Word) :
    LRes × LRes :=
  let f := FloatTy.f32.fmt
  let el (i : Nat) := cvtefE td m md (decodeNum f false (elemN a 32 i))
    (match b with | some b => decodeNum f false (elemN b 32 i) | none => .fin false 1 0)
  (cvtLane td.bits 32 k a dOld fun i _ => (el i).1, perElem 32 fun i => (el i).2)

def cvtsrW (td ts : FloatTy) (m : FMod) (k : Nat) (a b dOld : Word) : LRes :=
  cvtLane td.bits ts.bits k a dOld fun i x =>
    roundSr td m.sat m.ftz (elemN b 32 (i % 2)) (decodeNum ts.fmt m.ftz x)

/-- BSCL of one lane (08 R195). -/
def bsclW (k : Nat) (a b dOld : Word) : LRes :=
  let f := FloatTy.f32.fmt
  let rs := [0, 1].map fun i => bsclE (decodeNum f false (elemN a 32 i)) (decodeNum f false (elemN b 32 i))
  { d := putBits dOld (16 * k) 16 (ofElems 8 (rs.map (·.1))), fl := flOr (rs.map (·.2)) }

/-- PACK.B6 of one lane (08 R196). -/
def packB6W (k : Nat) (a b : Word) : Word :=
  let bits := ofElems 6 ((List.range 8).map (fun i => elemN a 8 i) ++ (List.range 8).map (fun i => elemN b 8 i))
  BitVec.ofNat 64 (bits >>> (64 * k - 48 * k))

/-- UNPK.B6 of one lane (08 R196): `j` is the word that A holds. -/
def unpkB6W (k : Nat) (a b : Word) : Word :=
  let j := 3 * k / 4
  let bits := (a.toNat + (if k = 1 ∨ k = 2 then b.toNat else 0) * 2 ^ 64) >>> (48 * k - 64 * j)
  packElems 8 ((List.range 8).map fun i => (bits >>> (6 * i)) % 64)

/-- The TRI code of an I8 element, and SA where it is clamped (08 R197). -/
def triCode (x : Int) : Nat × Fl :=
  (if x = 0 then 0 else if 0 < x then 1 else 3, if x < -1 ∨ 1 < x then Fl.sa else 0)

/-- PACK.TRI of one lane (08 R197): sixteen codes. -/
def packTriW (k : Nat) (a b dOld : Word) : LRes :=
  let rs := ((List.range 8).map fun i => triCode (elemI a 8 true i)) ++
    ((List.range 8).map fun i => triCode (elemI b 8 true i))
  { d := putBits dOld (32 * k) 32 (ofElems 2 (rs.map (·.1))), fl := flOr (rs.map (·.2)) }

/-- The value of a TRI code, and IC of the invalid one (04 R78). -/
def triVal (c : Nat) : Int × Fl :=
  match c with
  | 1 => (1, 0)
  | 3 => (-1, 0)
  | 2 => (0, Fl.ic)
  | _ => (0, 0)

/-- UNPK.TRI of one lane (08 R197). -/
def unpkTriW (k : Nat) (a : Word) : LRes :=
  let rs := (List.range 8).map fun i => triVal (elemN a 2 (8 * k + i))
  { d := packElems 8 (rs.map fun r => wrapN 8 r.1), fl := flOr (rs.map (·.2)) }

/-! ## Immediates -/

/-- A 10-bit immediate in elements of a float type, rounded under RN without a flag (05 R109). The spec states no
UE4M3 code of a negative number: it is a free value (notes/assumptions/12.md). -/
def immFloat (t : FloatTy) (n : BitVec 10) : Word :=
  let v := n.toInt
  let c := if t == .ue4m3 && decide (v < 0) then (Config.ueNegative n).toNat else (toFloat t .rn false false { x := intNum v }).1
  packElems t.bits (List.replicate (64 / t.bits) c)

/-- IMM32 of a floating I form: an FP32 pattern, widened exactly for F64 (05 R116, 08 R188). -/
def immF32 (ty : FTy) (imm : BitVec 32) : Word :=
  match ty with
  | .f64 =>
    if (decodeNum FloatTy.f32.fmt false imm.toNat).isNan then
      BitVec.ofNat 64 (imm.toNat / 2 ^ 31 * 2 ^ 63 + 0x7FF * 2 ^ 52 + imm.toNat % 2 ^ 23 * 2 ^ 29)
    else BitVec.ofNat 64 (finish FloatTy.f64.fmt .rn false false (decodeNum FloatTy.f32.fmt false imm.toNat)).1
  | _ => packElems 32 [imm.toNat, imm.toNat]

/-! ## FOLD (08 R206) -/

/-- One element of FOLD.ADD over the active lanes. -/
def foldAddE (ty : FoldTy) (md : Rnd) (sat ftz : Bool) (xs : List Nat) : Nat × Fl :=
  match ty with
  | .int t => satWrap t.w.bits t.signed sat ((xs.map (toI t.w.bits t.signed)).foldl (· + ·) 0)
  | .flt t => combine t.ty.fmt md sat ftz [] (xs.map (decodeNum t.ty.fmt ftz))

/-- One element of FOLD.MIN or FOLD.MAX over the active lanes, in ascending order. -/
def foldMinmaxE (ty : FoldTy) (isMax ftz : Bool) (xs : List Nat) : Nat × Fl :=
  match ty with
  | .int t =>
    let w := t.w.bits
    (match xs with
      | [] => (0, 0)
      | x :: r => (wrapN w (r.foldl (fun acc y =>
          let z := toI w t.signed y
          if isMax then max acc z else min acc z) (toI w t.signed x)), 0))
  | .flt t =>
    let f := t.ty.fmt
    (match xs with
      | [] => (0, 0)
      | x :: r =>
        let v := decodeNum f ftz x
        let one := minMax f isMax false v v
        r.foldl (fun acc y =>
          let z := minMax f isMax false (decodeNum f false acc.1) (decodeNum f ftz y)
          (z.1, acc.2 ||| z.2)) one)

/-- Width of a FOLD's elements. -/
def FoldTy.bits : FoldTy → Nat
  | .int t => t.w.bits
  | .flt t => t.ty.bits

/-! ## Float atomics (09 R227) -/

/-- The new value of a float atomic on one element. -/
def atomFE (t : FloatTy) (op : AFOp) (old b : Nat) : Nat :=
  let x := decodeNum t.fmt false old
  let y := decodeNum t.fmt false b
  match op with
  | .add => (combine t.fmt .rn false false [] [x, y]).1
  | .min => (minMax t.fmt false false x y).1
  | .max => (minMax t.fmt true false x y).1

/-- The new value of an ATOMF. -/
def atomFNew (ty : AFTy) (op : AFOp) (old b : Nat) : Nat :=
  match ty with
  | .f32 => atomFE .f32 op old b
  | .f64 => atomFE .f64 op old b
  | .bf16x2 =>
    atomFE .bf16 op (old % 2 ^ 16) (b % 2 ^ 16) + 2 ^ 16 * atomFE .bf16 op (old / 2 ^ 16 % 2 ^ 16) (b / 2 ^ 16 % 2 ^ 16)

end Sys2Proof
end

