-- ==== Sys2Proof/Machine/Operands.lean ====
section
/-! DEFINITION. The operand forms (05 R103 to R109, R117): registers, predicates, stream ports and immediates as sources
and destinations, the addresses of memory words, and the one executor of vector words. -/

namespace Sys2Proof.Machine

/-! ## Tiles as scratchpad (09 R211, R234) -/

/-- The scratchpad offset of a tile: the tiles stand end to end in handle order. -/
def Crew.tileBase (c : Crew) (t : Nat) : Nat := ((c.tiles.take t).map (·.size)).sum

/-- The tile that holds an offset, walking from tile `t` at base `b`. -/
def tileOf (tiles : List Tile) (t b a : Nat) : Option Nat :=
  match tiles with
  | [] => none
  | x :: r => if a < b + x.size then some t else tileOf r (t + 1) (b + x.size) a

/-- The tile that holds `n` bytes at a scratchpad offset; none beyond the tiles or across two (cause 0x03). -/
def Crew.tileAt (c : Crew) (a n : Nat) : Option Nat :=
  (tileOf c.tiles 0 0 a).bind fun t =>
    (c.tiles[t]?).bind fun x => if a + n ≤ c.tileBase t + x.size then some t else none

/-- A tile-table entry. -/
def Crew.tile (c : Crew) (t : Nat) : Tile := c.tiles.getD t {}

/-- Change a tile-table entry. -/
def Crew.updTile (c : Crew) (t : Nat) (f : Tile → Tile) : Crew := { c with tiles := lupd c.tiles t f }

/-- Is the entry EMPTY or handed away, for which a gated access is cause 0x08 (09 R234)? -/
def Tile.gone (t : Tile) : Bool := t.st == .empty || t.handed

/-- Does a read or a write wait for the entry (09 R234)? -/
def Tile.waits (t : Tile) (wr : Bool) : Bool := t.st == .filling || (wr && t.st == .draining)

/-- The code of a tile state (09 R235). -/
def TSt.code : TSt → Nat
  | .empty => 0
  | .filling => 1
  | .ready => 2
  | .draining => 3

/-- TRAPINFO of cause 0x08 (20 R450). -/
def info08 (reason t : Nat) (x : Tile) : Word :=
  BitVec.ofNat 64 (reason + t * 2 ^ 8 + (if x.handed then 0 else x.st.code) * 2 ^ 16)

/-! ## Stream ports (09 R245, R246) -/

/-- A port of a group. -/
def Group.port (g : Group) (n : Nat) : Port := sget Port.none g.ports n

/-- The scratchpad offset of the vector at a port's position. -/
def Crew.portAddr (c : Crew) (p : Port) : Nat := c.tileBase p.tile + p.ofs + 8 * p.pos * p.stride

/-- A use of a port by a word: its number, and whether it writes. -/
structure PUse where
  n : Nat
  wr : Bool
  deriving DecidableEq, Repr

/-- The ports among source and destination fields; a port in two source fields is read once (05 R106). -/
def portUses (srcs dsts : List Opnd) : List PUse :=
  let f (wr : Bool) (o : Opnd) : Option PUse := match o with
    | .sp n => some { n := n.toNat, wr := wr }
    | _ => none
  (srcs.filterMap (f false) ++ dsts.filterMap (f true)).eraseDups

/-- Is the port unbound, at its end, or bound the other way (09 R246)? -/
def Port.exhausted (p : Port) (wr : Bool) : Bool := p.count == 0 || p.wr != wr || decide (p.count ≤ p.pos)

/-- The checks of a word's port accesses: tile state 0x08, exhaustion 0x09, watchpoints 0x0C, and the wait for a tile
(09 R234, R246, 20 R459, 22 R489). -/
def State.portGate (s : State) (x : Ctx) (us : List PUse) (k : Unit → State) : State :=
  if us.isEmpty || x.act == 0 then k ()
  else
    match us.find? (fun u => let p := x.g.port u.n
        p.count != 0 && (x.c.tile p.tile).gone) with
    | some u => let p := x.g.port u.n
      s.trapIssue x 0x08 x.act (info08 0 p.tile (x.c.tile p.tile))
    | none =>
      match us.find? (fun u => (x.g.port u.n).exhausted u.wr) with
      | some u => s.trapIssue x 0x09 x.act (BitVec.ofNat 64 (u.n + (x.g.port u.n).pos * 2 ^ 32))
      | none =>
        let co := s.core x.c.core
        let hit (l : Nat) : Option (Nat × PUse) :=
          if x.g.handler || x.g.suppressed x.iss.pc l then none
          else us.findSome? fun u =>
            (watchHit co true (!u.wr) u.wr (x.c.portAddr (x.g.port u.n) + 8 * l) 8).map fun w => (w, u)
        let m := Mask.ofFn fun l => x.act.has l && (hit l).isSome
        let regs := (m.lanes.map fun l => us.filterMap fun u =>
          watchHit co true (!u.wr) u.wr (x.c.portAddr (x.g.port u.n) + 8 * l) 8).flatten
        match m.low.bind hit, m.low with
        | some (_, u), some l =>
          s.trapIssue x 0x0C m (BitVec.ofNat 64 (regs.foldl min 3 + if u.wr then 4 else 0))
            (BitVec.ofNat 64 (watchByte co true (!u.wr) u.wr (x.c.portAddr (x.g.port u.n) + 8 * l) 8))
        | _, _ =>
          if us.any (fun u => (x.c.tile (x.g.port u.n).tile).waits u.wr) then s.waitRetry x else k ()

/-- Eight bytes of the scratchpad as a value. -/
def Crew.rdScratch (c : Crew) (a n : Nat) : Nat := leNat (c.scratch.read a n)

/-- Write bytes of the scratchpad. -/
def Crew.wrScratch (c : Crew) (a : Nat) (bs : List Byte) : Crew := { c with scratch := c.scratch.write a bs }

/-- Move the positions of the ports a word used on by one (09 R246). -/
def Group.bumpPorts (g : Group) (us : List PUse) : Group :=
  { g with ports := (us.map (·.n)).eraseDups.foldl (fun m n =>
      let p := sget Port.none m n
      sset Port.none m n { p with pos := p.pos + 1 }) g.ports }

/-! ## Reading sources -/

/-- The value of a source register in a lane: V, G, a predicate (0 or 1), or a stream port's vector (05 R105, R106).
An immediate has no type of its own; it reads as the sign-extended 64-bit value. -/
def Ctx.src (x : Ctx) (o : Opnd) (l : Nat) : Word :=
  match o with
  | .v n => x.g.rdV n.toNat l
  | .g n => x.g.rdG n.toNat
  | .p n => if (x.g.rdP n.toNat).has l then 1 else 0
  | .sp n => BitVec.ofNat 64 (x.c.rdScratch (x.c.portAddr (x.g.port n.toNat) + 8 * l) 8)
  | .imm n => n.signExtend 64
  | _ => 0

/-- A source of an integer instruction of element width `w` (05 R109). -/
def Ctx.srcI (x : Ctx) (w : Nat) (o : Opnd) (l : Nat) : Word :=
  match o with
  | .imm n => immOpnd w n
  | o => x.src o l

/-- A source of a floating instruction of element type `t` (05 R109). -/
def Ctx.srcF (x : Ctx) (t : FloatTy) (o : Opnd) (l : Nat) : Word :=
  match o with
  | .imm n => immFloat t n
  | o => x.src o l

/-- The second source of an integer instruction with an I form (07 R170). -/
def Ctx.src2I (x : Ctx) (w : Nat) (sgn : Bool) (b : Src2) (l : Nat) : Word :=
  match b with
  | .r o => x.srcI w o l
  | .i imm => immElems w sgn imm

/-- The second source of an untyped integer instruction with an I form (07 R170). -/
def Ctx.src2U (x : Ctx) (b : Src2) (l : Nat) : Word :=
  match b with
  | .r o => x.srcI 64 o l
  | .i imm => imm64 imm

/-- The operands among fields. -/
def opnds (fs : List (Nat × Opnd)) : List Opnd := fs.map (·.2)

/-- The second and third sources of an integer instruction: in the I form the immediate, and D (07 R170). -/
def Ctx.src3I (x : Ctx) (w : Nat) (sgn : Bool) (d : Opnd) (bc : Src3) (l : Nat) : Word × Word :=
  match bc with
  | .r b c => (x.srcI w b l, x.srcI w c l)
  | .i imm => (immElems w sgn imm, x.src d l)

/-- The second and third sources of BLUT and BFI (07 R170). -/
def Ctx.src3U (x : Ctx) (d : Opnd) (bc : Src3) (l : Nat) : Word × Word :=
  match bc with
  | .r b c => (x.srcI 64 b l, x.srcI 64 c l)
  | .i imm => (imm64 imm, x.src d l)

/-- The second source of a floating instruction with an I form (08 R188). -/
def Ctx.src2F (x : Ctx) (ty : FTy) (b : Src2) (l : Nat) : Word :=
  match b with
  | .r o => x.srcF ty.ty o l
  | .i imm => immF32 ty imm

/-- The second and third sources of FFMA (08 R188). -/
def Ctx.src3F (x : Ctx) (ty : FTy) (d : Opnd) (bc : Src3) (l : Nat) : Word × Word :=
  match bc with
  | .r b c => (x.srcF ty.ty b l, x.srcF ty.ty c l)
  | .i imm => (immF32 ty imm, x.src d l)

/-- The rounding mode of a floating word in its group (04 R81, R95). -/
def Ctx.md (x : Ctx) (r : Rnd) : Rnd := r.resolve (x.g.fcr.setWidth 3)

/-- The value of a scalar operand: a G register, an immediate, or a V register read in the lowest active lane. -/
def Ctx.scalar (x : Ctx) (o : Opnd) : Word := x.src o (x.act.low.getD 0)

/-! ## Writing destinations -/

/-- Write a register destination in the active lanes: V by lane, G the lowest active lane's value (05 R105), P the
active lanes' bits (07 R150). Stream ports are written by `Crew.wrPort`. -/
def Group.wrDst (g : Group) (act : Mask) (o : Opnd) (d : Nat → Word) (pb : Nat → Bool) : Group :=
  match o with
  | .v n => g.wrV n.toNat act d
  | .g n => (match act.low with
      | some l => g.wrG n.toNat (d l)
      | none => g)
  | .p n => g.wrP n.toNat act (Mask.ofFn pb)
  | _ => g

/-- Write the active lanes of the vector at a port's position (09 R246). -/
def Crew.wrPort (c : Crew) (g : Group) (act : Mask) (o : Opnd) (d : Nat → Word) : Crew :=
  match o with
  | .sp n => act.lanes.foldl (fun c l =>
      c.wrScratch (c.portAddr (g.port n.toNat) + 8 * l) (bytesOf (d l).toNat 8)) c
  | _ => c

/-- What a field kept under K leaves in its reuse latch: a V or G register (05 R112). -/
def keepOpnd (on : Bool) (o : Option Opnd) : Option Opnd :=
  match on, o with
  | true, some (.v n) => some (.v n)
  | true, some (.g n) => some (.g n)
  | _, _ => none

/-! ## The executor of vector words -/

/-- A vector word: its header, its fields as R450 numbers them, its sources, destinations, a carry-out predicate, and
whether its datapath is residue-checked (04 R99); which words have a multiplier or adder that is, is a DESIGN CHOICE
(notes/assumptions/133.md). -/
structure VWord where
  h : Hdr
  fs : List (Nat × Opnd)
  srcs : List Opnd
  d : Opnd
  d2 : Option Opnd := none
  pout : Option (BitVec 4) := none
  arith : Bool := true
  super : Bool := false

/-- Write the results of a vector word, set its flags and go on (07 R150, 08 R176). -/
def State.vwrite (s : State) (x : Ctx) (w : VWord) (f : Nat → LaneOut) : State :=
  let us := if x.act = 0 then [] else portUses w.srcs [w.d]
  let s := s.updCrew x.iss.who.crew fun c =>
    let c := c.wrPort x.g x.act w.d fun l => (f l).d
    c.updGroup x.iss.who.grp fun g =>
      let g := g.bumpPorts us
      let g := g.wrDst x.act w.d (fun l => (f l).d) (fun l => (f l).pb)
      let g := match w.d2 with
        | some o => g.wrDst x.act o (fun l => (f l).d2) (fun _ => false)
        | none => g
      let g := match w.pout with
        | some n => g.wrP n.toNat x.act (Mask.ofFn fun l => (f l).pout)
        | none => g
      g.orFsr (lanesFl x.act fun l => (f l).fl)
  s.retire x w.h

/-- One issue of a vector word: allocation, ports, flags and residues, then the writes. `f` gives each lane's output from
the context before the issue, so that every source is read before any destination is written. -/
def State.vexec (s : State) (w : VWord) (f : Ctx → Nat → LaneOut) : State :=
  s.withCtx w.h fun x =>
    s.checked x w.fs w.super fun _ =>
      s.portGate x (portUses w.srcs [w.d]) fun _ =>
        s.residGate x w.arith (fun l => (f x l).fl) fun s => s.vwrite x w (f x)

/-! ## Addresses (05 R117, 09 R211) -/

/-- The address of a lane: A + sext(OFS28), or A + (B << s), modulo 2^64. -/
def Ctx.addr (x : Ctx) (ad : Addr) (l : Nat) : Nat :=
  match ad with
  | .o a ofs => (x.src a l + ofs.signExtend 64).toNat
  | .x a b s => (x.src a l + (x.src b l <<< s.toNat)).toNat

end Sys2Proof.Machine
end

