-- ==== Sys2Proof/Machine/Network.lean ====
section
/-! DEFINITION. The on-chip network (12 R314 to R318): where units stand, what joins them, the route tables, packets and
their way from router to router, and which message of the machine travels between which nodes. -/

namespace Sys2Proof.Machine

/-! ## Slices, controllers and sectors -/

/-- The number x of 12 R301 for a span number. -/
def spanX (va : Nat) : Nat := let g := va % 2 ^ 51 / 512
  g ^^^ (g >>> 12) ^^^ (g >>> 24)

/-- The home slice of an address (12 R301). -/
def homeOf (va : Nat) : Nat := spanX va % 96

/-- The L2 set of an address (12 R301). -/
def l2Set (va : Nat) : Nat := spanX va / 96 % 1536

/-- The memory controller paired with a slice (01 R17). -/
def ctrlOf (slice : Nat) : Nat := slice / 24 * 8 + slice % 8

/-- The sector of a core, numbered over the module (01 R16). -/
def sectorOf (core : Nat) : Nat := core / 72 * 3 + core % 72 / 24

/-- The slice that holds a core's local copies of a block homed in a slice (12 R312); none where the home lies in the
core's own sector. -/
def localSlice (core home : Nat) : Option Nat :=
  if home / 8 = sectorOf core then none else some (sectorOf core * 8 + home % 8)

/-- The home slice of a queue: that of its window's first word (14 R355). -/
def Queue.home (q : Queue) : Nat := homeOf q.winbase

/-- The home slice of a stage's input (14 R355): its queue's, or for a range the slice of its number. -/
def State.inputHome (s : State) (t : Stage) : Nat :=
  match t.inp with
  | .range .. => t.num % 96
  | .queue n => ((s.queues.find? fun q => q.num == n).map Queue.home).getD 0

/-! ## Physical places (01 R12, R16) -/

/-- The physical cores of a cluster that slots 0 to 3 begin with, given its spare (01 R12). -/
def slotPhys (spare c : Nat) : Nat := if c < spare then c else c + 1

/-- The image in force. -/
def State.image (s : State) : Image := s.store.img

/-- The spare core that the image names for a cluster (18 · die + cluster). -/
def State.spareOf (s : State) (k : Nat) : Nat := s.image.spareCores.getD k 4

/-- The physical core that holds a COREID. -/
def State.physOf (s : State) (core : Nat) : Nat := ((s.core core).phys).getD (slotPhys (s.spareOf (core / 4)) (core % 4))

/-! ## Node numbers and what joins the nodes (12 R314, notes/assumptions/94.md) -/

/-- Node numbers: cores 0 to 287 by COREID, then the 96 slices, the 32 controllers, the 16 fabric ports, the Zenvex Link. -/
def sliceNode (i : Nat) : Nat := 288 + i
def ctrlNode (i : Nat) : Nat := 384 + i
def portNode (n : Nat) : Nat := 416 + n
def zenvexNode : Nat := 432

/-- Where a node stands under the map in force. -/
def State.siteOf (s : State) (n : Nat) : Site :=
  if n < 288 then (if (s.core n).absent then .gone else .core (n / 4) (s.physOf n))
  else if n < 384 then
    let i := n - 288
    match (sget {} s.slices i).spare with
    | some k => .spare (i / 24) k
    | none => .slice (i / 8) (i % 8)
  else if n < 416 then .ctrl ((n - 384) / 8) ((n - 384) % 8)
  else if n < 432 then .port ((n - 416) / 4) ((n - 416) % 4)
  else if n = 432 then .zenvex
  else .gone

/-- The unit at an output of a sector crossbar: six cluster ports, eight slices, the die's two spare slices and eight
controllers, and the ring stop. -/
def xbarUnit (x u : Nat) : Option Router :=
  if u < 6 then some (.clu (6 * x + u))
  else if u < 14 then some (.site (.slice x (u - 6)))
  else if u < 16 then some (.site (.spare (x / 3) (u - 14)))
  else if u < 24 then some (.site (.ctrl (x / 3) (u - 16)))
  else if u = 24 then some (.ring x)
  else none

/-- The router behind an output port of a router, turns 0 to 6 (12 R314, R316). -/
def Router.out : Router → Nat → Option Router
  | .site (.core k _), 0 => some (.clu k)
  | .site (.slice x _), 0 => some (.xin x)
  | .site (.spare d _), t => if t < 3 then some (.xin (3 * d + t)) else none
  | .site (.ctrl d _), t => if t < 3 then some (.xin (3 * d + t)) else none
  | .site (.port d _), 0 => some (.ring (3 * d + 1))
  | .site _, _ => none
  | .clu k, t => if t = 0 then some (.xin (k / 6)) else if t < 6 then some (.site (.core k (t - 1))) else none
  | .xin x, t => if t < 5 then some (.xout x t) else none
  | .xout x g, t => if t < 5 then xbarUnit x (5 * g + t) else none
  | .ring x, t =>
    let d := x / 3
    if t = 0 then some (.xin x)
    else if t < 3 then some (.ring (3 * d + (x + t) % 3))
    else if x % 3 = 1 then some (.site (.port d (t - 3)))
    else if t = 3 then some (.bridge d (x % 3 == 2))
    else none
  | .bridge d up, t =>
    if t = 0 then some (.ring (3 * d + if up then 2 else 0))
    else if t = 1 then some (if up then .bridge ((d + 1) % 4) false else .bridge ((d + 3) % 4) true)
    else none

/-- The node that a turn of 7 delivers to: a router's own; the Zenvex Link's is sector 1's ring stop of die 0. -/
def Router.node : Router → Option Site
  | .site n => some n
  | .ring 1 => some .zenvex
  | _ => none

/-- The router at which a node injects. -/
def Site.router : Site → Router
  | .zenvex => .ring 1
  | n => .site n

/-! ## Routes (12 R314, R316) -/

/-- A node's die. -/
def Site.die : Site → Nat
  | .core k _ => k / 18
  | .slice x _ => x / 3
  | .spare d _ => d
  | .ctrl d _ => d
  | .port d _ => d
  | .zenvex => 0
  | .gone => 0

/-- A node's sector in its die; a spare slice and a controller stand at every crossbar of theirs. -/
def Site.sector : Site → Option Nat
  | .core k _ => some (k % 18 / 6)
  | .slice x _ => some (x % 3)
  | .port _ _ => some 1
  | .zenvex => some 1
  | _ => none

/-- Does a node stand at a ring stop and not at a crossbar? -/
def Site.atRing : Site → Bool
  | .port _ _ | .zenvex => true
  | _ => false

/-- The turns from a node to the crossbar of a sector, or to its ring stop. -/
def Site.leave (n : Site) (t : Nat) (ring : Bool) : List Nat :=
  match n with
  | .zenvex => []
  | .port _ _ => [0]
  | n => (match n with
      | .core _ _ => [0, 0]
      | .slice _ _ => [0]
      | _ => [t]) ++ (if ring then [4, 4] else [])

/-- The turns from a crossbar, or from a ring stop, to a node. -/
def Site.enter (n : Site) (ring : Bool) : List Nat :=
  let unit (u : Nat) : List Nat := (if ring then [0] else []) ++ [u / 5, u % 5]
  match n with
  | .core k p => unit (k % 6) ++ [1 + p, 7]
  | .slice _ j => unit (6 + j) ++ [7]
  | .spare _ k => unit (14 + k) ++ [7]
  | .ctrl _ j => unit (16 + j) ++ [7]
  | .port _ j => [3 + j, 7]
  | .zenvex => [7]
  | .gone => []

/-- The turns from a ring stop to another of the die, which is a neighbour. -/
def ringTurn (a b : Nat) : List Nat := if a = b then [] else [(b + 3 - a) % 3]

/-- Does the way between two dies lead up? It is the shorter one; dies 0 and 2 are joined through die 1, dies 1 and 3
through die 2. -/
def goesUp (a b : Nat) : Bool := (b + 4 - a) % 4 == 1 || ((b + 4 - a) % 4 == 2 && decide (a < 2))

/-- The turns over some bridges from a sector's ring stop on, and the sector where they end. -/
def bridges (up : Bool) : Nat → Nat → List Nat × Nat
  | 0, t => ([], t)
  | n + 1, t =>
    let r := bridges up n (if up then 0 else 2)
    (ringTurn t (if up then 2 else 0) ++ [3, 1, 0] ++ r.1, r.2)

/-- The route from a node to another (12 R314, R316): its turns, the last of them 7. -/
def routeTurns (a b : Site) : List Nat :=
  let up := goesUp a.die b.die
  let n := if up then (b.die + 4 - a.die) % 4 else (a.die + 4 - b.die) % 4
  let ta := a.sector.getD (if n = 0 then b.sector.getD 0 else if up then 2 else 0)
  let r := bridges up n ta
  let tb := b.sector.getD r.2
  if n = 0 ∧ ta = tb ∧ !a.atRing ∧ !b.atRing then a.leave ta false ++ b.enter false
  else a.leave ta true ++ r.1 ++ ringTurn r.2 tb ++ b.enter true

/-- TURNS: up to 20 turns of 3 bits, the next in bits [2:0] (12 R315). -/
def turnsOf (l : List Nat) : BitVec 60 := BitVec.ofNat 60 (l.foldr (fun t n => 8 * n + t) 0)

/-- The route tables, built from the spare map in force (12 R318). -/
def State.routeTables (s : State) : List Site := (List.range 433).map s.siteOf

/-! ## Packets (12 R315, R316) -/

/-- The code of a virtual network. -/
def Vn.code : Vn → BitVec 2
  | .req => 0
  | .rsp => 1
  | .ack => 2

/-- Bits [90:0] of a packet's head flit. -/
def Packet.head (p : Packet) : BitVec 91 := p.dst ++ p.src ++ p.vn.code ++ p.len ++ (0 : BitVec 4) ++ p.turns

/-- The next turn. -/
def Packet.turn (p : Packet) : Nat := p.turns.toNat % 8

/-- May a packet move: is it the first of its virtual network at its router input? -/
def movable (l : List Packet) (k : Nat) : Bool :=
  match l[k]? with
  | none => false
  | some p => !((l.take k).any fun q => q.place == p.place && q.came == p.came && q.vn == p.vn)

/-- A packet goes out by the port that its next turn numbers, and stands last at the input behind it. -/
def State.hop (s : State) (k : Nat) : State :=
  match s.net[k]? with
  | none => s
  | some p => (match p.place.out p.turn with
    | none => s
    | some r => { s with net := s.net.eraseIdx k ++ [{ p with turns := p.turns >>> 3, place := r, came := p.place }] })

/-- Inject a packet of a number of bytes between two nodes; a transaction that is longer than 512 bytes goes in several packets,
of which the last one performs it. -/
def State.inject (s : State) (src dst : Nat) (vn : Vn) (bytes : Nat) (a b : Site) (e : Instr) : State :=
  let n := ceilDiv bytes 512 - 1
  let pkt (len : Nat) (ev : Option Instr) : Packet := {
    dst := BitVec.ofNat 10 dst, src := BitVec.ofNat 10 src, vn := vn, len := BitVec.ofNat 5 len
    turns := turnsOf (routeTurns a b), place := a.router, came := a.router, ev := ev }
  { s with net := s.net ++ List.replicate n (pkt 16 none) ++ [pkt (ceilDiv (bytes - 512 * n) 32) (some e)] }

/-- Traffic between a node and the Zenvex Link, on die 0, takes its way over the bridges (01 R21), where what it does to memory is done
in the event that starts it: its packets carry no transaction (notes/assumptions/94.md). -/
def State.escort (s : State) (node bytes : Nat) (up : Bool) : State :=
  let src := if up then node else zenvexNode
  let dst := if up then zenvexNode else node
  match s.routes[src]?, s.routes[dst]? with
  | some .gone, _ | _, some .gone | none, _ | _, none => s
  | some a, some b => { s with net := s.net ++ List.replicate (max 1 (ceilDiv bytes 512)) {
      dst := BitVec.ofNat 10 dst, src := BitVec.ofNat 10 src, vn := if up then .req else .rsp
      len := BitVec.ofNat 5 (ceilDiv (min bytes 512) 32)
      turns := turnsOf (routeTurns a b), place := a.router, came := a.router, ev := none } }

/-! ## What travels -/

/-- A transaction's source, destination, virtual network and bytes. -/
structure Carry where
  src : Nat
  dst : Nat
  vn : Vn
  bytes : Nat
  deriving DecidableEq, Repr

/-- The core that a crew stands on. -/
def State.coreOf (s : State) (crew : Nat) : Nat := ((s.crew? crew).map (·.core)).getD 0

/-- The core that a claim comes from. -/
def State.claimCore (s : State) (c : Claim) : Nat :=
  match c.kind with
  | .launch core _ => core
  | .deq w _ _ => s.coreOf w.crew

/-- The home slice of a claim's stage. -/
def State.claimHome (s : State) (c : Claim) : Nat :=
  ((s.stages.find? fun t => t.num == c.stage).map s.inputHome).getD 0

/-- The slice that a load's request goes to, and its answer comes from: the local copy's, the home, or a queue's home. -/
def State.loadSlice (s : State) (r : LdReq) : Nat :=
  match r.qlen with
  | some n => ((s.queues.find? fun q => q.num == n).map Queue.home).getD 0
  | none => if r.atLocal then (localSlice r.core (homeOf r.va)).getD (homeOf r.va) else homeOf r.va

/-- The way of a message between nodes; none for what stays inside one unit. The words of a fill from local HBM leave the controller that is
paired with the slice, not the one that holds the frame (01 R19): a DESIGN CHOICE (notes/assumptions/94.md). -/
def State.carry (s : State) : Instr → Option Carry
  | .loadRequestAtHome r => some { src := r.core, dst := sliceNode (s.loadSlice r), vn := .req, bytes := 0 }
  | .loadResultReturn m => if m.req.own then none else
    some { src := sliceNode (s.loadSlice m.req), dst := m.req.core, vn := .rsp
           bytes := max m.data.length ((m.fill.map fun f => 16 * (f.last + 1 - f.first)).getD 0) }
  | .homeFillReturn m => some {
      src := if m.copy.isSome then sliceNode (homeOf m.va) else if m.host then zenvexNode else ctrlNode (ctrlOf m.slice)
      dst := sliceNode m.slice, vn := .rsp
      bytes := if m.renewed.isSome then 0 else match m.copy with
        | some f => 16 * (f.last + 1 - f.first)
        | none => 16 * (m.last + 1 - m.first) }
  | .storePerformedAtHome m => some { src := m.core, dst := sliceNode (homeOf m.va), vn := .req, bytes := m.bytes.length }
  | .storeAcknowledgement a => some { src := sliceNode (homeOf a.msg.va), dst := a.msg.core, vn := .ack, bytes := 0 }
  | .atomicAtHome m => some { src := m.core, dst := sliceNode (homeOf m.va), vn := .req, bytes := 2 * m.n }
  | .atomicReply a => some { src := sliceNode (homeOf a.msg.va), dst := a.msg.core, vn := .rsp, bytes := a.msg.n }
  | .attributeProbe p => some { src := p.core, dst := sliceNode (homeOf p.va), vn := .req, bytes := 0 }
  | .attributeProbeReply m => some { src := sliceNode (homeOf m.probe.va), dst := m.probe.core, vn := .rsp, bytes := 0 }
  | .claimAtHome c => some { src := s.claimCore c, dst := sliceNode (s.claimHome c), vn := .req, bytes := 0 }
  | .claimReply m => some { src := sliceNode (s.claimHome m.claim), dst := s.claimCore m.claim, vn := .rsp, bytes := 8 * m.seqs.length }
  | .queueAppendAtHome m => some {
      src := (match m.src with
        | .group w _ _ _ => s.coreOf w.crew
        | .henq _ => zenvexNode
        | .notify c _ _ => ctrlNode c)
      dst := sliceNode (((m.recs.head?.bind fun r => s.queues.find? fun q => q.num == r.queue).map Queue.home).getD 0)
      vn := .req, bytes := (m.recs.map (·.bytes.length)).sum }
  | .queueAnswer a => some { src := sliceNode a.home, dst := s.coreOf a.who.crew, vn := .rsp, bytes := 8 * a.lanes.length }
  | _ => none

/-- A message sets out: as packets between its nodes, or inside its unit. `from_` names the node it leaves from where that is
not the requester's. -/
def State.sendFrom (s : State) (from_ : Option Nat) (e : Instr) : State :=
  match s.carry e with
  | none => { s with flight := s.flight ++ [e] }
  | some c =>
    let src := from_.getD c.src
    (match s.routes[src]?, s.routes[c.dst]? with
      | some .gone, _ | _, some .gone | none, _ | _, none => { s with flight := s.flight ++ [e] }
      | some a, some b => s.inject src c.dst c.vn c.bytes a b e)

/-- A message or completion on its way. -/
def State.send (s : State) (e : Instr) : State := s.sendFrom none e

/-- What is under way: inside the units, and in the network. -/
def State.flying (s : State) : List Instr := s.flight ++ s.net.filterMap (·.ev)

/-- Change what is under way. -/
def State.mapFlying (s : State) (f : Instr → Instr) : State :=
  { s with flight := s.flight.map f, net := s.net.map fun p => { p with ev := p.ev.map f } }

/-- Change every message under way, and every request that waits. -/
def State.mapReqs (s : State) (f : Instr → Instr) : State :=
  { s.mapFlying f with
    todo := s.todo.map f
    sliceWait := s.sliceWait.map f
    parked := s.parked.map fun p => (p.1, f p.2)
    held := s.held.map fun h => { h with req := f h.req }
    stop := s.stop.map fun t => { t with held := t.held.map fun r => match r with
      | .msg e => .msg (f e)
      | r => r } }

/-- Is a packet to or from a node under way? -/
def State.inNet (s : State) (node : Nat) : Bool := s.net.any fun p => p.dst.toNat == node || p.src.toNat == node

/-- Does a slice hand its state over to a spare (24 R513)? -/
def State.sliceMoves (s : State) (i : Nat) : Bool := s.retiring.any fun r => r.slice && r.unit == i

/-- A request for a slice that hands its state over waits there (24 R513 step 1). -/
def State.sliceBusy (s : State) (p : Packet) : Bool :=
  p.vn == .req && (List.range 96).any fun i => p.dst.toNat == sliceNode i && s.sliceMoves i

/-- A request that reaches a slice otherwise waits there too. -/
def State.unlessMoves (s : State) (slices : List Nat) (e : Instr) (k : State) : State :=
  if slices.any s.sliceMoves then { s with sliceWait := s.sliceWait ++ [e] } else k

/-! ## The order of requests for one word (13 R330) -/

/-- Who a request is of, its ASID, its first and last word, and its place among that one's: a group's accesses by number, lane and
address, a copy's writes by their number. -/
def reqKey : Instr → Option ((Nat × Nat × Nat) × Nat × (Nat × Nat) × Nat × Nat × Nat)
  | .loadRequestAtHome r => (match r.origin with
    | .group w id l => if r.pref || r.renew || r.qlen.isSome || 32 ≤ l then none
        else some ((0, w.crew, w.grp), r.asid, (r.va / 16, (r.va + r.n - 1) / 16), id, l, r.va)
    | _ => none)
  | .storePerformedAtHome m =>
    let ws := (m.va / 16, (m.va + m.bytes.length - 1) / 16)
    (match m.origin with
    | .group w id l => some ((0, w.crew, w.grp), m.asid, ws, id, l, m.va)
    | .copy c id _ => some ((1, c, id), m.asid, ws, m.part, 0, 0)
    | .none => none)
  | .atomicAtHome m => (match m.origin with
    | .group w id l => some ((0, w.crew, w.grp), m.asid, (m.va / 16, m.va / 16), id, l, m.va)
    | _ => none)
  | _ => none

/-- Is it a store, and the other one a load? A load takes its group's own stores to a byte from the store buffer (09 R221) and is
never held behind one of them (15 R385, R393). -/
def storeLoad : Instr → Instr → Bool
  | .storePerformedAtHome _, .loadRequestAtHome _ => true
  | _, _ => false

/-- Is it an atomic, and the other one a load? A load does not wait behind an atomic that is held (15 R385, R393). -/
def atomLoad : Instr → Instr → Bool
  | .atomicAtHome _, .loadRequestAtHome _ => true
  | _, _ => false

/-- Does a request come before another of the same one for the same word? -/
def reqBefore (i j : Instr) : Bool :=
  !storeLoad i j &&
  match reqKey i, reqKey j with
  | some (a, n, w, x, l, v), some (b, m, u, y, k, t) =>
    a == b && n == m && decide (w.1 ≤ u.2) && decide (u.1 ≤ w.2) && (decide (x < y) || (x == y && (decide (l < k) || (l == k && decide (v < t)))))
  | _, _ => false

/-- The parts of ordered accesses that have not left yet (13 R331). -/
def State.laters (s : State) : List Instr := (s.crews.map fun c => (c.groups.map (·.later)).flatten).flatten

/-- The requests that are on their way, or wait for a fill. -/
def State.moving (s : State) : List Instr := s.flying ++ s.todo ++ s.sliceWait ++ s.parked.map (·.2)

/-- The requests that are not performed yet. -/
def State.pendingReqs (s : State) : List Instr := s.moving ++ s.held.map (·.req) ++ s.laters

/-- Must a request wait at its home for an older one of its word? -/
def State.mustWait (s : State) (e : Instr) : Bool :=
  ((s.moving ++ s.laters).any fun i => reqBefore i e) || s.held.any fun h => reqBefore h.req e && !atomLoad h.req e

end Sys2Proof.Machine
end

