-- ==== Sys2Proof/Machine/Xlate.lean ====
section
/-! DEFINITION. Addresses, slices and translation (12 R301, 15 R367 to R375, R383): the page-table walk, the TLBs of the
memory controllers, the A and D bits, and the access counters. -/

namespace Sys2Proof.Machine

/-! ## Finding and changing -/

/-- An L2 slice. -/
def State.slice (s : State) (i : Nat) : Slice := sget {} s.slices i

/-- Change an L2 slice. -/
def State.updSlice (s : State) (i : Nat) (f : Slice → Slice) : State :=
  { s with slices := sset {} s.slices i (f (s.slice i)) }

/-- A memory controller. -/
def State.ctrl (s : State) (i : Nat) : Ctrl := sget {} s.ctrls i

/-- Change a memory controller. -/
def State.updCtrl (s : State) (i : Nat) (f : Ctrl → Ctrl) : State :=
  { s with ctrls := sset {} s.ctrls i (f (s.ctrl i)) }

/-- A register of the control window as held (15 R376). -/
def State.reg (s : State) (ofs : Nat) : Word := sget 0 s.win ofs

/-- Hold a value in a register of the control window. -/
def State.setReg (s : State) (ofs : Nat) (v : Word) : State := { s with win := sset 0 s.win ofs v }

/-- Bits `lo` to `lo + n - 1` of a register. -/
def fld (w : Word) (lo n : Nat) : Nat := (w.toNat >>> lo) % 2 ^ n

/-- Replace a field of a register of the control window. -/
def State.setFld (s : State) (ofs lo n v : Nat) : State := s.setReg ofs (putBits (s.reg ofs) lo n v)

/-- Die 0's TIME in ns. -/
def State.now (s : State) : Nat := (sget 0 s.time 0).toNat

/-- Events that follow at once. -/
def State.post (s : State) (es : List Instr) : State := { s with todo := s.todo ++ es }

/-- A new number. -/
def State.newTag (s : State) : Nat × State := (s.fresh, { s with fresh := s.fresh + 1 })

/-- Does the Zenvex Link retrain? What would cross it waits (23 R501, R506). -/
def State.zretrains (s : State) : Bool := (sget {} s.retrain 16).attempts != 0

/-- Does the Zenvex Link carry nothing now: is it down, or does it retrain? -/
def State.zshut (s : State) : Bool := s.zdown.isSome || s.zretrains

/-- The first address beyond local HBM (01 R19). -/
def hbmEnd : Nat := 0x60_0000_0000

/-! ## Page-table entries (15 R370) -/

/-- The kind that OK names; 11 is reserved and malformed. -/
def okOf (n : Nat) : PKind := match n with
  | 0 => .so
  | 1 => .rc
  | _ => .uo

/-- The aperture that AP names. -/
def apOf (n : Nat) : Apt := match n with
  | 0 => .hbm
  | 1 => .peer
  | 2 => .host
  | _ => .mcast

/-- The attributes of a leaf. -/
def leafAttr (p : Word) : Attr where
  r := p.getLsbD 1
  w := p.getLsbD 2
  x := p.getLsbD 3
  ok := okOf (fld p 4 2)
  ap := apOf (fld p 6 2)
  rap := p.getLsbD 8
  g := p.getLsbD 11
  d := p.getLsbD 14
  wb := p.getLsbD 9

/-- Is the entry a pointer? -/
def isPtr (p : Word) : Bool := fld p 1 3 == 0

/-- Is a valid entry malformed at its level (15 R370)? -/
def malformed (p : Word) (lvl : Nat) : Bool :=
  fld p 53 3 != 0 || fld p 12 2 != 0 ||
  (if isPtr p then lvl == 3 || fld p 4 12 != 0
   else fld p 4 2 == 3 || (p.getLsbD 2 && !p.getLsbD 1) ||
     (lvl == 2 && fld p 16 12 != 0) || (lvl == 1 && fld p 16 24 != 0) ||
     (lvl != 3 && (apOf (fld p 6 2) == .peer || apOf (fld p 6 2) == .mcast)))

/-- The size of a page at a level (15 R369). -/
def pageSize (lvl : Nat) : Nat := 2 ^ (51 - 12 * lvl)

/-- The physical address that a leaf gives an address of its page (15 R367). -/
def leafPa (p : Word) (lvl va : Nat) : Nat := fld p 16 37 * 2 ^ 15 + va % pageSize lvl

/-! ## Walks (15 R371) -/

/-- Eight bytes of HBM. -/
def State.hbm64 (s : State) (pa : Nat) : Word := BitVec.ofNat 64 (leNat (s.hbm.read pa 8))

/-- Put eight bytes into HBM. -/
def State.setHbm64 (s : State) (pa : Nat) (v : Word) : State := { s with hbm := s.hbm.write pa (bytesOf v.toNat 8) }

/-- The outcome of a walk: a leaf with its level and the address of the entry, no translation, or cause 0x11. -/
inductive Walk where
  | leaf (p : Word) (lvl at_ : Nat)
  | none
  | bad
  deriving DecidableEq, Repr

/-- The walk from a table on (15 R371): levels that remain, and the table's address. -/
def State.walkFrom (s : State) (va : Nat) : List Nat → Nat → Walk
  | [], _ => .bad
  | lvl :: ls, t =>
    let a := t + va % 2 ^ 51 / 2 ^ (51 - 12 * lvl) % 4096 * 8
    let p := s.hbm64 a
    if hbmEnd ≤ a ∨ sget false s.hbmPoison (a / 16) then .bad
    else if !p.getLsbD 0 then .none
    else if malformed p lvl then .bad
    else if isPtr p then s.walkFrom va ls (fld p 16 37 * 2 ^ 15)
    else .leaf p lvl a

/-- The walk of an address under an ASID (15 R371); the entry of ASID 0 is never read (R378). -/
def State.walk (s : State) (asid va : Nat) : Walk :=
  let tab := s.reg 0x200
  let a := fld tab 15 37 * 2 ^ 15 + asid * 8
  if !tab.getLsbD 0 || asid == 0 then .none
  else if hbmEnd ≤ a ∨ sget false s.hbmPoison (a / 16) then .bad
  else
    let e := s.hbm64 a
    if !e.getLsbD 0 then .none else s.walkFrom va [1, 2, 3] (fld e 15 37 * 2 ^ 15)

/-! ## TLBs (15 R373, R374) -/

/-- Does an entry translate an address under an ASID? -/
def TlbEnt.covers (t : TlbEnt) (asid va : Nat) : Bool :=
  (t.asid == asid || t.asid == 0) && decide (t.va = va % 2 ^ 51 / pageSize t.lvl * pageSize t.lvl)

/-- A translation: the leaf's attributes, the physical address, the level, and whether accesses are counted. -/
structure Xl where
  attr : Attr
  pa : Nat
  lvl : Nat
  ac : Bool

/-- The outcome of a translation (15 R375). -/
inductive XOut where
  | ok (x : Xl)
  | noTrans
  | perm

/-- The translation that a leaf gives. -/
def xlOf (p : Word) (lvl va : Nat) : Xl where
  attr := leafAttr p
  pa := leafPa p lvl va
  lvl := lvl
  ac := p.getLsbD 10

/-- A local frame beyond HBM is cause 0x11 (01 R19). -/
def Xl.beyond (x : Xl) : Bool := x.attr.ap == .hbm && decide (hbmEnd ≤ x.pa)

/-- Put a leaf into a TLB of 4,096 entries. Of a full one the least recently used goes: a DESIGN CHOICE, for 01 R18 and 15 R373 name no
replacement (notes/assumptions/111.md). -/
def Ctrl.fillTlb (c : Ctrl) (e : TlbEnt) : Ctrl :=
  let l := c.tlb.filter fun t => !(t.asid == e.asid && t.lvl == e.lvl && t.va == e.va)
  { c with tlb := l.drop (l.length + 1 - 4096) ++ [e] }

/-- A walk that fills the TLB and sets A, and D for a write (15 R371, R372, R374). A walk that faults installs nothing and sets neither
(22 R475), and the leaf of a peer page keeps both as they are (25 R521, notes/assumptions/113.md). -/
def State.walkFill (s : State) (c asid va : Nat) (rights : Attr → Bool) (wr : Bool) : State × XOut :=
  match s.walk asid va with
  | .none => (s, .noTrans)
  | .bad => (s, .perm)
  | .leaf p lvl a =>
    let peer := (leafAttr p).ap == .peer
    let p' := if peer then p else p ||| (1 <<< 15) ||| (if wr then 1 <<< 14 else 0)
    if !rights (leafAttr p) || (xlOf p lvl va).beyond then (s, .perm) else
    let s := if p' = p then s else s.setHbm64 a p'
    let base := va % 2 ^ 51 / pageSize lvl * pageSize lvl
    let s := s.updCtrl c fun k =>
      k.fillTlb { asid := if p.getLsbD 11 then 0 else asid, lvl := lvl, va := base, leaf := p' }
    (s, .ok (xlOf p' lvl va))

/-- Translate an address at a controller for an access that needs rights; `wr` also needs D (15 R371 to R374), but for a peer page. A
TLB entry that lacks what `held` asks for is walked again (25 R519). -/
def State.translate (s : State) (c asid va : Nat) (rights : Attr → Bool) (wr : Bool) (held : Attr → Bool := fun _ => true) :
    State × XOut :=
  match (s.ctrl c).tlb.find? (fun t => t.covers asid va) with
  | none => s.walkFill c asid va rights wr
  | some t =>
    let x := xlOf t.leaf t.lvl va
    if rights x.attr && !x.beyond && (!wr || x.attr.d || x.attr.ap == .peer) && held x.attr then (s.updCtrl c fun k => k.fillTlb t, .ok x)
    else (s.updCtrl c fun k => { k with tlb := k.tlb.filter (· ≠ t) }).walkFill c asid va rights wr

/-! ## Access counters (15 R383, R384) -/

/-- The 16-byte notification. -/
def notification (time : Word) (asid unit ctl : Nat) (wr : Bool) : List Byte :=
  bytesOf (unit * 2 ^ 15 + (if wr then 2 ^ 12 else 0) + ctl) 8 ++ bytesOf asid 2 ++ bytesOf time.toNat 6

/-- Count a request for a page whose leaf has AC; at 256 one notification is appended where posting is enabled. A NOTIFIED entry counts
nothing. A global page has one entry for each requesting ASID, whose number the notification gives: a DESIGN CHOICE
(notes/assumptions/143.md). -/
def State.countAcc (s : State) (c asid va : Nat) (wr : Bool) : State :=
  let unit := va % 2 ^ 51 / 2 ^ 15
  let old := (s.ctrl c).counts.find? fun k => k.asid == asid && k.unit == unit
  if old.any fun k => k.notified then s else
  let e : Cnt := match old with
    | some k => { k with n := min 256 (k.n + 1), wr := k.wr || wr }
    | none => { asid := asid, unit := unit, n := 1, wr := wr, notified := false }
  let post := e.n == 256 && !e.asked && (s.reg 0x220).getLsbD 31
  let e := { e with asked := e.asked || post }
  let s := s.updCtrl c fun k =>
    let l := k.counts.filter fun k => !(k.asid == asid && k.unit == unit)
    { k with counts := l.drop (l.length + 1 - 1024) ++ [e] }
  if post then
    s.send (.queueAppendAtHome { src := .notify c asid unit, recs := [{
      lane := 0, queue := fld (s.reg 0x220) 0 12,
      bytes := notification (sget 0 s.time (c / 8)) asid unit c e.wr }] })
  else s

/-- Translate for a request that counts (15 R383), whether or not it has the rights. -/
def State.translateCount (s : State) (c asid va : Nat) (rights : Attr → Bool) (wr : Bool) (held : Attr → Bool := fun _ => true) :
    State × XOut :=
  match s.translate c asid va rights wr held with
  | (s, .ok x) => (if x.ac then s.countAcc c asid va wr else s, .ok x)
  | (s, .perm) => (match s.walk asid va with
    | .leaf p _ _ => (if p.getLsbD 10 then s.countAcc c asid va wr else s, .perm)
    | _ => (s, .perm))
  | r => r

/-! ## Backing memory -/

/-- The bytes at a physical address of HBM or host memory. -/
def State.backRead (s : State) (ap : Apt) (pa n : Nat) : List Byte :=
  if ap = .host then s.host.read pa n else s.hbm.read pa n

/-- Write bytes of HBM or host memory. -/
def State.backWrite (s : State) (ap : Apt) (pa : Nat) (bs : List Byte) : State :=
  if ap = .host then { s with host := s.host.write pa bs } else { s with hbm := s.hbm.write pa bs }

/-- Is a 16-byte word of backing memory poisoned (22 R486)? -/
def State.backPoison (s : State) (ap : Apt) (pa : Nat) : Bool :=
  sget false (if ap = .host then s.hostPoison else s.hbmPoison) (pa / 16)

/-- Mark a word of backing memory poisoned or not. -/
def State.setPoison (s : State) (ap : Apt) (pa : Nat) (b : Bool) : State :=
  if ap = .host then { s with hostPoison := sset false s.hostPoison (pa / 16) b }
  else { s with hbmPoison := sset false s.hbmPoison (pa / 16) b }

end Sys2Proof.Machine
end

