-- ==== Sys2Proof/Machine/Cache.lean ====
section
/-! DEFINITION. The caches (12 R298 to R312): lookup, extents and the predictor, installing a fill, eviction and
write-back, rebasing (13 R328), and the region directory (15 R387 to R389). -/

namespace Sys2Proof.Machine

/-! ## Lookup -/

/-- The word of its span that an address lies in (12 R300). -/
def wordOf (va : Nat) : Nat := va % 512 / 16

/-- The span number of an address. -/
def spanOf (va : Nat) : Nat := va % 2 ^ 51 / 512

/-- Does a block hold a word for an ASID (12 R310)? -/
def Blk.holds (b : Blk) (asid va : Nat) : Bool :=
  (b.asid == asid || b.asid == 0) && b.span == spanOf va && decide (b.first ≤ wordOf va) &&
    decide (wordOf va ≤ b.last)

/-- The block of a list that holds a word. -/
def findBlk (l : List Blk) (asid va : Nat) : Option Blk := l.find? fun b => b.holds asid va

/-- Change the block that holds a word. -/
def updBlk (l : List Blk) (asid va : Nat) (f : Blk → Blk) : List Blk := lupdFirst (fun b => b.holds asid va) f l

/-- The word of an address is poisoned (22 R486). -/
def Blk.spoil (va : Nat) (b : Blk) : Blk := { b with poison := b.poison ||| Mask.one (wordOf va) }

/-- Bytes of a block. -/
def Blk.read (b : Blk) (va n : Nat) : List Byte := Memory.read b.data (va % 512) n

/-- Write bytes into a block. -/
def Blk.write (b : Blk) (va : Nat) (bs : List Byte) : Blk := { b with data := Memory.write b.data (va % 512) bs }

/-- The number of words. -/
def Blk.words (b : Blk) : Nat := b.last + 1 - b.first

/-- The words `first` to `last` as a mask. -/
def wordMask (first last : Nat) : Mask := Mask.ofFn fun w => decide (first ≤ w) && decide (w ≤ last)

/-- The words of a block from `first` to `last`. -/
def Blk.cut (b : Blk) (first last : Nat) : Blk :=
  { b with
    first := first, last := last
    data := b.data.filter fun p => decide (16 * first ≤ p.1) && decide (p.1 < 16 * last + 16)
    dirty := b.dirty &&& wordMask first last
    poison := b.poison &&& wordMask first last
    seen := b.seen &&& wordMask first last }

/-- The fill that carries words of a block (12 R308). -/
def Blk.fill (b : Blk) (asid first last le : Nat) : Fill :=
  let f := max first b.first
  let l := min last b.last
  let c := b.cut f l
  { asid := if b.asid = 0 then 0 else asid, span := b.span, first := f, last := l, wt := b.wt, le := le
    data := c.data, poison := c.poison, hf := b.first, hl := b.last, ap := b.ap, pa := b.pa }

/-- The block that a fill installs. -/
def fillBlk (f : Fill) : Blk where
  asid := f.asid
  span := f.span
  first := f.first
  last := f.last
  wt := f.wt
  le := f.le
  data := f.data
  poison := f.poison
  ap := f.ap
  pa := f.pa

/-! ## Extents (12 R302, R303) -/

/-- The index of the predictor's entry. -/
def predIdx (pc va : Nat) : Nat := (pc / 4 % 512) ^^^ (va / 2 ^ 15 % 512)

/-- The extent of a miss at a word, for the words `first` to `last` that the access needs of the span and the E hint. -/
def extent (co : Core) (e : BitVec 2) (pc va first last : Nat) : Nat × Nat :=
  match e.toNat with
  | 1 => (first, last)
  | 2 => (first / 8 * 8, last / 8 * 8 + 7)
  | 3 => (0, 31)
  | _ => match (sget {} co.pred (predIdx pc va)).ext with
    | none => (first / 8 * 8, last / 8 * 8 + 7)
    | some (b, f) => (min first (wordOf va - b), max last (min 31 (wordOf va + f)))

/-- Train the entry that chose an evicted block (12 R303). The confidence is lowered first, and BACK and FWD take the used run where
it is then 0; of a block with no used word they stay: a DESIGN CHOICE (notes/assumptions/128.md). -/
def Core.train (co : Core) (b : Blk) : Core :=
  match b.chose with
  | none => co
  | some (i, w, f, l) =>
    let p := sget {} co.pred i
    let c := p.conf - 1
    let p' : Pred := match b.seen.lanes.head?, b.seen.lanes.getLast? with
      | some lo, some hi =>
        if f = lo ∧ l = hi then { p with conf := min 3 (p.conf + 1) }
        else if c = 0 then { ext := some (w - lo, hi - w), conf := 0 } else { p with conf := c }
      | _, _ => { p with conf := c }
    { co with pred := sset {} co.pred i p' }

/-! ## Installing (12 R308) -/

/-- The runs of the words of a mask, as first and last words. -/
def runsOf (m : Mask) : List (Nat × Nat) :=
  m.lanes.foldl (fun acc w => match acc with
    | (f, l) :: t => if w = l + 1 then (f, w) :: t else (w, w) :: (f, l) :: t
    | [] => [(w, w)]) []

/-- What a fill does to a resident block (12 R308 step 1, R312, 13 R320): one that shares words with it and is older goes; one of
the same WT takes the fill's later lease end where the block it comes from holds all its words, and else goes, as an eviction. -/
def refresh (f : Blk) (hf hl : Nat) (b : Blk) : Option Blk :=
  if b.span != f.span || b.asid != f.asid || decide (f.last < b.first) || decide (b.last < f.first) then some b
  else if b.wt < f.wt ∨ (b.wt = f.wt ∧ f.poison &&& ~~~b.poison &&& wordMask b.first b.last ≠ 0) then none
  else if b.wt = f.wt ∧ b.le < f.le then (if hf ≤ b.first ∧ b.last ≤ hl then some { b with le := f.le } else none)
  else some b

/-- Does a fill evict a resident block: one of its WT that it cannot renew as a whole, or whose words it brings poisoned? -/
def refreshEvicts (f : Blk) (hf hl : Nat) (b : Blk) : Bool :=
  b.span == f.span && b.asid == f.asid && decide (b.first ≤ f.last) && decide (f.first ≤ b.last) && b.wt == f.wt &&
    (f.poison &&& ~~~b.poison &&& wordMask b.first b.last != 0 || (decide (b.le < f.le) && !(decide (hf ≤ b.first) && decide (b.last ≤ hl))))

/-- The pieces of a fill that a set takes: the words no resident block holds, in the runs that hold a requested word. -/
def trim (resident : List Blk) (f : Blk) (lo hi : Nat) : List Blk :=
  let held := resident.foldl (fun m b =>
    if b.span == f.span && (b.asid == f.asid) then m ||| wordMask b.first b.last else m) (0 : Mask)
  ((runsOf (wordMask f.first f.last &&& ~~~held)).filter fun r => decide (r.1 ≤ hi) && decide (lo ≤ r.2)).map
    fun r => f.cut r.1 r.2

/-- The order in which blocks are evicted: first victims, then least recently used, then the lower first word. -/
def victimKey (b : Blk) : Nat := ((if b.victim then 0 else 1) * 2 ^ 64 + b.used) * 32 + b.first

/-- The next victim among the blocks that may go. -/
def victim (may : Blk → Bool) (l : List Blk) : Option Blk :=
  (lsort victimKey (l.filter may)).head?

/-- Evict until a set has room; the blocks that stay, and those evicted. -/
def makeRoom (words tags : Nat) (may : Blk → Bool) (need : Nat) : Nat → List Blk → List Blk → List Blk × List Blk
  | 0, l, out => (l, out)
  | k + 1, l, out =>
    if (l.map Blk.words).sum + need ≤ words ∧ l.length + 1 ≤ tags then (l, out)
    else match victim may l with
      | none => (l, out)
      | some b => makeRoom words tags may need k (l.filter (· ≠ b)) (b :: out)

/-! ## L1 (12 R299, R301) -/

/-- Keep L1's stored times within reach of BASE (13 R328). -/
def Core.rebase (co : Core) (t : Nat) : Core :=
  if t < co.l1base + 2 ^ 24 then co
  else
    let b := t - 2 ^ 23
    { co with l1base := b, l1 := (co.l1.filter fun x => decide (b ≤ x.le)).map fun x => { x with wt := max x.wt b } }

/-- The blocks that a test names are evicted from L1, and train the predictor (12 R303). -/
def Core.evictL1 (co : Core) (p : Blk → Bool) : Core :=
  { (co.l1.filter p).foldl Core.train co with l1 := co.l1.filter (!p ·) }

/-- Install a fill in a core's L1, for the requested words `lo` to `hi`; evicted blocks train the predictor. A copy whose LE lies below
BASE is dropped, and a WT below BASE is stored as BASE (13 R328). The missed word counts as used from the fill on, that of a PREF
among them: a DESIGN CHOICE (notes/assumptions/128.md). -/
def State.fillL1 (s : State) (core : Nat) (f : Fill) (lo hi : Nat) (victim : Bool) (chose : Option (Nat × Nat × Nat × Nat)) :
    State :=
  let sets := s.l1Bytes core / 512
  let (use, s) := s.newTag
  s.updCore core fun co =>
    let co := (co.rebase f.wt).rebase f.le
    if f.le < co.l1base then co else
    let nb : Blk := { fillBlk f with
      wt := max f.wt co.l1base, victim := victim, used := use, chose := chose, seen := (chose.map fun c => Mask.one c.2.1).getD 0 }
    let inSet (b : Blk) : Bool := b.span % sets == f.span % sets
    let co := co.evictL1 fun b => inSet b && refreshEvicts nb f.hf f.hl b
    let rest := co.l1.filter fun b => !inSet b
    let set := (co.l1.filter inSet).filterMap (refresh nb f.hf f.hl)
    let pieces := trim set nb lo hi
    let (set, out) := pieces.foldl (fun a p =>
      let r := makeRoom 32 8 (fun _ => true) p.words 9 a.1 a.2
      (r.1 ++ [p], r.2)) (set, [])
    let co := out.foldl Core.train co
    { co with l1 := rest ++ set }

/-! ## The region directory (15 R387 to R389) -/

/-- Does a region hold a physical address? -/
def DirEnt.has (d : DirEnt) (pa : Nat) : Bool := decide (d.base ≤ pa) && decide (pa < d.base + d.size)

/-- Write the dirty words of a block to its backing memory (12 R309); poisoned words stay poisoned there (22 R486). Those of host memory
go to the Zenvex Link (01 R21). -/
def State.writeBack (s : State) (b : Blk) : State :=
  let s := if b.ap = .host ∧ b.dirty ≠ 0 then s.escort (sliceNode (homeOf (b.span * 512 + 16 * b.first))) (16 * b.dirty.count) true else s
  b.dirty.lanes.foldl (fun s w =>
    let s := s.backWrite b.ap (b.pa + 16 * w) (Memory.read b.data (16 * w) 16)
    s.setPoison b.ap (b.pa + 16 * w) (b.poison.has w)) s

/-- Has a home block dirty host words that the Zenvex Link, which is down or retrains, cannot write back? They stay dirty, and the
block is not evicted (23 R501, R506). -/
def State.linkKeeps (s : State) (b : Blk) : Bool := s.zshut && b.ap == .host && b.dirty != 0

/-- Write back and clean the home blocks that a test names. -/
def State.cleanHome (s : State) (q : Blk → Bool) : State :=
  let p (b : Blk) : Bool := q b && !s.linkKeeps b
  { s.slices.foldl (fun s e => (e.2.home.filter p).foldl State.writeBack s) s with
    slices := s.slices.map fun e => (e.1, { e.2 with
      home := e.2.home.map fun b => if p b then { b with dirty := 0 } else b }) }

/-- Is a block's memory part of a region of host memory? -/
def Blk.inRegion (b : Blk) (base size : Nat) : Bool :=
  b.ap == .host && decide (b.pa + 16 * b.first < base + size) && decide (base < b.pa + 16 * b.last + 16)

/-- Is a region DIRTY: does some home block hold dirty words of it (15 R387)? -/
def State.regionDirty (s : State) (base size : Nat) : Bool := s.slices.any fun (e : Nat × Slice) =>
  e.2.home.any fun b => b.inRegion base size && b.dirty.lanes.any fun w =>
    decide (b.pa + 16 * w < base + size) && decide (base < b.pa + 16 * w + 16)

/-- Drop home blocks after their dirty words are written back; their sets keep their lease ends (12 R309). -/
def State.dropHome (s : State) (q : Blk → Bool) : State :=
  let p (b : Blk) : Bool := q b && !s.linkKeeps b
  let s := s.cleanHome p
  { s with slices := s.slices.map fun e => (e.1, { e.2 with
      home := e.2.home.filter fun b => !p b
      marks := (e.2.home.filter p).foldl (fun m b =>
        let k := l2Set (b.span * 512)
        sset 0 m k (max b.le (sget 0 m k))) e.2.marks }) }

/-- A local copy of words of a region of host memory that is on its way is not installed: no word of it is asked for any more. -/
def noCopy (base size : Nat) : Instr → Instr
  | .homeFillReturn m =>
    if m.copy.any fun f => (fillBlk f).inRegion base size then .homeFillReturn { m with first := 32, last := 32 } else .homeFillReturn m
  | i => i

/-- Reclaim the least recently used region of a full directory (15 R389), one that may be written back. -/
def State.reclaimDir (s : State) (keep : DirEnt → Bool) : State :=
  match (lsort DirEnt.used (s.dir.filter fun d => !keep d && !(s.zshut && s.regionDirty d.base d.size))).head? with
  | none => s
  | some d =>
    let inR (b : Blk) := b.inRegion d.base d.size
    let les := (s.slices.map fun e => ((e.2.home ++ e.2.loc).filter inR).map (·.le)).flatten
    let s := s.dropHome inR
    { s.mapReqs (noCopy d.base d.size) with
      slices := s.slices.map fun e => (e.1, { e.2 with loc := e.2.loc.filter (!inR ·) })
      dir := s.dir.filter (· ≠ d)
      dirMark := les.foldl max s.dirMark }

/-- The entry that a fill of a byte creates: its 64 KiB region, or where entries of it are left from a split, the largest region
that meets none (15 R387, notes/assumptions/98.md). -/
def newRegion (dir : List DirEnt) (pa use : Nat) : DirEnt :=
  let meets (z : Nat) : Bool := dir.any fun d => decide (d.base < pa / z * z + z) && decide (pa / z * z < d.base + d.size)
  let z := ([65536, 32768, 16384, 8192, 4096, 2048, 1024, 512, 256].find? fun z => !meets z).getD 128
  { base := pa / z * z, size := z, conflict := 0, used := use }

/-- A module fill of bytes of a host page creates the entries that hold them (15 R387). -/
def State.dirFill (s : State) (pa n : Nat) : State :=
  let (use, s) := s.newTag
  ((List.range (ceilDiv (pa % 128 + n) 128)).map fun k => pa / 128 * 128 + 128 * k).foldl (fun (s : State) a =>
    if s.dir.any (·.has a) then { s with dir := s.dir.map fun d => if d.has a then { d with used := use } else d }
    else
      let s := if s.dir.length < 32768 then s else s.reclaimDir fun d => d.used == use
      { s with dir := s.dir ++ [newRegion s.dir a use] }) s

/-! ## Slices -/

/-- Keep a slice's stored times within reach of BASE (13 R328). -/
def Slice.rebase (sl : Slice) (t : Nat) : Slice :=
  if t < sl.base + 2 ^ 24 then sl
  else
    let b := t - 2 ^ 23
    { sl with
      base := b
      home := sl.home.map fun x => { x with wt := max x.wt b, le := max x.le b }
      marks := sl.marks.map fun m => (m.1, max m.2 b)
      loc := (sl.loc.filter fun x => decide (b ≤ x.le)).map fun x => { x with wt := max x.wt b } }

/-- The eviction mark of an address's set (12 R309). -/
def Slice.mark (sl : Slice) (va : Nat) : Nat := max (sget 0 sl.marks (l2Set va)) sl.base

/-- Is a span under an ASID one of a queue's window (14 R355)? -/
def Queue.pinsSpan (q : Queue) (asid span : Nat) : Bool :=
  (asid == q.asid || asid == 0) && decide (q.winbase / 512 ≤ span) && decide (span * 512 < q.winbase + q.wincnt * q.size)

/-- Is a block part of a queue window, which is never evicted (14 R355)? -/
def State.pinned (s : State) (b : Blk) : Bool := s.queues.any fun q => q.pinsSpan b.asid b.span

/-- May a home block go: not pinned, and no dirty host word that the Zenvex Link cannot write back (23 R506)? -/
def State.mayEvict (s : State) (b : Blk) : Bool := !s.pinned b && !s.linkKeeps b

/-- Take the set of an address out of a slice's blocks. -/
def inL2Set (va : Nat) (b : Blk) : Bool := l2Set (b.span * 512) == l2Set va

/-- Install blocks in a slice: in the home blocks, or in the local copies; `hf` to `hl` are the words of the block that the fill
comes from, `lo` to `hi` the requested ones. A local copy whose LE lies below BASE is dropped, and a WT below BASE is stored as BASE
(13 R328). A set without room for the words (12 R300) takes none of them. -/
def State.fillSlice (s : State) (i : Nat) (loc : Bool) (nb : Blk) (hf hl lo hi : Nat) : State :=
  let va := nb.span * 512
  let (use, s) := s.newTag
  let nb := { nb with used := use }
  let s := s.updSlice i fun sl => (sl.rebase nb.wt).rebase nb.le
  let sl := s.slice i
  if loc && decide (nb.le < sl.base) then s else
  let nb := { nb with wt := max nb.wt sl.base, le := max nb.le sl.base }
  let dropped := if loc then [] else sl.home.filter fun b => (refresh nb hf hl b).isNone
  let sl := { sl with
    home := if loc then sl.home else sl.home.filterMap (refresh nb hf hl)
    loc := if loc then sl.loc.filterMap (refresh nb hf hl) else sl.loc }
  let pieces := trim (if loc then sl.loc else sl.home) nb lo hi
  let setH := sl.home.filter (inL2Set va)
  let setL := sl.loc.filter (inL2Set va)
  let need := (pieces.map Blk.words).sum
  let (left, out) := makeRoom (128 - need) (17 - pieces.length)
    (fun b => if setL.contains b then true else s.mayEvict b) 0 33 (setH ++ setL) []
  if 128 < (left.map Blk.words).sum + need ∨ 16 < left.length + pieces.length then s else
  let outH := (out.filter (setH.contains ·)) ++ dropped
  let s := outH.foldl State.writeBack s
  s.updSlice i fun _ => { sl with
    home := (sl.home.filter fun b => !out.contains b) ++ (if loc then [] else pieces)
    loc := (sl.loc.filter fun b => !out.contains b) ++ (if loc then pieces else [])
    marks := if outH.isEmpty then sl.marks
      else sset 0 sl.marks (l2Set va) ((outH.map (·.le)).foldl max (sget 0 sl.marks (l2Set va))) }

/-- Raise the home block of a word to a write time: WT and LE (13 R321). -/
def State.setHome (s : State) (i asid va : Nat) (f : Blk → Blk) : State :=
  s.updSlice i fun sl => { sl with home := updBlk sl.home asid va f }

/-- The home block of a word. -/
def State.homeBlk (s : State) (asid va : Nat) : Option Blk := findBlk (s.slice (homeOf va)).home asid va

/-- The words of the extent that a fill takes: the run around the words needed that meets no resident block (12 R306). -/
def fillRun (resident : List Blk) (asid span first last lo hi : Nat) : Nat × Nat :=
  let held := resident.foldl (fun m b =>
    if b.span == span && (b.asid == asid || b.asid == 0) then m ||| wordMask b.first b.last else m) (0 : Mask)
  ((runsOf (wordMask first last &&& ~~~held)).find? fun r => decide (r.1 ≤ hi) && decide (lo ≤ r.2)).getD (lo, hi)

/-- The run of words that a fill at the home takes: of a window's span all that is not resident, so that the words that R355 pins keep
within the tags of R300: a DESIGN CHOICE (notes/assumptions/127.md); else the part of the extent that holds the word (12 R306). -/
def State.homeRun (s : State) (asid va first last : Nat) : Nat × Nat :=
  let all : Bool := s.queues.any fun q => q.pinsSpan asid (spanOf va)
  fillRun (s.slice (homeOf va)).home asid (spanOf va) (if all then 0 else first) (if all then 31 else last) (wordOf va) (wordOf va)

/-- Has the set of an address no room for some words of a fill at the home: its blocks may not be evicted (14 R355, 23 R506)? Such a
fill waits. -/
def State.homeFull (s : State) (asid va first last : Nat) : Bool :=
  let r := s.homeRun asid va first last
  let stay := (s.slice (homeOf va)).home.filter fun b => inL2Set va b && !s.mayEvict b
  (s.homeBlk asid va).isNone && (decide (128 < (stay.map Blk.words).sum + (r.2 + 1 - r.1)) || decide (16 ≤ stay.length))

/-- Does a word at its home, filled at once, wait: its set has no room, or it is a word of host memory and the Zenvex Link retrains? -/
def State.fillWaits (s : State) (asid va : Nat) (x : Xl) : Bool :=
  (s.homeBlk asid va).isNone && (s.homeFull asid va (wordOf va) (wordOf va) || (s.zretrains && x.attr.ap == .host))

/-- The other pieces of an extent that a lookup meets (12 R306): the parts in resident blocks that do not hold the word asked
for, and the runs that no block holds and that do not hold it. -/
def otherPieces (resident : List Blk) (asid va first last : Nat) : List (Nat × Nat) :=
  let mine := resident.filter fun b => b.span == spanOf va && (b.asid == asid || b.asid == 0) &&
    decide (b.first ≤ last) && decide (first ≤ b.last)
  let held := mine.foldl (fun m b => m ||| wordMask b.first b.last) (0 : Mask)
  ((mine.map fun b => (max first b.first, min last b.last)) ++ runsOf (wordMask first last &&& ~~~held)).filter fun r =>
    decide (wordOf va < r.1) || decide (r.2 < wordOf va)
/-- Read words of backing memory into a home block with the set's eviction mark (13 R323); while the Zenvex Link is down
the words of a host page come poisoned, with a record of kind 0x20 for each (23 R506). -/
def State.fillHome (s : State) (asid va first last : Nat) (x : Xl) : State :=
  let i := homeOf va
  let pa := x.pa - va % 512
  let m := (s.slice i).mark va
  let down := s.zdown.isSome && x.attr.ap == .host
  let words := (List.range (last + 1 - first)).map (· + first)
  let bad := Mask.ofFn fun w => words.contains w && (down || s.backPoison x.attr.ap (pa + 16 * w))
  let data := ssetList 0 [] (16 * first) (if down then [] else s.backRead x.attr.ap (pa + 16 * first) (16 * (last + 1 - first)))
  let s := if x.attr.ap = .host then s.dirFill (pa + 16 * first) (16 * (last + 1 - first)) else s
  let s := if down then words.foldl (fun s w => s.postFlt
      { kind := 0x20, addr := BitVec.ofNat 64 (va / 512 * 512 + 16 * w), asid := asid, die := i / 24 }) s else s
  let nb : Blk := {
    asid := if x.attr.g then 0 else asid
    span := spanOf va
    first := first
    last := last
    wt := m
    le := m
    data := data
    poison := bad
    ap := x.attr.ap
    pa := pa }
  s.fillSlice i false nb first last (wordOf va) (wordOf va)

/-- Before a write, a home block without dirty words stands for the frame that its page's translation gives now: a page that has been
migrated is not written at its old frame (15 R386). One whose page now lies behind the fabric goes; the dirty words of a block go to the frame that it stands for (R381). -/
def State.follow (s : State) (asid va : Nat) (x : Xl) : State :=
  match s.homeBlk asid va with
  | none => s
  | some b =>
    let pa := x.pa - va % 512
    if b.dirty ≠ 0 ∨ (b.ap = x.attr.ap ∧ b.pa = pa) then s
    else if x.attr.ap = .peer ∨ x.attr.ap = .mcast then s.dropHome fun k => k.holds asid va
    else
      let s := s.setHome (homeOf va) asid va fun b => { b with ap := x.attr.ap, pa := pa }
      if x.attr.ap = .host then s.dirFill (pa + 16 * b.first) (16 * b.words) else s

/-- Fill the word of an address at its home where it is not resident; the controller counts the request (15 R383). Such accesses of the
home itself and of copies carry no E hint: they fill the word alone, but for a window's span: a DESIGN CHOICE
(notes/assumptions/127.md). -/
def State.ensureHome (s : State) (asid va : Nat) (x : Xl) (wr : Bool) : State :=
  if (s.homeBlk asid va).isSome then (if wr then s.follow asid va x else s)
  else if s.fillWaits asid va x then s
  else
    let r := s.homeRun asid va (wordOf va) (wordOf va)
    let s := if x.attr.ap = .host then s.escort (sliceNode (homeOf va)) (16 * (r.2 + 1 - r.1)) false else s
    (if x.ac then s.countAcc (ctrlOf (homeOf va)) asid va wr else s).fillHome asid va r.1 r.2 x

/-- D is set before any byte of a page changes at its home (15 R372). -/
def State.setD (s : State) (asid va : Nat) : State :=
  match s.walk asid va with
  | .leaf p _ _ => if p.getLsbD 14 || !p.getLsbD 2 || (leafAttr p).ap == .peer then s else (s.translate (ctrlOf (homeOf va)) asid va (·.w) true).1
  | _ => s

end Sys2Proof.Machine
end

