-- ==== Sys2Proof/Machine/Window.lean ====
section
/-! DEFINITION. The control window (15 R376): what each register reads as, and what a write to it does. A register whose
write starts an act of its own hands the write to that act's event. -/

namespace Sys2Proof.Machine

/-- Has the start-up reported ready (18 R440)? -/
def State.ready (s : State) : Bool := (s.reg 0xDC0).getLsbD 63

/-- Is a spare core of a cluster (18 · die + cluster) unused and in service (24 R507, R511)? -/
def State.spareCoreFree (s : State) (k : Nat) : Bool :=
  let sp := s.spareOf k
  !s.deadCores.contains k &&
    !((List.range 4).any fun c => (s.core (k / 18 * 72 + k % 18 * 4 + c)).phys == some sp)

/-- Is a spare slice (2 · die + number) unused and in service? -/
def State.spareSliceFree (s : State) (k : Nat) : Bool :=
  !s.deadSpares.contains k && !((List.range 24).any fun j => (s.slice (k / 2 * 24 + j)).spare == some (k % 2))

/-- The COREIDs that are absent (24 R512). -/
def State.absentCores (s : State) : Nat := (s.cores.filter fun e => e.2.absent).length

/-- RETSTAT (24 R509). -/
def State.retstat (s : State) : Word :=
  let n := min 256 s.store.log.length
  let spc := ((List.range 72).filter s.spareCoreFree).length
  let sps := ((List.range 8).filter s.spareSliceFree).length
  BitVec.ofNat 64 ((if s.absentCores = 0 then 0 else 2 ^ 63) + (if n = 256 then 2 ^ 62 else 0) + n * 2 ^ 40 +
    spc * 2 ^ 16 + sps * 2 ^ 12 + s.absentCores)

/-- What an offset of the control window reads as (15 R376); one that names no register, and a WO register, reads 0, and
until READY (18 R440), and in a module that is fatal (20 R458), all but BOOTSTAT do. From READY on CLK of PWRSTAT is the current core
clock, 2,100 at reset, against its Reset column's 0 (18 R432): a DESIGN CHOICE (notes/assumptions/135.md). -/
def State.winRead (s : State) (ofs : Nat) : Word :=
  if ofs = 0xDC0 then (if s.mute then 0 else s.reg ofs)
  else if !s.ready || s.fatal then 0
  else if ofs = 0x400 then (if 287 < fld (s.reg ofs) 4 9 then s.reg ofs &&& ~~~1 else s.reg ofs)
  else if ofs = 0x800 then (if fld (s.reg ofs) 32 20 < 64 then s.reg ofs &&& ~~~1 else s.reg ofs)
  else if ofs = 0x900 then (if fld (s.reg ofs) 2 2 = 3 then s.reg ofs &&& ~~~1 else s.reg ofs)
  else if ofs = 0xD08 then BitVec.ofNat 64 (fld (s.reg ofs) 16 32 * 2 ^ 16 + s.mhz)
  else if ofs = 0xC20 then 0
  else if ofs = 0xD10 then s.energy
  else if ofs = 0xE08 then s.retstat
  else if 0x2000 ≤ ofs ∧ ofs < 0x2000 + 8 * 288 then
    let c := s.core ((ofs - 0x2000) / 8)
    BitVec.ofNat 64 (c.persist * 2 ^ 48 + c.mretry * 2 ^ 24 + c.vretry)
  else if 0x3000 ≤ ofs ∧ ofs < 0x3000 + 8 * 96 then
    let sl := s.slice ((ofs - 0x3000) / 8)
    BitVec.ofNat 64 (sl.corr * 2 ^ 24 + sl.uncorr)
  else s.reg ofs

/-- The mask of the bits `lo` to `hi`. -/
def bitsMask (hi lo : Nat) : Word := BitVec.ofNat 64 ((2 ^ (hi + 1 - lo) - 1) * 2 ^ lo)

/-- The RW bits of a register that takes any value of them at once (15 R377, 16 R396, 17 R420, 20 R456, 24 R510). -/
def winMask (ofs : Nat) : Option Word :=
  match ofs with
  | 0x200 => some (bitsMask 51 15 ||| 1)
  | 0x208 => some (bitsMask 50 15)
  | 0x220 => some (bitsMask 31 31 ||| bitsMask 11 0)
  | 0x228 => some (bitsMask 51 3)
  | 0x230 => some (bitsMask 63 0)
  | 0x240 => some (bitsMask 63 6)
  | 0x310 => some (bitsMask 51 15 ||| 1)
  | 0x320 => some (bitsMask 63 0)
  | 0x400 => some (bitsMask 20 16 ||| bitsMask 12 4 ||| 1)
  | 0x408 => some (bitsMask 47 0)
  | 0x410 => some (bitsMask 47 0)
  | 0x800 => some (bitsMask 51 32 ||| bitsMask 26 9 ||| 1)
  | 0x808 => some (bitsMask 51 12)
  | 0x818 => some (bitsMask 31 0)
  | 0x908 => some (bitsMask 63 0)
  | 0x910 => some (bitsMask 51 12)
  | 0xC00 => some (bitsMask 51 12)
  | 0xC08 => some (bitsMask 4 0)
  | 0xE10 => some (bitsMask 63 63 ||| bitsMask 31 0)
  | _ =>
    if 0x500 ≤ ofs ∧ ofs < 0x600 ∧ ofs % 8 = 0 then some (bitsMask 47 0)
    else if 0x600 ≤ ofs ∧ ofs < 0x800 ∧ ofs % 8 = 0 then some (bitsMask 47 0)
    else if 0x1000 ≤ ofs ∧ ofs < 0x1200 ∧ ofs % 8 = 0 then some (bitsMask 47 0)
    else none

/-- The clock in the steps of 18 R434? -/
def clockStep (n : Nat) : Bool := decide (1200 ≤ n) && decide (n ≤ 2100) && n % 100 == 0

/-- The floor φ of the governor in MHz (18 R434). -/
def State.phi (s : State) : Nat :=
  ((List.range 16).filter fun v => (s.reg (0x1_0000 + 0x100 * v)).getLsbD 0).foldl
    (fun m v => max m (s.reg (0xD40 + 8 * v)).toNat) 1200

/-- The clock is never below the floor (18 R434). -/
def State.holdFloor (s : State) : State := { s with mhz := max s.mhz s.phi }

/-- The DEAD bit of a plane as the last write of PLANEMAP sets it: that of its newest change that still drains (16 R401). -/
def State.planeTarget (s : State) (p : Nat) : Bool :=
  match s.planeSw.reverse.find? fun q => q.1 == p with
  | some q => q.2
  | none => (s.reg 0x308).getLsbD p

/-- A write of a VF block (14 R346): the offset within the block. -/
def vfWrite (vf ofs : Nat) (v : Word) : Instr :=
  match ofs with
  | 0x40 => .henq vf v
  | 0x70 => .svctail vf v
  | 0x80 => .svcval vf v
  | _ => .vfRegisterWrite vf ofs v

/-- A write of the control window (15 R376). -/
def State.winWrite (s : State) (ofs : Nat) (v : Word) : State :=
  if !s.ready || s.fatal then s
  else match winMask ofs with
  | some m => s.setReg ofs (v &&& m)
  | none =>
    let busy := (s.reg ofs).getLsbD 63
    match ofs with
    | 0x210 =>
      if busy then s
      else
        let s := s.setReg ofs (v &&& (bitsMask 47 20 ||| bitsMask 18 16) ||| (s.reg ofs &&& bitsMask 62 60))
        if !v.getLsbD 0 then s
        else match fld v 16 2 with
          | 0 => s.post [.tlbinvRange v]
          | 1 => s.post [.tlbinvAsid v]
          | 2 => s.post [.tlbinvAll v]
          | _ => s.setFld ofs 60 3 1
    | 0x218 => let n := fld v 0 20
      if 1 ≤ n ∧ n ≤ 1000000 then s.setReg ofs (BitVec.ofNat 64 n) else s
    | 0x238 =>
      if busy then s
      else
        let s := s.setFld ofs 0 2 (fld v 0 2)
        if !v.getLsbD 2 then s
        else s.post [match fld v 0 2 with
          | 0 => .pteRead v
          | 1 => .pteWrite v
          | 2 => .pteOr v
          | _ => .pteClear v]
    | 0x248 =>
      let s := s.setFld ofs 4 11 (fld v 4 11)
      if v.getLsbD 0 && !busy then s.post [.checkpointStart v] else s
    | 0x300 => s.post [.fabcfg v]
    | 0x308 => s.post ((List.range 8).filterMap fun p =>
        if v.getLsbD p == s.planeTarget p then none
        else some (if v.getLsbD p then .planeDeadSet p else .planeDeadClear p))
    | 0x328 => s.post [.hmsga v]
    | 0x330 =>
      if busy then s
      else
        let t := (s.setReg ofs (v &&& bitsMask 35 0 ||| (s.reg ofs &&& bitsMask 62 60))).setFld ofs 63 1 1
        match fld v 34 2 with
        | 0 => t.send (.segbindUnbind v)
        | 1 => t.send (.segbindSend v)
        | 2 => t.send (.segbindReceive v)
        | _ => s.setFld ofs 60 3 3
    | 0x338 => s.post ((List.range 16).filterMap fun n =>
        if v.getLsbD n == (s.reg ofs).getLsbD n then none
        else some (if v.getLsbD n then .portTrain n else .portTakeDown n))
    | 0x900 =>
      let s := s.setReg ofs (v &&& (bitsMask 14 2 ||| 1))
      if v.getLsbD 1 then s.post [.stopRelease] else s
    | 0xC18 => s.post [.flttail v]
    | 0xC20 => s.post [.fltreplay v]
    | 0xD00 => let n := fld v 0 32
      if n = 0 ∨ (1000 ≤ n ∧ n ≤ 23000) then s.setReg ofs (BitVec.ofNat 64 n) else s
    | 0xE00 =>
      if busy then s
      else
        let s := s.setReg ofs (v &&& (bitsMask 11 11 ||| bitsMask 8 0) ||| (s.reg ofs &&& bitsMask 62 60))
        if v.getLsbD 12 then s.post [if v.getLsbD 11 then .sliceRetire v 5 else .coreRetire v 5] else s
    | _ =>
      if 0xD40 ≤ ofs ∧ ofs < 0xDC0 ∧ ofs % 8 = 0 then
        let n := fld v 0 12
        if s.graphs.any (fun g => g.vf == (ofs - 0xD40) / 8) || !clockStep n then s
        else (s.setReg ofs (BitVec.ofNat 64 n)).holdFloor
      else if 0x1_0000 ≤ ofs ∧ ofs < 0x1_1000 then
        s.post [vfWrite ((ofs - 0x1_0000) / 256) (ofs % 256) v]
      else s

/-- The control window's host-physical base: the companion processor places it (15 R376), and the spec gives no place
(notes/assumptions/13.md). -/
def winBase : Nat := Config.windowUnit % 2 ^ 35 * 2 ^ 17

/-- Does a host page's frame lie in the control window? -/
def inWindow (ap : Apt) (pa : Nat) : Bool := ap == .host && decide (pa / 2 ^ 17 * 2 ^ 17 = winBase)

/-- A read of the control window by an access (15 R376): anything but an aligned 8-byte access reads zero. -/
def State.winLoad (s : State) (pa n : Nat) : List Byte :=
  if n = 8 ∧ pa % 8 = 0 then bytesOf (s.winRead (pa - winBase)).toNat 8 else List.replicate n 0

/-- A write of the control window by an access; anything but an aligned 8-byte access is ignored. -/
def State.winStore (s : State) (pa : Nat) (bs : List Byte) : State :=
  if bs.length = 8 ∧ pa % 8 = 0 then s.winWrite (pa - winBase) (BitVec.ofNat 64 (leNat bs)) else s

end Sys2Proof.Machine
end

