-- ==== Sys2Proof/Machine/Mem.lean ====
section
/-! DEFINITION. What the words of the memory family share (09 R211 to R222): outstanding results, the store buffer, the
attribute cache and its probes, asynchronous causes, and the fabric segments of peer accesses (16 R400 to R402). -/

namespace Sys2Proof

/-- The register after a register. -/
def Opnd.next : Opnd → Opnd
  | .v n => .v (n + 1)
  | .g n => .g (n + 1)
  | o => o

/-- The register that stands some registers after a register. -/
def Opnd.plus : Opnd → Nat → Opnd
  | .v n, k => .v (n + BitVec.ofNat 8 k)
  | .g n, k => .g (n + BitVec.ofNat 10 k)
  | o, _ => o

/-- Some registers from a register on. -/
def Opnd.run (o : Opnd) (n : Nat) : List Opnd := (List.range n).map o.plus

/-- The rights an access needs (09 R212). -/
def Acc.rights : Acc → Attr → Bool
  | .load, a => a.r
  | .store, a => a.w
  | .atomic, a => a.r && a.w
  | .copyRead, a => a.r
  | .copyWrite, a => a.w
  | .fetch, a => a.x
  | .queue, a => a.w

/-- The number of an access in a fault record (20 R457). -/
def Acc.code : Acc → Nat
  | .load => 0
  | .store => 1
  | .atomic => 2
  | .copyRead => 3
  | .copyWrite => 4
  | .fetch => 5
  | .queue => 6

/-- Does a page lie behind the fabric? -/
def Attr.fabric (a : Attr) : Bool := a.ap == .peer || a.ap == .mcast

/-- Does the access write, so that it needs D (15 R372)? -/
def Acc.writes : Acc → Bool
  | .store | .atomic | .copyWrite | .queue => true
  | _ => false

end Sys2Proof

namespace Sys2Proof.Machine

/-- Number the entries of a list. -/
def numbered {α : Type} (l : List α) : List (Nat × α) := (List.range l.length).zip l

/-! ## Interrupted matrix instructions, and abort and requeue (11 R280 to R283, 20 R455) -/

/-- Is a tile named by a plane descriptor (11 R275, R281)? -/
def Crew.pinned (c : Crew) (t : Nat) : Bool :=
  (c.mprog.getLsbD 25 && decide (fld c.mprog 13 7 = t)) || (c.mprog.getLsbD 12 && decide (fld c.mprog 0 7 = t))

/-- A tile that nothing reads any more is READY again (09 R240, 11 R275). -/
def Crew.undrain (c : Crew) (t : Nat) : Crew :=
  if (c.tile t).st = .draining ∧ (c.tile t).reads = 0 ∧ !c.pinned t then c.updTile t fun x => { x with st := .ready } else c

/-- The flags that the array has kept for a group enter its FSR (04 R98, 11 R283); in a handler those of the program's instruction,
which the trap interrupted, enter the FSR that the handler's return restores (20 R447): a DESIGN CHOICE (notes/assumptions/97.md). -/
def Group.matFlags (g : Group) : Group := { g.orFsr g.mfl with shFsr := g.shFsr ||| g.shMfl, mfl := 0, shMfl := 0 }

/-- Has a group an interrupted matrix instruction, or one in progress (11 R282)? -/
def Crew.ownMat (c : Crew) (grp : Nat) : Bool := c.mprog.getLsbD 63 && decide (fld c.mprog 59 4 = grp)

/-- The last row of a stream has been read, or the stream is abandoned: its activation tile is READY as its other readers and pins allow
(11 R280). -/
def Crew.streamRead (c : Crew) : Crew :=
  match c.mtile with
  | some (t, false) => ({ c with mtile := none }.updTile t fun x => { x with reads := x.reads - 1 }).undrain t
  | _ => c

/-- The interrupted matrix instruction ends or is abandoned (11 R280, R282, R283, 21 R473): the rows that it has written are
in its tile, its flags are in FSR, BUSY is clear, and its tile is READY as its other readers and pins allow. -/
def Crew.matAbandon (c : Crew) : Crew :=
  let c := c.mout.foldl (fun c p => { c with scratch := c.scratch.write p.1 p.2 }) c
  let c := { c.updGroup (fld c.mprog 59 4) Group.matFlags with
    mprog := c.mprog &&& 0x7FFF_FFFF_FFFF_FFFF
    mskip := false
    mout := [] }
  match c.mtile with
  | some (t, true) => { c with mtile := none }.updTile t fun x =>
      { x with fills := x.fills - 1, st := if x.fills ≤ 1 then .ready else x.st }
  | _ => c.streamRead

/-- Cause 0x10 of a group's access (20 R455 steps 1 to 4): the group is rewound, the crew stopped to be held, the record
posted; a group that its snapshot leaves finished counts as arrived (03 R67), and its interrupted matrix instruction is abandoned (21
R473). The crew's other groups still issue in this cycle
(22 R477). In a handler it is a double trap (R452). -/
def State.abort (s : State) (w : Who) (addr : Word) (acc : Nat) (pc : Pc) : State :=
  match s.crew? w.crew, s.group? w with
  | some c, some g =>
    if g.handler then s.doubleTrap w { cause := 0x10, lanes := 0, pc := pc }
    else
      let s := s.updCrew w.crew fun c =>
        let c := { c.updGroup w.grp Group.rewind with abortAt := some s.cycle }
        if !g.finished && g.rewind.finished then
          (let c := c.finishBars
           if c.ownMat w.grp then c.matAbandon else c)
        else c
      (s.stopCrew w.crew .held).postAbort (fltOf c g w 0x10 addr acc pc)
  | _, _ => s

/-! ## Queues by number and by handle -/

/-- A queue by its device-wide number. -/
def State.queue? (s : State) (n : Nat) : Option Queue := s.queues.find? fun q => q.num == n

/-- A graph by its handle. -/
def State.graph? (s : State) (h : Nat) : Option Graph := s.graphs.find? fun g => g.handle == h

/-- The queue of a handle, as a crew of a graph and a VF names it (10 R251). -/
def State.handle? (s : State) (graph vf : Nat) (h : Word) : Option Queue :=
  let n := h.toNat % 2 ^ 32
  if n / 2 ^ 13 ≠ 0 then none
  else
    let num := if n / 2 ^ 12 = 1 then some (n % 2 ^ 12)
      else (s.graph? graph).bind fun g => g.queues[n % 2 ^ 12]?
    (num.bind s.queue?).bind fun q => if q.vf = vf then some q else none

/-! ## Asynchronous causes and outstanding results -/

/-- The registers that an outstanding result writes. -/
def Out.writes (o : Out) : List Opnd :=
  match o.kind with
  | .load n _ => if n ≤ 8 then [o.dst] else [o.dst, o.dst.next]
  | .deq => (if o.dst2 = .absent then [o.dst] else [o.dst, o.dst2]) ++ (if o.pred = 15 then [] else [.p o.pred])
  | .mrd n => o.dst.run n
  | _ => [o.dst]

/-- The registers that it is still to write: a G register is written once the result of the lane whose value it takes has come, or has
been cancelled (03 R60, 05 R105). -/
def Out.waits (o : Out) : List Opnd := o.writes.filter fun w => match w with
  | .g _ => o.lanes.has o.gl
  | _ => true

/-- Is it an MRD.DIV, whose flags are to enter FSR (11 R293)? -/
def Out.flags (o : Out) : Bool := (match o.kind with
  | .mrd _ => true
  | _ => false) && o.pred == 1

/-- Is a register exchanged with the shadow at a trap entry and at its return (20 R447, R453)? -/
def shadowed : Opnd → Bool
  | .v n => decide (n.toNat < 4)
  | .g n => decide (n.toNat < 4)
  | .p n => decide (n.toNat < 4)
  | _ => false

/-- An outstanding result whose flags enter no FSR. -/
def Out.mute (o : Out) : Out := if o.flags then { o with pred := 0 } else o

/-- Has a group an outstanding write of such a register, or of FSR? RTT reads and writes them all, so it waits for it (03 R60, 21
R462). -/
def Group.shadowPending (g : Group) : Bool := g.outs.any fun o => o.waits.any shadowed || o.flags

/-- A cause waits for the group's next issue (20 R454, 22 R484). -/
def State.addAsync (s : State) (w : Who) (cause : Nat) (addr info : Nat) : State :=
  s.updGroup w fun g => { g with
    async := g.async ++ [{ cause := cause, addr := BitVec.ofNat 64 addr, info := BitVec.ofNat 64 info, late := g.handler }] }

/-- Write one lane's result: V by lane, G for the lane whose value it takes (05 R105). -/
def Group.wrLane (g : Group) (gl l : Nat) (o : Opnd) (x : Word) : Group :=
  match o with
  | .v n => g.wrV n.toNat (Mask.one l) fun _ => x
  | .g n => if l = gl then g.wrG n.toNat x else g
  | .p n => g.wrP n.toNat (Mask.one l) (if x = 0 then 0 else Mask.one l)
  | _ => g

/-- The eight bytes of a lane's answer from byte `k` on. -/
def Out.word (o : Out) (l k : Nat) : Word := BitVec.ofNat 64 (leNat (Memory.read o.got (24 * l + k) 8))

/-- The value of a load of `n` bytes (09 R218). -/
def loadValue (n : Nat) (sx : Bool) (x : Word) : Word :=
  let v := x.toNat % 2 ^ (8 * n)
  if n ≤ 4 ∧ sx then BitVec.ofInt 64 (toI (8 * n) true v) else BitVec.ofNat 64 v

/-- Write the result of one lane of an outstanding result. -/
def Group.wrOut (g : Group) (o : Out) (l : Nat) : Group :=
  match o.kind with
  | .load n sx =>
    if n ≤ 8 then g.wrLane o.gl l o.dst (loadValue n sx (o.word l 0))
    else (g.wrLane o.gl l o.dst (o.word l 0)).wrLane o.gl l o.dst.next (o.word l 8)
  | .atom => g.wrLane o.gl l o.dst (o.word l 0)
  | .qlen => g.wrLane o.gl l o.dst (o.word l 0)
  | .deq =>
    if o.word l 16 = 0 then g.wrP o.pred.toNat (Mask.one l) 0
    else
      let g := g.wrLane l l o.dst (o.word l 0)
      let g := if o.dst2 = .absent then g else g.wrLane l l o.dst2 (o.word l 8)
      g.wrP o.pred.toNat (Mask.one l) (Mask.one l)
  | .mrd _ => g

/-- Lanes leave an outstanding result, written or cancelled; a parked lane with none left is live (03 R56). -/
def Group.outDone (g : Group) (id : Nat) (lanes : Mask) : Group :=
  let outs := (g.outs.map fun o => if o.id = id then { o with lanes := o.lanes &&& ~~~lanes } else o).filter (·.lanes != 0)
  let g := { g with outs := outs }
  g.mapLp (lanes &&& ~~~g.outLanes &&& g.lanesIn (· == .parked)) fun _ e => { e with st := .live }

/-- A trap whose entry waits for the last outstanding result is entered (20 R447 step 2). -/
def State.trapIfClear (s : State) (w : Who) : State :=
  match s.crew? w.crew, s.group? w with
  | some c, some g => (match g.wait with
    | .trap t => if g.outs.isEmpty then s.enter w c g t else s
    | _ => s)
  | _, _ => s

/-- An outstanding result of a group. -/
def State.out? (s : State) (w : Who) (id : Nat) : Option Out :=
  match s.group? w with
  | none => none
  | some g => g.outs.find? fun o => o.id == id

/-- Note a lane whose result is cancelled. -/
def Group.outMark (g : Group) (id l : Nat) : Group :=
  { g with outs := g.outs.map fun o => if o.id = id then { o with cancel := o.cancel ||| Mask.one l } else o }

/-- The group, number and lane of a part of an access. -/
def partOf : Instr → Option (Who × Nat × Nat)
  | .loadRequestAtHome r => (match r.origin with
    | .group w id l => some (w, id, l)
    | _ => none)
  | .storePerformedAtHome m => (match m.origin with
    | .group w id l => some (w, id, l)
    | _ => none)
  | _ => none

/-- Is the part before a later part of an ordered access held at its home? -/
def State.heldBefore (s : State) (i : Instr) : Bool :=
  match partOf i with
  | some (w, id, l) => s.held.any fun h => partOf h.req == some (w, id, l)
  | none => false

/-- Is it a part of a lane's access? -/
def isPart (id l : Nat) (i : Instr) : Bool := match partOf i with
  | some (_, n, k) => n == id && k == l
  | none => false

/-- The parts of a lane's access that have not left do not leave any more. -/
def Group.dropLater (g : Group) (id l : Nat) : Group := { g with later := g.later.filter fun i => !isPart id l i }

/-- Is an access answered? -/
def Group.answered (g : Group) (id : Nat) : Bool :=
  !(g.outs.any fun o => o.id == id) && !(g.reds.any fun r => r.1 == id) && !(g.sb.any fun e => e.id == id)

/-- A lane of an access fails: its lowest failing byte is kept until the whole access is answered. -/
def Group.failLane (g : Group) (f : Fail) : Group :=
  let same (x : Fail) : Bool := x.id == f.id && x.lane == f.lane && x.cause == f.cause
  match g.fails.find? same with
  | some x => if f.addr < x.addr then { g with fails := (g.fails.erase x) ++ [f] } else g
  | none => { g with fails := g.fails ++ [f] }

/-- Once an access is answered, each cause that its lanes met waits for the group's next issue, with the lowest byte of the
lowest lane that met it (16 R398, 20 R454, 22 R483). -/
def State.failDone (s : State) (w : Who) (id : Nat) : State :=
  match s.group? w with
  | none => s
  | some g =>
    if !g.answered id then s
    else
      let mine := lsort Fail.lane (g.fails.filter fun f => f.id == id)
      let s := s.updGroup w fun g => { g with fails := g.fails.filter fun f => f.id != id }
      ((mine.map (·.cause)).eraseDups).foldl (fun s c => match mine.find? fun f => f.cause == c with
        | some f => s.addAsync w c f.addr f.info
        | none => s) s

/-- The parts that a lane still waits for. -/
def Out.open (o : Out) (l : Nat) : Bool := o.left.any fun p => decide (24 * l ≤ p.1 ∧ p.1 < 24 * l + 24)

/-- Once every part of a lane is answered, its result is written, or ends without a write where a part failed (20 R460). -/
def State.outEnd (s : State) (w : Who) (id l : Nat) : State :=
  match s.out? w id with
  | none => s
  | some o =>
    if o.open l || !o.lanes.has l then s
    else ((s.updGroup w fun g => (if o.cancel.has l then g else g.wrOut o l).outDone id (Mask.one l)).failDone w id).trapIfClear w

/-- Bytes of a lane's answer, at offset `ofs` of it; with its last part the lane's result is written. -/
def State.outBytes (s : State) (w : Who) (id l ofs : Nat) (bs : List Byte) : State :=
  let put (o : Out) : Out := { o with
    got := (numbered bs).foldl (fun m p =>
      if o.own.contains (24 * l + ofs + p.1) then m else Memory.set m (24 * l + ofs + p.1) p.2) o.got
    left := sset 0 o.left (24 * l + ofs) 0 }
  (s.updGroup w fun g => { g with outs := lupdAll (fun o => o.id == id) put g.outs }).outEnd w id l

/-- The part of a lane at an offset is answered; of an access in order, the parts that have not left are not asked for any more. -/
def Group.partGone (g : Group) (id l ofs : Nat) : Group :=
  let all := g.later.any (isPart id l)
  { g.dropLater id l with outs := lupdAll (fun o => o.id == id) (fun o => { o with
      left := o.left.filter fun p => !(p.1 == 24 * l + ofs || (all && decide (24 * l ≤ p.1 ∧ p.1 < 24 * l + 24))) }) g.outs }

/-- The part of a lane that an address answers: its offset in the lane's value. -/
def Out.ofsOf (o : Out) (l va : Nat) : Nat :=
  match o.left.find? fun p => decide (24 * l ≤ p.1 ∧ p.1 < 24 * l + 24) && p.2 == va + 1 with
  | some p => p.1 - 24 * l
  | none => 0

/-- The part of a lane's result at an address fails, at a byte of it: nothing is written, and its cause waits with the access's
(16 R398, 20 R460). -/
def State.outCancel (s : State) (w : Who) (id l cause addr info : Nat) (byte : Nat := addr) : State :=
  match s.out? w id with
  | none => s
  | some o =>
    (s.updGroup w fun g =>
      ((g.failLane { id := id, lane := l, cause := cause, addr := byte, info := info }).outMark id l).partGone id l
        (o.ofsOf l addr)).outEnd w id l


/-- A lane of an atomic without a result is answered. -/
def Group.redDone (g : Group) (id l : Nat) : Group :=
  { g with reds := (g.reds.map fun r => if r.1 = id then (r.1, r.2 &&& ~~~Mask.one l) else r).filter (·.2 != 0) }

/-- Raise a crew's clocks. -/
def State.raiseClocks (s : State) (crew l k : Nat) : State :=
  s.updCrew crew fun c => { c with lclk := max c.lclk l, sclk := max c.sclk k }

/-- Set LCLK and SCLK each to their maximum, and LCLK first to F for `.DOM` and `.SYS` (13 R333, R334). -/
def State.syncClocks (s : State) (crew : Nat) (sc : Scope) : State :=
  s.updCrew crew fun c =>
    let f := if sc = .dom ∨ sc = .sys then sget 0 s.floorF (c.core / 72) else 0
    let t := max (max c.lclk f) c.sclk
    { c with lclk := t, sclk := t }

/-! ## The attribute cache (09 R212) -/

/-- The 32 KiB unit of an address. -/
def pageOf (va : Nat) : Nat := va % 2 ^ 51 / 2 ^ 15

/-- Does an entry name the page of an address under an ASID? -/
def AttrEnt.covers (e : AttrEnt) (asid va : Nat) : Bool :=
  (e.asid == asid || e.attr.g) && decide (e.page * 2 ^ 15 = va % 2 ^ 51 / pageSize e.lvl * pageSize e.lvl)

/-- The attributes of an address under an ASID, by the newest entry. -/
def Core.attr (co : Core) (asid va : Nat) : Option Attr :=
  (co.attrs.reverse.find? fun e => e.covers asid va).map (·.attr)

/-- An access of a lane: its bytes and its kind. -/
structure Access where
  lane : Nat
  va : Nat
  n : Nat
  acc : Acc
  deriving DecidableEq, Repr

/-- The first byte of an access on each page it touches. -/
def Access.pages (a : Access) : List Nat :=
  let next := (a.va / 2 ^ 15 + 1) * 2 ^ 15
  if a.n = 0 then [] else if next < a.va + a.n then [a.va, next] else [a.va]

/-- The first byte of an access in each 256-byte unit that it touches, for which the fabric has one port (16 R400). -/
def Access.units (a : Access) : List Nat :=
  let next := (a.va / 256 + 1) * 256
  if a.n = 0 then [] else if next < a.va + a.n then [a.va, next] else [a.va]

/-- What the attribute cache and the probes of this word say of a byte's page. -/
inductive Look where
  | ok (a : Attr)
  | probe
  | noTrans
  | perm
  | expired
  deriving DecidableEq, Repr

/-- The number under which a group keeps a probe's answer of a page; those below 32 are its word's answers. -/
def probeKey (acc : Acc) (va : Nat) : Nat := 32 + pageOf va * 8 + acc.code

/-- Look up a byte's page. A refusal under a cached entry probes again first (15 R374, 22 R479), and so does RAP = 0 for an
atomic of a peer page, until a probe of this word has answered (25 R519). -/
def lookAttr (co : Core) (g : Group) (asid : Nat) (acc : Acc) (va : Nat) : Look :=
  if 2 ^ 51 ≤ va then .perm
  else
    match sget 0 g.answers (probeKey acc va) with
    | 1 => .noTrans
    | 2 => .perm
    | 3 => .expired
    | n => match co.attr asid va with
      | none => .probe
      | some a =>
        let rap := acc != .atomic || a.ap != .peer || a.rap || n == 4
        if acc.rights a && (!acc.writes || a.d || a.ap == .peer) && rap then .ok a else .probe

/-- The number under which a group keeps a word of four bytes that is read for its fetch, or for its GLOAD's descriptor. -/
def codeKey (va : Nat) : Nat := 2 ^ 60 + va

/-- A byte of such a word as it is kept. -/
def codeAt (k va : Nat) : Byte := BitVec.ofNat 8 ((k - 1) / 2 ^ (8 * (va % 4)))

/-- How its reading failed: 0 not at all, 1 refused, 2 poisoned. -/
def codeBad (k : Nat) : Nat := k / 2 ^ 62

/-- Send the probes of pages; the group waits for their answers. -/
def State.probe (s : State) (w : Who) (core asid : Nat) (ps : List (Acc × Nat)) : State :=
  let ps := ps.eraseDups
  let s := s.updGroup w fun g => { g with wait := .probe ps.length }
  ps.foldl (fun s p => s.send (.attributeProbe
    { who := w, core := core, asid := asid, va := p.2 * 2 ^ 15, acc := p.1, wr := p.1.writes })) s

/-- What the attribute cache and the probes say of the pages of a word's accesses. -/
def State.looks (s : State) (x : Ctx) (as : List Access) : List (Access × Nat × Look) :=
  (as.map fun a => a.pages.map fun va => (a, va, lookAttr (s.core x.c.core) x.g x.c.asid a.acc va)).flatten

/-- The probes of a word's pages (09 R212); `k` runs where every page is known. -/
def State.probeGate (s : State) (x : Ctx) (as : List Access) (k : Unit → State) : State :=
  let need := (s.looks x as).filter fun t => t.2.2 == .probe
  if !need.isEmpty then s.probe x.iss.who x.c.core x.c.asid (need.map fun t => (t.1.acc, pageOf t.2.1)) else k ()

/-- A cause of the lanes whose pages a look names. -/
def State.lookTrap (s : State) (x : Ctx) (as : List Access) (l : Look) (cause : Nat) (info : Word) (k : Unit → State) : State :=
  let bad := (s.looks x as).filter fun t => t.2.2 == l
  match bad.head? with
  | some t => s.trapIssue x cause (Mask.ofFn fun l => bad.any fun t => t.1.lane == l) info (BitVec.ofNat 64 t.2.1)
  | none => k ()

/-- The faults of a word's pages (09 R212, 20 R459 rank 9): cause 0x10, 0x11 of kind 0, and 0x13 for a probe that was held
beyond MIGLIMIT. `k` runs where every page has its rights. -/
def State.pageFaults (s : State) (x : Ctx) (as : List Access) (k : Unit → State) : State :=
  match (s.looks x as).find? (fun t => t.2.2 == .noTrans) with
  | some t => (s.spent x.iss).abort x.iss.who (BitVec.ofNat 64 t.2.1) t.1.acc.code x.iss.pc
  | none => s.lookTrap x as .perm 0x11 0 fun _ => s.lookTrap x as .expired 0x13 (x.iss.pc.setWidth 64) k

/-- The attribute checks of a word's accesses at issue: probes first. -/
def State.attrGate (s : State) (x : Ctx) (as : List Access) (k : Unit → State) : State :=
  s.probeGate x as fun _ => s.pageFaults x as k

/-- The attributes of a byte's page after `attrGate`. -/
def Ctx.attr (x : Ctx) (s : State) (va : Nat) : Attr :=
  ((s.core x.c.core).attr x.c.asid va).getD
    { r := false, w := false, x := false, ok := .rc, ap := .hbm, rap := false, g := false, d := false, wb := false }

/-- The physical address of a byte: what the paired controller's TLB or a walk gives. -/
def State.peek (s : State) (asid va : Nat) : Option Xl :=
  match (s.ctrl (ctrlOf (homeOf va))).tlb.find? (fun t => t.covers asid va) with
  | some t => some (xlOf t.leaf t.lvl va)
  | none => (match s.walk asid va with
    | .leaf p lvl _ => some (xlOf p lvl va)
    | _ => none)

/-- Does a byte's page lie in the control window (15 R376)? -/
def State.windowAt (s : State) (asid va : Nat) (a : Attr) : Bool :=
  a.ap == .host && (match s.peek asid va with
    | some x => inWindow x.attr.ap x.pa
    | none => false)

/-- The tag of the message unit that a peer byte lies in (16 R405). -/
def State.msgUnit (s : State) (asid va : Nat) (a : Attr) : Option Nat :=
  if a.ap = .peer then (s.peek asid va).bind fun x =>
    if 2 ^ 26 ≤ x.pa / 2 ^ 15 % 2 ^ 27 then some (x.pa / 2 ^ 15 % 2 ^ 26) else none
  else none

/-! ## Fabric segments (16 R397 to R402) -/

/-- The module number of a peer address, its offset at the peer, and the group of a multicast address. -/
def peerDev (pa : Nat) : Nat := pa / 2 ^ 42 % 1024
def peerOfs (pa : Nat) : Nat := pa % 2 ^ 42
def mcGroup (pa : Nat) : Nat := pa / 2 ^ 15 % 2 ^ 16

/-- Is the fabric in torus mode? -/
def State.torus (s : State) : Bool := (s.reg 0x300).getLsbD 0

/-- Is a port up? -/
def State.portUp (s : State) (n : Nat) : Bool := (s.reg 0x338).getLsbD n

/-- The plane that an address names, before DEAD is heard (16 R400). -/
def planeOf (ofs : Nat) : Nat := (ofs / 2 ^ 8 % 8) ^^^ (ofs / 2 ^ 11 % 8)

/-- Plane and port of an address in switched mode; none where both planes of the pair are dead (16 R401). -/
def State.switchPort (s : State) (ofs : Nat) : Option (Nat × Nat) :=
  let p := planeOf ofs
  let dead (q : Nat) : Bool := (s.reg 0x308).getLsbD q
  let q := if dead p then p ^^^ 1 else p
  if dead q then none else some (q, q + 8 * (ofs / 2 ^ 14 % 2))

/-- The torus sizes X, Y, Z, W. -/
def State.torusSizes (s : State) : List Nat := [24, 29, 34, 39].map fun b => fld (s.reg 0x300) b 5 + 1

/-- The coordinates of a module (16 R402). -/
def coords : List Nat → Nat → List Nat
  | [], _ => []
  | n :: t, m => m % n :: coords t (m / n)

/-- The first hop towards a module: direction pair and the hops; the opposite direction where both ports of a pair are
down (16 R402, 23 R505). -/
def State.torusHops (s : State) (dst src : Nat) : List (Nat × Nat) :=
  let sz := s.torusSizes
  let rows := (sz.zip ((coords sz src).zip (coords sz dst))).zip (List.range 4)
  rows.filterMap fun r =>
    let n := r.1.1
    let d := (r.1.2.2 + n - r.1.2.1) % n
    if d = 0 then none else if d ≤ n - d then some (2 * r.2, d) else some (2 * r.2 + 1, n - d)

/-- The port of a direction pair for an address: the one its bit 14 names, or the other where that is down. -/
def State.pairPort (s : State) (pair ofs : Nat) : Option Nat :=
  let a := pair + 8 * (ofs / 2 ^ 14 % 2)
  let b := pair + 8 * (1 - ofs / 2 ^ 14 % 2)
  if s.portUp a then some a else if s.portUp b then some b else none

/-- This module's number (16 R396), which its requests carry (R397). -/
def State.modNum (s : State) : Nat := fld (s.reg 0x300) 54 10

/-- The port of the first hop to a module in torus mode. -/
def State.torusPort (s : State) (dst ofs : Nat) : Option Nat :=
  match s.torusHops dst s.modNum with
  | [] => s.pairPort 0 ofs
  | (pair, hops) :: _ => match s.pairPort pair ofs with
    | some p => some p
    | none =>
      let n := s.torusSizes.getD (pair / 2) 1
      if 2 < n ∧ hops < n then s.pairPort (pair ^^^ 1) ofs else none

/-- Is a plane to become dead once it has drained? Its segments wait meanwhile, also those of a port that is down (16 R401,
23 R501). -/
def State.planeDying (s : State) (plane : Nat) : Bool := s.planeSw.any fun p => p.1 == plane && p.2

/-- Plane and port of a request; none where the far end cannot be reached. In torus mode it has no plane, which 8 stands for:
DEAD has no effect there (16 R402). -/
def State.route (s : State) (mc : Bool) (dst ofs : Nat) : Option (Nat × Nat) :=
  if !(s.reg 0x300).getLsbD 1 then none
  else if s.torus then (if mc then none else (s.torusPort dst ofs).map fun p => (8, p))
  else (s.switchPort ofs).bind fun r => if s.portUp r.2 || s.planeDying r.1 then some r else none

/-- In torus mode of an enabled fabric, a request that no port of this module may send fails as a segment does (23 R505): the port
that its address names, where it is counted. -/
def State.strandPort (s : State) (dst ofs : Nat) : Option Nat :=
  if s.torus && (s.reg 0x300).getLsbD 1 then
    some ((((s.torusHops dst s.modNum).map (·.1)).headD 0) + 8 * (ofs / 2 ^ 14 % 2))
  else none

/-- Add to a port's byte count, to its retrains or to its failures (17 R420). -/
def State.portCount (s : State) (port which n : Nat) : State :=
  let o := 0x1000 + 32 * port + 8 * which
  s.setReg o (BitVec.ofNat 64 ((fld (s.reg o) 0 48 + n) % 2 ^ 48))

/-- The ports by which the modules on the way send a request on, after the port by which it leaves: the whole route, which the
source writes (16 R402). A request to this module itself goes round the first dimension. -/
def State.turnList (s : State) (dst ofs first : Nat) : List Nat :=
  if !s.torus then []
  else
    let bit := 8 * (ofs / 2 ^ 14 % 2)
    let hops := match s.torusHops dst s.modNum with
      | [] => [(first % 8, s.torusSizes.getD (first % 8 / 2) 1)]
      | (pair, n) :: t =>
        (if first % 8 = pair then (pair, n) else (first % 8, s.torusSizes.getD (pair / 2) 1 - n)) :: t
    ((hops.map fun h => List.replicate h.2 (h.1 + bit)).flatten).drop 1

/-- What a segment says to the outside, from this module and with its turn list. -/
def Seg.out (g : Seg) (src : Nat) (turns : List Nat) : OutMsg :=
  let va := g.ofs % 2 ^ 41
  match g.use with
  | .load r => .peer g.tag g.port g.dev src turns (.load va r.n)
  | .store m => .peer g.tag g.port g.dev src turns (.store va m.bytes)
  | .atom m => .peer g.tag g.port g.dev src turns (.atom va m.n m.op m.b)
  | .log bs => .peer g.tag g.port g.dev src turns (.store va bs)
  | .ck n => .peer g.tag g.port g.dev src turns (.load va n)
  | .mcast m => .mcast g.tag g.port src g.dev g.ofs m.bytes
  | .msg _ _ => .message g.tag g.port g.dev src turns (g.ofs / 2 ^ 15 % 2 ^ 26) (g.ofs % 2 ^ 15) []

/-- The bytes that a segment sends. -/
def Seg.bytes (g : Seg) : Nat :=
  match g.use with
  | .store m | .mcast m => m.bytes.length
  | .atom m => m.n
  | .log bs => bs.length
  | _ => 0

/-- Must segments of a plane and port wait: the plane or the port drains, or the port retrains (16 R401, 23 R500, R501)? -/
def State.segWaits (s : State) (plane port : Nat) : Bool :=
  (s.planeSw.any fun p => p.1 == plane || (!p.2 && p.1 == (plane ^^^ 1))) || s.downing.getLsbD port ||
    (sget {} s.retrain port).attempts != 0

/-- In torus mode, must a segment wait behind older ones to the same module and PA[14], one that waits itself or one that is
unanswered on another port (16 R403, 23 R505)? -/
def Seg.behind (g : Seg) (older : List Seg) : Bool :=
  g.plane == 8 && older.any fun x => x.plane == 8 && x.dev == g.dev && x.ofs / 2 ^ 14 % 2 == g.ofs / 2 ^ 14 % 2 &&
    (!x.sent || x.port != g.port)

/-- A segment leaves by its port. -/
def State.putSeg (s : State) (g : Seg) (payload : List Byte) : State :=
  let m := match g.use, g.out s.modNum (s.turnList g.dev g.ofs g.port) with
    | .msg _ _, .message t p d r l c o _ => OutMsg.message t p d r l c o payload
    | _, o => o
  { s.portCount g.port 0 (g.bytes + payload.length) with
    segs := s.segs ++ [{ g with sent := true }]
    outbox := s.outbox ++ [m] }

/-- A segment leaves by its port, unless it must wait there. -/
def State.sendSeg (s : State) (g : Seg) (payload : List Byte) : State :=
  if s.segWaits g.plane g.port || g.behind s.segs then { s with segs := s.segs ++ [{ g with sent := false }] }
  else s.putSeg g payload

/-! ## The store buffer (09 R220, R221) -/

/-- A segment that no port may send fails, and adds 1 to FSEG (23 R502, R505). -/
def State.strandCount (s : State) (dst ofs : Nat) : State := match s.strandPort dst ofs with
  | some p => s.portCount p 3 1
  | none => s

/-! ## The order of requests at a port (16 R403) -/

/-- The port that sends a request for an address of a peer or multicast page. -/
def State.portFor (s : State) (asid va : Nat) : Option Nat :=
  match s.peek asid va with
  | none => none
  | some x =>
    if x.attr.ap = .peer then (s.route false (peerDev x.pa) (peerOfs x.pa)).map (·.2)
    else if x.attr.ap = .mcast then (s.route true (mcGroup x.pa) (x.pa % 2 ^ 15)).map (·.2)
    else none

/-- The class of a request that a port sends, the port, and its place in the order in which requests leave their cores: its number,
its lane and its address (16 R403, notes/assumptions/119.md). -/
def State.portKey (s : State) : Instr → Option ((Nat × Nat) × Nat × Nat × Nat)
  | .loadRequestAtHome r =>
    if r.qlen.isSome || r.left = 0 then none else (s.portFor r.asid r.va).map fun p => ((0, p), r.left, r.origin.lane, r.va)
  | .storePerformedAtHome m => (s.portFor m.asid m.va).map fun p => ((1, p), m.left, m.origin.lane, m.va)
  | .atomicAtHome m => (s.portFor m.asid m.va).map fun p => ((2, p), m.left, m.origin.lane, m.va)
  | _ => none

/-- Has a request left its core before another of its class and port? -/
def State.portBefore (s : State) (i j : Instr) : Bool :=
  match s.portKey i, s.portKey j with
  | some (p, a, l, u), some (q, b, k, v) =>
    p == q && (decide (a < b) || (a == b && (decide (l < k) || (l == k && decide (u < v)))))
  | _, _ => false

/-- The number under which a request has left its core (16 R403). -/
def leftOf : Instr → Nat
  | .loadRequestAtHome r => r.left
  | .storePerformedAtHome m => m.left
  | .atomicAtHome m => m.left
  | _ => 0

/-- Does an invalidation match an address under an ASID, given the size of the page that holds it (15 R380)? -/
def Inv.hits (v : Inv) (asid base size : Nat) : Bool :=
  match v.scope with
  | 0 => v.asid == asid && decide (base < v.va + v.units * 2 ^ 15) && decide (v.va < base + size)
  | 1 => v.asid == asid
  | _ => true

/-- Does an invalidation match the page of an address under an ASID, as a TLB or the table gives the page: its size, and ASID 0
where it is global (15 R368, R380)? An address that neither maps stands for its 32 KiB unit. -/
def State.invHits (s : State) (v : Inv) (asid va : Nat) : Bool :=
  let page (lvl tag : Nat) : Bool := v.hits tag (va % 2 ^ 51 / pageSize lvl * pageSize lvl) (pageSize lvl)
  let tlb := ((s.ctrl (ctrlOf (homeOf va))).tlb.find? fun t => t.covers asid va).map fun t => page t.lvl t.asid
  let tab := match s.walk asid va with
    | .leaf p lvl _ => some (page lvl (if p.getLsbD 11 then 0 else asid))
    | _ => none
  match tlb, tab with
  | none, none => page 3 asid
  | a, b => a == some true || b == some true

/-- Is a message a write to memory that has not been performed yet: its ASID, address and store clock? -/
def writeOf : Instr → Option (Nat × Nat × Nat)
  | .storePerformedAtHome m => some (m.asid, m.va, m.sclk)
  | .atomicAtHome m => some (m.asid, m.va, m.sclk)
  | _ => none

/-- Does an invalidation, or a checkpoint that waits for the earlier writes, wait for a request (15 R380, R393 step 3)? -/
def State.awaited (s : State) (i : Instr) : Bool :=
  (writeOf i).any fun w => (s.inv.any fun v => s.invHits v w.1 w.2.1) ||
    s.ck.any fun k => k.phase == .drain && decide (w.2.2 ≤ k.cut)

/-- Does something wait for a request, or for one that is to follow it at its port? Such a request waits for none that is held. -/
def State.urgent (s : State) (e : Instr) : Bool := s.awaited e || s.moving.any fun i => s.awaited i && s.portBefore e i

/-- Does a request wait at its home for an older one of its word that does not come to the port before another: one that has not left
yet, that has left after that other, or one that is held where that other waits for none that is held? -/
def State.barred (s : State) (i e : Instr) : Bool :=
  (s.held.any fun h => reqBefore h.req i && (decide (leftOf e < leftOf h.req) || s.urgent e)) ||
    (s.laters.any fun q => reqBefore q i) || s.moving.any fun q => reqBefore q i && decide (leftOf e < leftOf q)

/-- May the bytes of an address come over the Zenvex Link: does its home block, or its page, stand for host memory? -/
def State.hostAt (s : State) (asid va : Nat) : Bool :=
  match s.homeBlk asid va with
  | some b => b.ap == .host
  | none => (s.peek asid va).any fun x => x.attr.ap == .host && !inWindow x.attr.ap x.pa

/-- Does a request need the Zenvex Link while it retrains: an atomic, a renewal or a fill of a host page (23 R501, R506)? -/
def State.linkWaits (s : State) (e : Instr) : Bool :=
  s.zretrains && match e with
    | .atomicAtHome m => s.hostAt m.asid m.va
    | .loadRequestAtHome r => !r.ldc && r.qlen.isNone && !(r.atLocal && (localSlice r.core (homeOf r.va)).isSome) &&
        (s.homeBlk r.asid r.va).any fun b => b.ap == .host
    | .homeFillReturn m => m.host && m.copy.isNone
    | _ => false

/-- A port sends the requests of a class in the order in which they left their cores (16 R403): a later one waits for an earlier one
that is on its way, but for one that itself waits for a request of its word which comes to the port later, and for an earlier one that is
held, but where an invalidation or a checkpoint waits for it or for one behind it (notes/assumptions/119.md). What needs the Zenvex Link
waits while it retrains (23 R506). -/
def State.portWaits (s : State) (e : Instr) : Bool :=
  s.linkWaits e || ((s.portKey e).isSome && ((s.moving.any fun i => s.portBefore i e && !s.barred i e) ||
    (s.held.any fun h => s.portBefore h.req e) && !s.urgent e))

/-- The parts of an access: its largest naturally aligned parts, in ascending order (09 R213). -/
def cutAligned : Nat → Nat → Nat → List (Nat × Nat)
  | 0, _, _ => []
  | k + 1, a, n =>
    if n = 0 then []
    else
      let size := ([16, 8, 4, 2].find? fun z => decide (z ≤ n) && a % z == 0).getD 1
      (a, size) :: cutAligned k (a + size) (n - size)

/-- The pieces of a run of bytes that one segment carries each: cut at every 256-byte boundary (16 R400). -/
def segPieces (va n : Nat) : List (Nat × Nat) :=
  (List.range ((va + n + 255) / 256 - va / 256)).map fun k =>
    let lo := max va ((va / 256 + k) * 256)
    (lo, min (va + n) ((va / 256 + k + 1) * 256) - lo)

/-- Is a store of a group's buffer over the WB bit of its page, as the core's translation carries it (15 R385)? -/
def State.wbAt (s : State) (core asid va : Nat) : Bool :=
  match (s.core core).attr asid va with
  | some a => a.wb
  | none => (match s.peek asid va with
    | some x => x.attr.wb
    | none => false)

/-- Is it the first part of its lane's access among some? -/
def firstPart (l : List Instr) (k : Nat) : Bool := match (l.getD k .clockTick), partOf (l.getD k .clockTick) with
  | _, some (_, id, n) => !((l.take k).any (isPart id n))
  | _, none => true

/-- The lease length of a page kind (13 R325, R326). -/
def State.leaseLen (s : State) (k : PKind) : Nat :=
  match k with
  | .so => fld s.leasecfg 0 11
  | .rc => fld s.leasecfg 11 11
  | .uo => fld s.leasecfg 22 11

/-- The parts of an access leave: all at once, or where they are ordered each lane's first one, and the others once the one
before them is answered (13 R331). -/
def State.sendParts (s : State) (w : Who) (inOrder : Bool) (l : List Instr) (go : State → Instr → State) : State :=
  let now (p : Nat × Instr) : Bool := !inOrder || firstPart l p.1
  let s := s.updGroup w fun g => { g with later := g.later ++ ((numbered l).filter fun p => !now p).map (·.2) }
  (((numbered l).filter now).map (·.2)).foldl go s

/-- Commit one entry: each part leaves for its home with the crew's SCLK (13 R321). -/
def State.commitEntry (s : State) (w : Who) (e : SbEntry) : State :=
  match s.crew? w.crew with
  | none => s
  | some c =>
    let s := s.updGroup w fun g => { g with
      sb := g.sb.map fun x => if x.id = e.id then { x with committed := true } else x }
    let parts : List Instr := (numbered e.parts).map fun p => .storePerformedAtHome {
      origin := .group w e.id p.2.lane, part := p.1, core := c.core, vf := c.vf, asid := c.asid, va := p.2.va
      bytes := p.2.bytes, sclk := c.sclk, cp := e.cp, pc := e.pc, wb := s.wbAt c.core c.asid p.2.va, ext := p.2.ext
      left := s.fresh }
    let s := s.newTag.2
    let s := s.sendParts w e.inOrder parts State.send
    let s := if e.cp = .home then s.updCore c.core fun co => { co with
      l1 := co.l1.filter fun b => !(e.parts.any fun p => b.holds c.asid p.va) } else s
    s.perfAdd c.core c.vf 0x0C 1

/-- The number of committed, unacknowledged entries. -/
def Group.sbCommitted (g : Group) : Nat := (g.sb.filter (·.committed)).length

/-- Commit a group's held entries in buffer order, at most 256 unacknowledged (09 R220). -/
def State.commitHeld (s : State) (w : Who) : State :=
  match s.group? w with
  | none => s
  | some g =>
    ((g.sb.filter (!·.committed)).take (256 - g.sbCommitted)).foldl (fun s e => s.commitEntry w e) s

/-- Has a group a held entry? -/
def Group.hasHeld (g : Group) : Bool := g.sb.any (!·.committed)

/-- Has a group a committed store that a fence of the scope awaits (13 R334), one whose .SYS acknowledgement waits for the Zenvex Link
among them (23 R501), or an access not performed yet that the
fence orders (13 R331)? -/
def Group.fenceWaits (g : Group) (sc : Scope) : Bool :=
  sc != .grp &&
    ((sc == .sys && g.sysWait) || (g.sb.any fun e => e.committed && e.parts.any fun p =>
      !p.acked && (!p.far || sc == .dom || sc == .sys)) ||
     !g.reds.isEmpty ||
     g.outs.any fun o => match o.kind with
       | .load _ _ | .atom => true
       | _ => false)

/-- The newest own store to a byte (09 R221); one that an own atomic on the byte has followed is read at the home (13 R330). -/
def Group.forward (g : Group) (va : Nat) : Option Byte :=
  let past (id : Nat) : Bool := g.atomics.any fun a => decide (id < a.1) && decide (a.2.1 ≤ va) && decide (va < a.2.1 + a.2.2)
  (g.sb.filter fun e => !past e.id).reverse.findSome? fun e => (e.parts.reverse.find? fun p =>
    decide (p.va ≤ va) && decide (va < p.va + p.bytes.length)).bind fun p => p.bytes[va - p.va]?

/-- The snapshot of a boundary access: PC + length, depth and live for the active lanes, and the stream ports (09 R222,
R248); not in handler mode (20 R451). -/
def Group.boundary (g : Group) (act : Mask) (pc : Pc) (len : Nat) : Group :=
  if g.handler || act == 0 then g
  else
    { g with
      snap := act.lanes.foldl (fun m l => sset Lp.none m l
        { st := .live, depth := (g.lpOf l).depth, pc := pc + BitVec.ofNat 48 len }) g.snap
      portSnap := g.ports }

/-- The stream-port positions of a boundary access with an active lane, where its snapshot entries are of fewer lanes (09 R248). -/
def Group.portsAt (g : Group) (act : Mask) : Group := if g.handler || act == 0 then g else { g with portSnap := g.ports }

end Sys2Proof.Machine
end

