-- ==== Sys2Proof/Machine/Issue.lean ====
section
/-! DEFINITION. The issue of words (03 R58 to R72, 20 R459 ranks 1 to 3, 22 R481): the registers of a word, the bytes a
fetch reads, issue-set selection, readiness, arbitration, and how a picked group's word comes to be performed. -/

namespace Sys2Proof

/-- Is the instruction converging (03 R64)? -/
def Instr.converging : Instr → Bool
  | .lxchIdx .. | .lxchUp .. | .lxchDown .. | .lxchXor .. | .pollAll .. | .pollAny .. | .pollMask .. | .foldAdd ..
  | .foldMinmax .. | .bcast .. | .bara .. | .barw .. | .baraw .. | .join .. | .mlw .. | .mswap .. | .mst .. | .mstz ..
  | .msts .. | .msoft .. | .mrd .. | .mrdt .. | .mzero .. | .msrd .. | .mswr .. | .copyG2t .. | .copyT2g ..
  | .copyG2g .. | .copytG2t .. | .copytT2g .. | .copys .. => true
  | _ => false

/-- The G registers that a parameter block names (05 R123). -/
def Instr.blockRegs : Instr → List Opnd
  | .mst _ _ _ _ _ pb | .copytG2t _ _ _ _ _ pb | .copytT2g _ _ _ _ _ pb =>
    [pb.w0, pb.w1, pb.w2, pb.w3].filterMap fun w => match w with
      | .g n => some (Opnd.g n)
      | .val _ => none
  | _ => []

/-- The registers of a word beyond its fields and its block: pairs, runs, and those that a tandem word's operations use (05 R119). -/
def Instr.moreRegs : Instr → List Opnd
  | .ldg _ .b128 _ _ _ _ d _ | .stg _ .b128 _ _ _ d _ | .lds _ .b128 _ d _ | .sts _ .b128 d _ | .ldc _ .b128 _ _ d _ _ => [d.next]
  | .iaddc _ _ _ _ _ pout => [.p pout]
  | .mrd _ _ _ n d _ _ => d.run (n.toNat + 1)
  | .tandemWord _ opa opb _ _ da aa ba ca db ab bb cb =>
    ([da, db] ++ tandemSrcs (tandemA opa).2 aa ba ca ++ tandemSrcs (tandemB opb).2 ab bb cb).map Opnd.v
  | _ => []

/-- The operands of fields A and B, where the word has them there: a field is an operand where the fields that the map reads
depend on it (05 R110, R115). A tandem word's are AA and BA of operation A (R118). -/
def Instr.sources (i : Instr) : Option Opnd × Option Opnd :=
  match i with
  | .tandemWord _ opa _ _ _ _ aa ba _ _ _ _ _ =>
    let n := (tandemA opa).2
    (if 1 ≤ n then some (.v aa) else none, if 2 ≤ n then some (.v ba) else none)
  | i =>
    let r := encRaw i
    let fs (r : Raw) : List (BitVec 12) := match candidate r with
      | some c => c.fs.map (·.2)
      | none => []
    (if fs { r with a := r.a ^^^ 1 } != fs r then some (.of r.a) else none,
      if fs { r with b := r.b ^^^ 1 } != fs r then some (.of r.b) else none)

/-- The operands of a word's fields; an absent operand of a matrix word, code 0x000 (11 R285), is none. -/
def Instr.fields (i : Instr) : List Opnd :=
  match candidate (encRaw i) with
  | some c => (c.fs.filter fun p => !(p.1 == .GIZ && p.2 == 0)).map fun p => Opnd.of p.2
  | none => []

/-- An operand that 0x000 leaves out (10 R250). -/
def optOpnd (o : Opnd) : List Opnd := if o = .absent then [] else [o]

/-- The operands of its fields that a word reads or writes: an optional one where it is there, ARM's base where its tag arms
(`State.stateRegs`), and UNPK.B6's second word where it is read. -/
def Instr.fieldRegs : Instr → List Opnd
  | .enq _ p a q st | .enqt _ p a q st | .enqw _ p a q st | .enqwt _ p a q st => [p, a, q] ++ optOpnd st
  | .deq _ vd vs p => [vd, p] ++ optOpnd vs
  | .arm _ p q tag _ _ _ => [p, q, tag]
  | .unpkB6 _ k d a b => if k = 1 ∨ k = 2 then [d, a, b] else [d, a]   -- B is read only for these, 08 R196
  | i => i.fields

/-- The predicate of its guard; RTT ignores its guard (07 R163). -/
def Instr.guardRegs (i : Instr) : List Opnd := match i with
  | .rtt _ _ => []
  | i => [.p (encRaw i).h.pg]

/-- The registers that a word reads or writes (03 R60). -/
def Instr.regs (i : Instr) : List Opnd := i.guardRegs ++ i.fieldRegs ++ i.blockRegs ++ i.moreRegs

end Sys2Proof

namespace Sys2Proof.Machine

/-! ## The registers of a word -/

/-- The registers that a word reads as the state has it: those of the records of its active lanes, which have the sizes of the queues
that they name (10 R252), the second of a row of MSTS, for TRI × I8 alone (11 R290), and ARM's base where its tag is not 0 (10 R262). -/
def State.stateRegs (s : State) (c : Crew) (g : Group) (set : Mask) (i : Instr) : List Opnd :=
  let ctx (h : Hdr) : Ctx :=
    let i : Issue := { who := { crew := c.id, grp := 0 }, pc := 0, set := set, act := 0, held := 0, hi := 0, len := 12 }
    { iss := i, c := c, g := g, act := set &&& g.guard h, off := 0 }
  let recs (h : Hdr) (va q : Opnd) : List Opnd :=
    let x := ctx h
    va.run ((x.act.lanes.map fun l => ((s.handle? c.graph c.vf (x.src q l)).map fun q => q.size / 8).getD 2).foldl max 1)
  match i with
  | .enq h _ va q _ | .enqw h _ va q _ | .spawn h _ va q => recs h va q
  | .arm h _ _ tag base _ _ => if (ctx h).scalar tag = 0 then [] else [base]
  | .msts _ .i8 _ _ a _ _ => if c.mprog.extractLsb' 7 4 = MFmt.tri.code && c.mprog.getLsbD 12 then [a.next] else []
  | _ => []

/-- Does an issue set wait for a pending write (03 R60)? -/
def Group.operandWait (g : Group) (set : Mask) (rs : List Opnd) : Bool :=
  g.outs.any fun o => o.waits.any fun w => rs.contains w && (match w with
    | .g _ => true
    | _ => o.lanes &&& set != 0)

/-! ## Fetching (22 R481) -/

/-- A byte of code as a core has it: of a word that its fetch has brought, or of its L1, whatever the lease (09 R219); and how its
reading failed. -/
def State.codeByte (s : State) (core asid : Nat) (g : Group) (far : Bool) (va : Nat) : Option (Byte × Nat) :=
  let k := sget 0 g.answers (codeKey (va / 4 * 4))
  if k ≠ 0 then some (codeAt k va, codeBad k)
  else if far then none
  else (findBlk (s.core core).l1 asid va).map fun b => ((b.read va 1).headD 0, if b.poison.has (wordOf va) then 2 else 0)

/-- What the fetch of bytes meets. -/
inductive Fetch where
  | ok (bs : List Byte)
  | probe (page : Nat)
  | need (ps : List (Nat × Bool))   -- words still to be read, or runs of a peer's page, and whether they are a peer's
  | noTrans (va : Nat)
  | bad (va : Nat)                  -- cause 0x15 with this TRAPADDR
  deriving DecidableEq, Repr

/-- Is the page a peer's or a multicast page? -/
def farPage (a : Attr) : Bool := a.ap == .peer || a.ap == .mcast

/-- What a fetch finds of a byte: its value, that it is still to be read, no translation, or a failure of cause 0x15, of the page
or of the poisoned word. -/
inductive CodeLook where
  | ok (b : Byte)
  | probe
  | need (far : Bool)
  | noTrans
  | refused
  | poisoned
  deriving DecidableEq, Repr

/-- Look up a byte of code (22 R481). -/
def State.codeLook (s : State) (c : Crew) (g : Group) (va : Nat) : CodeLook :=
  match lookAttr (s.core c.core) g c.asid .fetch va with
  | .probe => .probe
  | .noTrans => .noTrans
  | .perm | .expired => .refused
  | .ok t =>
    if t.ap = .mcast || (s.msgUnit c.asid va t).isSome then .refused
    else match s.codeByte c.core c.asid g (farPage t) va with
      | none => .need (farPage t)
      | some (b, 0) => .ok b
      | some (_, 2) => .poisoned
      | some (_, 3) => .noTrans
      | some _ => .refused

/-- Fetch `n` bytes at an address for a group (22 R481). Of the failures of one fetch cause 0x15 is taken first
(20 R459 rank 2); it names the word, or the poisoned word, and of an instruction with its parameter block the first failing byte
(05 R124). The bytes that are not here yet are read from each run of 64 bytes. -/
def State.fetch (s : State) (c : Crew) (g : Group) (va n : Nat) : Fetch :=
  let ls := (List.range n).map fun k => (va + k, s.codeLook c g (va + k))
  match ls.find? (fun p => p.2 == .probe) with
  | some p => .probe (pageOf p.1)
  | none =>
    let need := ls.filterMap fun p => match p.2 with
      | .need far => some (if far then (p.1 / 64 * 64, true) else (p.1 / 16 * 16, false))
      | _ => none
    if !need.isEmpty then
      .need (need.eraseDups.foldl (fun l p => if !p.2 && l.any (fun q => q.1 / 64 == p.1 / 64) then l else l ++ [p]) [])
    else match ls.find? (fun p => p.2 == .refused || p.2 == .poisoned), ls.find? (fun p => p.2 == .noTrans) with
      | some p, _ => .bad (if n = 28 then p.1 else if p.2 = .poisoned then p.1 / 16 * 16 else va)
      | none, some p => .noTrans p.1
      | none, none => .ok (ls.map fun p => match p.2 with
        | .ok b => b
        | _ => 0)

/-- Fetch the word at an address, with its parameter block where it has one (05 R123, R124). -/
def State.fetchWord (s : State) (c : Crew) (g : Group) (pc : Pc) : Fetch :=
  let f := s.fetch c g pc.toNat 12
  match f with
  | .ok bs => if longOp (Raw.ofBytes bs).op then s.fetch c g pc.toNat 28 else .ok bs
  | .bad _ | .noTrans _ =>   -- where OP, bits [95:87], can be read, the block belongs to what has failed
    (match s.codeLook c g (pc.toNat + 10), s.codeLook c g (pc.toNat + 11) with
      | .ok x, .ok y => if longOp (Raw.ofBytes (List.replicate 10 0 ++ [x, y])).op then s.fetch c g pc.toNat 28 else f
      | _, _ => f)
  | f => f

/-- Does a word pass step 4 of decoding (05 R126): its operands and the register ranges that it fixes lie in the crew's
allocation? -/
def allocated (i : Instr) (sh : Shape) (handler : Bool) : Bool :=
  (firstBeyond sh handler ((i.fields ++ i.blockRegs ++ i.moreRegs).map fun o => (0, o))).isNone && (match i with
    | .mrd _ _ _ n d _ _ => !runBeyond sh handler d (n.toNat + 1)
    | .ldg _ .b128 _ _ _ _ d _ | .stg _ .b128 _ _ _ d _ | .lds _ .b128 _ d _ | .sts _ .b128 d _ | .ldc _ .b128 _ _ d _ _ =>
      !runBeyond sh handler d 2
    | _ => true)

/-- Is the word at an address converging? One that cannot be fetched, or fails decoding, is not (06 R147). -/
def State.convergingAt (s : State) (c : Crew) (g : Group) (pc : Pc) : Bool :=
  match s.fetchWord c g pc with
  | .ok bs => (match decodeBytes bs with
    | .ok i => i.converging && allocated i c.shape g.handler
    | .error _ => false)
  | _ => false

/-! ## Issue-set selection (03 R58) -/

/-- The deepest depth and then the lowest PC of lanes. -/
def Group.topKey (g : Group) (cand : Mask) : Nat × Nat :=
  let d := cand.lanes.foldl (fun m l => max m (g.lpOf l).depth.toNat) 0
  let ps := (cand.lanes.filter fun l => (g.lpOf l).depth.toNat == d).map fun l => (g.lpOf l).pc.toNat
  (d, ps.foldl min (ps.headD 0))

/-- A selection: the issue set, its PC, and the lanes held. -/
structure Sel where
  set : Mask
  pc : Pc
  held : Mask
  conv : Bool
  deriving DecidableEq, Repr

/-- The selection from the candidates that remain; each turn removes a lane or ends. -/
def Group.selFrom (g : Group) (conv : Pc → Bool) : Nat → Mask → Mask → Option Sel
  | 0, _, _ => none
  | k + 1, cand, held =>
    if cand = 0 then none
    else
      let (d, p) := g.topKey cand
      let pc : Pc := BitVec.ofNat 48 p
      let atP := Mask.ofFn fun l => g.remain.has l && (g.lpOf l).pc == pc
      if !conv pc then
        some { set := Mask.ofFn fun l => cand.has l && (g.lpOf l).pc == pc && (g.lpOf l).depth.toNat == d
               pc := pc, held := held, conv := false }
      else if atP = g.remain ∧ g.lanesIn (· == .parked) = 0 then
        some { set := g.remain, pc := pc, held := held, conv := true }
      else g.selFrom conv k (cand &&& ~~~atP) (held ||| (cand &&& atP))

/-- The lanes that the selection holds, whether or not it finds an issue set. -/
def Group.heldFrom (g : Group) (conv : Pc → Bool) : Nat → Mask → Mask → Mask
  | 0, _, held => held
  | k + 1, cand, held =>
    if cand = 0 then held
    else
      let pc : Pc := BitVec.ofNat 48 (g.topKey cand).2
      let atP := Mask.ofFn fun l => g.remain.has l && (g.lpOf l).pc == pc
      if !conv pc || (decide (atP = g.remain) && decide (g.lanesIn (· == .parked) = 0)) then held
      else g.heldFrom conv k (cand &&& ~~~atP) (held ||| (cand &&& atP))

/-- The issue set of a group in this cycle. -/
def State.select (s : State) (c : Crew) (g : Group) : Option Sel :=
  g.selFrom (s.convergingAt c g) 33 g.live 0

/-- The lanes of a convergence fault (03 R65): every remaining lane is live and held, at two or more PCs; those at the PC that
R58 would have selected first are named, at whatever depth. -/
def State.convFault (s : State) (c : Crew) (g : Group) : Option Sel :=
  let live := g.live
  if live = 0 ∨ live ≠ g.remain ∨ (s.select c g).isSome then none
  else
    let pc : Pc := BitVec.ofNat 48 (g.topKey live).2
    some { set := Mask.ofFn fun l => live.has l && (g.lpOf l).pc == pc, pc := pc, held := live, conv := true }

/-! ## Readiness (03 R71) -/

/-- Is a partition stopped (17 R426)? -/
def State.stopped (s : State) (core part : Nat) : Bool :=
  match s.stop with
  | some t => t.core == core && t.part == part
  | none => false

/-- May a crew's group issue in this cycle: the crew is running, or another group's cause 0x10 has stopped it in this very
cycle (22 R477), or its word has had answers and a stop takes effect after the whole answer (10 R255)? -/
def State.issues (s : State) (c : Crew) (g : Group) : Bool :=
  c.st == .running || (c.st == .stopping && (g.midAnswer || (c.abortAt == some s.cycle && g.lastIssue != s.cycle)))

/-- May a group be looked at in this cycle? -/
def State.awake (s : State) (c : Crew) (g : Group) : Bool :=
  s.issues c g && !g.frozen && !s.stopped c.core g.part && (match g.wait with
    | .none => true
    | .retry n => decide (n < s.cycle)
    | _ => false)

/-- Is the selection of R58 made for the group in this cycle: no word is under way at its head, and it waits for nothing but
what the word at its head waits for? -/
def State.selects (s : State) (c : Crew) (g : Group) : Bool :=
  c.st == .running && !g.frozen && !s.stopped c.core g.part && g.head.isNone && (match g.wait with
    | .none | .retry _ | .probe _ => true
    | _ => false)

/-- In a cycle in which a group with a yielded lane does not issue, the lanes that its selection holds leave the wait sets
(03 R62). -/
def State.heldLeave (s : State) : State :=
  s.crews.foldl (fun (s : State) c => ((List.range c.groups.length).zip c.groups).foldl (fun (s : State) p =>
    if s.selects c p.2 && p.2.lastIssue != s.cycle && p.2.lanesIn (· == .yielded) != 0 then
      s.updGroup { crew := c.id, grp := p.1 } fun g => g.settle (g.heldFrom (s.convergingAt c g) 33 g.live 0)
    else s) s) s

/-- The instruction at an address, where it can be fetched and decoded. -/
def State.instrAt (s : State) (c : Crew) (g : Group) (pc : Pc) : Option Instr :=
  match s.fetchWord c g pc with
  | .ok bs => (match decodeBytes bs with
    | .ok i => some i
    | .error _ => none)
  | _ => none

/-- The asynchronous cause that a group's next issue takes: in a handler only one that arose there, which makes a double
trap; the others wait for RTT (20 R452, R454, 22 R484). -/
def Group.asyncNext (g : Group) : Option Async := if g.handler then g.async.find? (·.late) else g.async.head?

/-- The selection of a ready group: its issue set, not waiting for operands (03 R60), for which a word that fails decoding does not wait
(06 R147); a word that is under way keeps its issue set. -/
def State.readySel (s : State) (c : Crew) (g : Group) : Option Sel :=
  if !s.awake c g then none
  else match g.head with
  | some i => some { set := i.set, pc := i.pc, held := i.held, conv := false }
  | none => (match s.select c g with
    | none => none
    | some e => (match s.instrAt c g e.pc with
      | some i =>
        let waits := g.operandWait e.set i.regs || g.operandWait e.set (s.stateRegs c g e.set i)
        if waits && allocated i c.shape g.handler && g.asyncNext.isNone then none else some e
      | none => some e))

/-- A group that may issue, or whose word has issued and may now perform. -/
structure Ready where
  who : Who
  core : Nat
  part : Nat
  slot : Nat
  last : Nat
  paid : Bool
  sel : Sel
  deriving DecidableEq, Repr

/-- The ready groups of the partitions from `ptr` on. -/
def State.readyGroups (s : State) : List Ready :=
  (s.crews.map fun c => (numbered c.groups).filterMap fun p =>
    if 4 * c.core + p.2.part < s.ptr then none
    else (s.readySel c p.2).map fun e =>
      { who := { crew := c.id, grp := p.1 }, core := c.core, part := p.2.part, slot := p.2.slot, last := p.2.lastIssue
        paid := p.2.paid, sel := e }).flatten

/-- The partition's choice (03 R72). A word that has issued already performs first, for it takes no cycle of the partition. -/
def State.arbitrate (s : State) (rs : List Ready) : Option Ready :=
  let p := rs.foldl (fun m r => min m (4 * r.core + r.part)) (4 * 288)
  let l := rs.filter fun r => 4 * r.core + r.part == p
  let co := s.core (p / 4)
  let again := l.find? fun r => (r.who.crew, r.who.grp) == sget (0, 0) co.lastWho (p % 4) &&
    sget 0 co.lastCyc (p % 4) == s.cycle && decide (sget 0 co.runLen (p % 4) < 4)
  match l.find? (·.paid), again with
  | some r, _ => some r
  | none, some r => some r
  | none, none => (lsort (fun r => r.last * 16 + r.slot) l).head?

/-! ## The issue -/

/-- What the machine does next: run an instruction, go to a state, or nothing at all. -/
inductive Act where
  | run (i : Instr) (s : State)
  | stay (s : State)
  | halt

/-- The reads of words for a group: each run's first missing word, with the extent of the run, or each run of a peer's page
(22 R481). They read as LDC does, code where it may be fetched, and the group waits for all of them. -/
def State.readWords (s : State) (w : Who) (c : Crew) (pc : Nat) (ps : List (Nat × Bool)) (code : Bool) : State :=
  let s := s.updGroup w fun g => { g with wait := .probe ps.length }
  let l1 := (s.core c.core).l1
  ps.foldl (fun s p =>
    let k := wordOf p.1
    let e := if p.2 then (k, k) else fillRun l1 c.asid (spanOf p.1) (k / 4 * 4) (k / 4 * 4 + 3) k k
    let (n, s) := s.newTag
    s.send (.loadRequestAtHome {
      origin := .group w 0 32, core := c.core, vf := c.vf, asid := c.asid, va := p.1, n := if p.2 then 64 else 16, lclk := c.lclk
      len := 0, first := e.1, last := e.2, pc := pc, cp := if p.2 then .home else .dflt, ldc := true, e0 := false, renew := false
      pref := false, atLocal := !p.2, left := n + 1, fetch := code })) s

/-- The word that a group issues: the one under way at its head, or the one fetched at its address. -/
def State.headWord (s : State) (c : Crew) (g : Group) (pc : Pc) : Fetch :=
  match g.head with
  | some i => .ok (bytesOf i.raw 28)
  | none => s.fetchWord c g pc

/-- What an issue leaves in the reuse latches (05 R112): the operands that its K keeps, in fields A and B. -/
def Group.latch (g : Group) (h : Hdr) (i : Instr) : Group :=
  { g with
    latchA := keepOpnd (h.k.getLsbD 0) i.sources.1
    latchB := keepOpnd (h.k.getLsbD 1) i.sources.2 }

/-- The issue of a group's selection: an asynchronous cause first, then the fetch and the decode; then the word runs. A word
with the OP of MST or COPYT that fails decoding counts as 28 bytes for RTT.SKIP, as it does for its fetch: a DESIGN CHOICE
(notes/assumptions/89.md). -/
def State.issue (s : State) (w : Who) (c : Crew) (g : Group) (e : Sel) : Act :=
  let i0 : Issue := { who := w, pc := e.pc, set := e.set, act := 0, held := e.held, hi := 0, len := 0 }
  let x0 : Ctx := { iss := i0, c := c, g := g, act := 0, off := e.set }
  match (if g.head.isSome then none else g.asyncNext) with
  | some a =>
    let s := s.updGroup w fun g => { g with async := g.async.erase a }
    .stay ((s.spent i0).takeTrap w
      { cause := a.cause, async := true, lanes := e.set, addr := a.addr, info := a.info, pc := e.pc })
  | none => (match s.headWord c g e.pc with
    | .probe p => .stay (s.probe w c.core c.asid [(.fetch, p)])
    | .need ps => .stay (s.readWords w c e.pc.toNat ps true)
    | .noTrans va => .stay ((s.spent i0).abort w (BitVec.ofNat 64 va) 5 e.pc)
    | .bad va => .stay (s.trapIssue x0 0x15 e.set 0 (BitVec.ofNat 64 va))
    | .ok bs =>
      let r := Raw.ofBytes bs
      let i : Issue := { i0 with
        act := e.set &&& g.guard r.h
        hi := BitVec.ofNat 32 (r.pack.toNat / 2 ^ 64)
        len := opLen r.op
        raw := leNat bs }
      let s := { s with cur := some i }
      (match decodeBytes bs with
        | .error d => .stay (s.trapIssue { x0 with iss := i } d.cause e.set (i.hi.setWidth 64))
        | .ok ins =>
          let s := if g.head.isSome then s else s.updGroup w fun g => g.latch r.h ins
          let s := if e.conv then s.updGroup w fun g =>
              { g.mapLp (e.set &&& g.lanesIn (· == .yielded)) (fun _ p => { p with st := .live }) with wset := [] } else s
          .run ins s))

/-- The convergence fault of a group (03 R65, 20 R450): TRAPINFO names the lanes held elsewhere. -/
def State.faultConv (s : State) (w : Who) (c : Crew) (g : Group) (e : Sel) : State :=
  let skip := match s.fetchWord c g e.pc with
    | .ok bs => opLen (Raw.ofBytes bs).op
    | _ => 12
  s.takeTrap w { cause := 0x06, lanes := e.set, info := (e.held &&& ~~~e.set).setWidth 64, pc := e.pc, skipLen := skip }

/-- The groups that take a convergence fault in this cycle: none that has issued in it (21 R468). -/
def State.convFaults (s : State) : List (Who × Crew × Group × Sel) :=
  (s.crews.map fun c => (numbered c.groups).filterMap fun p =>
    if s.awake c p.2 && p.2.head.isNone && p.2.lastIssue != s.cycle then
      (s.convFault c p.2).map fun e => ({ crew := c.id, grp := p.1 }, c, p.2, e)
    else none).flatten

/-! ## Deliveries (12 R316, R317) -/

/-- The unit inside which a message is under way, where its messages keep their order: a core's L1 for a group, or a summary
on its spoke. -/
def pathOf : Instr → List Nat
  | .loadResultReturn m => (match m.req.origin with
    | .group w _ _ => [1, w.crew, w.grp]
    | _ => [])
  | .spokeSummary c m => [3, c, m.num, if m.range then 1 else 0]
  | _ => []

/-- Does a message cross the Zenvex Link? It waits while the link is down or retrains (23 R501, R506). -/
def overLink : Instr → Bool
  | .henqRecordRead _ _ | .hostMessageDelivery _ => true
  | _ => false

/-- The messages inside the units that may come next: the first of each path, and a request that waits at its home once no
older one of its word is under way, and at its port once its turn there has come. -/
def State.deliverable (s : State) : List Nat :=
  (List.range s.flight.length).filter fun k =>
    match s.flight[k]? with
    | none => false
    | some i => let p := pathOf i
      !s.mustWait i && !s.portWaits i && !(s.zshut && overLink i) && (p.isEmpty || !((s.flight.take k).any fun j => pathOf j == p))

/-- What may come next: a message inside a unit, or a packet of the network. -/
def State.moves (s : State) : List (Bool × Nat) :=
  (s.deliverable.map fun k => (false, k)) ++
    ((List.range s.net.length).filter (movable s.net)).map fun k => (true, k)

/-! ## What comes next -/

/-- Has the machine ended, with nothing that may still reach it? -/
def State.over (s : State) : Bool := (s.fatal || s.ended) && s.todo.isEmpty && s.inbox.isEmpty

/-- Issue, or the end of the cycle. -/
def State.issueAct (s : State) (cycleEnd : State → State) : Act :=
  match s.convFaults.head? with
  | some (w, c, g, e) => .stay (s.faultConv w c g e)
  | none => (match s.arbitrate s.readyGroups with
    | none => .stay (cycleEnd s)
    | some r => (match s.crew? r.who.crew, s.group? r.who with
      | some c, some g => s.issue r.who c g r.sel
      | _, _ => .stay (cycleEnd s)))

/-- A packet moves: a turn of 7 delivers it to the router's own node, where its transaction is performed, or waits while the
node, a slice, hands its state over (24 R513); any other turn sends it on. -/
def State.netAct (s : State) (k : Nat) : Act :=
  match s.net[k]? with
  | none => .stay s
  | some p =>
    if p.turn ≠ 7 then .stay (s.hop k)
    else
      let t := { s with net := s.net.eraseIdx k }
      match p.ev with
      | none => .stay t
      | some e => if s.sliceBusy p then .stay { t with sliceWait := t.sliceWait ++ [e] } else .run e { t with cur := none }

/-- What the machine does next: events that follow at once, inputs, a delivery or a move that `Config.pick` chooses, an issue,
or the end of the cycle. -/
def State.nextAct (s : State) (boot : Instr) (cycleEnd : State → State) : Act :=
  if s.over then .halt
  else match s.todo, s.inbox with
  | e :: t, _ => .run e { s with todo := t, cur := none }
  | [], e :: t => .run e { s with inbox := t, cur := none }
  | [], [] =>
    if !s.ready then .run boot { s with cur := none }
    else if s.flight.isEmpty && s.net.isEmpty then s.issueAct cycleEnd
    else
      let ks := s.moves
      let k := Config.pick s.draw % (ks.length + 1)
      let s := { s with draw := s.draw + 1 }
      match ks[k]? with
      | none => s.issueAct cycleEnd
      | some (true, j) => s.netAct j
      | some (false, j) => (match s.flight[j]? with
        | none => s.issueAct cycleEnd
        | some e => .run e { s with flight := s.flight.eraseIdx j, cur := none })

end Sys2Proof.Machine
end

