-- ==== Sys2Proof/Machine/Home.lean ====
section
/-! DEFINITION. The memory system's events (13 R320 to R324, 12 R308, 09 R212, 15 R385): loads, stores and atomics at
their home, fills, answers, probes, and the limit of a held request. -/

namespace Sys2Proof.Machine

/-! ## Holding and missing -/

/-- Hold a request at its home. -/
def State.hold (s : State) (why : HoldWhy) (asid va : Nat) (req : Instr) : State :=
  let (id, s) := s.newTag
  let h : Held := { id := id, why := why, since := s.now, asid := asid, va := va, slice := homeOf va, req := req }
  { s with held := s.held ++ [{ h with busy := (s.reg 0x210).getLsbD 63 }] }

/-- Is the ASID part of checkpoints (15 R378)? -/
def State.ckAsid (s : State) (asid : Nat) : Bool :=
  asid != 0 && (s.hbm64 (fld (s.reg 0x200) 15 37 * 2 ^ 15 + asid * 8)).getLsbD 1

/-- Is the page of an address global, as the table gives it under an ASID (15 R368)? -/
def State.isGlobal (s : State) (asid va : Nat) : Bool := match s.walk asid va with
  | .leaf p _ _ => p.getLsbD 11
  | _ => false

/-- Is an address in a page that a checkpoint takes in: one of an ASID of its own, or a global one that such an ASID maps
(15 R368, R378)? -/
def State.ckTakes (s : State) (asid va : Nat) : Bool :=
  s.ckAsid asid || (s.isGlobal asid va && (List.range 4096).any fun a => s.ckAsid a && s.isGlobal a va)

/-- Does an address of an ASID lie in a page of a checkpoint's list, named by ASID, VA and level? -/
def State.ckOn (s : State) (asid va : Nat) (p : Nat × Nat × Nat) : Bool :=
  decide (p.2.1 ≤ va) && decide (va < p.2.1 + pageSize p.2.2) && (p.1 == asid || (s.isGlobal asid va && s.isGlobal p.1 va))

/-- Does a checkpoint hold a write that carries a clock (15 R393)? -/
def State.ckHolds (s : State) (asid va sclk : Nat) : Bool :=
  match s.ck with
  | none => false
  | some k => decide (k.cut < sclk) && (match k.phase with
    | .drain => s.ckTakes asid va
    | .copy => k.pend.any (s.ckOn asid va))

/-- A request is performed at its home after every older one of its group, or copy, for its word (13 R330, 09 R214): it is held
behind one that is held, and waits at the home for one that is on its way or waits for a fill. One that a port sends also waits for
its turn there (16 R403). -/
def State.homeTurn (s : State) (asid va : Nat) (req : Instr) (k : Unit → State) : State :=
  match s.held.find? fun h => reqBefore h.req req && !atomLoad h.req req with
  | some h => s.hold h.why asid va req
  | none => if s.mustWait req || s.portWaits req then { s with flight := s.flight ++ [req] } else k ()

/-- A request that has missed at its home: it counts no hit once it is filled (17 R415). -/
def missedReq : Instr → Instr
  | .loadRequestAtHome r => .loadRequestAtHome { r with missed := true }
  | .storePerformedAtHome m => .storePerformedAtHome { m with missed := true }
  | .atomicAtHome m => .atomicAtHome { m with missed := true }
  | i => i

/-- A request that an INVAL has overtaken: the fill that it asks for serves what waits for it, and is then dropped (12 R309). -/
def lateReq : Instr → Bool
  | .loadRequestAtHome r => r.late
  | .storePerformedAtHome m => m.late
  | .atomicAtHome m => m.late
  | _ => false

/-- A hit in a home block, of a request that has not missed there (17 R415). -/
def State.homeHit (s : State) (core vf : Nat) (missed : Bool) : State := if missed then s else s.perfAdd core vf 0x09 1

/-- A request that misses at its home waits there for the fill of its words; without a valid translation it is held; a
peer or multicast page is the fabric's (12 R298, 15 R371, 09 R212). -/
def State.homeMiss (s : State) (asid va first last : Nat) (rights : Attr → Bool) (wr : Bool) (req : Instr)
    (core vf : Nat) (far : Xl → State → State) : State :=
  match s.translateCount (ctrlOf (homeOf va)) asid va rights wr with
  | (s, .ok x) =>
    if x.attr.ap = .peer ∨ x.attr.ap = .mcast ∨ inWindow x.attr.ap x.pa then far x s
    else
      let (f, l) := s.homeRun asid va first last
      let (tag, s) := s.newTag
      let s := s.perfAdd core vf 0x0A 1
      { s with parked := s.parked ++ [(tag, missedReq req)] }.send
        (.homeFillReturn { tag := tag, slice := homeOf va, asid := asid, va := va, first := f, last := l, copy := none
                           core := core, host := x.attr.ap == Apt.host, serve := if lateReq req then 1 else 0 })
  | (s, _) => s.hold .noTrans asid va req

/-- Answer a load from a block. -/
def State.replyLoad (s : State) (r : LdReq) (b : Blk) (le : Nat) : State :=
  s.send (.loadResultReturn {
    req := r, data := b.read r.va r.n, poison := b.poison.has (wordOf r.va), wt := b.wt
    fill := if r.cp == Cp.home || r.cp == Cp.na then none
      else some (b.fill r.asid r.first r.last le) })

/-- A local copy whose data are unchanged takes its new lease, and serves the load that asked (12 R312, 13 R320); where it is gone
meanwhile the load goes to the home. -/
def State.renewLocal (s : State) (j : Nat) (f : Fill) (r : LdReq) : State :=
  let s := s.updSlice j fun sl =>
    let sl := (sl.rebase f.wt).rebase f.le
    { sl with loc := sl.loc.filterMap (refresh { fillBlk f with wt := max f.wt sl.base } f.hf f.hl) }
  match findBlk (s.slice j).loc r.asid r.va with
  | some b => if r.ldc || decide (r.lclk ≤ b.le) then s.replyLoad r b b.le
      else s.sendFrom (some (sliceNode j)) (.loadRequestAtHome { r with atLocal := false })
  | none => s.sendFrom (some (sliceNode j)) (.loadRequestAtHome { r with atLocal := false })

/-- A fill from backing memory, or words or a new lease for a local copy, arrive (12 R308). A fill that an INVAL has overtaken serves
those that wait for it and is then dropped (R309); one for which the set has no room waits (R300). -/
def execHomeFillReturn (m : FillMsg) (s : State) : Host.Outcome State Fault Refusal :=
  .next (match m.copy, m.renewed with
    | some f, some r => s.renewLocal m.slice f r
    | some f, none => s.fillSlice m.slice true { fillBlk f with victim := m.victim } f.hf f.hl m.first m.last
    | none, _ =>
      if m.serve = 2 then s.dropHome fun b => b.holds m.asid m.va else
      if s.homeFull m.asid m.va m.first m.last || s.portWaits (.homeFillReturn m) then
        { s with flight := s.flight ++ [.homeFillReturn m] } else
      let s := if (s.homeBlk m.asid m.va).isSome then s
        else match s.translate (ctrlOf m.slice) m.asid m.va (fun _ => true) false with
          | (s, .ok x) =>
            let r := s.homeRun m.asid m.va m.first m.last
            (s.fillHome m.asid m.va r.1 r.2 x).setHome m.slice m.asid m.va fun b => { b with
              poison := b.poison ||| m.bad &&& wordMask b.first b.last }
          | (s, _) => s
      { s with
        todo := (s.parked.filter fun p => p.1 == m.tag).map (·.2) ++
          (if m.serve = 1 then [.homeFillReturn { m with serve := 2 }] else []) ++ s.todo
        parked := s.parked.filter fun p => p.1 != m.tag })

/-- The group's request, or copy's, that a precise stop holds back (17 R426). -/
def State.stopHolds (s : State) (o : Origin) : Bool :=
  match o, s.stop with
  | .group w _ _, some t => (match s.crew? w.crew, s.group? w with
    | some c, some g => c.core == t.core && g.part == t.part && c.runs
    | _, _ => false)
  | _, _ => false

/-- Keep a result until the stop is released. -/
def State.stopKeep (s : State) (e : Instr) : State :=
  { s with stop := s.stop.map fun t => { t with held := t.held ++ [.msg e] } }

/-! ## Copies in flight (09 R240 to R244) -/

/-- A copy of a crew. -/
def State.copy? (s : State) (crew id : Nat) : Option Copy :=
  match s.crew? crew with
  | none => none
  | some c => c.copies.find? fun k => k.id == id

/-- Change a copy of a crew. -/
def State.updCopy (s : State) (crew id : Nat) (f : Copy → Copy) : State :=
  s.updCrew crew fun c => { c with copies := lupdAll (fun k => k.id == id) f c.copies }

/-- A copy whose bytes are all moved, and whose writes are all answered, completes (09 R243). -/
def State.copyCheck (s : State) (crew id : Nat) : State :=
  match s.copy? crew id with
  | none => s
  | some k =>
    if k.runs.isEmpty && k.unacked == 0 && !k.posting then
      (s.updCopy crew id fun k => { k with posting := true }).send (.copyComplete crew id)
    else s

/-- A copy has read, or filled, the bytes of its tile (09 R240). Where one of several copies that fill a tile stops, the tile is EMPTY
at once, and READY when the last of them ends: a DESIGN CHOICE (notes/assumptions/112.md). -/
def Crew.tileDone (c : Crew) (k : Copy) (ok : Bool) : Crew :=
  match k.kind with
  | .g2t => c.updTile k.tile fun t =>
      { t with fills := t.fills - 1, st := if !ok then .empty else if t.fills ≤ 1 then .ready else t.st }
  | .t2g => (c.updTile k.tile fun t => { t with reads := t.reads - 1 }).undrain k.tile
  | _ => c

/-- A copy stops part-way (09 R244): a filling tile becomes EMPTY, a draining tile READY. -/
def State.copyStop (s : State) (crew id : Nat) : State :=
  match s.copy? crew id with
  | none => s
  | some k =>
    let s := s.updCrew crew fun c => if k.runs.isEmpty then c else c.tileDone k false
    (s.updCopy crew id fun k => { k with runs := [], stopped := true }).copyCheck crew id

/-- A cause of a copy waits in its issuing group (09 R244). -/
def State.copyAsync (s : State) (crew id cause addr info : Nat) : State :=
  match s.copy? crew id with
  | none => s
  | some k => s.addAsync { crew := crew, grp := k.grp } cause addr info

/-- A copy stops part-way with one cause (09 R244, 23 R502). -/
def State.copyBreak (s : State) (crew id cause addr info : Nat) : State :=
  if (s.copy? crew id).any fun (k : Copy) => k.stopped then s else (s.copyAsync crew id cause addr info).copyStop crew id

/-- The copy and the chunk that a message is of. -/
def chunkOf : Instr → Option (Nat × Nat × Nat)
  | .storePerformedAtHome m | .storeAcknowledgement { msg := m, .. } => (match m.origin with
    | .copy crew id n => some (crew, id, n)
    | _ => none)
  | _ => none

/-- Is a write of a copy's chunk not answered yet? -/
def State.chunkOpen (s : State) (crew id n : Nat) : Bool :=
  (s.pendingReqs.any fun i => chunkOf i == some (crew, id, n)) || s.segs.any fun g => match g.use with
    | .store m | .mcast m => chunkOf (.storePerformedAtHome m) == some (crew, id, n)
    | _ => false

/-- A write of a copy's chunk fails. A copy gives one cause 0x13, at its first dropped chunk (22 R483); any other stops it
(09 R244). -/
def State.copyFail (s : State) (crew id n cause addr info : Nat) : State :=
  match s.copy? crew id with
  | none => s
  | some k =>
    let more : Bool := if cause = 0x13 then !k.timed else !k.stopped || k.fails.any fun f => f.1 == n && f.2.1 == cause
    let s := if more = true then s.updCopy crew id fun k => { k with fails := k.fails ++ [(n, cause, addr, info)] } else s
    if cause = 0x13 then s else s.copyStop crew id

/-- The causes of a copy's failed writes wait in its issuing group once every write of the chunk that met them first is answered,
with the lowest failing byte of the chunk. -/
def State.copyTell (s : State) (crew id : Nat) : State :=
  match s.copy? crew id with
  | none => s
  | some k => ((k.fails.map fun f => f.2.1).eraseDups).foldl (fun s c => match k.fails.find? fun f => f.2.1 == c with
    | none => s
    | some f =>
      if s.chunkOpen crew id f.1 then s
      else
        let addrs := (k.fails.filter fun x => x.2.1 == c && x.1 == f.1).map fun x => x.2.2.1
        (s.copyAsync crew id c (addrs.foldl min f.2.2.1) f.2.2.2).updCopy crew id fun k => { k with
          fails := k.fails.filter fun x => x.2.1 != c
          timed := k.timed || c == 0x13 }) s

/-- A part of a copy's write is answered. -/
def State.copyAcked (s : State) (crew id wt : Nat) : State :=
  ((s.updCopy crew id fun k => { k with unacked := k.unacked - 1, wt := max k.wt wt }).copyTell crew id).copyCheck crew id

/-! ## Loads -/

/-- Bytes of code reach the group that fetches them, or are refused (1), poisoned (2) or without translation (3), all of them or the words of some bytes (22 R481); those that an invalidation has
dropped on their way, which lane 33 stands for, are fetched again (R482). -/
def State.codeBack (s : State) (w : Who) (l va n : Nat) (bs : List Byte) (bad : Nat) (at_ : List Nat := []) : State :=
  let ok (k : Nat) : Bool := bad == 0 || (!at_.isEmpty && !at_.any fun j => j / 4 == k)
  let word (k : Nat) : Nat := if ok k then leNat ((bs.drop (4 * k)).take 4) + 1 else bad * 2 ^ 62
  s.updGroup w fun g => match g.wait with
    | .probe n =>
      { g with
        wait := if n ≤ 1 then .none else .probe (n - 1)
        answers := if l = 32 then (List.range (n / 4)).foldl (fun a k => sset 0 a (codeKey (va + 4 * k)) (word k)) g.answers
          else g.answers }
    | _ => g

/-- The other pieces of a load's extent are looked up as fills of their own (12 R306). -/
def State.restOf (s : State) (r : LdReq) (resident : List Blk) : State :=
  s.post ((otherPieces resident r.asid r.va r.first r.last).map fun p => .loadRequestAtHome { r with
    origin := .none, pref := true, renew := false, va := r.va / 512 * 512 + 16 * p.1, n := 1, first := p.1, last := p.2
    wt := none, missed := false })

/-- A renewal of a host block at its home while the Zenvex Link is down: its words that stand for host memory, the clean ones, are
poisoned, with one record each (23 R506, notes/assumptions/108.md). -/
def State.renewDown (s : State) (i asid va : Nat) : State :=
  match s.zdown, s.homeBlk asid va with
  | some _, some b =>
    if b.ap = .host then
      let words := ((List.range 32).filter fun w => decide (b.first ≤ w) && decide (w ≤ b.last) &&
        !b.dirty.has w && !b.poison.has w)
      words.foldl (fun s w => s.postFlt
          { kind := 0x20, addr := BitVec.ofNat 64 (b.span * 512 + 16 * w), asid := asid, die := i / 24 })
        (s.setHome i asid va fun b => { b with poison := words.foldl (fun m w => m ||| Mask.one w) b.poison })
    else s
  | _, _ => s

/-- A load that is not served is answered with its cause (16 R398, 22 R483); the answer is a result like another, which a stop holds
(17 R426). -/
def State.loadLost (s : State) (r : LdReq) (cause info : Nat) : State :=
  s.send (.loadResultReturn { req := r, data := [], poison := false, wt := 0, fill := none, fail := some (cause, info) })

/-- A load at its home (13 R320). The copy that an LDC's miss installs has the home's lease end as it stands, for an LDC renews
no lease: a DESIGN CHOICE (notes/assumptions/95.md). -/
def State.loadHome (s : State) (r : LdReq) : State :=
  let i := homeOf r.va
  let s := s.restOf r (s.slice i).home
  match s.homeBlk r.asid r.va with
  | some b =>
    let le := if r.ldc then b.le else max b.le (r.lclk + r.len)
    let s := if r.ldc then s else s.renewDown i r.asid r.va
    let (use, s) := s.newTag
    let s := (s.updSlice i (·.rebase le)).setHome i r.asid r.va fun b => { b with le := max b.le le, used := use }
    let s := s.homeHit r.core r.vf r.missed
    let s := if r.ldc then s else s.perfAdd r.core r.vf 0x0B 1
    let b := ((s.homeBlk r.asid r.va).getD b)
    let copyLe := if r.ldc then b.le else max b.wt (r.lclk + r.len)
    let fill (f l : Nat) (renewed : Option LdReq) (j : Nat) : Instr := .homeFillReturn
      { tag := 0, slice := j, asid := r.asid, va := r.va, first := if r.pref then r.first else wordOf r.va
        last := if r.pref then r.last else wordOf r.va, copy := some (b.fill r.asid f l copyLe)
        core := r.core, victim := r.cp == Cp.ef, renewed := renewed }
    (match localSlice r.core i, r.wt with
      | some j, some (w, f, l) =>
        if r.cp = Cp.home then s.replyLoad r b copyLe   -- an INVAL of it has overtaken the request
        else if w = b.wt ∧ b.first ≤ f ∧ l ≤ b.last ∧ b.poison &&& wordMask f l = 0 then s.send (fill f l (some { r with atLocal := true, wt := none }) j)
        else (s.send (fill r.first r.last none j)).replyLoad r b copyLe
      | some j, none => (if r.cp = Cp.home then s else s.send (fill r.first r.last none j)).replyLoad r b copyLe
      | none, _ => s.replyLoad r b copyLe)
  | none =>
    let f := fillRun (s.slice i).home r.asid (spanOf r.va) r.first r.last (wordOf r.va) (wordOf r.va)
    s.homeMiss r.asid r.va f.1 f.2 (if r.fetch then (·.x) else (·.r)) false (.loadRequestAtHome { r with first := f.1, last := f.2 }) r.core r.vf fun x s =>
      if inWindow x.attr.ap x.pa then
        s.send (.loadResultReturn { req := r, data := s.winLoad x.pa r.n, poison := false, wt := 0, fill := none })
      else match s.route false (peerDev x.pa) (peerOfs x.pa) with
        | some (pl, po) =>
          let (tag, s) := s.newTag
          s.sendSeg { tag := tag, dev := peerDev x.pa, ofs := peerOfs x.pa, port := po, plane := pl, sent := true, use := .load r } []
        | none => match s.strandPort (peerDev x.pa) (peerOfs x.pa), r.origin with
          | _, .copy crew id _ => (s.strandCount (peerDev x.pa) (peerOfs x.pa)).copyBreak crew id 0x11 r.va (2 ^ 60)
          | some po, _ =>   -- sent again once there is a route (23 R502, R505)
            let (tag, s) := (s.strandCount (peerDev x.pa) (peerOfs x.pa)).newTag
            { s with segs := s.segs ++ [{
              tag := tag, dev := peerDev x.pa, ofs := peerOfs x.pa, port := po, plane := 8, sent := false, use := .load r }] }
          | none, _ => s.loadLost r 0x11 (2 ^ 60)

/-- What QLEN writes: L_q and the backlog (10 R261). -/
def qlenWord (lq backlog : Nat) : Nat := lq * 2 ^ 32 + min backlog (2 ^ 32 - 1)

/-- The home's answer to a QLEN: the backlog as the request arrives (10 R261); of a queue that its graph's stop has released
meanwhile, a free value (notes/assumptions/93.md). -/
def State.qlenHome (s : State) (r : LdReq) (n : Nat) : State :=
  let give (s : State) (v : Nat) : State :=
    s.send (.loadResultReturn { req := r, data := bytesOf v 8, poison := false, wt := 0, fill := none })
  match s.queue? n with
  | some q => give s (qlenWord q.lq q.backlog)
  | none => give { s with draw := s.draw + 1 } (Config.freeWord s.draw).toNat

/-- Is it a read that only a peer answers, a copy's or a run of code, of a page that is not a peer's any more? -/
def State.strays (s : State) (r : LdReq) : Bool :=
  (match r.origin with
    | .copy .. => true
    | _ => decide (16 < r.n)) && !(s.peek r.asid r.va).any fun x => x.attr.ap == .peer

/-- Such a read is made again, as the page is now. -/
def State.readAgain (s : State) (r : LdReq) : State := match r.origin with
  | .copy crew k _ => s.send (.copyChunkComplete crew k)
  | .group w _ _ => s.codeBack w 33 r.va r.n [] 0
  | .none => s

/-- A load or lease request at its local copy or its home (12 R312, 13 R320), or QLEN's request at its queue's home. -/
def execLoadRequestAtHome (r : LdReq) (s : State) : Host.Outcome State Fault Refusal :=
  .next (match r.qlen with
  | some n => s.qlenHome r n
  | none => match r.atLocal, localSlice r.core (homeOf r.va) with
    | true, some j =>
      let loc := (s.slice j).loc
      let s := s.restOf r loc
      let f := fillRun loc r.asid (spanOf r.va) r.first r.last (wordOf r.va) (wordOf r.va)
      let on := Instr.loadRequestAtHome { r with atLocal := false, first := f.1, last := f.2 }
      (match findBlk loc r.asid r.va with
      | some b =>
        if r.ldc || (decide (r.lclk ≤ b.le) && !r.renew) then
          let (use, s) := s.newTag
          let s := s.updSlice j fun sl => { sl with loc := updBlk sl.loc r.asid r.va fun b => { b with used := use } }
          (s.perfAdd r.core r.vf 0x08 1).replyLoad r b b.le
        else s.sendFrom (some (sliceNode j)) (.loadRequestAtHome { r with
          atLocal := false, first := max r.first b.first, last := min r.last b.last, wt := some (b.wt, b.first, b.last) })
      | none => s.sendFrom (some (sliceNode j)) on)
    | _, _ => if s.strays r then s.readAgain r else s.homeTurn r.asid r.va (.loadRequestAtHome r) fun _ => s.loadHome r)

/-- A load's place in its core: its L1 under the lease test, or a request for the extent of its miss (12 R298, R302, R306,
13 R320). -/
def State.lookL1 (s : State) (r : LdReq) : State :=
  let co := s.core r.core
  let hit := if r.cp == .home || !r.atLocal then none
    else (findBlk co.l1 r.asid r.va).bind fun b => if r.ldc || decide (r.lclk ≤ b.le) then some b else none
  match hit with
  | some b =>
    let (use, s) := s.newTag
    let s := s.updCore r.core fun co => { co with l1 := updBlk co.l1 r.asid r.va fun b =>
      { b with used := use, seen := b.seen ||| Mask.one (wordOf r.va) } }
    (s.perfAdd r.core r.vf 0x06 1).send (.loadResultReturn {
      req := { r with own := true }, data := b.read r.va r.n, poison := b.poison.has (wordOf r.va), wt := b.wt, fill := none })
  | none =>
    let s := if r.atLocal || r.cp == .home then s.perfAdd r.core r.vf 0x07 1 else s
    let x := extent co r.e r.pc r.va r.first r.last
    let f := fillRun (co.l1.filter fun b => !b.holds r.asid r.va) r.asid (spanOf r.va) x.1 x.2 (wordOf r.va) (wordOf r.va)
    let (n, s) := s.newTag
    s.send (.loadRequestAtHome { r with
      first := f.1, last := f.2, pext := x, miss := wordOf r.va, e0 := r.e0 && r.e == 0, left := n + 1 })

/-- The next part of a lane's ordered access leaves (13 R331): a load's with the clock and the lease length as they stand (R326), a
store's with the clock of its commit (R321), a time not below that of the part before it, and its page's WB bit (15 R385). `wt` is the
time that the answer to the part before carries, which a stop may keep from the clocks (17 R426). -/
def State.leaveLater (s : State) (w : Who) (id l : Nat) (wt : Nat := 0) : State :=
  match s.crew? w.crew, s.group? w with
  | some c, some g => (match g.later.find? (isPart id l) with
    | none => s
    | some i =>
      let s := s.updGroup w fun g => { g with later := g.later.erase i }
      match i with
      | .loadRequestAtHome r => s.lookL1 { r with
          lclk := max c.lclk wt
          len := (((s.core c.core).attr c.asid r.va).map fun a => s.leaseLen a.ok).getD r.len }
      | .storePerformedAtHome m =>
        let (n, s) := s.newTag
        s.send (.storePerformedAtHome { m with
          floor := max c.sclk wt
          left := n
          wb := s.wbAt c.core c.asid m.va })
      | _ => s)
  | _, _ => s

/-- The first poisoned byte of a load's answer that it needs (22 R486). -/
def poisonedByte (m : LdRep) (needs : Nat → Bool) : Option Nat :=
  if m.poison then (if m.bad.isEmpty then List.range m.req.n else m.bad).find? needs else none

/-- The answer of a load that was not served reaches its group: nothing is written, and its cause waits with its access's; code that the
time limit has dropped finds no translation (20 R460, 22 R481, R483). -/
def State.loadFail (s : State) (r : LdReq) (cause info : Nat) : State := match r.origin with
  | .group w id l =>
    if 32 ≤ l then s.codeBack w l r.va r.n [] (if cause = 0x13 then 3 else 1)
    else if r.pref then s.updGroup w fun g => g.redDone id l
    else if r.renew then (s.updGroup w fun g =>
      (g.redDone id l).failLane { id := id, lane := l, cause := cause, addr := r.va, info := info }).failDone w id
    else s.outCancel w id l cause r.va info
  | _ => s

/-- A load's words reach its core's L1 (12 R308, 13 R320). -/
def State.loadCache (s : State) (m : LdRep) : State :=
  let r := m.req
  let s := match m.fill with
    | some f => s.fillL1 r.core f (if r.pref then r.first else wordOf r.va) (if r.pref then r.last else wordOf r.va) (r.cp == .ef)
        (if r.e0 then some (predIdx r.pc r.va, r.miss, r.pext.1, r.pext.2) else none)
    | none => s
  if r.pref || r.renew || m.fill.isNone then s else s.updCore r.core fun co => { co with
    l1 := updBlk co.l1 r.asid r.va fun b => { b with seen := b.seen ||| Mask.one (wordOf r.va) } }

/-- A load's words reach the core: its L1, the clock, the lane's register (12 R308, 13 R320, 22 R486). -/
def State.loadWords (s : State) (m : LdRep) : State :=
  let r := m.req
  let s := s.loadCache m
  match r.origin with
  | .group w id l =>
    let s := if r.ldc || r.pref then s else s.raiseClocks w.crew m.wt 0
    if 32 ≤ l then s.codeBack w l r.va r.n m.data (if m.poison then 2 else 0) m.bad
    else if r.pref || r.renew then (s.updGroup w fun g => g.redDone id l).failDone w id
    else match s.out? w id with
      | some o => (match poisonedByte m fun k => !o.own.contains (24 * l + o.ofsOf l r.va + k) with
        | some k => s.outCancel w id l 0x18 r.va r.pc (r.va + k)
        | none => let s := s.outBytes w id l (o.ofsOf l r.va) m.data
          if m.kept then s else s.leaveLater w id l)
      | none => s
  | .copy crew id _ =>
    if m.poison then s.copyBreak crew id 0x18 (r.va + m.bad.headD 0) r.pc
    else (s.updCopy crew id fun k => { k with data := k.data ++ m.data }).send (.copyChunkComplete crew id)
  | .none => s

/-- A load's answer reaches the core. -/
def State.loadBack (s : State) (m : LdRep) : State :=
  match m.fail with
  | some f => s.loadFail m.req f.1 f.2
  | none => s.loadWords m

/-- A load's answer that a stop holds: its words enter L1, and the next part of an ordered access leaves, where this one does not end it;
the result is kept (17 R426). -/
def State.loadKept (s : State) (m : LdRep) : State :=
  let s := if m.fail.isSome then s else s.loadCache m
  let s := match m.req.origin with
    | .group w id l => (match s.out? w id with
      | some o => if m.fail.isSome || (poisonedByte m fun k => !o.own.contains (24 * l + o.ofsOf l m.req.va + k)).isSome then s
          else s.leaveLater w id l m.wt
      | none => s)
    | _ => s
  s.stopKeep (.loadResultReturn { m with fill := none, kept := true })

/-- LOAD_RESULT_RETURN. -/
def execLoadResultReturn (m : LdRep) (s : State) : Host.Outcome State Fault Refusal :=
  .next (if s.stopHolds m.req.origin then s.loadKept m else s.loadBack m)

/-! ## Stores -/

/-- Bytes written into the home block by an access: the times, the dirty bits, and the poison of a word that the access has wholly
written, in one part or in several (13 R321, 22 R486). -/
def Blk.store (b : Blk) (va : Nat) (bs : List Byte) (wt : Nat) (access : Nat := 0) : Blk :=
  let w := wordOf va
  let old := ((b.partly.find? fun p => p.1 == w && p.2.1 == access).map (·.2.2)).getD 0
  let now := old ||| ((2 ^ bs.length - 1) * 2 ^ (va % 16))
  let rest := b.partly.filter fun p => !(p.1 == w && (p.2.1 == access || now == 2 ^ 16 - 1))
  { b.write va bs with
    wt := wt, le := wt
    dirty := b.dirty ||| Mask.one w
    poison := if now = 2 ^ 16 - 1 then b.poison &&& ~~~Mask.one w else b.poison
    partly := if b.poison.has w && now != 2 ^ 16 - 1 then rest ++ [(w, access, now)] else rest }

/-- Perform a write at a resident home block at the time WT := max(clock, LE + 1); the time. -/
def State.storeBlk (s : State) (asid va : Nat) (bs : List Byte) (clk : Nat) (b : Blk) (victim : Bool) (access : Nat := 0) :
    Nat × State :=
  let i := homeOf va
  let wt := max clk (b.le + 1)
  let (use, s) := s.newTag
  let s := (s.updSlice i (·.rebase wt)).setHome i asid va fun b =>
    { b.store va bs (max clk (b.le + 1)) access with used := use, victim := b.victim || victim }
  (wt, s)

/-- Send a store or multicast segment; a store that cannot leave fails (23 R502). -/
def State.storeFar (s : State) (m : StMsg) (x : Xl) : State :=
  if inWindow x.attr.ap x.pa then
    (s.winStore x.pa m.bytes).send (.storeAcknowledgement { msg := m, kind := .peerDone })
  else
    let mc := x.attr.ap == .mcast
    let dev := if mc then mcGroup x.pa else peerDev x.pa
    let ofs := if mc then x.pa % 2 ^ 15 else peerOfs x.pa
    match s.route mc dev ofs with
    | none => (s.strandCount dev ofs).send (.storeAcknowledgement { msg := m, kind := .failed })
    | some (pl, po) =>
      let (tag, s) := s.newTag
      s.sendSeg { tag := tag, dev := dev, ofs := ofs, port := po, plane := pl, sent := true
                  use := if mc then .mcast m else .store m } []

/-- Does the controller of a word's home still hold a translation with WB that the table gives without it? A write through it is held
(15 R386). -/
def State.oldWb (s : State) (asid va : Nat) : Bool :=
  ((s.ctrl (ctrlOf (homeOf va))).tlb.any fun t => t.covers asid va && (leafAttr t.leaf).wb) && (match s.walk asid va with
    | .leaf p _ _ => !(leafAttr p).wb
    | _ => false)

/-- The home block of a word stands for the frame that its page's translation gives (15 R386). -/
def State.followed (s : State) (asid va : Nat) : State := match s.peek asid va with
  | some x => s.follow asid va x
  | none => s

/-- STORE_PERFORMED_AT_HOME (13 R321, 15 R385, R393). -/
def execStorePerformedAtHome (m : StMsg) (s : State) : Host.Outcome State Fault Refusal :=
  .next (
    if s.ckHolds m.asid m.va m.sclk then s.hold .ck m.asid m.va (.storePerformedAtHome m)
    else if m.wb || s.oldWb m.asid m.va then s.hold .wb m.asid m.va (.storePerformedAtHome m)
    else s.homeTurn m.asid m.va (.storePerformedAtHome m) fun _ =>
      let s := s.followed m.asid m.va
      match s.homeBlk m.asid m.va with
      | some b =>
        let access := match m.origin with
          | .group _ id _ | .copy _ id _ => id + 1
          | .none => 0
        let s := s.homeHit m.core m.vf m.missed
        let (wt, s) := (s.setD m.asid m.va).storeBlk m.asid m.va m.bytes (max m.sclk m.floor) b (m.cp == .ef) access
        let s := if m.spoilt then s.setHome (homeOf m.va) m.asid m.va (·.spoil m.va) else s
        let clean : Bool := (s.homeBlk m.asid m.va).any fun b => !b.poison.has (wordOf m.va)
        s.send (.storeAcknowledgement { msg := m, kind := .done wt, was := some (b.wt, b.first, b.last), clean := clean })
      | none =>
        let e := m.ext.getD (wordOf m.va, wordOf m.va)
        s.homeMiss m.asid m.va e.1 e.2 (·.w) true (.storePerformedAtHome m) m.core m.vf fun x s => s.storeFar m x)

/-- A store's part leaves SBCOUNT: mark it acknowledged, and drop an entry whose parts all are (09 R220). -/
def Group.sbAck (g : Group) (id part : Nat) (dropped : Bool) : Group :=
  let mark (e : SbEntry) : SbEntry :=
    { e with parts := lupd e.parts part fun p => { p with acked := true }, dropped := e.dropped || dropped }
  let sb := (lupdAll (fun e => e.id == id) mark g.sb).filter fun e => !(e.committed && e.parts.all (·.acked))
  { g with sb := sb, atomics := g.atomics.filter fun a => sb.any fun e => decide (e.id < a.1) }

/-- The storing core's L1 block takes a store's bytes, WT and lease end, and loses the poison that its home has lost (12 R307,
13 R321, 22 R486). Its other words stay readable at the
store's time only where the home's block held them unchanged since the copy was made; a copy of which that is not so is
evicted instead (13 R336, notes/assumptions/96.md), and so is one whose lease end would lie below BASE (R328). The write is no use of
the block for LRU and for the word-use bitmap: a DESIGN CHOICE (notes/assumptions/128.md). -/
def Core.ackL1 (co : Core) (m : StMsg) (wt : Nat) (was : Option (Nat × Nat × Nat)) (clean : Bool) : Core :=
  let takes : Bool := match findBlk co.l1 m.asid m.va, was with
    | some b, some (w, f, l) => decide (co.l1base ≤ wt ∧ b.wt = max w co.l1base ∧ f ≤ b.first ∧ b.last ≤ l)
    | _, _ => false
  let co := if takes then co.rebase wt else co   -- only a time that is about to be stored moves BASE (13 R328)
  match findBlk co.l1 m.asid m.va, was with
  | some b, some (w, f, l) =>
    if co.l1base ≤ wt ∧ b.wt = max w co.l1base ∧ f ≤ b.first ∧ b.last ≤ l then
      { co with l1 := updBlk co.l1 m.asid m.va fun b => { b.write m.va m.bytes with
          wt := wt, le := wt
          poison := if clean then b.poison &&& ~~~Mask.one (wordOf m.va) else b.poison } }
    else co.evictL1 fun b => b.holds m.asid m.va
  | _, _ => co.evictL1 fun b => b.holds m.asid m.va

/-- Is a fill of a word's older value on its way, for a span held under an ASID? -/
def oldFill (asid va wt : Nat) (f : Fill) : Bool :=
  (f.asid == asid || f.asid == 0) && f.span == spanOf va && decide (f.first ≤ wordOf va) && decide (wordOf va ≤ f.last) && decide (f.wt < wt)

/-- Such a fill is not installed, in the storing core's L1 or its sector's local copy. -/
def noOldFill (core asid va wt : Nat) : Instr → Instr
  | .loadResultReturn m =>
    if m.req.core = core ∧ m.fill.any (oldFill asid va wt) then .loadResultReturn { m with fill := none } else .loadResultReturn m
  | .homeFillReturn m =>
    if localSlice core (homeOf va) = some m.slice ∧ m.copy.any (oldFill asid va wt)
    then .homeFillReturn { m with first := 32, last := 32 } else .homeFillReturn m
  | i => i

/-- Once a store is acknowledged, no older copy of its word stays where its core's loads look before the home: two accesses of a
lane to one byte take effect in program order (13 R330, notes/assumptions/96.md). -/
def State.ownStore (s : State) (core asid va wt : Nat) : State :=
  let s := match localSlice core (homeOf va) with
    | some j => s.updSlice j fun sl => { sl with loc := sl.loc.filter fun b => !(b.holds asid va && decide (b.wt < wt)) }
    | none => s
  s.mapReqs (noOldFill core asid va wt)

/-- What a store's acknowledgement does in its core's caches. -/
def State.ackCache (s : State) (a : StAck) : State := match a.kind with
  | .done wt => (s.updCore a.msg.core fun co => co.ackL1 a.msg wt a.was a.clean).ownStore a.msg.core a.msg.asid a.msg.va wt
  | _ => s

/-- An acknowledgement reaches the storing core (13 R321, R335, 22 R483, R491, R492). That of a copy's write leaves the core's L1 block as
it is, which lapses at its lease end as any other core's does: a DESIGN CHOICE (notes/assumptions/128.md). -/
def State.storeAck (s : State) (a : StAck) : State :=
  let m := a.msg
  match m.origin with
  | .group w id l =>
    let lose (s : State) (cause info : Nat) : State :=
      (s.updGroup w fun g => g.failLane { id := id, lane := l, cause := cause, addr := m.va, info := info }).failDone w id
    let s := s.updGroup w fun g => g.sbAck id m.part (a.kind == .dropped)
    let s := (match a.kind with
    | .done wt =>
      let host : Bool := s.zdown.isSome && (s.homeBlk m.asid m.va).any fun (b : Blk) => b.ap == Apt.host
      let s := if host then s.updGroup w fun g => { g with failMark := true } else s
      let slow : Bool := s.zretrains && (s.homeBlk m.asid m.va).any fun (b : Blk) => b.ap == Apt.host
      let s := if slow then s.updGroup w fun g => { g with sysWait := true } else s
      let waits : Bool := match s.group? w with
        | some g => g.phase == 1 && g.wait != Wait.answer   -- a fence's or a release's wait (13 R335)
        | none => false
      let s := s.raiseClocks w.crew (if waits then wt else 0) wt
      (if a.kept then s else s.ackCache a).failDone w id
    | .peerDone => s.failDone w id
    | .dropped => lose s 0x13 m.pc
    | .failed => (s.updGroup w fun g => { g with failMark := true }).failDone w id
    | .peerFault c => lose s 0x11 (2 ^ 60 + c))
    if a.kept then s else s.leaveLater w id l
  | .copy crew id n =>
    (match a.kind with
      | .dropped => s.copyFail crew id n 0x13 m.va m.pc
      | .failed => s.copyFail crew id n 0x11 m.va (2 ^ 60)
      | .peerFault c => s.copyFail crew id n 0x11 m.va (2 ^ 60 + c)
      | _ => s).copyAcked crew id (match a.kind with
        | .done wt => wt
        | _ => 0)
  | .none => s

/-- An acknowledgement that a stop holds: the caches take it and the next part of an ordered access leaves; the result is kept
(17 R426). -/
def State.ackKept (s : State) (a : StAck) : State :=
  let s := s.ackCache a
  let s := match a.msg.origin with
    | .group w id l => s.leaveLater w id l (match a.kind with
      | .done wt => wt
      | _ => 0)
    | _ => s
  s.stopKeep (.storeAcknowledgement { a with kept := true })

/-- STORE_ACKNOWLEDGEMENT. -/
def execStoreAcknowledgement (a : StAck) (s : State) : Host.Outcome State Fault Refusal :=
  .next (if s.stopHolds a.msg.origin then s.ackKept a else s.storeAck a)

/-! ## Atomics -/

/-- The new value of a word of `n` bytes (09 R226, R227), none for a comparison that fails. -/
def AtomOp.apply (op : AtomOp) (n : Nat) (old b : Nat) : Option Nat :=
  match op with
  | .int o => some (atomNew o (8 * n) old (b % 2 ^ (8 * n)))
  | .cas cmp => if old = cmp.toNat % 2 ^ (8 * n) then some (b % 2 ^ (8 * n)) else none
  | .flt ty o => some (atomFNew ty o old b)

/-- Answer an atomic. -/
def State.atReply (s : State) (m : AtMsg) (r : AtRes) : State := s.send (.atomicReply { msg := m, res := r })

/-- An atomic on a resident home block (13 R322, 22 R486). -/
def State.atomBlk (s : State) (m : AtMsg) (b : Blk) : State :=
  let s := s.homeHit m.core m.vf m.missed
  if b.poison.has (wordOf m.va) then s.atReply m .poisoned
  else
    let old := leNat (b.read m.va m.n)
    match AtomOp.apply m.op m.n old m.b.toNat with
    | some new =>
      let (wt, s) := (s.setD m.asid m.va).storeBlk m.asid m.va (bytesOf new m.n) m.sclk b false
      s.atReply m (.done (BitVec.ofNat 64 old) (some wt))
    | none =>
      let le := max b.le (m.lclk + m.len)
      let i := homeOf m.va
      let s := (s.updSlice i (·.rebase le)).setHome i m.asid m.va fun b => { b with le := le }
      (s.perfAdd m.core m.vf 0x0B 1).atReply m (.raise b.wt (BitVec.ofNat 64 old))

/-- An atomic on a host page is performed at the companion processor's memory (09 R216): the home's newer words go there
first, and the home keeps the times. A word that is poisoned at the home or in that memory keeps its value (22 R486). -/
def State.atomHost (s : State) (m : AtMsg) (x : Xl) : State :=
  if s.zdown.isSome then s.atReply m (.peerFault 0)
  else if (s.homeBlk m.asid m.va).any fun b => b.poison.has (wordOf m.va) then (s.homeHit m.core m.vf m.missed).atReply m .poisoned
  else
    let i := homeOf m.va
    let s := if (s.homeBlk m.asid m.va).isSome then s.homeHit m.core m.vf m.missed else s
    let s := match s.homeBlk m.asid m.va with
      | some b => (s.writeBack { b with dirty := b.dirty &&& Mask.one (wordOf m.va) }).setHome i m.asid m.va fun b =>
          { b with dirty := b.dirty &&& ~~~Mask.one (wordOf m.va) }
      | none => s
    let s := (s.escort (sliceNode i) (2 * m.n) true).escort (sliceNode i) m.n false
    if s.backPoison .host x.pa then s.atReply m .poisoned
    else
      let old := leNat (s.host.read x.pa m.n)
      let le := match s.homeBlk m.asid m.va with
        | some b => b.le
        | none => (s.slice i).mark m.va
      match AtomOp.apply m.op m.n old m.b.toNat with
      | none =>
        let wt := match s.homeBlk m.asid m.va with
          | some b => b.wt
          | none => le
        let le' := max le (m.lclk + m.len)
        let s := s.updSlice i (·.rebase le')
        let s := match s.homeBlk m.asid m.va with
          | some _ => s.setHome i m.asid m.va fun b => { b with le := le' }
          | none => s.updSlice i fun sl => { sl with marks := sset 0 sl.marks (l2Set m.va) le' }
        (s.perfAdd m.core m.vf 0x0B 1).atReply m (.raise wt (BitVec.ofNat 64 old))
      | some new =>
        let wt := max m.sclk (le + 1)
        let s := { s with host := s.host.write x.pa (bytesOf new m.n) }
        let s := s.updSlice i (·.rebase wt)
        let s := match s.homeBlk m.asid m.va with
          | some _ => s.setHome i m.asid m.va fun b => { b.write m.va (bytesOf new m.n) with wt := wt, le := wt }
          | none => s.updSlice i fun sl => { sl with marks := sset 0 sl.marks (l2Set m.va) wt }
        s.atReply m (.done (BitVec.ofNat 64 old) (some wt))

/-- ATOMIC_AT_HOME (13 R322, 16 R399, 23 R504). -/
def execAtomicAtHome (m : AtMsg) (s : State) : Host.Outcome State Fault Refusal :=
  .next (
    if s.ckHolds m.asid m.va m.sclk then s.hold .ck m.asid m.va (.atomicAtHome m)
    else if m.wb || s.oldWb m.asid m.va then s.hold .wb m.asid m.va (.atomicAtHome m)
    else s.homeTurn m.asid m.va (.atomicAtHome m) fun _ =>
        let s := s.followed m.asid m.va
        let host : Bool := match s.homeBlk m.asid m.va with
          | some b => b.ap == .host
          | none => (match s.peek m.asid m.va with
            | some x => x.attr.ap == .host
            | none => false)
        if host then
          match s.translateCount (ctrlOf (homeOf m.va)) m.asid m.va (fun a => a.r && a.w) true with
          | (s, .ok x) => s.atomHost m x
          | (s, _) => s.hold .noTrans m.asid m.va (.atomicAtHome m)
        else match s.homeBlk m.asid m.va with
          | some b => s.atomBlk m b
          | none => s.homeMiss m.asid m.va (wordOf m.va) (wordOf m.va) (fun a => a.r && a.w) true (.atomicAtHome m)
              m.core m.vf fun x s =>
                match s.route false (peerDev x.pa) (peerOfs x.pa) with
                | none => (s.strandCount (peerDev x.pa) (peerOfs x.pa)).atReply m (.peerFault 0)
                | some (pl, po) =>
                  let (tag, s) := s.newTag
                  s.sendSeg { tag := tag, dev := peerDev x.pa, ofs := peerOfs x.pa, port := po, plane := pl, sent := true
                              use := .atom m } [])

/-- An atomic's answer reaches the core: the clocks and the lane's register (13 R322, 22 R483, R486, 23 R504). -/
def State.atomBack (s : State) (a : AtRep) : State :=
  let m := a.msg
  match m.origin with
  | .group w id l =>
    let s := s.updGroup w fun g => g.redDone id l
    let give (s : State) (old : Word) : State := (s.outBytes w id l 0 (bytesOf (old.toNat % 2 ^ (8 * m.n)) 8)).failDone w id
    let lose (s : State) (cause info : Nat) : State :=
      if (s.out? w id).isSome then s.outCancel w id l cause m.va info
      else (s.updGroup w fun g => g.failLane { id := id, lane := l, cause := cause, addr := m.va, info := info }).failDone w id
    match a.res with
    | .done old (some wt) => give (s.raiseClocks w.crew wt wt) old
    | .done old none => give s old
    | .raise t old => give (s.raiseClocks w.crew t 0) old
    | .dropped => lose s 0x13 m.pc
    | .poisoned => lose s 0x18 m.pc
    | .peerFault c => lose s 0x11 (2 ^ 60 + c)
  | .copy crew id _ =>
    (match a.res with
      | .dropped => if (s.copy? crew id).any (fun (k : Copy) => k.timed) then s else s.copyAsync crew id 0x13 m.va m.pc
      | .poisoned => s.copyAsync crew id 0x18 m.va m.pc
      | .peerFault c => s.copyAsync crew id 0x11 m.va (2 ^ 60 + c)
      | _ => s).copyAcked crew id (match a.res with
        | .done _ (some wt) => wt
        | _ => 0)
  | .none => s

/-- ATOMIC_REPLY. -/
def execAtomicReply (a : AtRep) (s : State) : Host.Outcome State Fault Refusal :=
  .next (if s.stopHolds a.msg.origin then s.stopKeep (.atomicReply a) else s.atomBack a)

/-! ## Probes -/

/-- ATTRIBUTE_PROBE (09 R212, 15 R371, R372, R374); an atomic's finds RAP = 0 of a peer page by a walk (25 R519). -/
def execAttributeProbe (p : Probe) (s : State) : Host.Outcome State Fault Refusal :=
  .next (
    let r := s.translateCount (ctrlOf (homeOf p.va)) p.asid p.va p.acc.rights p.wr fun a =>
      p.acc != .atomic || a.ap != .peer || a.rap
    let busy := (s.reg 0x210).getLsbD 63
    match r.2 with
    | .ok x => r.1.send (.attributeProbeReply { probe := p, res := .ok x.attr x.lvl })
    | .perm => r.1.send (.attributeProbeReply { probe := p, res := .perm })
    | .noTrans => if busy then s.hold .noTrans p.asid p.va (.attributeProbe p)
        else r.1.send (.attributeProbeReply { probe := p, res := .noTrans }))

/-- Put an entry into an attribute cache of 64 entries, the one that was filled longest ago out: a DESIGN CHOICE, for 09 R212 does not
say which one makes room (notes/assumptions/111.md). -/
def Core.fillAttr (co : Core) (e : AttrEnt) : Core :=
  let l := co.attrs.filter fun t => !(t.asid == e.asid && t.page == e.page && t.lvl == e.lvl)
  { co with attrs := l.drop (l.length + 1 - 64) ++ [e] }

/-- ATTRIBUTE_PROBE_REPLY: the entry, and the word at the group's head is tried again once every probe is answered. -/
def execAttributeProbeReply (m : ProbeRep) (s : State) : Host.Outcome State Fault Refusal :=
  .next (
    let p := m.probe
    let s := match m.res with
      | .ok a lvl => s.updCore p.core (·.fillAttr
          { asid := p.asid, page := p.va % 2 ^ 51 / pageSize lvl * pageSize lvl / 2 ^ 15, lvl := lvl, attr := a })
      | _ => s
    s.updGroup p.who fun g => match g.wait with
      | .probe n =>
        let ans : Nat := match m.res with
          | .stale => 0
          | .ok _ _ => 4
          | .noTrans => 1
          | .perm => 2
          | .expired => 3
        { g with
          wait := if n ≤ 1 then .none else .probe (n - 1)
          answers := sset 0 g.answers (probeKey p.acc p.va) ans }
      | _ => g)

/-! ## The stall limit (22 R483) -/

/-- MIGLIMIT_EXPIRY: a request held too long is dropped. -/
def execMiglimitExpiry (id : Nat) (s : State) : Host.Outcome State Fault Refusal :=
  .next (match s.held.find? fun h => h.id == id with
    | none => s
    | some h =>
      let s := { s with held := s.held.filter fun h => h.id != id }
      match h.req with
      | .storePerformedAtHome m => s.send (.storeAcknowledgement { msg := m, kind := .dropped })
      | .atomicAtHome m => s.atReply m .dropped
      | .loadRequestAtHome r => (match r.origin with
        | .group .. => s.loadLost r 0x13 r.pc
        | .copy crew k _ => s.send (.copyChunkComplete crew k)   -- its read is made again, and finds no translation
        | .none => s)
      | .attributeProbe p => s.send (.attributeProbeReply { probe := p, res := .expired })
      | .peerRequestArrival q => { s with outbox := s.outbox ++ [.peerAns q.tag q.port (.fault 0x13)] }
      | _ => s)

/-! ## The tick (13 R319) -/

/-- CLOCK_TICK: the clocks of every core and of the crews in LOADING, RUNNING and CLOSING, which hold its resources, rise by one. -/
def execClockTick (s : State) : Host.Outcome State Fault Refusal :=
  .next { s with
    cores := (List.range 288).foldl (fun m c => let co := sget {} m c
      sset {} m c { co with lclk := co.lclk + 1, sclk := co.sclk + 1 }) s.cores
    crews := s.crews.map fun c =>
      if c.resident then
        { c with lclk := c.lclk + 1, sclk := c.sclk + 1 } else c }

end Sys2Proof.Machine
end

