-- ==== Sys2Proof/Machine/Memory.lean ====
section
/-! DEFINITION. The memory family's words (09 R211 to R233): loads, stores, atomics, fences, range maintenance and the
crew's clocks. -/

namespace Sys2Proof

/-- The bytes of an access width. -/
def MW.bytes : MW → Nat
  | .b8 => 1
  | .b16 => 2
  | .b32 => 4
  | .b64 => 8
  | .b128 => 16

/-- The element type of a float atomic (09 R227). -/
def AFTy.ty : AFTy → FloatTy
  | .f32 => .f32
  | .f64 => .f64
  | .bf16x2 => .bf16

/-- The wider of two scopes. -/
def Scope.wider (a b : Scope) : Scope := if a.code.toNat ≤ b.code.toNat then b else a

/-- Does the scope reach beyond the device? -/
def Scope.far (s : Scope) : Bool := s == .dom || s == .sys

end Sys2Proof

namespace Sys2Proof.Machine

/-! ## What a global word passes before it performs -/

/-- The context of the same issue in a later state. -/
def State.again (s : State) (x : Ctx) : Ctx :=
  match s.crew? x.iss.who.crew, s.group? x.iss.who with
  | some c, some g => { x with c := c, g := g }
  | _, _ => x

/-- The issue waits at the head in a phase of its word, with its issue set. Phase 1 is a word that has issued and spent its
partition's cycle; phase 3 is a BARW that is not ready (03 R71), phase 4 a BARAW that has arrived. -/
def State.headWait (s : State) (x : Ctx) (phase : Nat) : State :=
  (if phase = 3 then s else s.spent x.iss).updGroup x.iss.who fun g =>
    { g with wait := .retry s.cycle, phase := phase, head := some x.iss }

/-- The word has issued, and the group waits for an answer from outside its partition. -/
def State.awaitAnswer (s : State) (x : Ctx) : State :=
  (s.spent x.iss).updGroup x.iss.who fun g => { g with wait := .answer, phase := 1, head := some x.iss }

/-- Watchpoints of a word's accesses (22 R488, R489): rank 8. -/
def State.watchGate (s : State) (x : Ctx) (sp rd wr : Bool) (as : List Access) (k : Unit → State) : State :=
  if x.g.handler then k ()
  else
    let co := s.core x.c.core
    let hits := as.filter fun a => !x.g.suppressed x.iss.pc a.lane && (watchHit co sp rd wr a.va a.n).isSome
    match hits.head? with
    | none => k ()
    | some a =>
      let reg := (hits.filterMap fun a => watchHit co sp rd wr a.va a.n).foldl min 3
      s.trapIssue x 0x0C (Mask.ofFn fun l => hits.any fun a => a.lane == l)
        (BitVec.ofNat 64 (reg + if wr then 4 else 0)) (BitVec.ofNat 64 (watchByte co sp rd wr a.va a.n))

/-- A cause of the lanes whose accesses fail a test; it gives an access's first failing byte. -/
def State.lanesGate (s : State) (x : Ctx) (cause : Nat) (info : Word) (as : List Access) (bad : Access → Option Nat)
    (k : Unit → State) : State :=
  match as.findSome? bad with
  | none => k ()
  | some va => s.trapIssue x cause (Mask.ofFn fun l => as.any fun a => a.lane == l && (bad a).isSome) info (BitVec.ofNat 64 va)

/-- An access fails as a whole. -/
def Access.fails (bad : Access → Bool) (a : Access) : Option Nat := if bad a then some a.va else none

/-- Cause 0x11 of kind 3: address bits [63:51], multicast misuse, a message unit, an atomic or copy on a window frame,
multicast in torus mode of an enabled fabric (09 R211, 16 R397, R402, 20 R450). -/
def State.formBad (s : State) (asid : Nat) (mcOk winOk : Bool) (a : Access) : Option Nat :=
  a.pages.find? fun va => decide (2 ^ 51 ≤ va) ||
    match s.peek asid va with
    | none => false
    | some x => (x.attr.ap == .mcast && (!mcOk || (s.torus && (s.reg 0x300).getLsbD 1))) ||
        (x.attr.ap == .peer && decide (2 ^ 26 ≤ x.pa / 2 ^ 15 % 2 ^ 27)) ||
        (!winOk && inWindow x.attr.ap x.pa)

/-- Can the far end of a byte not be reached (16 R397, R401)? -/
def State.farByte (s : State) (asid va : Nat) : Bool :=
  match s.peek asid va with
  | none => false
  | some x =>
    if x.attr.ap = .peer then (s.route false (peerDev x.pa) (peerOfs x.pa)).isNone && (s.strandPort (peerDev x.pa) (peerOfs x.pa)).isNone
    else if x.attr.ap = .mcast then (s.route true (mcGroup x.pa) (x.pa % 2 ^ 15)).isNone
    else false

/-- Cause 0x11 of kind 1 at issue: the far end cannot be reached. -/
def State.farBad (s : State) (asid : Nat) (a : Access) : Option Nat := a.units.find? (s.farByte asid)

/-- The faults of a word's pages at rank 9 (20 R459): cause 0x10; 0x11 of kinds 0 and 1, whose lanes are named together, with the
kind of the first failing byte; and 0x13 for a probe that was held beyond MIGLIMIT. `k` runs where every page can be reached. -/
def State.reachGate (s : State) (x : Ctx) (as : List Access) (k : Unit → State) : State :=
  match (s.looks x as).find? (fun t => t.2.2 == .noTrans) with
  | some t => (s.spent x.iss).abort x.iss.who (BitVec.ofNat 64 t.2.1) t.1.acc.code x.iss.pc
  | none =>
    let fail (a : Access) : Option (Nat × Bool) := a.units.findSome? fun va =>
      if lookAttr (s.core x.c.core) x.g x.c.asid a.acc va = .perm then some (va, false)
      else if s.farByte x.c.asid va then some (va, true) else none
    match as.findSome? fail with
    | some (va, far) => s.trapIssue x 0x11 (Mask.ofFn fun l => as.any fun a => a.lane == l && (fail a).isSome)
        (if far then BitVec.ofNat 64 (2 ^ 60) else 0) (BitVec.ofNat 64 va)
    | none => s.lookTrap x as .expired 0x13 (x.iss.pc.setWidth 64) k

/-- The held entries commit, and the word waits while some cannot (09 R220). -/
def State.commitGate (s : State) (x : Ctx) (on : Bool) (k : State → Ctx → State) : State :=
  if !on then k s x
  else
    let s := s.commitHeld x.iss.who
    let x := s.again x
    if x.g.hasHeld then s.waitRetry x else k s x

/-- Is the fence's wait over, in its phase? A failure that a `.DOM` or `.SYS` fence meets is cause 0x1A (22 R491, R492). -/
def State.fenceGate (s : State) (x : Ctx) (sc : Option Scope) (k : State → Ctx → State) : State :=
  match sc with
  | none => k s x
  | some sc =>
    if sc.far && x.g.failMark then
      let s := s.updGroup x.iss.who fun g => { g with failMark := false }
      s.trapIssue x 0x1A x.act (BitVec.ofNat 64 sc.code.toNat)
    else
      let s := if x.g.phase = 0 then s.syncClocks x.iss.who.crew sc else s
      if x.g.fenceWaits sc then s.headWait x 1
      else
        let s := s.syncClocks x.iss.who.crew sc
        k s (s.again x)

/-- The pages of a word's accesses, by kind. -/
def State.anyAttr (s : State) (x : Ctx) (as : List Access) (p : Attr → Bool) : Bool :=
  as.any fun a => a.pages.any fun va => p (x.attr s va)

/-- Does the word touch an SO page, or the window, which is ordered as SO (13 R333, 15 R376)? -/
def State.anySo (s : State) (x : Ctx) (as : List Access) : Bool :=
  as.any fun a => a.pages.any fun va => let t := x.attr s va
    t.ok == .so || s.windowAt x.c.asid va t

/-- Does `.ACQ` or `.REL` act: is some page not UO (13 R331)? -/
def State.ordActs (s : State) (x : Ctx) (as : List Access) : Bool := s.anyAttr x as fun t => t.ok != .uo

/-- Is some page a peer or multicast page? -/
def State.anyFar (s : State) (x : Ctx) (as : List Access) : Bool :=
  s.anyAttr x as fun t => t.ap == .peer || t.ap == .mcast

/-- The accesses of the active lanes. -/
def Ctx.accesses (x : Ctx) (ad : Addr) (n : Nat) (acc : Acc) : List Access :=
  x.act.lanes.map fun l => { lane := l, va := x.addr ad l, n := n, acc := acc }

/-- The register fields of an address. -/
def addrFields : Addr → List (Nat × Opnd)
  | .o a _ => [(1, a)]
  | .x a b _ => [(1, a), (2, b)]

/-- The registers of a value of `n` bytes: a pair for 16 (09 R217). -/
def valueRegs (n : Nat) : Nat := if n = 16 then 2 else 1

/-- Allocation checks of a memory word whose field D holds a value of `n` bytes. -/
def State.memChecked (s : State) (x : Ctx) (n : Nat) (d : Opnd) (fs : List (Nat × Opnd)) (k : Unit → State) : State :=
  s.runChecked x d (valueRegs n) ((0, d) :: fs) k

/-! ## Loads -/

/-- The lane whose value a G destination takes. -/
def Ctx.glOf (x : Ctx) : Nat := x.act.low.getD 0

/-- A result that the core gives itself, of which each active lane's bytes come in a message of their own: an outstanding
result (03 R60). -/
def State.ownResult (s : State) (x : Ctx) (kind : OutKind) (d : Opnd) (bs : Nat → List Byte) : State :=
  let (id, s) := s.newTag
  let o : Out := {
    id := id, pc := x.iss.pc.toNat, kind := kind, dst := d, dst2 := .absent, pred := 0, lanes := x.act, gl := x.glOf
    left := x.act.lanes.map fun l => (24 * l, l + 1)
    got := [], cancel := 0 }
  let s := s.updGroup x.iss.who fun g => { g with outs := g.outs ++ [o] }
  x.act.lanes.foldl (fun s l => s.send (.loadResultReturn {
    req := { origin := .group x.iss.who id l, core := x.c.core, vf := x.c.vf, asid := x.c.asid, va := l, n := 0, lclk := 0
             len := 0, first := 0, last := 0, pc := x.iss.pc.toNat, cp := .dflt, ldc := true, e0 := false, renew := false
             pref := false, atLocal := false, own := true }
    data := bs l, poison := false, wt := 0, fill := none })) s

/-- The parts of a lane's access (09 R213). On a window frame no part of an access that is not one aligned access of 8 bytes is
such an access (15 R376); on a peer or multicast page a part is a segment (16 R400). -/
def State.parts (s : State) (x : Ctx) (a : Access) : List (Nat × Nat) :=
  ((segPieces a.va a.n).map fun r => if (x.attr s r.1).fabric then [r] else
    ((cutAligned 17 r.1 r.2).map fun p =>
      if p.2 = 8 ∧ a.n ≠ 8 ∧ s.windowAt x.c.asid p.1 (x.attr s p.1) then [(p.1, 4), (p.1 + 4, 4)] else [p]).flatten).flatten

/-- One part of a lane's load as its core takes it (09 R213, 12 R302, 13 R320). -/
def State.loadPart (s : State) (x : Ctx) (h : Hdr) (id : Nat) (cp : Cp) (ldc : Bool) (a : Access) (p : Nat × Nat) : LdReq :=
  let t := x.attr s p.1
  let far := t.ap == .peer || t.ap == .mcast || s.windowAt x.c.asid p.1 t
  let words := ((List.range a.n).map fun k => a.va + k).filter fun b => spanOf b == spanOf p.1
  { origin := .group x.iss.who id a.lane, core := x.c.core, vf := x.c.vf, asid := x.c.asid, va := p.1, n := p.2
    lclk := x.c.lclk, len := s.leaseLen t.ok, first := wordOf (words.headD p.1), last := wordOf (words.getLastD p.1)
    pc := x.iss.pc.toNat, cp := cp, ldc := ldc, e0 := h.e == 0 && !far, renew := false, pref := false
    atLocal := cp != .home && !far, e := if far then 1 else h.e }

/-- The lanes of a load: an outstanding result with the bytes of the group's own stores (09 R221), and the parts' requests, each
lane's one after the other where the access is ordered. -/
def State.loadLanes (s : State) (x : Ctx) (h : Hdr) (cp : Cp) (ldc sx inOrder : Bool) (n : Nat) (d : Opnd) (as : List Access) :
    Nat × State :=
  let (id, s) := s.newTag
  let own := (as.map fun a => (List.range n).filterMap fun k =>
    (x.g.forward (a.va + k)).map fun b => (24 * a.lane + k, b)).flatten
  let parts := (as.map fun a => ((s.parts x a).filter fun p =>
    !((List.range p.2).all fun k => own.any fun q => q.1 == 24 * a.lane + (p.1 - a.va) + k)).map fun p => (a, p)).flatten
  let o : Out := {
    id := id, pc := x.iss.pc.toNat, kind := .load n sx, dst := d, dst2 := .absent, pred := 0, lanes := x.act, gl := x.glOf
    left := parts.foldl (fun m q => sset 0 m (24 * q.1.lane + (q.2.1 - q.1.va)) (q.2.1 + 1)) []
    got := own.foldl (fun m q => Memory.set m q.1 q.2) [], own := own.map (·.1), cancel := 0 }
  let s := s.updGroup x.iss.who fun g => { g with outs := g.outs ++ [o] }
  let go (s : State) (i : Instr) : State := match i with
    | .loadRequestAtHome r => s.lookL1 r
    | _ => s
  let s := s.sendParts x.iss.who inOrder (parts.map fun q => .loadRequestAtHome (s.loadPart x h id cp ldc q.1 q.2)) go
  (id, (as.filter fun a => !(parts.any fun q => q.1.lane == a.lane)).foldl
    (fun s a => s.outBytes x.iss.who id a.lane 0 []) s)

/-- Is a held atomic of a group one that a lane's load of some bytes must follow (13 R330): the lane's own, or one that follows a store
of the group to such a byte, which the buffer then does not give to the load (09 R221)? -/
def State.heldAtomic (s : State) (w : Who) (lane asid va n : Nat) : Bool :=
  s.held.any fun h => match h.req with
    | .atomicAtHome m => (match m.origin with
      | .group u id l => u == w && m.asid == asid && decide (m.va < va + n) && decide (va < m.va + m.n) &&
          (l == lane || ((s.group? w).any fun g => g.sb.any fun e => decide (e.id < id) && e.parts.any fun p =>
            decide (p.va < va + n) && decide (va < p.va + p.bytes.length) &&
              decide (p.va < m.va + m.n) && decide (m.va < p.va + p.bytes.length)))
      | _ => false)
    | _ => false

/-- Is an access of a group to a word of an address range not answered yet: a load, an atomic, or a RENEW of its span? An atomic that is
held keeps back only a load that must follow it, which has not left its core: at its home no load waits (15 R385, R393). -/
def State.awaits (s : State) (w : Who) (lane asid va n : Nat) : Bool :=
  s.heldAtomic w lane asid va n ||
  let near (o : Origin) (a v : Nat) (span : Bool) : Bool := (match o with
    | .group u _ l => u == w && l != 32
    | _ => false) && a == asid && (if span then spanOf v == spanOf va || spanOf v == spanOf (va + n - 1)
      else decide (va / 16 ≤ v / 16) && decide (v / 16 ≤ (va + n - 1) / 16))
  let mine (i : Instr) : Bool := match i with
    | .loadRequestAtHome r => !r.pref && near r.origin r.asid r.va r.renew
    | .loadResultReturn m => !m.req.pref && !m.req.own && near m.req.origin m.req.asid m.req.va m.req.renew
    | .homeFillReturn m => m.renewed.any fun r => !r.pref && near r.origin r.asid r.va r.renew
    | .atomicAtHome m => near m.origin m.asid m.va false
    | .atomicReply a => near a.msg.origin a.msg.asid a.msg.va false
    | _ => false
  ((s.moving ++ s.laters).any mine) || (s.segs.any fun g => match g.use with
    | .load r => mine (.loadRequestAtHome r)
    | .atom m => mine (.atomicAtHome m)
    | _ => false) || (s.held.any fun h => mine h.req && (partOf h.req).isSome) || (s.stop.any fun t => t.held.any fun r => match r with
    | .msg e => mine e
    | .array _ => false)

/-- A load word after its decode: LDG and LDC (09 R216 to R219, R222, 13 R333). -/
def State.loadWord (s : State) (h : Hdr) (n : Nat) (sx ldc : Bool) (ord : Ord) (sc : Scope) (cp : Cp) (d : Opnd) (ad : Addr) :
    State :=
  s.withCtx h fun x =>
    s.memChecked x n d (addrFields ad) fun _ =>
      let as := x.accesses ad n .load
      s.lanesGate x 0x11 (BitVec.ofNat 64 (3 * 2 ^ 60)) as (s.formBad x.c.asid false true) fun _ =>
        s.watchGate x false true false as fun _ =>
          s.probeGate x as fun _ =>
            let so := s.anySo x as
            let far := s.anyFar x as
            s.commitGate x (so || far) fun s x =>
              s.reachGate x as fun _ =>
                  if x.act = 0 then s.retire x h
                  else
                    let acq := so || (ord == .acq && s.ordActs x as)
                    s.fenceGate x (if so then some .dev else none) fun s x =>
                      if !ldc && as.any (fun a => s.awaits x.iss.who a.lane x.c.asid a.va a.n) then s.waitRetry x
                      else
                        let (id, s) := s.loadLanes x h cp ldc sx acq n d as
                        let s := if far then s.updGroup x.iss.who fun g => g.boundary x.act x.iss.pc x.iss.len else s
                        let s := s.retire (s.again x) h
                        if acq then s.updGroup x.iss.who fun g =>
                          { g with wait := .acq id (if so then Scope.wider .dev (if ord == .acq then sc else .dev) else sc) } else s

/-- LDG (09 R217, R218). -/
def execLdg (h : Hdr) (w : MW) (sx : Bool) (ord : Ord) (scope : Scope) (cp : Cp) (d : Opnd) (addr : Addr) (s : State) :
    Host.Outcome State Fault Refusal :=
  .next (s.loadWord h w.bytes sx false ord scope cp d addr)

/-- LDC (09 R219). -/
def execLdc (h : Hdr) (w : MW) (sx : Bool) (cp : Cp) (d a : Opnd) (ofs : BitVec 28) (s : State) :
    Host.Outcome State Fault Refusal :=
  .next (s.loadWord h w.bytes sx true .plain .grp cp d (.o a ofs))

/-! ## Stores -/

/-- The bytes that a lane stores (09 R217). -/
def Ctx.storeBytes (x : Ctx) (n : Nat) (d : Opnd) (l : Nat) : List Byte :=
  if n ≤ 8 then bytesOf (x.src d l).toNat n
  else match d with
    | .imm k => bytesOf (BitVec.ofInt 128 (immI k)).toNat 16
    | _ => bytesOf (x.src d l).toNat 8 ++ bytesOf (x.src d.next l).toNat 8

/-- The store buffer's entry of a store: every active lane's bytes, lanes in ascending order (09 R213, R214, R220). -/
def State.storeEntry (s : State) (x : Ctx) (e : BitVec 2) (id n : Nat) (cp : Cp) (d : Opnd) (inOrder : Bool) (as : List Access) :
    SbEntry where
  id := id
  pc := x.iss.pc.toNat
  committed := false
  cp := cp
  inOrder := inOrder
  parts := (as.map fun a =>
    let bs := x.storeBytes n d a.lane
    (s.parts x a).map fun p =>
      let t := x.attr s p.1
      let far := t.ap == .peer || t.ap == .mcast
      let words := ((List.range n).map fun k => a.va + k).filter fun b => spanOf b == spanOf p.1
      let need := (wordOf (words.headD p.1), wordOf (words.getLastD p.1))
      { lane := a.lane, va := p.1, bytes := (bs.drop (p.1 - a.va)).take p.2, acked := false, far := far
        ext := if far then none
          else some (extent (s.core x.c.core) e x.iss.pc.toNat p.1 need.1 need.2) : SbPart }).flatten

/-- The release before an access (13 R333): its own scope, at least `.DEV` for one that touches an SO page. -/
def relScope (so rel : Bool) (sc : Scope) : Option Scope :=
  if so then some (if rel then Scope.wider .dev sc else .dev) else if rel then some sc else none

/-- STG (09 R217, R220, R222, 13 R333). -/
def execStg (h : Hdr) (w : MW) (ord : Ord) (scope : Scope) (cp : Cp) (d : Opnd) (addr : Addr) (s : State) :
    Host.Outcome State Fault Refusal :=
  .next (s.withCtx h fun x =>
    s.memChecked x w.bytes d (addrFields addr) fun _ =>
      let as := x.accesses addr w.bytes .store
      s.lanesGate x 0x11 (BitVec.ofNat 64 (3 * 2 ^ 60)) as (s.formBad x.c.asid true true) fun _ =>
        s.watchGate x false false true as fun _ =>
          s.probeGate x as fun _ =>
            let so := s.anySo x as
            let bnd := so || s.anyFar x as
            s.commitGate x bnd fun s x =>
              s.reachGate x as fun _ =>
                  if x.act = 0 then s.retire x h
                  else
                    let rel := ord == .rel && s.ordActs x as
                    let full := decide (64 ≤ (x.g.sb.filter (!·.committed)).length)
                    s.commitGate x (rel || full) fun s x =>
                      s.fenceGate x (relScope so rel scope) fun s x =>
                        if (bnd || rel) && decide (256 ≤ x.g.sbCommitted) then s.waitRetry x
                        else
                          let (id, s) := s.newTag
                          let e := s.storeEntry x h.e id w.bytes cp d (so || rel) as
                          let s := s.updGroup x.iss.who fun g => { g with sb := g.sb ++ [e] }
                          let s := if bnd || rel then s.commitEntry x.iss.who e else s
                          let s := if bnd then s.updGroup x.iss.who fun g => g.boundary x.act x.iss.pc x.iss.len else s
                          let s := s.retire (s.again x) h
                          if so then s.updGroup x.iss.who fun g => { g with wait := .acq id .dev } else s)

/-! ## Scratchpad words (09 R211, R223, R234) -/

/-- The tile, value, watch and wait checks of scratchpad accesses (20 R459 ranks 6 to 8, 09 R234). -/
def State.scratchGate (s : State) (x : Ctx) (field : Nat × Opnd) (rd wr : Bool) (align : Nat) (as : List Access)
    (k : Unit → State) : State :=
  let at_ (a : Access) : Option Nat := x.c.tileAt a.va a.n
  let gone := as.filter fun a => match at_ a with
    | some t => (x.c.tile t).gone
    | none => false
  match gone.head? with
  | some a =>
    let t := (at_ a).getD 0
    s.trapIssue x 0x08 (Mask.ofFn fun l => gone.any fun a => a.lane == l) (info08 0 t (x.c.tile t)) (BitVec.ofNat 64 a.va)
  | none =>
    s.lanesGate x 0x03 (info03 field) as (Access.fails fun a => (at_ a).isNone) fun _ =>
      s.lanesGate x 0x14 0 as (Access.fails fun a => a.va % align != 0) fun _ =>
        s.watchGate x true rd wr as fun _ =>
          if as.any (fun a => match at_ a with
              | some t => (x.c.tile t).waits wr
              | none => false) then s.waitRetry x else k ()

/-- LDS (09 R217, R218): the bytes are read at the issue (R223), and the register's write is an outstanding result. -/
def execLds (h : Hdr) (w : MW) (sx : Bool) (d : Opnd) (addr : Addr) (s : State) : Host.Outcome State Fault Refusal :=
  .next (s.withCtx h fun x =>
    s.memChecked x w.bytes d (addrFields addr) fun _ =>
      let as := x.accesses addr w.bytes .load
      s.scratchGate x ((addrFields addr).headD (1, .absent)) true false 1 as fun _ =>
        if x.act = 0 then s.retire x h
        else
          let s := s.ownResult x (.load w.bytes sx) d fun l => x.c.scratch.read (x.addr addr l) w.bytes
          s.retire (s.again x) h)

/-- STS (09 R217): where lanes write one byte, the highest lane's value remains (R214). -/
def execSts (h : Hdr) (w : MW) (d : Opnd) (addr : Addr) (s : State) : Host.Outcome State Fault Refusal :=
  .next (s.withCtx h fun x =>
    s.memChecked x w.bytes d (addrFields addr) fun _ =>
      let as := x.accesses addr w.bytes .store
      s.scratchGate x ((addrFields addr).headD (1, .absent)) false true 1 as fun _ =>
        let s := s.updCrew x.iss.who.crew fun c => as.foldl (fun c a => c.wrScratch a.va (x.storeBytes w.bytes d a.lane)) c
        s.retire (s.again x) h)

/-- ATOMS (09 R223 to R228): lanes in ascending order, each sees the lane before it; the old values are an outstanding
result. -/
def execAtoms (h : Hdr) (w64 : Bool) (op : AOp) (d a : Opnd) (ofs : BitVec 28) (b : Opnd) (s : State) :
    Host.Outcome State Fault Refusal :=
  .next (s.withCtx h fun x =>
    s.memChecked x 8 d [(1, a), (2, b)] fun _ =>
      let n := if w64 then 8 else 4
      let as := x.accesses (.o a ofs) n .atomic
      s.scratchGate x (1, a) true true n as fun _ =>
        let r := as.foldl (fun (q : Crew × SMap Word) a =>
          let old := q.1.rdScratch a.va n
          (q.1.wrScratch a.va (bytesOf (atomNew op (8 * n) old ((x.srcI (8 * n) b a.lane).toNat % 2 ^ (8 * n))) n),
            sset 0 q.2 a.lane (BitVec.ofNat 64 old))) (x.c, [])
        let s := s.updCrew x.iss.who.crew fun _ => r.1
        if x.act = 0 then s.retire x h
        else
          let s := s.ownResult x .atom d fun l => bytesOf (sget 0 r.2 l).toNat 8
          s.retire (s.again x) h)

/-! ## Global atomics (09 R222 to R228) -/

/-- An atomic word; without a destination it writes no register. -/
def State.atomWord (s : State) (h : Hdr) (n : Nat) (op : Ctx → Nat → AtomOp) (bv : Ctx → Nat → Word) (ord : Ord) (sc : Scope)
    (d : Option Opnd) (a : Opnd) (ofs : BitVec 28) (b : Opnd) : State :=
  s.withCtx h fun x =>
    s.memChecked x 8 (d.getD .absent) [(1, a), (2, b)] fun _ =>
      let as := x.accesses (.o a ofs) n .atomic
      s.lanesGate x 0x14 0 as (Access.fails fun a => a.va % n != 0) fun _ =>
        s.lanesGate x 0x11 (BitVec.ofNat 64 (3 * 2 ^ 60)) as (s.formBad x.c.asid false false) fun _ =>
          s.watchGate x false true true as fun _ =>
            s.commitGate x (x.act != 0) fun s x =>
              s.probeGate x as fun _ =>
                s.reachGate x as fun _ =>
                  s.lanesGate x 0x12 0 as (Access.fails fun a => let t := x.attr s a.va
                      t.ap == .peer && !t.rap) fun _ =>
                    if x.act = 0 then s.retire x h
                    else
                      let so := s.anySo x as
                      let rel := ord == .rel && s.ordActs x as
                      let acq := so || (ord == .acq && s.ordActs x as)
                      s.fenceGate x (relScope so rel sc) fun s x =>
                        let (id, s) := s.newTag
                        let s := s.updGroup x.iss.who fun g => match d with
                          | some o => { g with outs := g.outs ++ [{
                              id := id, pc := x.iss.pc.toNat, kind := .atom, dst := o, dst2 := .absent, pred := 0
                              lanes := x.act, gl := x.glOf
                              left := as.foldl (fun m a => sset 0 m (24 * a.lane) (a.va + 1)) [], got := [], cancel := 0 }] }
                          | none => { g with reds := g.reds ++ [(id, x.act)] }
                        let s := s.updGroup x.iss.who fun g =>
                          { g with atomics := if g.sb.isEmpty then [] else g.atomics ++ as.map fun q => (id, q.va, n) }
                        let s := as.foldl (fun s q => s.send (.atomicAtHome {
                          origin := .group x.iss.who id q.lane, core := x.c.core, vf := x.c.vf, asid := x.c.asid
                          va := q.va, n := n, op := op x q.lane, b := bv x q.lane, sclk := x.c.sclk
                          lclk := x.c.lclk, len := s.leaseLen (x.attr s q.va).ok, pc := x.iss.pc.toNat, left := id
                          wb := s.wbAt x.c.core x.c.asid q.va })) s
                        let s := s.updGroup x.iss.who fun g => g.boundary x.act x.iss.pc x.iss.len
                        let s := s.retire (s.again x) h
                        if acq then s.updGroup x.iss.who fun g =>
                          { g with wait := .acq id (if so then Scope.wider .dev (if ord == .acq then sc else .dev) else sc) } else s

/-- ATOM (09 R224 to R226). -/
def execAtom (h : Hdr) (w64 : Bool) (op : AOp) (ord : Ord) (scope : Scope) (_ : Cp) (d a : Opnd) (ofs : BitVec 28)
    (b : Opnd) (s : State) : Host.Outcome State Fault Refusal :=
  .next (s.atomWord h (if w64 then 8 else 4) (fun _ _ => .int op) (fun x l => x.srcI (if w64 then 64 else 32) b l) ord scope (some d) a ofs b)

/-- ATOMC (09 R226): D holds the value compared. -/
def execAtomc (h : Hdr) (w64 : Bool) (ord : Ord) (scope : Scope) (_ : Cp) (d a : Opnd) (ofs : BitVec 28)
    (b : Opnd) (s : State) : Host.Outcome State Fault Refusal :=
  .next (s.atomWord h (if w64 then 8 else 4) (fun x l => .cas (x.src d l)) (fun x l => x.srcI (if w64 then 64 else 32) b l) ord scope (some d) a ofs b)

/-- ATOMF (09 R227). -/
def execAtomf (h : Hdr) (ty : AFTy) (op : AFOp) (nr : Bool) (ord : Ord) (scope : Scope) (_ : Cp) (d a : Opnd)
    (ofs : BitVec 28) (b : Opnd) (s : State) : Host.Outcome State Fault Refusal :=
  .next (s.atomWord h (if ty = .f64 then 8 else 4) (fun _ _ => .flt ty op) (fun x l => x.srcF ty.ty b l) ord scope
    (if nr then none else some d) a ofs b)

/-- RED (09 R225, R226). -/
def execRed (h : Hdr) (w64 : Bool) (op : AOp) (ord : Ord) (scope : Scope) (_ : Cp) (a : Opnd) (ofs : BitVec 28)
    (b : Opnd) (s : State) : Host.Outcome State Fault Refusal :=
  .next (s.atomWord h (if w64 then 8 else 4) (fun _ _ => .int op) (fun x l => x.srcI (if w64 then 64 else 32) b l) ord scope none a ofs b)

/-! ## Fences, range maintenance and the clocks -/

/-- FENCE (09 R229, 13 R334, R335, R339). A copy that a fault has stopped does not count as one in flight: `.ASYNC` neither waits for
its unanswered writes nor takes their times, a DESIGN CHOICE (notes/assumptions/130.md). -/
def execFence (h : Hdr) (scope : Scope) (async : Bool) (s : State) : Host.Outcome State Fault Refusal :=
  .next (s.withCtx h fun x =>
    if x.act = 0 then s.retire x h
    else s.commitGate x true fun s x =>
      s.fenceGate x (some scope) fun s x =>
        if async && x.c.copies.any (fun k => k.grp == x.iss.who.grp && !k.stopped) then s.headWait x 1
        else
          let s := if async then (s.raiseClocks x.iss.who.crew x.g.copyWt x.g.copyWt) else s
          s.retire (s.again x) h)

/-- The bytes of a lane's range, rounded out to words (09 R230). -/
def Ctx.range (x : Ctx) (a : Opnd) (ofs : BitVec 28) (b : Opnd) (l : Nat) : Nat × Nat :=
  let lo := x.addr (.o a ofs) l
  let n := (x.src b l).toNat % 2 ^ 32
  if n = 0 then (lo, lo) else (lo / 16 * 16, (lo + n + 15) / 16 * 16)

/-- The words of a block in a range of addresses. -/
def Blk.inRange (b : Blk) (asid lo hi : Nat) : Mask :=
  if b.asid == asid || b.asid == 0 then
    Mask.ofFn fun w => decide (b.first ≤ w) && decide (w ≤ b.last) && decide (lo ≤ b.span * 512 + 16 * w) &&
      decide (b.span * 512 + 16 * w < hi)
  else 0

/-- Write the home's newer words of a range back; those of a host page stay dirty while the Zenvex Link is down. -/
def State.flushRange (s : State) (asid lo hi : Nat) : State :=
  let go (b : Blk) : Mask := if s.zshut && b.ap == .host then 0 else b.dirty &&& b.inRange asid lo hi
  { s.slices.foldl (fun s e => e.2.home.foldl (fun s b => s.writeBack { b with dirty := go b }) s) s with
    slices := s.slices.map fun e => (e.1, { e.2 with home := e.2.home.map fun b => { b with dirty := b.dirty &&& ~~~go b } }) }

/-- Drop every L2 block that holds a word of a range, the home blocks after their newer words are written back; the sets of
dropped home blocks keep their LE (12 R309). A block with newer words of a host page stays while the Zenvex Link is down. -/
def State.dropRange (s : State) (asid lo hi : Nat) : State :=
  let go (b : Blk) : Bool := b.inRange asid lo hi != 0 && !s.linkKeeps b
  let s := s.dropHome go
  { s with slices := s.slices.map fun e => (e.1, { e.2 with loc := e.2.loc.filter fun b => b.inRange asid lo hi == 0 }) }

/-- A fill whose request left the core before an INVAL of its words is not installed (12 R309): not in L1, nor where `wide` in a
local copy or at the home. `glob` says of which addresses under which ASIDs the page is global. -/
def noInstall (glob : Nat → Nat → Bool) (core asid lo hi : Nat) (wide : Bool) : Instr → Instr
  | .loadResultReturn m =>
    if m.req.core = core ∧ m.fill.any (fun f => (f.asid == asid || f.asid == 0) &&
      decide (lo < f.span * 512 + 16 * f.last + 16) && decide (f.span * 512 + 16 * f.first < hi))
    then .loadResultReturn { m with fill := none } else .loadResultReturn m
  | .loadRequestAtHome r =>
    if r.core = core ∧ (r.asid = asid ∨ glob r.asid r.va) ∧ lo < r.va / 512 * 512 + 16 * r.last + 16 ∧ r.va / 512 * 512 + 16 * r.first < hi
    then .loadRequestAtHome { r with cp := if wide || r.cp == .home then .home else .na, late := r.late || wide } else .loadRequestAtHome r
  | .storePerformedAtHome m =>
    let e := m.ext.getD (wordOf m.va, wordOf m.va)
    if wide ∧ m.core = core ∧ (m.asid = asid ∨ glob m.asid m.va) ∧ lo < m.va / 512 * 512 + 16 * e.2 + 16 ∧ m.va / 512 * 512 + 16 * e.1 < hi
    then .storePerformedAtHome { m with late := true } else .storePerformedAtHome m
  | .atomicAtHome m =>
    if wide ∧ m.core = core ∧ (m.asid = asid ∨ glob m.asid m.va) ∧ lo < m.va / 16 * 16 + 16 ∧ m.va / 16 * 16 < hi
    then .atomicAtHome { m with late := true } else .atomicAtHome m
  | .homeFillReturn m =>
    let meets : Bool := m.copy.any fun f => (f.asid == asid || f.asid == 0) &&
      decide (lo < f.span * 512 + 16 * f.last + 16) && decide (f.span * 512 + 16 * f.first < hi)
    match m.renewed with
    | some r =>   -- it serves its load; where `wide`, it leaves the local copy's lease as it is
      if m.core = core ∧ meets then .homeFillReturn { m with
        renewed := some { r with cp := if wide then .home else .na }
        copy := if wide then m.copy.map fun f => { f with le := 0 } else m.copy } else .homeFillReturn m
    | none =>
    if wide ∧ m.core = core ∧ meets
    then .homeFillReturn { m with first := 32, last := 32 }   -- no word of it is asked for any more
    else if wide ∧ m.core = core ∧ m.copy = none ∧ (m.asid = asid ∨ glob m.asid m.va) ∧
      lo < m.va / 512 * 512 + 16 * m.last + 16 ∧ m.va / 512 * 512 + 16 * m.first < hi
    then .homeFillReturn { m with serve := 1 } else .homeFillReturn m
  | i => i

/-- Drop the L1 blocks of a core that hold a word of a range. -/
def State.invalL1 (s : State) (core asid lo hi : Nat) (wide : Bool) : State :=
  (s.updCore core fun co => { co with l1 := co.l1.filter fun b => b.inRange asid lo hi == 0 }).mapReqs (noInstall s.isGlobal core asid lo hi wide)

/-- Does a range hold newer words of host memory at their home? -/
def State.hostDirty (s : State) (asid : Nat) (r : Nat × Nat) : Bool := s.slices.any fun (e : Nat × Slice) =>
  e.2.home.any fun b => b.ap == .host && b.dirty &&& b.inRange asid r.1 r.2 != 0

/-- Does a range hold words at a slice that hands its state over (24 R513)? -/
def State.rangeMoves (s : State) (asid : Nat) (r : Nat × Nat) : Bool := s.slices.any fun (e : Nat × Slice) =>
  s.sliceMoves e.1 && (e.2.home ++ e.2.loc).any fun b => b.inRange asid r.1 r.2 != 0

/-- FLUSH and INVAL before their ranges: the commit of held entries, rights, the wait for acknowledgements, and the wait for a Zenvex
Link that retrains and that their words are to cross (23 R501, R506) or for a slice that hands its state over (24 R513). A lane of length 0
names nothing, so its address is checked for neither form nor rights: a DESIGN CHOICE (notes/assumptions/112.md). -/
def State.rangeWord (s : State) (h : Hdr) (a : Opnd) (ofs : BitVec 28) (b : Opnd) (f : Ctx → Nat × Nat → State → State) :
    State :=
  s.withCtx h fun x =>
    s.checked x [(1, a), (2, b)] false fun _ =>
      let as := (x.accesses (.o a ofs) 1 .load).filter fun q => (x.src b q.lane).toNat % 2 ^ 32 != 0
      s.lanesGate x 0x11 (BitVec.ofNat 64 (3 * 2 ^ 60)) as (Access.fails fun q => decide (2 ^ 51 ≤ q.va)) fun _ =>
        if x.act = 0 then s.retire x h
        else s.commitGate x true fun s x =>
          s.attrGate x as fun _ =>
            if x.g.sbCommitted ≠ 0 then s.headWait x 5
            else if (s.zretrains && x.act.lanes.any fun l => s.hostDirty x.c.asid (x.range a ofs b l)) ||
                x.act.lanes.any fun l => s.rangeMoves x.c.asid (x.range a ofs b l) then s.waitRetry x
            else
              let s := x.act.lanes.foldl (fun s l => f x (x.range a ofs b l) s) s
              s.retire (s.again x) h

/-- FLUSH (09 R230). -/
def execFlush (h : Hdr) (a : Opnd) (ofs : BitVec 28) (b : Opnd) (s : State) : Host.Outcome State Fault Refusal :=
  .next (s.rangeWord h a ofs b fun x r s => s.flushRange x.c.asid r.1 r.2)

/-- INVAL (09 R230). -/
def execInval (h : Hdr) (scope : Scope) (a : Opnd) (ofs : BitVec 28) (b : Opnd) (s : State) :
    Host.Outcome State Fault Refusal :=
  .next (s.rangeWord h a ofs b fun x r s =>
    let wide := decide (4 ≤ scope.code.toNat)
    let s := s.invalL1 x.c.core x.c.asid r.1 r.2 wide
    if wide then s.dropRange x.c.asid r.1 r.2 else s)

/-- PREF (09 R231): dropped on any fault condition and on peer, multicast and window pages, those that its range reaches among
them. It asks L2 for all its words without a lookup in L1, so that words held there under a lease are asked for again: a DESIGN CHOICE
(notes/assumptions/127.md). -/
def execPref (h : Hdr) (cp : Cp) (a : Opnd) (ofs : BitVec 28) (b : Opnd) (s : State) :
    Host.Outcome State Fault Refusal :=
  .next (s.withCtx h fun x =>
    s.checked x [(1, a), (2, b)] false fun _ =>
      let co := s.core x.c.core
      let as := x.accesses (.o a ofs) 1 .load
      let need := (as.filter fun q => lookAttr co x.g x.c.asid .load q.va == .probe).map fun q => (Acc.load, pageOf q.va)
      if !need.isEmpty then s.probe x.iss.who x.c.core x.c.asid need
      else
        let s := as.foldl (fun s q =>
          match lookAttr co x.g x.c.asid .load q.va with
          | .ok t =>
            if t.ap = .peer ∨ t.ap = .mcast ∨ s.windowAt x.c.asid q.va t then s
            else
              let r := x.range a ofs b q.lane
              let spans := if r.2 ≤ r.1 then [(q.va, 0, 0)]
                else (List.range ((r.2 - 1) / 512 + 1 - r.1 / 512)).map fun k =>
                  let base := (r.1 / 512 + k) * 512
                  let f := if k = 0 then r.1 % 512 / 16 else 0
                  let e := if (r.2 - 1) / 512 = r.1 / 512 + k then (r.2 - 1) % 512 / 16 else 31
                  (base + 16 * f, f, e)
              let may (p : Nat × Nat × Nat) : Bool := match s.peek x.c.asid p.1 with
                | some y => y.attr.r && !y.beyond && y.attr.ap != .peer && y.attr.ap != .mcast && !inWindow y.attr.ap y.pa
                | none => false
              (spans.filter may).foldl (fun s p =>
                let (f, e) := if r.2 ≤ r.1 then extent co h.e x.iss.pc.toNat q.va (wordOf q.va) (wordOf q.va) else (p.2.1, p.2.2)
                s.send (.loadRequestAtHome {
                  origin := .none, core := x.c.core, vf := x.c.vf, asid := x.c.asid, va := p.1, n := 1, lclk := x.c.lclk
                  len := s.leaseLen t.ok, first := f, last := e, pc := x.iss.pc.toNat, cp := cp, ldc := false
                  e0 := h.e == 0 && decide (r.2 ≤ r.1), miss := wordOf q.va, renew := false, pref := true, atLocal := true
                  pext := (f, e) })) s
          | _ => s) s
        s.retire (s.again x) h)

/-- RENEW (09 R232). -/
def execRenew (h : Hdr) (a : Opnd) (ofs : BitVec 28) (s : State) : Host.Outcome State Fault Refusal :=
  .next (s.withCtx h fun x =>
    s.checked x [(1, a)] false fun _ =>
      let as := x.accesses (.o a ofs) 1 .load
      s.lanesGate x 0x11 (BitVec.ofNat 64 (3 * 2 ^ 60)) as (Access.fails fun q => decide (2 ^ 51 ≤ q.va)) fun _ =>
        s.attrGate x as fun _ =>
          let go := as.filter fun q => let t := x.attr s q.va
            !(t.ap == .peer || t.ap == .mcast || s.windowAt x.c.asid q.va t)
          let (id, s) := s.newTag
          let s := if go.isEmpty then s else s.updGroup x.iss.who fun g =>
            { g with reds := g.reds ++ [(id, Mask.ofFn fun l => go.any fun q => q.lane == l)] }
          let s := go.foldl (fun s q => s.send (.loadRequestAtHome {
            origin := .group x.iss.who id q.lane, core := x.c.core, vf := x.c.vf, asid := x.c.asid, va := q.va, n := 1
            lclk := x.c.lclk, len := s.leaseLen (x.attr s q.va).ok, first := wordOf q.va, last := wordOf q.va
            pc := x.iss.pc.toNat, cp := .dflt, ldc := false, e0 := false, renew := true, pref := false, atLocal := true })) s
          s.retire (s.again x) h)

/-- TSADV (09 R233). -/
def execTsadv (h : Hdr) (l sc : Bool) (a : Opnd) (s : State) : Host.Outcome State Fault Refusal :=
  .next (s.withCtx h fun x =>
    s.checked x [(1, a)] false fun _ =>
      let n := if x.act = 0 then 0 else (x.scalar a).toNat % 2 ^ 32
      let s := s.updCrew x.iss.who.crew fun c =>
        { c with lclk := if l then c.lclk + n else c.lclk, sclk := if sc then c.sclk + n else c.sclk }
      s.retire (s.again x) h)

end Sys2Proof.Machine
end

