-- ==== Sys2Proof/Machine/Control.lean ====
section
/-! DEFINITION. The control family (07 R153 to R163), LPW (08 R209), and what follows the end of a group (02 R45, R46,
03 R67, 10 R264, 11 R277, R282). -/

namespace Sys2Proof.Machine

/-! ## Barriers and the end of a group -/

/-- Make both plane descriptors empty and unpin their tiles (11 R277). -/
def Crew.dropPlanes (c : Crew) : Crew :=
  let a := fld c.mprog 0 7
  let b := fld c.mprog 13 7
  let c := { c with mprog := BitVec.ofNat 64 (c.mprog.toNat / 2 ^ 26 * 2 ^ 26) }
  (c.undrain a).undrain b

/-- An arm that nothing has matched is cancelled (02 R46). -/
def Crew.cancelArms (c : Crew) : Crew :=
  { c with tiles := c.tiles.map fun t =>
      if t.st = .filling ∧ t.armed ∧ t.fills = 0 then { t with st := .empty, armed := false } else t }

/-- A crew whose every group is finished closes: its planes are dropped, its held entries commit, an arm that nothing
matched is cancelled (02 R46, 11 R277). -/
def State.crewClosing (s : State) (crew : Nat) : State :=
  match s.crew? crew with
  | none => s
  | some c =>
    if c.st == .running && c.groups.all Group.finished then
      let s := s.updCrew crew fun c => { c.dropPlanes.cancelArms with st := .closing }
      (List.range c.groups.length).foldl (fun s g => s.commitHeld { crew := crew, grp := g }) s
    else s

/-- A group that has left its handler counts again at the barriers that it has arrived at (20 R451). -/
def Crew.countsAgain (c : Crew) (grp : Nat) : Crew :=
  (List.range c.bars.length).foldl (fun c k => if (c.bars.getD k {}).arr.getLsbD grp then c.barCheck k false else c) c

/-- What follows where lanes of a group have exited: the handler exit rule, by which no result of the handler reaches a register of the
program that it has exchanged, FSR among them (21 R462, notes/assumptions/131.md), the barriers that a finished group completes,
the abandonment of its interrupted matrix instruction, the closing of its crew. -/
def State.lanesGone (s : State) (w : Who) : State :=
  let gone : Bool := (s.group? w).any Group.handlerGone
  let s := if gone then (s.updGroup w fun g => { g.handlerExit with outs := (g.outs.filter fun o => !o.waits.any shadowed).map Out.mute }).updCrew w.crew (·.countsAgain w.grp) else s
  match s.group? w with
  | none => s
  | some g =>
    if !g.finished then s
    else
      let s := s.updCrew w.crew fun c =>
        let c := c.finishBars
        if c.ownMat w.grp then c.matAbandon else c
      s.crewClosing w.crew

/-- Lanes exit: in LP, and in the snapshot outside handler mode (07 R158, 20 R451). -/
def Group.exitLanes (g : Group) (m : Mask) : Group :=
  let g := g.mapLp m fun _ e => { e with st := .exited }
  if g.handler then g
  else { g with snap := m.lanes.foldl (fun t l => sset Lp.none t l { sget Lp.none t l with st := .exited }) g.snap }

/-! ## Targets -/

/-- A target that a lane cannot take (03 R57). -/
def badTarget (t : Word) : Bool := decide (2 ^ 48 ≤ t.toNat) || t.toNat % 4 != 0

/-- Check the targets of the active lanes; cause 0x15 names the failing lanes (07 R154). -/
def State.targetGate (s : State) (x : Ctx) (t : Nat → Word) (k : Unit → State) : State :=
  let bad := Mask.ofFn fun l => x.act.has l && badTarget (t l)
  match bad.low with
  | none => k ()
  | some l => s.trapIssue x 0x15 bad 0 (t l)

/-- Check the call depth of the active lanes: cause 0x07 (03 R68). -/
def State.depthGate (s : State) (x : Ctx) (limit : BitVec 12) (k : Unit → State) : State :=
  let bad := Mask.ofFn fun l => x.act.has l && (x.g.lpOf l).depth == limit
  if bad = 0 then k () else s.trapIssue x 0x07 bad (bad.setWidth 64)

/-- Set the PC of the active lanes, move their depth, advance the others, and write the fall-through address where the word
names a register for it; the address is modulo 2^48, a DESIGN CHOICE (notes/assumptions/87.md). -/
def State.jump (s : State) (x : Ctx) (h : Hdr) (d : Option Opnd) (t : Nat → Word) (depth : BitVec 12) : State :=
  (s.updGroup x.iss.who fun g =>
    let g := match d with
      | some o => g.wrDst x.act o (fun _ => (x.iss.pc + 12).setWidth 64) fun _ => false
      | none => g
    let g := g.mapLp x.act fun l e => { e with pc := (t l).setWidth 48, depth := e.depth + depth }
    g.advance x.off x.iss.len).issued x h x.act

/-- The target of BRA and CALL (07 R154). -/
def relTarget (pc : Pc) (ofs : BitVec 32) : Word := pc.setWidth 64 + ofs.signExtend 64

/-! ## The words -/

/-- NOP (07 R157). -/
def execNop (h : Hdr) (s : State) : Host.Outcome State Fault Refusal := .next (s.withCtx h fun x => s.retire x h)

/-- JOIN (07 R157). -/
def execJoin (h : Hdr) (s : State) : Host.Outcome State Fault Refusal := .next (s.withCtx h fun x => s.retire x h)

/-- YIELD acts as a NOP whose Y bit is 1 (07 R157). -/
def execYield (h : Hdr) (s : State) : Host.Outcome State Fault Refusal :=
  .next (s.withCtx h fun x => s.retire x { h with y := true })

/-- BRA (07 R154). -/
def execBra (h : Hdr) (ofs : BitVec 32) (s : State) : Host.Outcome State Fault Refusal :=
  .next (s.withCtx h fun x =>
    s.targetGate x (fun _ => relTarget x.iss.pc ofs) fun _ => s.jump x h none (fun _ => relTarget x.iss.pc ofs) 0)

/-- BRX (07 R154). -/
def execBrx (h : Hdr) (a : Opnd) (s : State) : Host.Outcome State Fault Refusal :=
  .next (s.withCtx h fun x =>
    s.checked x [(1, a)] false fun _ =>
      s.targetGate x (x.src a) fun _ => s.jump x h none (x.src a) 0)

/-- CALL (07 R155). -/
def execCall (h : Hdr) (d : Opnd) (ofs : BitVec 32) (s : State) : Host.Outcome State Fault Refusal :=
  .next (s.withCtx h fun x =>
    s.checked x [(0, d)] false fun _ =>
      s.depthGate x 4095 fun _ =>
        s.targetGate x (fun _ => relTarget x.iss.pc ofs) fun _ => s.jump x h (some d) (fun _ => relTarget x.iss.pc ofs) 1)

/-- CALLX (07 R155): the target is read before D is written. -/
def execCallx (h : Hdr) (d a : Opnd) (s : State) : Host.Outcome State Fault Refusal :=
  .next (s.withCtx h fun x =>
    s.checked x [(0, d), (1, a)] false fun _ =>
      s.depthGate x 4095 fun _ => s.targetGate x (x.src a) fun _ => s.jump x h (some d) (x.src a) 1)

/-- RET (07 R156). -/
def execRet (h : Hdr) (a : Opnd) (s : State) : Host.Outcome State Fault Refusal :=
  .next (s.withCtx h fun x =>
    s.checked x [(1, a)] false fun _ =>
      s.depthGate x 0 fun _ => s.targetGate x (x.src a) fun _ => s.jump x h none (x.src a) (-1))

/-- EXIT (07 R158): S and Y do not act on the active lanes. -/
def execExit (h : Hdr) (s : State) : Host.Outcome State Fault Refusal :=
  .next (s.withCtx h fun x =>
    ((s.updGroup x.iss.who fun g => (g.exitLanes x.act).advance x.off x.iss.len).issued x h 0).lanesGone x.iss.who)

/-- REGION (07 R159). -/
def execRegion (h : Hdr) (tag : BitVec 16) (s : State) : Host.Outcome State Fault Refusal :=
  .next (s.withCtx h fun x =>
    if x.act = 0 then s.retire x h
    else s.commitGate x true fun s x =>
      (s.updGroup x.iss.who fun g => { g.boundary x.act x.iss.pc x.iss.len with regionTag := tag }).retire (s.again x) h)

/-- TRAP and BRK for a cause (07 R162): the predicated-off lanes advance, the active lanes trap. -/
def State.trapWord (s : State) (h : Hdr) (cause : Nat) (code : BitVec 16) : State :=
  s.withCtx h fun x =>
    if x.act = 0 then s.retire x h
    else (s.updGroup x.iss.who fun g => g.advance x.off x.iss.len).trapIssue x cause x.act (code.setWidth 64)

/-- TRAP (07 R162). -/
def execTrap (h : Hdr) (code : BitVec 16) (s : State) : Host.Outcome State Fault Refusal :=
  .next (s.trapWord h 0x0D code)

/-- BRK (07 R162). -/
def execBrk (h : Hdr) (code : BitVec 16) (s : State) : Host.Outcome State Fault Refusal :=
  .next (s.trapWord h 0x0B code)

/-- RTT (07 R163, 20 R453): it ignores its guard and acts for the whole group, and waits for the handler's outstanding writes of the
registers that it exchanges (03 R60, notes/assumptions/131.md); outside a handler it is cause 0x01. Its hints
S and Y have no effect, for LP is the trap LP's afterwards: a DESIGN CHOICE (notes/assumptions/88.md). -/
def execRtt (h : Hdr) (skip : Bool) (s : State) : Host.Outcome State Fault Refusal :=
  .next (s.withCtx h fun x =>
    s.checked x [] true fun _ =>
      if x.g.handler && x.g.shadowPending then s.waitRetry x
      else if x.g.handler then
        let s := (s.spent { x.iss with act := x.iss.set }).updGroup x.iss.who fun g => g.rtt skip
        (s.updCrew x.iss.who.crew fun c => { c.countsAgain x.iss.who.grp with
          mskip := c.mskip || (skip && c.ownMat x.iss.who.grp) }).lanesGone x.iss.who
      else s.trapIssue x 0x01 x.iss.set (x.iss.hi.setWidth 64))

/-- The LP entry that a value stands for (03 R54): live, or exited. -/
def lpEntry (v : Word) : Lp where
  st := if fld v 60 4 = 3 then .exited else .live
  depth := BitVec.ofNat 12 (fld v 48 12)
  pc := BitVec.ofNat 48 (fld v 0 48)

/-- LPW (08 R209): cause 0x02 for another STATE, which names the whole issue set (21 R466), then cause 0x15; an LPW that writes exited acts as EXIT; with SNAP only
the snapshot entry is written, and in a handler nothing is (20 R451). -/
def execLpw (h : Hdr) (snap : Bool) (a : Opnd) (s : State) : Host.Outcome State Fault Refusal :=
  .next (s.withCtx h fun x =>
    s.checked x [(1, a)] false fun _ =>
      let v := x.src a
      let bad := Mask.ofFn fun l => x.act.has l && !(fld (v l) 60 4 == 0 || fld (v l) 60 4 == 3)
      if bad ≠ 0 then s.trapIssue x 0x02 x.iss.set (x.iss.hi.setWidth 64)
      else
        let odd := Mask.ofFn fun l => x.act.has l && fld (v l) 0 2 != 0
        match odd.low with
        | some l => s.trapIssue x 0x15 odd 0 (BitVec.ofNat 64 (fld (v l) 0 48))
        | none =>
          if snap then
            (s.updGroup x.iss.who fun g =>
              if g.handler then g
              else { g with snap := x.act.lanes.foldl (fun m l => sset Lp.none m l (lpEntry (v l))) g.snap }).retire x h
          else
            let gone := Mask.ofFn fun l => x.act.has l && fld (v l) 60 4 == 3
            ((s.updGroup x.iss.who fun g =>
              let g := g.mapLp x.act fun l _ => lpEntry (v l)
              (g.exitLanes gone).advance x.off x.iss.len).issued x h 0).lanesGone x.iss.who)

end Sys2Proof.Machine
end

