-- ==== Sys2Proof/Machine/Copies.lean ====
section
/-! DEFINITION. The tile, copy and stream words (09 R234 to R248) and the events of copies and HANDs in flight. -/

namespace Sys2Proof.Machine

/-! ## Tile words -/

/-- COPIES of a tile-table entry: copies and HANDs in flight on it (09 R235). -/
def Crew.tileCopies (c : Crew) (t : Nat) : Nat :=
  (c.copies.filter fun k => k.tile == t && (k.kind == .hand || ((k.kind == .g2t || k.kind == .t2g) && !k.runs.isEmpty))).length +
    (if (c.tile t).armed && (c.tile t).fills != 0 then 1 else 0)

/-- The entry as TSTATE reads it (09 R235). -/
def Crew.tstate (c : Crew) (t : Nat) : Word :=
  let x := c.tile t
  let own := if x.handed then x.owner else c.core
  BitVec.ofNat 64 (own * 2 ^ 32 + x.size / 512 * 2 ^ 16 +
    (if x.handed then 0 else c.tileCopies t * 2 ^ 8 + (if x.armed then 4 else 0) + x.st.code))

/-- The number of a tile operand. -/
def tileNo : Opnd → Nat
  | .tile n => n.toNat
  | _ => 0

/-- TSTATE (09 R235). -/
def execTstate (h : Hdr) (d t : Opnd) (s : State) : Host.Outcome State Fault Refusal :=
  .next (s.vexec { h := h, fs := [(0, d), (1, t)], srcs := [], d := d, arith := false } fun x _ => { d := x.c.tstate (tileNo t) })

/-- Cause 0x08 for a tile-table entry (20 R450). -/
def State.tileTrap (s : State) (x : Ctx) (t : Nat) : State := s.trapIssue x 0x08 x.act (info08 0 t (x.c.tile t))

/-- TSTATE.ARM (09 R235). -/
def execTstateArm (h : Hdr) (t b : Opnd) (s : State) : Host.Outcome State Fault Refusal :=
  .next (s.withCtx h fun x =>
    s.checked x [(1, t), (2, b)] false fun _ =>
      if x.act = 0 then s.retire x h
      else
        let e := x.c.tile (tileNo t)
        if e.st ≠ .empty ∨ e.handed then s.tileTrap x (tileNo t)
        else
          let (n, s) := s.newTag
          (s.updCrew x.iss.who.crew fun c => c.updTile (tileNo t) fun e =>
            { e with st := .filling, armed := true, key := (x.scalar b).setWidth 16, order := n }).retire x h)

/-- TREL (09 R236). -/
def execTrel (h : Hdr) (t : Opnd) (s : State) : Host.Outcome State Fault Refusal :=
  .next (s.withCtx h fun x =>
    s.checked x [(1, t)] false fun _ =>
      let e := x.c.tile (tileNo t)
      let put (f : Tile → Tile) : State := (s.updCrew x.iss.who.crew fun c => c.updTile (tileNo t) f).retire x h
      if x.act = 0 then s.retire x h
      else if e.handed then put fun e => { e with st := .empty, handed := false }
      else match e.st with
        | .empty => s.retire x h
        | .ready => put fun e => { e with st := .empty }
        | .filling => if e.armed && e.fills == 0 then put fun e => { e with st := .empty, armed := false } else s.waitRetry x
        | .draining => s.waitRetry x)

/-! ## HAND (09 R237) -/

/-- The core at a position of a core's cluster (01 R14). -/
def clusterCore (core pos : Nat) : Nat := core / 4 * 4 + pos

/-- Copies and HANDs in flight on a core: at most 128 (09 R238). -/
def State.copiesOn (s : State) (core : Nat) : Nat :=
  ((s.crews.filter fun c => c.core == core && c.moves).map fun c => c.copies.length).sum

/-- An armed entry that a HAND may match. -/
structure Arm where
  crew : Nat
  tile : Nat
  order : Nat
  deriving DecidableEq, Repr

/-- The armed entries of a core that match. -/
def State.arms (s : State) (core vf size : Nat) (key : BitVec 16) : List Arm :=
  ((s.crews.filter fun c => c.core == core && c.vf == vf && c.runs).map fun c =>
    (numbered c.tiles).filterMap fun p =>
      if p.2.st = .filling ∧ p.2.armed ∧ p.2.fills = 0 ∧ p.2.key = key ∧ p.2.size = size then
        some { crew := c.id, tile := p.1, order := p.2.order }
      else none).flatten

/-- HAND (09 R237). -/
def execHand (h : Hdr) (p t b : Opnd) (s : State) : Host.Outcome State Fault Refusal :=
  .next (s.withCtx h fun x =>
    s.checked x [(0, p), (1, t), (2, b)] false fun _ =>
      if x.act = 0 then s.retire x h
      else
        let n := tileNo t
        let e := x.c.tile n
        if e.gone then s.tileTrap x n
        else if e.st ≠ .ready then s.waitRetry x
        else
          let v := x.scalar b
          let put (s : State) (m : Mask) : State :=
            ((s.updGroup x.iss.who fun g => g.wrDst x.act p (fun _ => 0) fun l => m.has l).retire x h)
          match (lsort Arm.order (s.arms (clusterCore x.c.core (fld v 0 2)) x.c.vf e.size (v.extractLsb' 16 16))).head? with
          | none => put s 0
          | some a =>
            if 128 ≤ s.copiesOn x.c.core then s.waitRetry x
            else
              let (id, s) := s.newTag
              let k : Copy := {
                id := id, kind := .hand, grp := x.iss.who.grp, pc := x.iss.pc.toNat, cp := .dflt, tile := n, runs := []
                toCrew := a.crew, toTile := a.tile, posting := true
                data := x.c.scratch.read (x.c.tileBase n) e.size }
              let s := s.updCrew x.iss.who.crew fun c =>
                { c.updTile n (fun e => { e with st := .draining, reads := e.reads + 1 }) with copies := c.copies ++ [k] }
              let s := s.updCrew a.crew fun c => c.updTile a.tile fun e => { e with fills := e.fills + 1 }
              put (s.send (.handTransferComplete x.iss.who.crew id)) x.act)

/-- HAND_TRANSFER_COMPLETE: the contents are in the receiver's tile, and the giver's entry is handed away. With the receiver's crew gone
the giver's entry becomes EMPTY and stays its own; with the giver's gone nothing arrives: DESIGN CHOICES (notes/assumptions/139.md). -/
def execHandTransferComplete (crew copy : Nat) (s : State) : Host.Outcome State Fault Refusal :=
  .next (match s.copy? crew copy, s.crew? ((s.copy? crew copy).map (·.toCrew) |>.getD 0) with
    | some k, some r =>
      let s := s.updCrew r.id fun c =>
        (c.wrScratch (c.tileBase k.toTile) k.data).updTile k.toTile fun e =>
          { e with st := .ready, armed := false, fills := e.fills - 1 }
      s.updCrew crew fun c =>
        { c.updTile k.tile (fun e => { e with st := .empty, handed := true, owner := r.core, reads := e.reads - 1 }) with
          copies := c.copies.filter fun k => k.id != copy }
    | some k, none => s.updCrew crew fun c =>
        { c.updTile k.tile (fun e => { e with st := .empty, reads := e.reads - 1 }) with
          copies := c.copies.filter fun k => k.id != copy }
    | none, _ => s)

/-! ## The start of a copy (09 R238 to R242) -/

/-- What a copy word asks for: its rows, as offsets in the tile and addresses outside it, the end of its tile extent with
the operand field that names the offset, and the completion word of COPY.G2G. -/
structure Plan where
  kind : CopyKind
  tile : Nat
  runs : List Run
  tileEnd : Nat
  field : Nat × Opnd
  word : Nat := 0
  lanes : List Nat := []             -- the lane of each row of a COPYS

/-- The sides of a copy that are global: what it reads and what it writes there. -/
def Plan.globals (p : Plan) : List (Nat × Nat × Acc) :=
  (p.runs.map fun r => match p.kind with
    | .g2t => [(r.src, r.n, Acc.copyRead)]
    | .t2g => [(r.dst, r.n, Acc.copyWrite)]
    | _ => [(r.src, r.n, Acc.copyRead), (r.dst, r.n, Acc.copyWrite)]).flatten.filter fun r => r.2.1 != 0

/-- The first bytes of the pages that a run touches. -/
def runPages (va n : Nat) : List Nat :=
  if n = 0 then []
  else va :: (List.range ((va + n - 1) / 2 ^ 15 - va / 2 ^ 15)).map fun k => (va / 2 ^ 15 + k + 1) * 2 ^ 15

/-- Is a destination the whole of what a tagged message may be (16 R405)? -/
def State.isMsg (s : State) (asid : Nat) (kind : CopyKind) (runs : List Run) : Bool :=
  kind == .g2g && runs.any fun r =>
    match s.peek asid r.dst with
    | some x => (s.msgUnit asid r.dst x.attr).isSome && x.pa % 2 ^ 15 == 0 && decide (r.n ≤ 2 ^ 15)
    | none => false

/-- The first byte of a global run whose form a copy may not have: cause 0x11 of kind 3 (09 R211, 16 R405, 20 R450). -/
def State.copyFormBad (s : State) (asid : Nat) (msg : Bool) (r : Nat × Nat × Acc) : Option Nat :=
  (runPages r.1 r.2.1).find? fun va =>
    decide (2 ^ 51 ≤ va) || (match s.peek asid va with
      | none => false
      | some x => (x.attr.ap == .mcast && (r.2.2 == .copyRead || (s.torus && (s.reg 0x300).getLsbD 1))) ||
          ((s.msgUnit asid va x.attr).isSome && !(msg && r.2.2 == .copyWrite)) || inWindow x.attr.ap x.pa)

/-- The first byte of a global run whose far end cannot be reached: cause 0x11 of kind 1 (16 R397). -/
def State.copyFarBad (s : State) (asid : Nat) (r : Nat × Nat × Acc) : Option Nat :=
  ((segPieces r.1 r.2.1).map (·.1)).find? (s.farByte asid)

/-- The watched bytes of a run: the lowest register that matches, and the first byte matched (22 R489). -/
def copyWatch (co : Core) (r : Nat × Nat × Acc) : Option (Nat × Nat × Bool) :=
  let wr := r.2.2 == .copyWrite
  (watchHit co false (!wr) wr r.1 r.2.1).map fun k =>
    let los := (List.range 4).filterMap fun k =>
      let w := sget 0 co.watch k
      if (watchHit { co with watch := [(k, w)] } false (!wr) wr r.1 r.2.1).isSome then
        let size := 2 ^ ((w.toNat >>> 56) % 16 + 3)
        some (max r.1 (w.toNat % 2 ^ 51 / size * size))
      else none
    (k, los.foldl min (los.headD r.1), wr)

/-- The lanes that meet a condition on the copy's runs: every active lane, or for COPYS the lanes of their rows. -/
def Plan.lanesOf (p : Plan) (x : Ctx) (bad : Nat × Nat × Acc → Bool) : Mask :=
  if p.lanes.isEmpty then x.act
  else Mask.ofFn fun l => (p.lanes.zip p.globals).any fun q => q.1 == l && bad q.2

/-- The copy's runs of some lanes: for COPYS each lane's row, else all of them where there is a lane. -/
def Plan.runsOf (p : Plan) (m : Mask) : List (Nat × Nat × Acc) :=
  if p.lanes.isEmpty then (if m = 0 then [] else p.globals)
  else ((p.lanes.zip p.globals).filter fun q => m.has q.1).map (·.2)

/-- The copy begins: its entry, its tile's state (09 R240), its first chunk. -/
def State.copyBegin (s : State) (x : Ctx) (h : Hdr) (cp : Cp) (p : Plan) (msg : Bool) : State :=
  let (id, s) := s.newTag
  let base := x.c.tileBase p.tile
  let rows := (p.runs.filter fun r => r.n != 0).map fun r => match p.kind with
    | .g2t => { r with dst := base + r.dst }
    | .t2g => { r with src := base + r.src }
    | _ => r
  let k : Copy := {
    id := id, kind := p.kind, grp := x.iss.who.grp, pc := x.iss.pc.toNat, cp := cp, tile := p.tile, runs := rows
    word := p.word, lclk := x.c.lclk, sclk := x.c.sclk, msg := msg
    mdst := (p.runs.map (·.dst)).headD 0 }
  let s := s.updCrew x.iss.who.crew fun c =>
    let c := { c with copies := c.copies ++ [k] }
    match p.kind with
    | .g2t => c.updTile p.tile fun t => { t with st := .filling, fills := t.fills + 1 }
    | .t2g => c.updTile p.tile fun t => { t with st := .draining, reads := t.reads + 1 }
    | _ => c
  let s := if p.kind = .g2g then s.updGroup x.iss.who fun g => g.boundary x.act x.iss.pc x.iss.len else s
  (s.send (.copyChunkComplete x.iss.who.crew id)).retire (s.again x) h

/-- The tile's state at the issue of a copy: cause 0x08, or a wait (09 R240). -/
def copyTile (k : CopyKind) (t : Tile) : Bool × Bool :=
  match k with
  | .g2t => (t.handed || t.armed, t.st == .draining)
  | .t2g => (t.gone || t.armed, t.st == .filling)
  | _ => (false, false)

/-- COPY, COPYT and COPYS (09 R238 to R242). -/
def State.copyWord (s : State) (h : Hdr) (fs : List (Nat × Opnd)) (cp : Cp) (plan : Ctx → Plan) : State :=
  s.withCtx h fun x =>
    s.checked x fs false fun _ =>
      if x.off ≠ 0 then s.trapIssue x 0x05 x.iss.set (x.off.setWidth 64)
      else
        let p := plan x
        let t := x.c.tile p.tile
        if (copyTile p.kind t).1 then s.tileTrap x p.tile
        else if p.runs.all (fun r => r.n == 0) then s.retire x h
        else if p.kind ≠ .g2g ∧ t.size < p.tileEnd then s.trapIssue x 0x03 x.act (info03 p.field)
        else
          let words := x.act.lanes.map fun l => ({ lane := l, va := p.word, n := 8, acc := .atomic } : Access)
          let words := if p.kind = .g2g then words else []
          let msg := s.isMsg x.c.asid p.kind p.runs
          let badForm (r : Nat × Nat × Acc) : Bool := (s.copyFormBad x.c.asid msg r).isSome
          s.lanesGate x 0x14 0 words (Access.fails fun a => a.va % 8 != 0) fun _ =>
            match p.globals.findSome? (s.copyFormBad x.c.asid msg) with
            | some va => s.trapIssue x 0x11 (p.lanesOf x badForm) (BitVec.ofNat 64 (3 * 2 ^ 60)) (BitVec.ofNat 64 va)
            | none =>
              s.lanesGate x 0x11 (BitVec.ofNat 64 (3 * 2 ^ 60)) words (s.formBad x.c.asid false false) fun _ =>
                let co := s.core x.c.core
                let seen := Mask.ofFn fun l => x.act.has l && !x.g.suppressed x.iss.pc l
                let hit := p.lanesOf x (fun r => (copyWatch co r).isSome) &&& seen
                let hits := if x.g.handler then [] else (p.runsOf seen).filterMap (copyWatch co)
                match hits.head?, hits.find? (fun q => hits.all fun r => decide (q.1 ≤ r.1)) with
                | some (_, va, _), some (k, _, wr) =>
                  s.trapIssue x 0x0C hit (BitVec.ofNat 64 (k + if wr then 4 else 0)) (BitVec.ofNat 64 va)
                | _, _ =>
                  let far (r : Nat × Nat × Acc) : Bool := (s.copyFarBad x.c.asid r).isSome
                  s.commitGate x (p.kind == .g2g) fun s x =>
                    s.attrGate x words fun _ =>
                      match p.globals.findSome? (s.copyFarBad x.c.asid) with
                      | some va => s.trapIssue x 0x11 (p.lanesOf x far) (BitVec.ofNat 64 (2 ^ 60)) (BitVec.ofNat 64 va)
                      | none =>
                        s.lanesGate x 0x11 (BitVec.ofNat 64 (2 ^ 60)) words (s.farBad x.c.asid) fun _ =>
                          s.lanesGate x 0x12 0 words (Access.fails fun a => let t := x.attr s a.va
                              t.ap == .peer && !t.rap) fun _ =>
                            if (copyTile p.kind t).2 || decide (128 ≤ s.copiesOn x.c.core) then s.waitRetry x
                            else s.commitGate x true fun s x => s.copyBegin x h cp p msg

/-- A byte count or offset: the low 32 bits (09 R239). -/
def Ctx.low32 (x : Ctx) (o : Opnd) : Nat := (x.scalar o).toNat % 2 ^ 32

/-- COPY.G2T (09 R239). -/
def execCopyG2t (h : Hdr) (cp : Cp) (t a b c : Opnd) (s : State) : Host.Outcome State Fault Refusal :=
  .next (s.copyWord h [(0, t), (1, a), (2, b), (3, c)] cp fun x =>
    { kind := .g2t, tile := tileNo t, runs := [{ src := (x.scalar a).toNat, dst := x.low32 c, n := x.low32 b }]
      tileEnd := x.low32 c + x.low32 b, field := (3, c) })

/-- COPY.T2G (09 R239). -/
def execCopyT2g (h : Hdr) (cp : Cp) (t a b c : Opnd) (s : State) : Host.Outcome State Fault Refusal :=
  .next (s.copyWord h [(0, t), (1, a), (2, b), (3, c)] cp fun x =>
    { kind := .t2g, tile := tileNo t, runs := [{ src := x.low32 c, dst := (x.scalar a).toNat, n := x.low32 b }]
      tileEnd := x.low32 c + x.low32 b, field := (3, c) })

/-- COPY.G2G (09 R239, R243). -/
def execCopyG2g (h : Hdr) (cp : Cp) (d a b c : Opnd) (s : State) : Host.Outcome State Fault Refusal :=
  .next (s.copyWord h [(0, d), (1, a), (2, b), (3, c)] cp fun x =>
    { kind := .g2g, tile := 0, runs := [{ src := (x.scalar a).toNat, dst := (x.scalar c).toNat, n := x.low32 b }]
      tileEnd := 0, field := (3, c), word := (x.scalar d).toNat })

/-- A parameter word's value: 31 bits, or a G register's low 31 (05 R123). -/
def Ctx.param (x : Ctx) (w : PWord) : Nat :=
  match w with
  | .val n => n.toNat
  | .g n => (x.g.rdG n.toNat).toNat % 2 ^ 31

/-- The register fields of a parameter block (20 R450). -/
def Params.fields (pb : Params) : List (Nat × Opnd) :=
  [pb.w0, pb.w1, pb.w2, pb.w3].filterMap fun w => match w with
    | .g n => some (4, Opnd.g n)
    | .val _ => none

/-- The rows of COPYT (09 R241): `tile` says that word 2 is the tile's stride. -/
def Ctx.copytRuns (x : Ctx) (pb : Params) (a b : Opnd) (toTile : Bool) : List Run :=
  let rows := x.param pb.w0
  let n := x.param pb.w1
  let gs := if toTile then x.param pb.w2 else x.param pb.w3
  let ts := if toTile then x.param pb.w3 else x.param pb.w2
  let base := (x.scalar a).toNat
  (List.range rows).map fun r =>
    let g := (base + r * gs) % 2 ^ 64
    let o := x.low32 b + r * ts
    if toTile then { src := g, dst := o, n := n } else { src := o, dst := g, n := n }

/-- The end of COPYT's tile extent (09 R241). -/
def Ctx.copytEnd (x : Ctx) (pb : Params) (b : Opnd) (toTile : Bool) : Nat :=
  x.low32 b + (x.param pb.w0 - 1) * (if toTile then x.param pb.w3 else x.param pb.w2) + x.param pb.w1

/-- COPYT.G2T (09 R241). -/
def execCopytG2t (h : Hdr) (cp : Cp) (t a b : Opnd) (pb : Params) (s : State) : Host.Outcome State Fault Refusal :=
  .next (s.copyWord h ([(0, t), (1, a), (2, b)] ++ Params.fields pb) cp fun x =>
    { kind := .g2t, tile := tileNo t, runs := x.copytRuns pb a b true, tileEnd := x.copytEnd pb b true, field := (2, b) })

/-- COPYT.T2G (09 R241). -/
def execCopytT2g (h : Hdr) (cp : Cp) (t a b : Opnd) (pb : Params) (s : State) : Host.Outcome State Fault Refusal :=
  .next (s.copyWord h ([(0, t), (1, a), (2, b)] ++ Params.fields pb) cp fun x =>
    { kind := .t2g, tile := tileNo t, runs := x.copytRuns pb a b false, tileEnd := x.copytEnd pb b false, field := (2, b) })

/-- COPYS (09 R242): one row for each lane of the issue set. -/
def execCopys (h : Hdr) (cp : Cp) (t a b c : Opnd) (rb : BitVec 13) (s : State) : Host.Outcome State Fault Refusal :=
  .next (s.copyWord h [(0, t), (1, a), (2, b), (3, c)] cp fun x =>
    { kind := .g2t, tile := tileNo t
      runs := x.iss.set.lanes.map fun l =>
        { src := ((x.scalar a).toNat + (x.src b l).toNat % 2 ^ 32) % 2 ^ 64, dst := x.low32 c + l * rb.toNat, n := rb.toNat }
      tileEnd := x.low32 c + 32 * rb.toNat, field := (3, c), lanes := x.iss.set.lanes })

/-! ## Chunks (09 R244) -/

/-- The first `n` bytes of rows, in ascending order of rows and bytes, and what remains. -/
def takeRuns : Nat → List Run → List Run × List Run
  | _, [] => ([], [])
  | n, r :: t =>
    if n = 0 then ([], r :: t)
    else if n < r.n then ([{ r with n := n }], { src := r.src + n, dst := r.dst + n, n := r.n - n } :: t)
    else let q := takeRuns (n - r.n) t
      (r :: q.1, q.2)

/-- The chunk in hand of a copy: 512 bytes, or what is left of it. -/
def Copy.chunk (k : Copy) : List Run := (takeRuns 512 k.runs).1

/-- The bytes of some rows. -/
def runBytes (l : List Run) : Nat := (l.map (·.n)).sum

/-- The pieces of a run of bytes that lie in one 16-byte word each. -/
def wordPieces (va n : Nat) : List (Nat × Nat) :=
  (List.range ((va + n + 15) / 16 - va / 16)).map fun k =>
    let lo := max va ((va / 16 + k) * 16)
    (lo, min (va + n) ((va / 16 + k + 1) * 16) - lo)

/-- What stops the read of a chunk's bytes: a store of the crew on its way, bytes of a peer, or a fault. -/
inductive CRead where
  | wait
  | far (x : Xl) (va n : Nat)
  | noTrans (va : Nat)
  | bad (va cause info : Nat)

/-- Is a store of the crew to the word still on its way to the home? One that is held there keeps no copy read back (15 R385, R393). -/
def State.storing (s : State) (crew va : Nat) : Bool :=
  (s.moving ++ s.laters.filter fun i => !s.heldBefore i).any fun i => match i with
    | .storePerformedAtHome m => (match m.origin with
        | .group w _ _ => w.crew == crew && m.va / 16 == va / 16
        | _ => false)
    | _ => false

/-- The bytes from a peer address on that one segment carries: up to the next boundary of 256 bytes (16 R400). -/
def segRoom (pa : Nat) : Nat := 256 - pa % 256

/-- Read one piece at its home, as a load at the copy's LCLK (13 R339). -/
def State.copyReadPiece (s : State) (c : Crew) (k : Copy) (va n : Nat) : State × Except CRead (List Byte) :=
  if s.storing c.id va then (s, .error .wait)
  else match s.translate (ctrlOf (homeOf va)) c.asid va (·.r) false with
  | (s, .noTrans) => (s, .error (.noTrans va))
  | (s, .perm) => (s, .error (.bad va 0x11 0))
  | (s, .ok x) =>
    if x.attr.ap = .peer ∧ (s.msgUnit c.asid va x.attr).isNone then (s, .error (.far x va n))
    else if x.attr.ap = .peer ∨ x.attr.ap = .mcast ∨ inWindow x.attr.ap x.pa then (s, .error (.bad va 0x11 (3 * 2 ^ 60)))
    else if s.sliceMoves (homeOf va) || s.fillWaits c.asid va x || (s.zretrains && s.hostAt c.asid va) then (s, .error .wait)
    else
      let s := s.perfAdd c.core c.vf (if (s.homeBlk c.asid va).isSome then 0x09 else 0x0A) 1
      let s := (s.ensureHome c.asid va x false).renewDown (homeOf va) c.asid va
      match s.homeBlk c.asid va with
      | none => (s, .error (.noTrans va))
      | some b =>
        if b.poison.has (wordOf va) then (s, .error (.bad va 0x18 k.pc))
        else
          let le := max b.le (k.lclk + s.leaseLen x.attr.ok)
          let i := homeOf va
          (((s.updSlice i (·.rebase le)).setHome i c.asid va (fun b => { b with le := le })).perfAdd c.core c.vf 0x0B 1,
            .ok (b.read va n))

/-- Read pieces in order until one cannot be read: the bytes read, and what stopped the read. -/
def State.copyRead (s : State) (c : Crew) (k : Copy) : List (Nat × Nat) → State × List Byte × Option CRead
  | [] => (s, [], none)
  | p :: t => match s.copyReadPiece c k p.1 p.2 with
    | (s, .error e) => (s, [], some e)
    | (s, .ok bs) => let r := s.copyRead c k t
      (r.1, bs ++ r.2.1, r.2.2)

/-- The pieces that are left of some once their first bytes are read. -/
def piecesFrom : Nat → List (Nat × Nat) → List (Nat × Nat)
  | _, [] => []
  | n, p :: t => if p.2 ≤ n then piecesFrom (n - p.2) t else (p.1 + n, p.2 - n) :: t

/-- The bytes that follow an address in the run of a chunk that holds it. -/
def runRest (l : List Run) (va : Nat) : Nat :=
  match l.find? fun r => decide (r.src ≤ va) && decide (va < r.src + r.n) with
  | some r => r.src + r.n - va
  | none => 0

/-- A translation fault of a copy (09 R244, 20 R455): the crew is stopped to be saved and held, with the copy at its progress
point, and no group is rewound. -/
def State.copyFault (s : State) (c : Crew) (k : Copy) (va : Nat) (acc : Acc) : State :=
  match c.groups[k.grp]? with
  | none => s
  | some g =>
    ((s.updCopy c.id k.id fun k => { k with data := [] }).stopCrew c.id .held).postFlt
      (fltOf c g { crew := c.id, grp := k.grp } 0x10 (BitVec.ofNat 64 va) acc.code (BitVec.ofNat 48 k.pc))

/-- A copy goes on with its next chunk, unless its crew is being stopped: then it stands at its progress point (02 R48,
09 R244). -/
def State.nextChunk (s : State) (crew copy : Nat) : State :=
  if (s.crew? crew).any fun c => c.st == .running || c.st == .closing || c.st == .gone then s.send (.copyChunkComplete crew copy) else s

/-- The segments of a tagged message (16 R400, R405): each answered for itself. -/
def State.sendMsg (s : State) (crew copy : Nat) (x : Xl) (payload : List Byte) : List Nat → State
  | [] => s
  | ofs :: t => match s.route false (peerDev x.pa) (peerOfs x.pa + ofs) with
    | none => ((s.strandCount (peerDev x.pa) (peerOfs x.pa + ofs)).copyAsync crew copy 0x11 (((s.copy? crew copy).map (·.mdst)).getD 0) (2 ^ 60)).copyStop crew copy
    | some (pl, po) =>
      let (tag, s) := s.newTag
      ((s.updCopy crew copy fun k => { k with unacked := k.unacked + 1 }).sendSeg
        { tag := tag, dev := peerDev x.pa, ofs := peerOfs x.pa + ofs, port := po, plane := pl, sent := true, use := .msg crew copy }
        ((payload.drop ofs).take 256)).sendMsg crew copy x payload t

/-- The chunk in hand is moved: the rows that remain, and what follows when none does. -/
def State.chunkDone (s : State) (c : Crew) (k : Copy) : State :=
  let rest := (takeRuns 512 k.runs).2
  let s := s.updCopy c.id k.id fun k => { k with runs := rest, data := [] }
  if rest.isEmpty then
    let s := s.updCrew c.id fun c => c.tileDone k true
    match s.copy? c.id k.id, k.msg with
    | some k', true =>
      (match s.peek c.asid k'.mdst with
        | some x => s.sendMsg c.id k.id x k'.payload ((List.range (ceilDiv k'.payload.length 256)).map (256 * ·))
        | none => (s.copyAsync c.id k.id 0x11 k'.mdst 0).copyStop c.id k.id)
    | _, _ => s.copyCheck c.id k.id
  else s.nextChunk c.id k.id

/-- The first byte that a chunk may not write, with the outcome of its translation. -/
def State.chunkBad (s : State) (c : Crew) : List Nat → State × Option (Nat × Bool)
  | [] => (s, none)
  | va :: t => match s.translate (ctrlOf (homeOf va)) c.asid va (·.w) true with
    | (s, .ok _) => s.chunkBad c t
    | (s, .noTrans) => (s, some (va, true))
    | (s, .perm) => (s, some (va, false))

/-- The bytes of a chunk by the rows that they go to. -/
def runSplit : List Run → List Byte → List (Nat × List Byte)
  | [], _ => []
  | r :: t, bs => (r.dst, bs.take r.n) :: runSplit t (bs.drop r.n)

/-- Write the chunk's bytes to their homes, as RC stores (13 R339), in ascending row order; their numbers keep the order of
those to one word (09 R238). A destination found to lie in a message unit only now is a message if the copy's whole destination
may be one, and else cause 0x11 (16 R405). A miss at a home fills the written word alone, as a copy's read does: a DESIGN CHOICE,
for a copy word has no E hint (notes/assumptions/127.md). -/
def State.chunkWrite (s : State) (c : Crew) (k : Copy) (bs : List Byte) : State :=
  let unit (va : Nat) : Bool := (s.peek c.asid va).any fun x => (s.msgUnit c.asid va x.attr).isSome
  if k.msg then (s.updCopy c.id k.id fun k => { k with payload := k.payload ++ bs }).chunkDone c k
  else
    let rows := runSplit k.chunk bs
    match s.chunkBad c (rows.map fun r => runPages r.1 r.2.length).flatten with
    | (s, some (va, true)) => s.copyFault c k va .copyWrite
    | (s, some (va, false)) => (s.copyAsync c.id k.id 0x11 va 0).copyStop c.id k.id
    | (s, none) =>
      if k.chunks = 0 ∧ s.isMsg c.asid k.kind k.runs then
        let k := { k with msg := true, payload := bs }
        (s.updCopy c.id k.id fun _ => k).chunkDone c k
      else match (rows.map fun r => runPages r.1 r.2.length).flatten.find? unit with
      | some va => (s.copyAsync c.id k.id 0x11 va (3 * 2 ^ 60)).copyStop c.id k.id
      | none =>
      let far (va : Nat) : Bool := (s.peek c.asid va).any fun x => x.attr.fabric
      let cut (p : Nat × Nat) : List (Nat × Nat) := if far p.1 then [p]
        else ((wordPieces p.1 p.2).map fun q => cutAligned 17 q.1 q.2).flatten
      let ps : List (Nat × List Byte) := (rows.map fun r =>
        (((segPieces r.1 r.2.length).map cut).flatten).map fun q => (q.1, (r.2.drop (q.1 - r.1)).take q.2)).flatten
      let s := ps.foldl (fun s p =>
        let (n, s) := s.newTag
        s.send (.storePerformedAtHome {
          origin := .copy c.id k.id k.chunks, part := n, core := c.core, vf := c.vf, asid := c.asid, va := p.1
          bytes := p.2, sclk := k.sclk, cp := k.cp, pc := k.pc, wb := s.wbAt c.core c.asid p.1, left := n })) s
      (s.updCopy c.id k.id fun k => { k with unacked := k.unacked + ps.length, chunks := k.chunks + 1 }).chunkDone c k

/-- The bytes of a chunk's rows in the scratchpad. -/
def Crew.chunkScratch (c : Crew) (l : List Run) : List Byte := (l.map fun r => c.scratch.read r.src r.n).flatten

/-- COPY_CHUNK_COMPLETE: the next 512 bytes at most of the rows that remain are read, those of a peer's page segment by segment, in their
turn at the port (16 R403), and then written. -/
def execCopyChunkComplete (crew copy : Nat) (s : State) : Host.Outcome State Fault Refusal :=
  .next (match s.crew? crew, s.copy? crew copy with
    | some c, some k =>
      if k.stopped || !c.moves || k.runs.isEmpty then s
      else if k.kind = .t2g then s.chunkWrite c k (c.chunkScratch k.chunk)
      else
        let l := k.chunk
        let r := s.copyRead c k (piecesFrom k.data.length ((l.map fun r => wordPieces r.src r.n).flatten))
        let s := r.1.updCopy crew copy fun k => { k with data := k.data ++ r.2.1 }
        (match r.2.2 with
          | some .wait => s.send (.copyChunkComplete crew copy)
          | some (.noTrans va) => s.copyFault c k va .copyRead
          | some (.bad va cause info) => (s.copyAsync crew copy cause va info).copyStop crew copy
          | some (.far x va n) =>
            let (left, s) := s.newTag
            s.send (.loadRequestAtHome {
              origin := .copy crew copy 0, core := c.core, vf := c.vf, asid := c.asid, va := va
              n := max n (min (runRest l va) (min (segRoom x.pa) (2 ^ 15 - va % 2 ^ 15)))
              lclk := k.lclk, len := 0, first := wordOf va, last := wordOf va, pc := k.pc, cp := .home, ldc := false, e0 := false
              renew := false, pref := false, atLocal := false, left := left + 1 })
          | none =>
            let bs := k.data ++ r.2.1
            if k.kind = .g2t then
              (s.updCrew crew fun c => (runSplit l bs).foldl (fun c p => c.wrScratch p.1 p.2) c).chunkDone c k
            else s.chunkWrite c k bs)
    | _, _ => s)

/-- COPY_COMPLETE (09 R243): COPY.G2G adds 1 to its completion word first. -/
def execCopyComplete (crew copy : Nat) (s : State) : Host.Outcome State Fault Refusal :=
  .next (match s.crew? crew, s.copy? crew copy with
    | some c, some k =>
      if k.kind = .g2g ∧ !k.stopped then
        let (n, s) := (s.updCopy crew copy fun k => { k with kind := .t2g, unacked := 1, posting := false, adding := true }).newTag
        s.send (.atomicAtHome {
          origin := .copy crew copy 0, core := c.core, vf := c.vf, asid := c.asid, va := k.word, n := 8, op := .int .add
          b := 1, sclk := max k.sclk k.wt, lclk := k.lclk, len := s.leaseLen .rc, pc := k.pc, left := n
          wb := s.wbAt c.core c.asid k.word })
      else
        s.updCrew crew fun c =>
          let c := { c with copies := c.copies.filter fun k => k.id != copy }
          if k.stopped then c else c.updGroup k.grp fun g => { g with copyWt := max g.copyWt k.wt }
    | _, _ => s)

/-! ## Stream ports (09 R245 to R247) -/

/-- The number of a stream port. -/
def portNo : Opnd → Nat
  | .sp n => n.toNat
  | _ => 0

/-- SPSET (09 R245). -/
def execSpset (h : Hdr) (wr : Bool) (stride : BitVec 12) (port t b c : Opnd) (s : State) : Host.Outcome State Fault Refusal :=
  .next (s.withCtx h fun x =>
    s.checked x [(1, t), (2, b), (3, c)] false fun _ =>
      if x.act = 0 then s.retire x h
      else
        let ofs := x.low32 b
        let count := x.low32 c
        let last := ofs + (count - 1) * 8 * stride.toNat + 256
        if count ≠ 0 ∧ (ofs % 8 ≠ 0 ∨ (x.c.tile (tileNo t)).size < last) then s.trapIssue x 0x03 x.act (info03 (2, b))
        else
          let p : Port := if count = 0 then Port.none
            else { tile := tileNo t, ofs := ofs, count := count, stride := stride.toNat, wr := wr, pos := 0 }
          (s.updGroup x.iss.who fun g => { g with ports := sset Port.none g.ports (portNo port) p }).retire x h)

/-- SPGET (09 R247). -/
def execSpget (h : Hdr) (d port : Opnd) (s : State) : Host.Outcome State Fault Refusal :=
  .next (s.vexec { h := h, fs := [(0, d)], srcs := [], d := d, arith := false } fun x _ =>
    let p := x.g.port (portNo port)
    { d := BitVec.ofNat 64 (if p.count = 0 then 0 else p.count * 2 ^ 32 + p.pos) })

/-- SPRST (09 R247). -/
def execSprst (h : Hdr) (port b : Opnd) (s : State) : Host.Outcome State Fault Refusal :=
  .next (s.withCtx h fun x =>
    s.checked x [(2, b)] false fun _ =>
      if x.act = 0 then s.retire x h
      else
        let p := x.g.port (portNo port)
        let v := x.low32 b
        if p.count < v then s.trapIssue x 0x09 x.act (BitVec.ofNat 64 (portNo port + p.pos * 2 ^ 32))
        else (s.updGroup x.iss.who fun g => { g with
          ports := sset Port.none g.ports (portNo port) { p with pos := v } }).retire x h)

end Sys2Proof.Machine
end

