-- ==== Sys2Proof/Machine/Queues.lean ====
section
/-! DEFINITION. Queues at their home (14 R355 to R357, 15 R522, 23 R493 to R495), the queue, synchronisation and system
words (10), and the events that answer them. -/

namespace Sys2Proof.Machine

/-! ## The home's own writes (15 R522) -/

/-- The largest window clock: the ingress floor of every die rises (13 R324). -/
def State.raiseFloor (s : State) (wt : Nat) : State :=
  { s with floorF := (List.range 4).foldl (fun m d => sset 0 m d (max wt (sget 0 m d))) s.floorF }

/-- Write pieces of 16-byte words at their homes, at once, as parts of one access; none where a page has no translation with W. -/
def State.homeWritePieces (s : State) (asid clk va : Nat) (bs : List Byte) (access : Nat) :
    List (Nat × Nat) → Nat → Option (Nat × State)
  | [], wt => some (wt, s)
  | p :: t, wt =>
    match s.translate (ctrlOf (homeOf p.1)) asid p.1 (·.w) true with
    | (s, .ok x) =>
      let s := s.ensureHome asid p.1 x true
      (match s.homeBlk asid p.1 with
        | none => none
        | some b =>
          let (w, s) := s.storeBlk asid p.1 ((bs.drop (p.1 - va)).take p.2) clk b false access
          State.homeWritePieces s asid clk va bs access t (max wt w))
    | _ => none

/-- A write of the home itself: the greatest WT. -/
def State.homeWrite (s : State) (asid va : Nat) (bs : List Byte) (clk : Nat) : Option (Nat × State) :=
  let (id, s) := s.newTag
  s.homeWritePieces asid clk va bs (id + 1) (wordPieces va bs.length) 0

/-! ## What waits at a home (23 R501, 24 R513) -/

/-- Does an access at a home that fills its words at once wait there (23 R501, R506)? -/
def State.homeWaits (s : State) (asid va : Nat) : Bool := (s.peek asid va).any (s.fillWaits asid va)

/-- Words that are read or written at their homes at once: where one of these hands its state over (24 R513), or is to be filled and
cannot be now, the request waits. -/
def State.unlessBarred (s : State) (asid : Nat) (words : List Nat) (e : Instr) (k : State) : State :=
  s.unlessMoves (words.map homeOf) e (if words.any (s.homeWaits asid) then { s with flight := s.flight ++ [e] } else k)

/-- Does one of some words stand in a slice that hands its state over, or wait at its home? -/
def State.shutWords (s : State) (asid : Nat) (words : List Nat) : Bool :=
  (words.map homeOf).any s.sliceMoves || words.any (s.homeWaits asid)

/-- The words of a queue's window and pannier. -/
def Queue.slotWords (q : Queue) : List Nat :=
  (wordPieces q.winbase (q.wincnt * q.size) ++ wordPieces q.panbase (q.pancnt * q.size)).map (·.1)

/-- Does some slice that holds a queue, or words of it, hand its state over? -/
def State.queueMoves (s : State) (q : Queue) : Bool :=
  s.retiring.isSome && (q.home :: q.slotWords.map homeOf).any s.sliceMoves

/-- Can the home of a queue not write its slots now? -/
def State.queueShut (s : State) (q : Queue) : Bool :=
  s.queueMoves q || (s.zshut && q.slotWords.any (s.homeWaits q.asid))

/-- A request that writes slots of a queue waits while they cannot be written. -/
def State.unlessShut (s : State) (q : Queue) (e : Instr) (k : State) : State :=
  if s.queueMoves q then { s with sliceWait := s.sliceWait ++ [e] }
  else if s.queueShut q then { s with flight := s.flight ++ [e] } else k

/-! ## Finding and changing -/

/-- Change a queue. -/
def State.updQueue (s : State) (n : Nat) (f : Queue → Queue) : State :=
  { s with queues := lupdFirst (fun q => q.num == n) f s.queues }

/-- A stage by its number. -/
def State.stage? (s : State) (n : Nat) : Option Stage := s.stages.find? fun t => t.num == n

/-! ## Appends (10 R253, 14 R356, 23 R494) -/

/-- The address of a record in the window. -/
def Queue.slotVa (q : Queue) (seq : Nat) : Nat := q.winbase + seq % q.wincnt * q.size

/-- Is the window slot of a sequence number free? -/
def Queue.slotFree (q : Queue) (seq : Nat) : Bool := !(q.busy.any fun n => n % q.wincnt == seq % q.wincnt)

/-- Place a record in the pannier: the next slot in service, going out of service one that cannot be written. -/
def State.panPlace (s : State) (num asid clk : Nat) (bs : List Byte) (seq : Nat) : Nat → Nat → State × Option Nat
  | 0, _ => (s, none)
  | k + 1, pos =>
    match s.queue? num with
    | none => (s, none)
    | some q =>
      let slot := pos % q.pancnt
      if q.panBad.contains slot || (q.pan.any fun e => e.1 == slot) || (q.earlyPan.any fun e => e.1 == slot) then s.panPlace num asid clk bs seq k (pos + 1)
      else match s.homeWrite asid (q.panbase + slot * q.size) bs clk with
        | none => (s.updQueue num fun q => { q with panBad := q.panBad ++ [slot] }).panPlace num asid clk bs seq k (pos + 1)
        | some (wt, s) =>
          (s.updQueue num fun q => { q with
            pan := q.pan ++ [(slot, { seq := seq, wt := wt, at_ := s.cycle })]
            panPos := pos + 1 }, some wt)

/-- Append one record: its sequence number and time; none where there is no room, with the slots that went out of service. A
window slot that cannot be written leaves the record to the pannier: a DESIGN CHOICE, for no rule gives that case
(notes/assumptions/62.md). -/
def State.append (s : State) (num : Nat) (bs : List Byte) (clk : Nat) : State × Option (Nat × Nat) :=
  match s.queue? num with
  | none => (s, none)
  | some q =>
    let seq := q.next
    let count (s : State) : State := s.updQueue num fun q => { q with next := q.next + 1, backlog := q.backlog + 1 }
    match (if q.pan.isEmpty && q.slotFree seq then s.homeWrite q.asid (q.slotVa seq) bs clk else none) with
    | some (wt, s) => (count (s.updQueue num fun q => { q with
        win := q.win ++ [{ seq := seq, wt := wt, at_ := s.cycle }]
        busy := q.busy ++ [seq] }), some (seq, wt))
    | none => match s.panPlace num q.asid clk bs seq q.pancnt q.panPos with
      | (s, some wt) => (count s, some (seq, wt))
      | (s, none) => (s, none)

/-- The refusal of a record, in the order of 10 R254; `waits` says that a full queue makes the record wait. -/
def Queue.refusal (q : Queue) (program waits : Bool) (n : Nat) : Option Nat :=
  if program && q.role == .receive then some 4
  else if q.stopped then some 2
  else if waits then (if q.lq < n then some 3 else none)
  else if q.lq ≤ q.backlog then some 1
  else none

/-- Append the records of one queue's lanes (10 R253): each lane's result. -/
def State.appendLanes (s : State) (num clk : Nat) (waits : Bool) : List Rec → State × List (Nat × EnqRes)
  | [] => (s, [])
  | r :: t =>
    match s.queue? num with
    | none => (s, (r :: t).map fun r => (r.lane, .refused 2))
    | some q => (match q.refusal true waits 0 with
      | some n =>
        let out := s.appendLanes num clk waits t
        (out.1, (r.lane, .refused n) :: out.2)
      | none => (match s.append num r.bytes clk with
        | (s, none) => (s, (r.lane, .noRoom num) :: t.map fun r => (r.lane, .notDone))
        | (s, some (seq, _)) =>
          let out := s.appendLanes num clk waits t
          (out.1, (r.lane, .accepted seq) :: out.2)))

/-- Does a list of results hold a failure for want of room? -/
def anyNoRoom (l : List (Nat × EnqRes)) : Bool := l.any fun p => match p.2 with
  | .noRoom _ => true
  | _ => false

/-- An outside record: HENQ, an armed message, a forwarded record, a notification (13 R324, 15 R522, 23 R496). The answer
is its sequence number or its refusal. -/
def State.appendOutside (s : State) (num : Nat) (bs : List Byte) (program : Bool) : State × EnqRes :=
  match s.queue? num with
  | none => (s, .refused 2)
  | some q => (match q.refusal program false 0 with
    | some n => (s, .refused n)
    | none => (match s.append num bs (sget 0 s.floorF (q.home / 24)) with
      | (s, none) => (s, .refused 5)
      | (s, some (seq, wt)) => (s.raiseFloor wt, .accepted seq)))

/-- HSTAT of a VF as the enqueue ends (14 R358). -/
def State.hstat (s : State) (vf result reason seq : Nat) : State :=
  s.setReg (0x1_0048 + 0x100 * vf) (BitVec.ofNat 64 (result * 2 ^ 60 + reason * 2 ^ 56 + seq % 2 ^ 48))

/-- A request for a queue, where there is one, waits while its slots cannot be written. -/
def State.unlessAny (s : State) (num : Nat) (e : Instr) (k : State) : State :=
  match s.queue? num with
  | some q => s.unlessShut q e k
  | none => k

/-- QUEUE_APPEND_AT_HOME: the records of one queue. One that finds no room while no slot of the pannier is out of service is tried again:
cause 0x1B arises only once slots are (23 R494, notes/assumptions/62.md). -/
def execQueueAppendAtHome (m : Append) (s : State) : Host.Outcome State Fault Refusal :=
  .next (match m.src, m.recs with
    | _, [] => s
    | .group w waits _ sclk, r :: _ => (match s.queue? r.queue with
      | none => s.send (.queueAnswer { who := w, lanes := m.recs.map fun r => (r.lane, .refused 2), home := 0 })
      | some q =>
        s.unlessShut q (.queueAppendAtHome m) (match (if waits then q.refusal true true m.recs.length else none) with
          | some n => s.send (.queueAnswer { who := w, lanes := m.recs.map fun r => (r.lane, .refused n), home := q.home })
          | none =>
            if waits && decide (q.lq < q.backlog + m.recs.length) then { s with waitq := s.waitq ++ [m] }
            else
              let out := s.appendLanes r.queue sclk waits m.recs
              let bad := ((out.1.queue? r.queue).map (·.panBad)).getD q.panBad
              if anyNoRoom out.2 && bad.isEmpty then { s with flight := s.flight ++ [.queueAppendAtHome m] }
              else if waits && anyNoRoom out.2 then
                (s.updQueue r.queue fun q => { q with panBad := bad }).send (.queueAnswer { who := w, lanes := m.recs.map fun x => (x.lane, .noRoom r.queue), home := q.home })
              else out.1.send (.queueAnswer { who := w, lanes := out.2, home := q.home })))
    | .henq vf, r :: _ => s.unlessAny r.queue (.queueAppendAtHome m) (match s.appendOutside r.queue r.bytes true with
      | (s, .accepted seq) => s.hstat vf 0 0 seq
      | (s, .refused n) => s.hstat vf 1 n 0
      | (s, _) => s.hstat vf 1 5 0)
    | .notify c asid unit, r :: _ =>
      let told (s : State) (ok : Bool) : State := s.updCtrl c fun k => { k with counts := k.counts.map fun e =>
        if e.asid = asid ∧ e.unit = unit then { e with notified := e.notified || ok, asked := false } else e }
      if (s.queue? r.queue).any fun q => q.size != 16 then told s false
      else s.unlessAny r.queue (.queueAppendAtHome m) (match s.appendOutside r.queue r.bytes true with
      | (s, .accepted _) => told s true
      | (s, _) => told s false))

/-- The waiting appends whose queue may now take them, or is stopped, are tried again. -/
def State.wakeAppends (s : State) (num : Nat) : State :=
  { s with
    todo := s.todo ++ (s.waitq.filter fun m => m.recs.any fun r => r.queue == num).map .queueAppendAtHome
    waitq := s.waitq.filter fun m => !(m.recs.any fun r => r.queue == num) }

/-- A lane's answer as the group keeps it. -/
def EnqRes.key (r : EnqRes) : Nat :=
  match r with
  | .accepted n => 4 * n + 1
  | .refused n => 4 * n + 2
  | .noRoom n => 4 * n + 3
  | .notDone => 4

/-- QUEUE_ANSWER: the lanes' results reach the group, and its word goes on. -/
def execQueueAnswer (m : EnqAns) (s : State) : Host.Outcome State Fault Refusal :=
  .next (s.updGroup m.who fun g => { g with
    wait := .none
    answers := m.lanes.foldl (fun a p => sset 0 a p.1 (EnqRes.key p.2)) g.answers })

/-! ## The release of records (02 R46, R47, 14 R356) -/

/-- Move the oldest pannier records into the window slots that are free (14 R356, 15 R522, 23 R495). Where it is the window slot that has
no valid translation or no W, a record names that slot in the same way, and the words of it that its home holds are poisoned: a DESIGN
CHOICE (notes/assumptions/137.md). -/
def State.moveRecords (s : State) (num : Nat) : Nat → State
  | 0 => s
  | k + 1 =>
    match s.queue? num with
    | none => s
    | some q => (match q.pan with
      | [] => s
      | (slot, r) :: t =>
        if !q.slotFree r.seq then s
        else
          let from_ := q.panbase + slot * q.size
          let ps := wordPieces from_ q.size
          let rd (a : State × List Byte × Mask × Bool) (p : Nat × (Nat × Nat)) : State × List Byte × Mask × Bool :=
            match a.1.translate (ctrlOf (homeOf p.2.1)) q.asid p.2.1 (·.r) false with
            | (s, .ok x) =>
              let s := s.ensureHome q.asid p.2.1 x false
              (match s.homeBlk q.asid p.2.1 with
                | some b => (s, a.2.1 ++ b.read p.2.1 p.2.2,
                    if b.poison.has (wordOf p.2.1) then a.2.2.1 ||| Mask.one p.1 else a.2.2.1, a.2.2.2)
                | none => (s, a.2.1 ++ List.replicate p.2.2 0, a.2.2.1 ||| Mask.one p.1, true))
            | (s, _) => (s, a.2.1 ++ List.replicate p.2.2 0, a.2.2.1 ||| Mask.one p.1, true)
          let got := (numbered ps).foldl rd (s, [], (0 : Mask), false)
          let s := if got.2.2.2 then got.1.postFlt { kind := 0x20, addr := BitVec.ofNat 64 from_, asid := q.asid, die := q.home / 24 }
            else got.1
          let dst := q.slotVa r.seq
          let put := s.homeWrite q.asid dst got.2.1 r.wt
          let bad : Mask := if got.2.2.2 || put.isNone then BitVec.allOnes 32 else got.2.2.1
          let (wt, s) := put.getD (r.wt, s.postFlt { kind := 0x20, addr := BitVec.ofNat 64 dst, asid := q.asid, die := q.home / 24 })
          let s := (numbered (wordPieces dst q.size)).foldl (fun s p =>
            if bad.has p.1 then s.setHome (homeOf p.2.1) q.asid p.2.1 fun b =>
              { b with poison := b.poison ||| Mask.one (wordOf p.2.1) } else s) s
          (s.updQueue num fun q => { q with
            pan := t
            win := q.win ++ [{ r with wt := max r.wt wt }]
            busy := q.busy ++ [r.seq] }).moveRecords num k)

/-- The records of a receiving segment whose lower numbers are all exposed are exposed too (16 R410); one that arrived in
the window waits there while older ones stand in the pannier. -/
def State.exposeRecs (s : State) (num : Nat) : Nat → State
  | 0 => s
  | k + 1 =>
    match s.queue? num with
    | none => s
    | some q =>
      match q.early.find? (fun r => r.seq == q.expose), q.earlyPan.find? (fun r => r.2.seq == q.expose) with
      | some r, _ =>
        if !q.pan.isEmpty then s
        else (s.updQueue num fun q => { q with
          early := q.early.filter fun e => e.seq != r.seq
          win := q.win ++ [r]
          expose := q.expose + 1
          next := q.expose + 1 }).exposeRecs num k
      | none, some r => (s.updQueue num fun q => { q with
          earlyPan := q.earlyPan.filter fun e => e.1 != r.1
          pan := q.pan ++ [r]
          expose := q.expose + 1
          next := q.expose + 1 }).exposeRecs num k
      | none, none => s

/-- Records of a queue are exposed and move into its window, until nothing more can (14 R356, 16 R410), or its slots cannot be written
now. -/
def State.flowRecs (s : State) (num : Nat) : Nat → State
  | 0 => s
  | k + 1 => match s.queue? num with
    | none => s
    | some q => if s.queueShut q then s
      else ((s.moveRecords num q.pan.length).exposeRecs num (q.early.length + q.earlyPan.length)).flowRecs num k

/-- The claims that wait at a queue's home are tried again (14 R357). -/
def State.wakeClaims (s : State) (num : Nat) : State :=
  { s with
    todo := s.todo ++ ((s.claims.filter fun c => c.queue == num).map fun c => Instr.claimAtHome c.claim)
    claims := s.claims.filter fun c => c.queue != num }

/-- The window slots of released records are free, and what waited for them goes on. -/
def State.releaseRecs (s : State) (num : Nat) (seqs : List Nat) : State :=
  match s.queue? num with
  | none => s
  | some q =>
    let s := s.updQueue num fun q => { q with
      backlog := q.backlog - seqs.length
      busy := q.busy.filter fun n => !seqs.contains n
      lused := q.lused.filter fun p => !seqs.contains p.1 }
    ((s.flowRecs num (q.early.length + q.earlyPan.length + 1)).wakeAppends num).wakeClaims num

/-- The records of every queue whose slots could not be written go on. -/
def State.flowAll (s : State) : State :=
  s.queues.foldl (fun (s : State) q => ((s.flowRecs q.num (q.early.length + q.earlyPan.length + 1)).wakeAppends q.num).wakeClaims q.num) s

/-! ## Claims (02 R32, R33, 14 R357, 10 R260) -/

/-- The lanes that a claim fills, and for a DEQ what its crew may still take of 4,096 records. -/
def Claim.most (s : State) (c : Claim) (groups : Nat) : Nat :=
  match c.kind with
  | .launch _ _ => 32 * groups
  | .deq w _ m => min m.count (4096 - ((s.crew? w.crew).map fun c => c.recs.length).getD 4096)

/-- CLAIM_AT_HOME. The records of a DEQ belong to the crew from here on (10 R260). -/
def execClaimAtHome (m : Claim) (s : State) : Host.Outcome State Fault Refusal :=
  .next (
    let reply (s : State) (seqs : List Nat) (idx : Option Nat) (wt : Nat) : State :=
      s.send (.claimReply { claim := m, seqs := seqs, idx := idx, wt := wt })
    match s.stage? m.stage with
    | none => reply s [] none 0
    | some st => (match st.inp with
      | .range ex ey ez =>
        if st.ctr < ex * ey * ez then
          let wt := max m.sclk (st.le + 1)
          let inc (t : Stage) : Stage := { t with ctr := t.ctr + 1, wt := wt, le := wt }
          let s := { s with stages := lupdFirst (fun t => t.num == m.stage) inc s.stages }
          reply s [] (some st.ctr) wt
        else reply s [] none st.wt
      | .queue n => (match s.queue? n with
        | none => reply s [] none 0
        | some q =>
          let launch : Bool := match m.kind with
            | .launch _ _ => true
            | .deq .. => false
          let need := min (q.win.length + q.pan.length) (32 * st.shape.groups)
          if launch && decide (q.win.length < need) then { s with claims := s.claims ++ [{ claim := m, queue := n }] }
          else
            let take := q.win.take (Claim.most s m st.shape.groups)
            let s := s.updQueue n fun q => { q with win := q.win.drop take.length }
            let s := match m.kind with
              | .deq w _ _ => s.updCrew w.crew fun c => { c with recs := c.recs ++ take.map fun r => { queue := n, seq := r.seq } }
              | .launch _ _ => s
            let crew := launch && !take.isEmpty
            let inc (t : Stage) : Stage := { t with nextCrew := t.nextCrew + 1 }
            let s := if crew then { s with stages := lupdFirst (fun t => t.num == m.stage) inc s.stages } else s
            reply s (take.map (·.seq)) (if crew then some st.nextCrew else none) ((take.map (·.wt)).foldl max 0))))

/-- A DEQ's claim is answered (10 R260): lanes in ascending order take the records. -/
def State.deqBack (s : State) (m : ClaimRep) (w : Who) (out : Nat) (lanes : Mask) : State :=
  match s.stage? m.claim.stage with
  | none => lanes.lanes.foldl (fun s l => s.outBytes w out l 0 (List.replicate 24 0)) s
  | some st => (match st.inp with
    | .range .. => s
    | .queue n => (match s.queue? n with
      | none => lanes.lanes.foldl (fun s l => s.outBytes w out l 0 (List.replicate 24 0)) s
      | some q =>
        let s := if m.seqs.isEmpty then s else s.raiseClocks w.crew m.wt m.wt
        (numbered lanes.lanes).foldl (fun s p =>
          match m.seqs[p.1]? with
          | some k => s.outBytes w out p.2 0 (bytesOf (q.slotVa k) 8 ++ bytesOf k 8 ++ bytesOf 1 8)
          | none => s.outBytes w out p.2 0 (List.replicate 24 0)) s))

/-! ## The enqueue words (10 R252 to R258) -/

/-- What an enqueue word names: the record's registers or its scratchpad offset, the queue, the status, and how it acts. -/
structure EnqWord where
  h : Hdr
  p : Opnd
  a : Opnd
  q : Opnd
  st : Opnd := .absent
  scratch : Bool := false
  waits : Bool := false
  spawn : Bool := false

/-- The fields of an enqueue word. -/
def EnqWord.fs (e : EnqWord) : List (Nat × Opnd) :=
  [(0, e.p), (1, e.a), (2, e.q)] ++ (if e.st = .absent then [] else [(3, e.st)])

/-- The record of a lane for a queue (10 R252): a record in the scratchpad is the one that the word read as its gate opened (09 R234). -/
def EnqWord.bytes (e : EnqWord) (x : Ctx) (q : Queue) (l : Nat) : List Byte :=
  if e.scratch then sgetList 0 x.g.recs (256 * l) q.size
  else ((List.range (q.size / 8)).map fun k => bytesOf (x.src (e.a.plus k) l).toNat 8).flatten

/-- Do the registers of a record of some bytes pass the allocation? -/
def EnqWord.over (e : EnqWord) (x : Ctx) (size : Nat) : Bool :=
  !e.scratch && (match e.a with
    | .v n => decide (x.c.shape.vregs < n.toNat + size / 8)
    | _ => false)

/-- Is the queue a sending segment: its consumer is on another device (14 R344, 16 R407)? -/
def Queue.sends (q : Queue) : Bool := q.role == .send || q.edge.isSome

/-- The answers of the word are complete: write the statuses, and move or end the lanes (10 R255, R258, 23 R493). -/
def State.enqDone (s : State) (x : Ctx) (e : EnqWord) : State :=
  let ans (l : Nat) : Nat := sget 0 x.g.answers l
  let fin := Mask.ofFn fun l => x.act.has l && (ans l % 4 == 1 || ans l % 4 == 2)
  let bad := x.act &&& ~~~fin
  let acc := Mask.ofFn fun l => fin.has l && ans l % 4 == 1
  let x' := { x with act := fin }
  let s := s.perfAdd x.c.core x.c.vf 0x0F (fin &&& ~~~acc).count
  let s := s.updGroup x.iss.who fun g =>
    let g := g.wrDst fin e.p (fun _ => 0) fun l => acc.has l
    let g := if e.st = .absent then g
      else g.wrDst fin e.st (fun l => BitVec.ofNat 64 (if ans l % 4 = 1 then ans l / 4 else 2 ^ 63 + ans l / 4)) fun _ => false
    let gone := if e.spawn then acc else 0
    let g := g.exitLanes gone
    let g := g.advance (fin &&& ~~~gone) x.iss.len
    if bad = 0 then g.advance x.off x.iss.len else g
  if bad = 0 then
    let s := s.updGroup x.iss.who fun g => (g.boundary (if e.spawn then fin &&& ~~~acc else fin) x.iss.pc x.iss.len).portsAt fin
    let s := s.issued (s.again x') e.h (if e.spawn then fin &&& ~~~acc else fin)
    if e.spawn then s.lanesGone x.iss.who else s
  else
    let num := ((bad.lanes.map ans).find? fun a => a % 4 == 3).getD 3 / 4
    let s := s.updGroup x.iss.who fun g => (g.boundary (if e.spawn then fin &&& ~~~acc else fin) x.iss.pc x.iss.len).portsAt fin
    s.trapIssue (s.again x) 0x1B bad (BitVec.ofNat 64 num)

/-- The scratchpad records of an enqueue word are read, as its gate opens (10 R252, 09 R234). -/
def State.enqRead (s : State) (x : Ctx) (e : EnqWord) (qs : List (Nat × Queue)) : State :=
  if e.scratch then s.updGroup x.iss.who fun g => { g with recs := qs.foldl (fun (m : SMap Byte) p =>
    ssetList 0 m (256 * p.1) (x.c.scratch.read (x.src e.a p.1).toNat p.2.size)) [] }
  else s

/-- The next queue of the word, in ascending number, is asked (23 R493). A lane whose queue its graph's stop has released since the
word's check is refused as a stopped queue's is (10 R254, R270), in its number's turn. -/
def State.enqAsk (s : State) (x : Ctx) (e : EnqWord) (qs : List (Nat × Queue)) : State :=
  let left := qs.filter fun p => sget 0 x.g.answers p.1 == 0
  let failed := qs.any fun p => sget 0 x.g.answers p.1 % 4 == 3
  let n := left.foldl (fun m p => min m p.2.num) 4096
  let gone := if failed then [] else x.act.lanes.filter fun l =>
    sget 0 x.g.answers l == 0 && (!qs.any fun p => p.1 == l) && decide ((x.src e.q l).toNat % 2 ^ 12 < n)
  let s := s.updGroup x.iss.who fun g => { g with
    answers := gone.foldl (fun a l => sset 0 a l (EnqRes.key (.refused 2))) g.answers }
  let x := s.again x
  if left.isEmpty || failed then s.enqDone x e
  else
    let recs := (left.filter fun p => p.2.num == n).map fun p =>
      ({ lane := p.1, queue := n, bytes := e.bytes x p.2 p.1 } : Rec)
    let s := s.awaitAnswer x
    s.send (.queueAppendAtHome { src := .group x.iss.who e.waits e.spawn x.c.sclk, recs := recs })

/-- Cause 0x11 of kind 2: an invalid queue handle (10 R251). -/
def State.handleGate (s : State) (x : Ctx) (q : Opnd) (k : List (Nat × Queue) → State) : State :=
  let hs := x.act.lanes.map fun l => (l, s.handle? x.c.graph x.c.vf (x.src q l))
  match hs.find? fun p => p.2.isNone with
  | some (l, _) =>
    s.trapIssue x 0x11 (Mask.ofFn fun l => hs.any fun p => p.1 == l && p.2.isNone)
      (BitVec.ofNat 64 (2 * 2 ^ 60 + (x.src q l).toNat % 2 ^ 32))
  | none => k (hs.filterMap fun p => p.2.map fun q => (p.1, q))

/-- The release of an enqueue word, and then its queues are asked (10 R257). -/
def State.enqRelease (s : State) (x : Ctx) (e : EnqWord) (qs : List (Nat × Queue)) : State :=
  s.fenceGate x (some (if qs.any fun p => p.2.sends then .dom else .dev)) fun s x => s.enqAsk x e qs

/-- ENQ, ENQT, ENQW, ENQWT and SPAWN. Every active lane's record is checked; one with an invalid handle has no size of its
own, and is checked as the least, 16 bytes (notes/assumptions/91.md). -/
def State.enqWord (s : State) (e : EnqWord) : State :=
  s.withCtx e.h fun x =>
    s.checked x e.fs false fun _ =>
      if x.act = 0 then s.retire x e.h
      else
        let known := x.act.lanes.filterMap fun l => (s.handle? x.c.graph x.c.vf (x.src e.q l)).map fun q => (l, q)
        if x.g.hasAnswers then s.enqAsk x e known
        else if x.g.phase ≠ 0 then s.enqRelease x e known
        else
          let size (l : Nat) : Nat := ((known.find? fun p => p.1 == l).map fun p => p.2.size).getD 16
          let as : List Access := if e.scratch then x.act.lanes.map fun l =>
            { lane := l, va := (x.src e.a l).toNat, n := size l, acc := .load } else []
          let at_ (a : Access) : Option Nat := x.c.tileAt a.va a.n
          let tileIs (a : Access) (f : Tile → Bool) : Bool := match at_ a with
            | some t => f (x.c.tile t)
            | none => false
          let past := Mask.ofFn fun l => x.act.has l && e.over x (size l)
          match (as.filter fun a => tileIs a Tile.gone).head? with
          | some a => s.trapIssue x 0x08 (Mask.ofFn fun l => as.any fun a => a.lane == l && tileIs a Tile.gone)
              (info08 0 ((at_ a).getD 0) (x.c.tile ((at_ a).getD 0))) (BitVec.ofNat 64 a.va)
          | none =>
            if past ≠ 0 then s.trapIssue x 0x03 past (info03 (1, e.a))
            else s.lanesGate x 0x03 (info03 (1, e.a)) as (Access.fails fun a => (at_ a).isNone || a.va % 8 != 0) fun _ =>
              s.handleGate x e.q fun qs =>
                s.watchGate x true true false as fun _ =>
                  if as.any fun a => tileIs a fun t => t.waits false then s.waitRetry x
                  else
                    s.commitGate x true fun s x =>
                      let s := s.enqRead x e qs
                      s.enqRelease (s.again x) e qs

/-- ENQ. -/
def execEnq (h : Hdr) (p va q st : Opnd) (s : State) : Host.Outcome State Fault Refusal :=
  .next (s.enqWord { h := h, p := p, a := va, q := q, st := st })

/-- ENQT. -/
def execEnqt (h : Hdr) (p a q st : Opnd) (s : State) : Host.Outcome State Fault Refusal :=
  .next (s.enqWord { h := h, p := p, a := a, q := q, st := st, scratch := true })

/-- ENQW. -/
def execEnqw (h : Hdr) (p va q st : Opnd) (s : State) : Host.Outcome State Fault Refusal :=
  .next (s.enqWord { h := h, p := p, a := va, q := q, st := st, waits := true })

/-- ENQWT. -/
def execEnqwt (h : Hdr) (p a q st : Opnd) (s : State) : Host.Outcome State Fault Refusal :=
  .next (s.enqWord { h := h, p := p, a := a, q := q, st := st, scratch := true, waits := true })

/-- SPAWN (10 R258). -/
def execSpawn (h : Hdr) (p va q : Opnd) (s : State) : Host.Outcome State Fault Refusal :=
  .next (s.enqWord { h := h, p := p, a := va, q := q, spawn := true })

/-! ## DEQ, QLEN and ARM -/

/-- DEQ (10 R260). In a range stage it is a boundary access like every DEQ (R257): it commits the held entries and takes the snapshot,
and writes the false predicates alone; that the boundary is no effect which R260 rules out is a DESIGN CHOICE
(notes/assumptions/132.md). -/
def execDeq (h : Hdr) (vd vs p : Opnd) (s : State) : Host.Outcome State Fault Refusal :=
  .next (s.withCtx h fun x =>
    s.checked x ([(0, vd)] ++ (if vs = .absent then [] else [(2, vs)]) ++ [(3, p)]) false fun _ =>
      if x.act = 0 then s.retire x h
      else s.commitGate x true fun s x =>
        let s := s.updGroup x.iss.who fun g => g.boundary x.act x.iss.pc x.iss.len
        let range : Bool := match s.stage? x.c.stage with
          | some st => (match st.inp with
            | .range .. => true
            | .queue _ => false)
          | none => true
        if range then
          let s := s.updGroup x.iss.who fun g => g.wrDst x.act p (fun _ => 0) fun _ => false
          s.retire (s.again x) h
        else
          let (id, s) := s.newTag
          let pn : BitVec 4 := match p with
            | .p n => n
            | _ => 15
          let s := s.updGroup x.iss.who fun g => { g with outs := g.outs ++ [{
            id := id, pc := x.iss.pc.toNat, kind := .deq, dst := vd, dst2 := vs, pred := pn, lanes := x.act, gl := 0
            left := x.act.lanes.map fun l => (24 * l, 1)
            got := [], cancel := 0 }] }
          let s := s.send (.claimAtHome { stage := x.c.stage, kind := .deq x.iss.who id x.act, sclk := x.c.sclk })
          s.retire (s.again x) h)

/-- The backlog of a queue as the core's latest summary of it says, where QLEN reads that: not with EXACT, nor of a sending
segment, nor where no candidate of the core is the queue's consumer (10 R261). Where one is but no summary has come yet, QLEN reads
the home: a DESIGN CHOICE (notes/assumptions/112.md). -/
def State.qlenSum (s : State) (core : Nat) (exact : Bool) (q : Queue) : Option Nat :=
  let consumer : Bool := (s.core core).cands.any fun n => match s.stage? n with
    | some t => t.inp == .queue q.num
    | none => false
  if exact || q.sends || !consumer then none
  else ((s.core core).sums.find? fun e => e.1 == q.num && !e.2.1).map fun e => e.2.2.sum.backlog

/-- QLEN (10 R261): each lane's value comes from the core's summary, or is asked for at the queue's home; the write is an
outstanding result. -/
def execQlen (h : Hdr) (exact : Bool) (d q : Opnd) (s : State) : Host.Outcome State Fault Refusal :=
  .next (s.withCtx h fun x =>
    s.checked x [(0, d), (1, q)] false fun _ =>
      s.handleGate x q fun qs =>
        if x.act = 0 then s.retire x h
        else
          let (id, s) := s.newTag
          let o : Out := {
            id := id, pc := x.iss.pc.toNat, kind := .qlen, dst := d, dst2 := .absent, pred := 0, lanes := x.act, gl := x.glOf
            left := qs.map fun p => (24 * p.1, p.1 + 1)
            got := [], cancel := 0 }
          let s := s.updGroup x.iss.who fun g => { g with outs := g.outs ++ [o] }
          let s := qs.foldl (fun (s : State) p =>
            let r : LdReq := {
              origin := .group x.iss.who id p.1, core := x.c.core, vf := x.c.vf, asid := x.c.asid, va := p.1, n := 8
              lclk := 0, len := 0, first := 0, last := 0, pc := x.iss.pc.toNat, cp := .dflt, ldc := true, e0 := false
              renew := false, pref := false, atLocal := false, qlen := some p.2.num }
            match s.qlenSum x.c.core exact p.2 with
            | some n => s.send (.loadResultReturn {
                req := { r with own := true }, data := bytesOf (qlenWord p.2.lq n) 8, poison := false, wt := 0, fill := none })
            | none => s.send (.loadRequestAtHome r)) s
          s.retire (s.again x) h)

/-- ARM (10 R262). -/
def execArm (h : Hdr) (p q tag base : Opnd) (lcnt lslot : BitVec 4) (s : State) : Host.Outcome State Fault Refusal :=
  .next (s.withCtx h fun x =>
    s.checked x [(0, p), (1, q), (2, tag), (3, base)] false fun _ =>
      if x.act = 0 then s.retire x h
      else
        let t := (x.scalar tag).toNat
        let b := (x.scalar base).toNat
        if t ≠ 0 ∧ b % 4096 ≠ 0 then s.trapIssue x 0x02 x.iss.set (x.iss.hi.setWidth 64)
        else s.handleGate x q fun qs =>
          let size := 2 ^ (lcnt.toNat + lslot.toNat + 6)
          let as : List Access := if t = 0 then [] else
            ((runPages b size).map fun va => x.act.lanes.map fun l =>
              ({ lane := l, va := va, n := 1, acc := .queue } : Access)).flatten
          s.commitGate x true fun s x =>
            s.attrGate x as fun _ =>
              match qs.head? with
              | none => s.retire x h
              | some (_, q) =>
                let taken := s.queues.any fun r => r.tag == t && r.num != q.num
                let ok := t == 0 || (!taken && decide (32 ≤ q.size))
                let s := if !ok then s
                  else if t = 0 then s.updQueue q.num fun q => { q with tag := 0 }
                  else s.updQueue q.num fun q => { q with
                    tag := t, land := b, lcnt := lcnt.toNat, lslot := lslot.toNat, lnext := 0 }
                let s := s.updGroup x.iss.who fun g =>
                  (g.wrDst x.act p (fun _ => 0) fun _ => ok).boundary x.act x.iss.pc x.iss.len
                s.retire (s.again x) h)

/-! ## Barriers (10 R263 to R265) -/

/-- The number of a barrier operand. -/
def barNo : Opnd → Nat
  | .bar n => n.toNat
  | _ => 0

/-- A barrier. -/
def Crew.bar (c : Crew) (k : Nat) : Bar := c.bars.getD k {}

/-- The arrival of a group at a barrier (10 R264); `set` is the mask of BARA.SET. -/
def Crew.arrive (c : Crew) (k grp : Nat) (set : Option (BitVec 16)) : Crew :=
  let c := { c with bars := lupd c.bars k fun b => { b with
    mask := match set with
      | some m => m &&& BitVec.ofNat 16 (2 ^ c.groups.length - 1)
      | none => b.mask
    arr := b.arr ||| BitVec.ofNat 16 (2 ^ grp)
    tgt := sset 0 b.tgt grp b.phase } }
  c.barCheck k true

/-- BARA's wait, its release and its arrival; then `k`. -/
def State.arriveGate (s : State) (x : Ctx) (n : Nat) (set : Option (BitVec 16)) (k : State → Ctx → State) : State :=
  let b := x.c.bar n
  if b.arr.getLsbD x.iss.who.grp || (set.isSome && b.arr != 0) then s.waitRetry x
  else s.commitGate x true fun s x =>
    s.fenceGate x (some .crew) fun s x =>
      let s := s.updCrew x.iss.who.crew fun c => c.arrive n x.iss.who.grp set
      k s (s.again x)

/-- BARW's wait, in its phase of the word, and its acquire; then the word performs. -/
def State.phaseGate (s : State) (x : Ctx) (h : Hdr) (n phase : Nat) : State :=
  let b := x.c.bar n
  let t := sget 0 b.tgt x.iss.who.grp
  if b.phase = t then s.headWait x phase
  else
    let s := s.updCrew x.iss.who.crew fun c => { c with bars := lupd c.bars n fun b =>
      { b with tgt := sset 0 b.tgt x.iss.who.grp (t + 1) } }
    let s := s.syncClocks x.iss.who.crew .crew
    s.retire (s.again x) h

/-- BARA and BARA.SET (10 R264). -/
def execBara (h : Hdr) (set : Bool) (b m : Opnd) (s : State) : Host.Outcome State Fault Refusal :=
  .next (s.withCtx h fun x =>
    s.checked x ((1, b) :: (if set then [(2, m)] else [])) false fun _ =>
      if x.act = 0 then s.retire x h
      else s.arriveGate x (barNo b) (if set then some ((x.scalar m).setWidth 16) else none) fun s x => s.retire x h)

/-- BARW (10 R264). -/
def execBarw (h : Hdr) (b : Opnd) (s : State) : Host.Outcome State Fault Refusal :=
  .next (s.withCtx h fun x =>
    s.checked x [(1, b)] false fun _ => if x.act = 0 then s.retire x h else s.phaseGate x h (barNo b) 3)

/-- BARAW (10 R264): the arrival is made once, and the wait follows it. -/
def execBaraw (h : Hdr) (b : Opnd) (s : State) : Host.Outcome State Fault Refusal :=
  .next (s.withCtx h fun x =>
    s.checked x [(1, b)] false fun _ =>
      if x.act = 0 then s.retire x h
      else if x.g.phase = 4 then s.phaseGate x h (barNo b) 4
      else s.arriveGate x (barNo b) none fun s x => s.phaseGate x h (barNo b) 4)

/-! ## SLEEP, SYSC, GLOAD and GSTOP -/

/-- SLEEP (10 R266). -/
def execSleep (h : Hdr) (a : Opnd) (s : State) : Host.Outcome State Fault Refusal :=
  .next (s.withCtx h fun x =>
    s.checked x [(1, a)] false fun _ =>
      let n := if x.act = 0 then 0 else (x.scalar a).toNat % 2 ^ 16
      let s := s.retire x h
      if n = 0 then s else s.updGroup x.iss.who fun g => { g with wait := .till (s.cycle + 64 * n) })

/-- SLEEP_END: the group is ready again. -/
def execSleepEnd (w : Who) (s : State) : Host.Outcome State Fault Refusal :=
  .next (s.updGroup w fun g => match g.wait with
    | .till _ => { g with wait := .none }
    | _ => g)

/-- A value that answers a group's SYSC, GLOAD or GSTOP. -/
def State.giveAnswer (s : State) (w : Who) (v : Word) : State :=
  s.updGroup w fun g => match g.wait with
    | .answer => { g with wait := .none, phase := 2, answers := sset 0 [] 0 v.toNat }   -- phase 2 says that it has come, 0 among them
    | _ => g

/-- The answer is written to D, and the word has performed. -/
def State.answered (s : State) (x : Ctx) (h : Hdr) (d : Opnd) (bnd : Bool) : State :=
  let v : Word := BitVec.ofNat 64 (sget 0 x.g.answers 0)
  let s := s.updGroup x.iss.who fun g =>
    let g := g.wrDst x.act d (fun _ => v) fun _ => false
    if bnd then g.boundary x.act x.iss.pc x.iss.len else g
  s.retire (s.again x) h

/-- SYSC (10 R267): the request waits to be posted, and the group for its answer. -/
def execSysc (h : Hdr) (d a b : Opnd) (code : BitVec 16) (s : State) : Host.Outcome State Fault Refusal :=
  .next (s.withCtx h fun x =>
    s.checked x [(0, d), (1, a), (2, b)] false fun _ =>
      if x.act = 0 then s.retire x h
      else if x.g.phase = 2 then s.answered x h d true
      else s.commitGate x true fun s x =>
        let (token, s) := s.newTag
        let r : SvcReq := {
          vf := x.c.vf, token := token + 1, code := code.toNat, pc := x.iss.pc.toNat, arga := x.scalar a, argb := x.scalar b }
        { s.awaitAnswer x with
          svcWait := s.svcWait ++ [r]
          svcOpen := s.svcOpen ++ [(x.c.vf, token + 1, x.iss.who)] })

/-- GLOAD (10 R268). -/
def execGload (h : Hdr) (d a b : Opnd) (s : State) : Host.Outcome State Fault Refusal :=
  .next (s.withCtx h fun x =>
    s.checked x [(0, d), (1, a), (2, b)] true fun _ =>
      if x.act = 0 then s.retire x h
      else if x.g.phase = 2 then s.answered x h d false
      else (s.awaitAnswer x).send (.admissionDecision x.iss.who (x.scalar a).toNat (x.scalar b).toNat))

/-- A graph stops (10 R269): its queues refuse records, and its tags are disarmed. -/
def State.drainGraph (s : State) (g : Graph) : State :=
  let s := { s with
    queues := s.queues.map fun q => if g.queues.contains q.num then { q with stopped := true, tag := 0 } else q
    graphs := lupdFirst (fun x => x.handle == g.handle) (fun x => { x with draining := true }) s.graphs }
  g.queues.foldl State.wakeAppends s

/-- The saved context of a crew is discarded: every lane exits, held entries are discarded, and loads that have not left, an
interrupted matrix instruction is abandoned and an arm that nothing matched is cancelled (10 R269). -/
def Crew.abandon (c : Crew) : Crew :=
  let c := c.matAbandon.dropPlanes.cancelArms
  let store (i : Instr) : Bool := match i with
    | .storePerformedAtHome _ => true
    | _ => false
  { c with
    st := .gone
    groups := c.groups.map fun g =>
      { (g.headDone.exitLanes g.remain) with
        handler := false, frozen := false, outs := [], reds := [], async := [], later := g.later.filter store
        sb := g.sb.filter (·.committed) } }

/-- Is a chunk of a copy that a test names under way: its event, or the read of some of its bytes at a peer? -/
def State.chunkRuns (s : State) (p : Nat → Nat → Bool) : Bool :=
  let mine (r : LdReq) : Bool := match r.origin with
    | .copy k n _ => p k n
    | _ => false
  ((s.moving ++ s.held.map (·.req)).any fun i => match i with
    | .copyChunkComplete k n => p k n
    | .loadRequestAtHome r => mine r
    | .loadResultReturn m => mine m.req
    | _ => false) || s.segs.any fun g => match g.use with
      | .load r => mine r
      | _ => false

/-- Is a chunk of a copy under way? -/
def State.chunkUnderWay (s : State) (crew id : Nat) : Bool := s.chunkRuns fun k n => k == crew && n == id

/-- The copies that stand at their progress points go on: those of a crew that closes complete (10 R269). -/
def State.copiesOnward (s : State) (crew : Nat) : State :=
  match s.crew? crew with
  | none => s
  | some c => (c.copies.filter fun k => !k.runs.isEmpty && !k.stopped && !s.chunkUnderWay crew k.id).foldl
      (fun s k => s.send (.copyChunkComplete crew k.id)) s

/-- The context of a saved crew is discarded: its committed stores and its copies in flight complete (10 R269). -/
def State.discardCrew (s : State) (crew : Nat) : State :=
  ({ s.updCrew crew Crew.abandon with waitq := s.waitq.filter fun m => !Append.ofCrew crew m } : State).copiesOnward crew

/-- GSTOP.ABORT of a graph (10 R269): its crews are stopped as by pre-emption, so that one whose word has had an answer takes the others
first (R255); the context of a saved one is discarded at once. -/
def State.abortGraph (s : State) (g : Graph) : State :=
  let s := (s.crews.filter fun c => c.graph == g.handle && !c.moves).foldl (fun s c => s.discardCrew c.id) s
  let turned := s.claims.filter fun c => g.queues.contains c.queue
  let run := (s.crews.filter fun c => c.graph == g.handle && c.st == .running).map (·.id)
  let s := { s with
    graphs := lupdFirst (fun x => x.handle == g.handle) (fun x => { x with aborting := true }) s.graphs
    claims := s.claims.filter fun c => !g.queues.contains c.queue
    queues := s.queues.map fun (q : Queue) => if g.queues.contains q.num then
      { q with
        backlog := q.backlog - q.win.length - q.pan.length - q.early.length - q.earlyPan.length
        win := [], pan := [], early := [], earlyPan := [], again := [], inflight := [] } else q }
  let s := s.post (run.map .preemption)
  turned.foldl (fun s c => s.send (.claimReply { claim := c.claim, seqs := [], idx := none, wt := 0 })) s

/-- GSTOP and GSTOP.ABORT (10 R269). -/
def execGstop (h : Hdr) (abort : Bool) (d a : Opnd) (s : State) : Host.Outcome State Fault Refusal :=
  .next (s.withCtx h fun x =>
    s.checked x [(0, d), (1, a)] true fun _ =>
      if x.act = 0 then s.retire x h
      else if x.g.phase = 2 then s.answered x h d false
      else
        let put (v : Nat) : State :=
          (s.updGroup x.iss.who fun g => g.wrDst x.act d (fun _ => BitVec.ofNat 64 v) fun _ => false).retire x h
        match s.graph? (x.scalar a).toNat with
        | none => put (2 ^ 63 + 1)
        | some g =>
          if g.handle = x.c.graph then put (2 ^ 63 + 2)
          else
            let s := (s.drainGraph g).awaitAnswer x
            let s := if abort then s.abortGraph g else s
            let add (y : Graph) : Graph := { y with waiters := y.waiters ++ [x.iss.who] }
            { s with graphs := lupdFirst (fun y => y.handle == g.handle) add s.graphs })

/-- GRAPH_STOP_COMPLETE: the graph's numbers, slots and handle are free, and the GSTOPs that wait read 0 (10 R269). -/
def execGraphStopComplete (handle : Nat) (s : State) : Host.Outcome State Fault Refusal :=
  .next (match s.graph? handle with
    | none => s
    | some g =>
      let s := { s with
        graphs := s.graphs.filter fun x => x.handle != handle
        stages := s.stages.filter fun t => t.graph != handle
        queues := s.queues.filter fun q => q.graph != handle
        keepers := s.keepers.filter fun k => k.graph != handle
        cores := s.cores.map fun (e : Nat × Core) => (e.1, { e.2 with
          cands := e.2.cands.filter fun n => !g.stages.contains n
          sums := e.2.sums.filter fun p => !((p.2.1 && g.stages.contains p.1) || (!p.2.1 && g.queues.contains p.1)) }) }
      g.waiters.foldl (fun s w => s.giveAnswer w 0) s)

end Sys2Proof.Machine
end

