-- ==== Sys2Proof/Machine/Sched.lean ====
section
/-! DEFINITION. The scheduler of each core (02 R35 to R49, 14 R359 to R366, 23 R497 to R499): the fit test, summaries, the
derailleur, claims that return, crews that start, stop and retire, and the slices of time-sliced VFs. -/

namespace Sys2Proof.Machine

/-! ## Resources (02 R35 to R38) -/

/-- Resources of a core, by partition where the partition counts. -/
structure Use where
  slots : List Nat := [0, 0, 0, 0]
  vregs : List Nat := [0, 0, 0, 0]
  gregs : Nat := 0
  bars : Nat := 0
  entries : Nat := 0
  bytes : Nat := 0
  acc : Nat := 0
  deriving DecidableEq, Repr

/-- Two uses together. -/
def Use.add (a b : Use) : Use where
  slots := List.zipWith (· + ·) a.slots b.slots
  vregs := List.zipWith (· + ·) a.vregs b.vregs
  gregs := a.gregs + b.gregs
  bars := a.bars + b.bars
  entries := a.entries + b.entries
  bytes := a.bytes + b.bytes
  acc := a.acc + b.acc

/-- The groups of a shape that stand in a partition (02 R37). -/
def Shape.inPart (sh : Shape) (p0 p : Nat) : Nat := ((List.range sh.groups).filter fun g => (p0 + g) % 4 == p).length

/-- What a shape takes (02 R35, R38). -/
def Shape.use (sh : Shape) (p0 : Nat) : Use where
  slots := (List.range 4).map (sh.inPart p0)
  vregs := (List.range 4).map fun p => sh.inPart p0 p * sh.vregs
  gregs := sh.groups * sh.gregs
  bars := sh.barriers
  entries := sh.tiles.length
  bytes := sh.tiles.sum
  acc := sh.acc

/-- Does a use lie within another, resource by resource? -/
def Use.within (a b : Use) : Bool :=
  (List.zipWith (fun x y => decide (x ≤ y)) a.slots b.slots).all id &&
    (List.zipWith (fun x y => decide (x ≤ y)) a.vregs b.vregs).all id &&
    decide (a.gregs ≤ b.gregs) && decide (a.bars ≤ b.bars) && decide (a.entries ≤ b.entries) &&
    decide (a.bytes ≤ b.bytes) && decide (a.acc ≤ b.acc)

/-- The resources of a core (01 R14, 12 R299). -/
def coreUse : Use where
  slots := [12, 12, 12, 12]
  vregs := [512, 512, 512, 512]
  gregs := 32768
  bars := 256
  entries := 128
  bytes := 360448
  acc := 1024

/-- A register of a VF block (14 R346). -/
def State.vfReg (s : State) (vf ofs : Nat) : Word := s.reg (0x1_0000 + 0x100 * vf + ofs)

/-- The quota that VFQUOTA grants on each core (14 R348); tile entries have no field of their own. -/
def quotaUse (q : Word) : Use where
  slots := List.replicate 4 (fld q 0 4)
  vregs := List.replicate 4 (8 * fld q 8 7)
  gregs := 32 * fld q 16 11
  bars := fld q 48 9
  entries := 128
  bytes := 32768 * fld q 32 4
  acc := 16 * fld q 40 7

/-- What stands on a core, for all VFs or for one: crews outside keeper slots, reservations outside them, and the keeper
slots themselves (14 R352). -/
def State.heldOn (s : State) (core : Nat) (vf : Option Nat) : Use :=
  let mine (v : Nat) : Bool := match vf with
    | none => true
    | some w => v == w
  let crews := (s.crews.filter fun c => c.core == core && c.resident && c.keeper.isNone && mine c.vf).map fun c =>
    c.shape.use ((c.groups.map (·.part)).headD 0)
  let resv := (s.core core).resv.filterMap fun r =>
    if r.keeper.isSome then none
    else (s.stage? r.stage).bind fun t => if mine t.vf then some (t.shape.use r.p0) else none
  let keep := (s.keepers.filter fun k => k.core == core && mine k.vf).map fun k => k.shape.use k.p0
  (crews ++ resv ++ keep).foldl Use.add {}

/-- The base partition: the one with the most free group slots, the lowest on a tie (02 R37). -/
def State.basePart (s : State) (core : Nat) : Nat :=
  let used := (s.heldOn core none).slots
  let least := used.foldl min (used.headD 0)
  firstFrom (fun p => used.getD p 0 == least) 4

/-- The fit test (02 R38, 14 R348): within the core and within the VF's quota. -/
def State.fits (s : State) (core vf : Nat) (sh : Shape) (p0 : Nat) : Bool :=
  let need := sh.use p0
  ((s.heldOn core none).add need).within coreUse &&
    ((s.heldOn core (some vf)).add need).within (quotaUse (s.vfReg vf 0x38))

/-! ## Virtual functions on a core (14 R346 to R350) -/

/-- Is a VF enabled? -/
def State.vfOn (s : State) (vf : Nat) : Bool := (s.vfReg vf 0).getLsbD 0

/-- Is it time-sliced? -/
def State.vfTs (s : State) (vf : Nat) : Bool := (s.vfReg vf 0).getLsbD 2

/-- Its slice in ns. -/
def State.vfSlice (s : State) (vf : Nat) : Nat := fld (s.vfReg vf 0) 32 16 * 1000

/-- Does its core mask include a core? The bit of an absent one is ignored (24 R512). -/
def State.vfHas (s : State) (vf core : Nat) : Bool := (s.vfReg vf (0x10 + 8 * (core / 64))).getLsbD (core % 64) && !(s.core core).absent

/-- Does a precise stop stand on a core (17 R426)? -/
def State.stopsOn (s : State) (core : Nat) : Bool := s.stop.any fun t => t.core == core

/-- Is a core being retired, with no precise stop on it (24 R511 step 1)? -/
def State.coreGoing (s : State) (core : Nat) : Bool :=
  (s.retiring.any fun r => !r.slice && r.unit == core) && !s.stopsOn core

/-- The enabled time-sliced VFs of a core, ascending. -/
def State.tsVfs (s : State) (core : Nat) : List Nat :=
  (List.range 16).filter fun v => s.vfOn v && s.vfTs v && s.vfHas v core

/-- May the core run crews of a VF now (14 R350, R364)? -/
def State.vfRuns (s : State) (core vf : Nat) : Bool :=
  s.vfOn vf && s.vfHas vf core &&
    (!s.vfTs vf || ((s.core core).tsvf == some vf && !(s.core core).switching))

/-! ## Summaries (14 R359, 23 R497) -/

/-- A core's copy of a summary of a queue, or of a range stage. -/
def Core.sum? (co : Core) (num : Nat) (range : Bool) : Option SumEnt :=
  (co.sums.find? fun e => e.1 == num && e.2.1 == range).map (·.2.2)

/-- Do a core's candidates name a queue, or a range stage? -/
def State.names (s : State) (core num : Nat) (range : Bool) : Bool :=
  (s.core core).cands.any fun n => match s.stage? n with
    | none => false
    | some t => (match t.inp with
      | .range .. => range && n == num
      | .queue q => !range && q == num) || (!range && t.outs.contains num)

/-- Is a keeper slot free? -/
def State.keeperFree (s : State) (k : Keeper) : Bool :=
  !(s.crews.any fun c => c.keeper == some k.id && c.resident) && !((s.core k.core).resv.any fun r => r.keeper == some k.id)

/-- Has some VF of the core a free group slot in its quota, or a free keeper slot? -/
def State.roomOn (s : State) (core : Nat) : Bool :=
  (List.range 16).any fun v => s.vfOn v && s.vfHas v core &&
    ((List.zipWith (fun a b => decide (a < b)) (s.heldOn core (some v)).slots (quotaUse (s.vfReg v 0x38)).slots).any id ||
      s.keepers.any fun k => k.core == core && k.vf == v && s.keeperFree k)

/-- SPOKE_SUMMARY: the core keeps the latest summary of what its candidates name, and evaluates while it has room. -/
def execSpokeSummary (core : Nat) (m : Summary) (s : State) : Host.Outcome State Fault Refusal :=
  .next (
    if !s.names core m.num m.range then s
    else
      let home := if m.range then m.num % 96 else ((s.queue? m.num).map Queue.home).getD 0
      let e : SumEnt := { sum := m, at_ := s.cycle, far := home / 24 != core / 72 }
      let room := s.roomOn core
      s.updCore core fun co => { co with
        sums := co.sums.filter (fun p => !(p.1 == m.num && p.2.1 == m.range)) ++ [(m.num, m.range, e)]
        evalDue := co.evalDue || room })

/-- SUMMARY_STALE: the core marks its copy stale (23 R497). -/
def execSummaryStale (core num : Nat) (range : Bool) (s : State) : Host.Outcome State Fault Refusal :=
  .next (s.updCore core fun co => { co with
    sums := co.sums.map fun (p : Nat × Bool × SumEnt) =>
      if p.1 = num ∧ p.2.1 = range then (p.1, p.2.1, { p.2.2 with stale := some (p.2.2.stale.getD s.cycle) }) else p })

/-! ## The derailleur (14 R360 to R364) -/

/-- The summary of a stage's input as the core holds it; before the first has come, nothing waits there. -/
def State.inSum (s : State) (core : Nat) (t : Stage) : SumEnt :=
  let r := match t.inp with
    | .range .. => (s.core core).sum? t.num true
    | .queue q => (s.core core).sum? q false
  r.getD { sum := { num := 0, range := false, backlog := 0, undel := 0, flushdue := false, saved := 0 }, at_ := s.cycle, far := false }

/-- The backlog of an output; a sending segment's is its own (14 R361). -/
def State.outBacklog (s : State) (core q : Nat) : Nat :=
  match s.queue? q with
  | none => 0
  | some x => if x.edge.isSome then x.backlog else (((s.core core).sum? q false).map (·.sum.backlog)).getD 0

/-- The score of a stage (14 R361). -/
def State.score (s : State) (core : Nat) (t : Stage) : Int :=
  let bout := (t.outs.map (s.outBacklog core)).foldl max 0
  (t.weight : Int) * (((s.inSum core t).sum.backlog : Int) - (bout : Int))

/-- Is a stage due (14 R361, 23 R497)? -/
def State.due (s : State) (core : Nat) (t : Stage) : Bool :=
  let e := s.inSum core t
  let range : Bool := match t.inp with
    | .range .. => true
    | .queue _ => false
  let live := (range && decide (0 < e.sum.backlog)) || decide (t.batch ≤ e.sum.undel) || e.sum.flushdue
  match e.stale with
  | none => live
  | some since => live || e.sum.undel != 0 || e.sum.saved != 0 || decide (since + 4096 < s.cycle)

/-- Has a stage saved crews, as the core knows it? -/
def State.savedSum (s : State) (core : Nat) (t : Stage) : Bool := (s.inSum core t).sum.saved != 0

/-- Is everything settled that a save waits for (02 R48, 03 R73): outstanding results, trap entries, the array, chunks and
reads of its copies, HANDs that it gives or takes (09 R237), and the answers of queues, all of an issue (10 R255)? An append that
waits for room is no such answer (10 R256). -/
def State.settled (s : State) (c : Crew) : Bool :=
  let trapped (g : Group) : Bool := match g.wait with
    | .trap _ => true
    | _ => false
  let mine (i : Instr) : Bool := match i with
    | .queueAppendAtHome m => Append.ofCrew c.id m
    | .queueAnswer m => m.who.crew == c.id
    | _ => false
  c.groups.all (fun g => g.outs.isEmpty && g.reds.isEmpty && !trapped g && !g.midAnswer) &&
    !(s.crews.any fun d => d.copies.any fun k => k.kind == .hand && (d.id == c.id || k.toCrew == c.id)) &&
    !((s.core c.core).mq.any fun j => j.iss.who.crew == c.id) &&
    !s.flying.any mine && !s.todo.any mine && !(s.chunkRuns fun k _ => k == c.id)

/-- The saved crew of a stage that was saved first, among those that may resume. -/
def State.savedCrew (s : State) (stage : Nat) : Option Crew :=
  (lsort Crew.savedAt (s.crews.filter fun c => c.stage == stage && c.st == .saved)).head?

/-- The group slots of a core that are taken, by partition and number: those of crews, and those that keeper slots hold
whether or not a crew stands in them (14 R352); of the VFs that pass a test. -/
def State.slotsTaken (s : State) (core : Nat) (who : Nat → Bool := fun _ => true) : List (Nat × Nat) :=
  ((s.crews.filter fun c => c.core == core && c.resident && c.keeper.isNone && who c.vf).map fun c =>
    c.groups.map fun g => (g.part, g.slot)).flatten ++
  ((s.keepers.filter fun k => k.core == core && who k.vf).map fun k =>
    (numbered k.slots).map fun p => ((k.p0 + p.1) % 4, p.2)).flatten

/-- The lowest free slot of its partition for each of `n` groups (notes/assumptions/90.md). -/
def State.freeSlots (s : State) (core p0 n : Nat) (who : Nat → Bool := fun _ => true) : List Nat :=
  let step (acc : List Nat × List (Nat × Nat)) (g : Nat) : List Nat × List (Nat × Nat) :=
    let part := (p0 + g) % 4
    let slot := firstFrom (fun k => !acc.2.contains (part, k)) 12
    (acc.1 ++ [slot], (part, slot) :: acc.2)
  ((List.range n).foldl step ([], s.slotsTaken core who)).1

/-- The slots of a new keeper slot: free ones; where the core has too few at the moment, those that only other time-sliced VFs
take, whose slices are not its own (14 R350, R352, notes/assumptions/64.md). -/
def State.keeperSlots (s : State) (core vf p0 n : Nat) : List Nat :=
  let l := s.freeSlots core p0 n
  if l.all fun k => decide (k < 12) then l else s.freeSlots core p0 n fun v => v == vf || !s.vfTs v

/-- Place the groups of a crew: group g in partition (p0 + g) mod 4, in the slot that its keeper slot holds there, or in a
free one (02 R37). -/
def State.placeGroups (s : State) (core p0 : Nat) (keeper : Option Nat) (gs : List Group) : List Group :=
  let slots := match keeper.bind fun id => s.keepers.find? fun k => k.id == id with
    | some k => k.slots
    | none => s.freeSlots core p0 gs.length
  (numbered gs).map fun p => { p.2 with part := (p0 + p.1) % 4, slot := slots.getD p.1 0 }

/-- A core that is granted a crew of another VF starts its predictor anew (12 R303). -/
def Core.granted (co : Core) (vf : Nat) : Core := if co.predVf = vf then co else { co with pred := [], predVf := vf }

/-- A request or an acknowledgement of a crew's stores as its resuming core redirects it to itself (13 R338). -/
def toCore (crew core : Nat) : Instr → Instr :=
  let mine (o : Origin) : Bool := match o with
    | .group w _ _ => w.crew == crew
    | .copy c _ _ => c == crew
    | .none => false
  fun
  | .storePerformedAtHome m => .storePerformedAtHome (if mine m.origin then { m with core := core } else m)
  | .storeAcknowledgement a => .storeAcknowledgement (if mine a.msg.origin then { a with msg := { a.msg with core := core } } else a)
  | i => i

/-- Everything of a crew's stores that is not acknowledged yet is the resuming core's from now on (13 R338). -/
def State.redirect (s : State) (crew core : Nat) : State :=
  let seg (g : Seg) : Seg := match g.use with
    | .store m => (match toCore crew core (.storePerformedAtHome m) with
      | .storePerformedAtHome m => { g with use := .store m }
      | _ => g)
    | .mcast m => (match toCore crew core (.storePerformedAtHome m) with
      | .storePerformedAtHome m => { g with use := .mcast m }
      | _ => g)
    | _ => g
  { s.mapReqs (toCore crew core) with segs := s.segs.map seg }.updCrew crew fun (c : Crew) =>
    { c with groups := c.groups.map fun (g : Group) => { g with later := g.later.map (toCore crew core) } }

/-- Is a fill on its way to a core, or to its sector's local copies, of a lease that ends before a time? Then it is not installed. -/
def noStale (core asid t : Nat) : Instr → Instr :=
  let old (f : Fill) : Bool := (f.asid == asid || f.asid == 0) && decide (f.le < t)
  fun
  | .loadResultReturn m => .loadResultReturn (if m.req.core = core ∧ m.fill.any old then { m with fill := none } else m)
  | .homeFillReturn m => .homeFillReturn (if m.slice / 8 = sectorOf core ∧ m.copy.any old then { m with first := 32, last := 32 } else m)
  | i => i

/-- The copies under an ASID whose lease ends before a time leave a core's L1 and its sector's slices: a crew that resumes there finds
none that is older than a store of its own (13 R330, notes/assumptions/96.md). -/
def State.dropOlder (s : State) (core asid t : Nat) : State :=
  let old (b : Blk) : Bool := (b.asid == asid || b.asid == 0) && decide (b.le < t)
  let s := s.updCore core fun co => co.evictL1 old
  { s.mapReqs (noStale core asid t) with
    slices := s.slices.map fun (e : Nat × Slice) =>
      if e.1 / 8 = sectorOf core then (e.1, { e.2 with loc := e.2.loc.filter (!old ·) }) else e }

/-- CREW_RESUME (02 R49, 13 R329, R338): the crew stands on the core again. What its copies still write carries its clock: a crew that
was saved resumes above a checkpoint's cut (15 R393). Its copies may bring the core above the 128 in flight for which an issue
waits (09 R238): a DESIGN CHOICE, for a resume is no issue (notes/assumptions/112.md). -/
def State.resume (s : State) (core : Nat) (c : Crew) (keeper : Option Nat) (p0 : Nat) : State :=
  s.divide core fun s =>
    let co := s.core core
    let k := max c.sclk co.sclk
    let gs := s.placeGroups core p0 keeper c.groups
    let s := s.updCrew c.id fun c => { c with
      st := .running
      core := core
      keeper := keeper
      groups := gs
      lclk := max c.lclk co.lclk
      copies := c.copies.map fun y => { y with sclk := max y.sclk k }
      sclk := k }
    let s := ((s.redirect c.id core).dropOlder core c.asid c.sclk).updCore core (·.granted c.vf)
    let s := s.perfAdd core c.vf 0x0D 1
    let s := (c.copies.filter fun k => !k.runs.isEmpty).foldl (fun s k => s.send (.copyChunkComplete c.id k.id)) s
    s.crewClosing c.id

/-- A claim leaves, and the shape is reserved until it returns (02 R40). -/
def State.claim (s : State) (core : Nat) (t : Stage) (keeper : Option Nat) (p0 : Nat) : State :=
  s.divide core fun s =>
    let (id, s) := s.newTag
    let s := s.updCore core fun co => { co.granted t.vf with
      resv := co.resv ++ [{ id := id, stage := t.num, keeper := keeper, p0 := p0 }] }
    s.send (.claimAtHome { stage := t.num, kind := .launch core id, sclk := (s.core core).sclk })

/-- Launch a stage: resume a saved crew, or claim (14 R361). -/
def State.launch (s : State) (core : Nat) (t : Stage) (keeper : Option Nat) (p0 : Nat) : State :=
  match s.savedCrew t.num with
  | some c => s.resume core c keeper p0
  | none => s.claim core t keeper p0

/-- The ordinary selection of an evaluation (14 R361): the greatest score, the lower stage on a tie. -/
def State.pickStage (s : State) (core : Nat) : Option Stage :=
  let ok (t : Stage) : Bool :=
    !(s.core core).skip.contains t.num && s.vfRuns core t.vf && s.fits core t.vf t.shape (s.basePart core) &&
      (s.savedSum core t || (s.due core t && decide (0 < s.score core t)))
  let ts := (((s.core core).cands.filterMap s.stage?).filter ok)
  ts.foldl (fun best t => match best with
    | none => some t
    | some b => if s.score core b < s.score core t then some t else best) none

/-- KEEPER_SLOT_SELECTION (14 R362): the qualifying stage served least recently, the lower number on a tie. -/
def State.keeperPick (s : State) (k : Keeper) : Option Stage :=
  let ok (t : Stage) : Bool := !(s.core k.core).skip.contains t.num && (s.savedSum k.core t || s.due k.core t)
  let qs := k.serves.filterMap fun p => (s.stage? p.1).bind fun t => if ok t then some (p.2, t) else none
  ((lsort (fun (q : Nat × Stage) => q.1 * 1024 + q.2.num) qs).head?).map (·.2)

/-- A keeper slot launches its selection. The stage counts as served from then on, whether or not its claim returns a record: a DESIGN
CHOICE (notes/assumptions/129.md). -/
def State.keeperLaunch (s : State) (k : Keeper) : State :=
  if !s.vfRuns k.core k.vf || !s.keeperFree k then s
  else match s.keeperPick k with
    | none => s
    | some t =>
      let (n, s) := s.newTag
      let serve (x : Keeper) : Keeper := { x with serves := x.serves.map fun p => if p.1 = t.num then (p.1, n + 1) else p }
      ({ s with keepers := lupdFirst (fun x => x.id == k.id) serve s.keepers }.launch k.core t (some k.id) k.p0).updCore k.core
        fun co => { co with evalDue := true }

/-- DERAILLEUR_EVALUATION: at most one stage for the ordinary slots, and one for each free keeper slot; after a launch the
core evaluates again (14 R360). -/
def execDerailleurEvaluation (core : Nat) (s : State) : Host.Outcome State Fault Refusal :=
  .next (
    if (s.core core).absent || s.coreGoing core then s
    else
      let skip := (s.core core).skip
      let s := s.updCore core fun co => { co with evalDue := false }
      let s := match s.pickStage core with
        | none => s
        | some t => (s.launch core t none (s.basePart core)).updCore core fun co => { co with evalDue := true }
      let s := (s.keepers.filter fun k => k.core == core).foldl State.keeperLaunch s
      s.updCore core fun co => { co with skip := co.skip.filter fun n => !skip.contains n })

/-! ## Claims that return, and the start of a crew (02 R40 to R44) -/

/-- The group g of a new crew (02 R43 to R45); `n` lanes of it are present, and the first holds record `seq`. -/
def newGroup (t : Stage) (n : Nat) (rec : Option (Nat → Nat × Nat)) : Group :=
  let lp := (List.range 32).filterMap fun l =>
    if l < n then some (l, ({ st := .live, depth := 0, pc := t.entry } : Lp))
    else if t.entry = 0 then none else some (l, { st := .absent, depth := 0, pc := t.entry })
  let v : SMap Word := match rec with
    | none => []
    | some f =>
      let put (r : Nat) (g : Nat → Nat) (m : SMap Word) : SMap Word :=
        (List.range n).foldl (fun m l => sset 0 m (32 * r + l) (BitVec.ofNat 64 (g l))) m
      put 1 (fun l => (f l).2) (put 0 (fun l => (f l).1) [])
  { lp := lp, snap := lp, v := v, fcr := t.fcr }

/-- CREW_START: the crew's initial state is written (02 R43, R44). A launch counts as the last issue of its groups (03 R72), and
every group takes part in each barrier (10 R263). A crew that is due for pre-emption issues nothing (R48). -/
def State.startCrew (s : State) (core : Nat) (r : Resv) (t : Stage) (m : ClaimRep) (due : Bool) : State :=
  let co := s.core core
  let idx := m.idx.getD 0
  let base := m.seqs.headD 0
  let q : Option Queue := match t.inp with
    | .queue n => s.queue? n
    | .range .. => none
  let count := match q with
    | none => 32 * t.shape.groups
    | some _ => m.seqs.length
  let group (g : Nat) : Group := newGroup t (min 32 (count - 32 * g))
    (q.map fun q l => (q.slotVa (base + 32 * g + l), base + 32 * g + l))
  let xyz := match t.inp with
    | .range ex ey _ => (idx % ex, idx / ex % ey, idx / (ex * ey))
    | .queue _ => (0, 0, 0)
  let (id, s) := s.newTag
  let c : Crew := {
    id := id
    st := if due then .stopping else .running
    core := core
    vf := t.vf
    asid := t.asid
    stage := t.num
    graph := t.graph
    keeper := r.keeper
    shape := t.shape
    crewid := BitVec.ofNat 64 idx
    seqbase := BitVec.ofNat 64 base
    reccount := BitVec.ofNat 64 m.seqs.length
    coordx := BitVec.ofNat 64 xyz.1
    coordy := BitVec.ofNat 64 xyz.2.1
    coordz := BitVec.ofNat 64 xyz.2.2
    lclk := co.lclk
    sclk := co.sclk
    groups := s.placeGroups core r.p0 r.keeper ((List.range t.shape.groups).map fun g => { group g with lastIssue := s.cycle })
    tiles := t.shape.tiles.map fun n => { size := n }
    bars := List.replicate t.shape.barriers { mask := BitVec.ofNat 16 (2 ^ t.shape.groups - 1) }
    recs := match q with
      | none => []
      | some q => m.seqs.map fun k => { queue := q.num, seq := k } }
  { s with crews := s.crews ++ [c] }

/-- A claim that returns to a launching core (02 R42, 13 R329, 14 R363). -/
def State.launchBack (s : State) (core resv : Nat) (m : ClaimRep) : State :=
  match (s.core core).resv.find? fun r => r.id == resv with
  | none => s
  | some r => s.divide core fun s =>
    let s := s.updCore core fun co => { co with resv := co.resv.filter fun r => r.id != resv }
    match s.stage? r.stage with
    | none => s
    | some t =>
      let aborting : Bool := match s.graph? t.graph with
        | some g => g.aborting
        | none => true
      if m.idx.isNone then
        s.updCore core fun co => { co with skip := co.skip ++ [t.num], evalDue := true }
      else if aborting then
        match t.inp with
        | .queue n => s.releaseRecs n m.seqs
        | .range .. => s
      else
        let s := s.updCore core fun co => { co with lclk := max co.lclk m.wt, sclk := max co.sclk m.wt }
        let due := ((s.core core).switching && s.vfTs t.vf) || s.coreGoing core
        (s.startCrew core r t m due).perfAdd core t.vf 0x0D 1

/-- CLAIM_REPLY. -/
def execClaimReply (m : ClaimRep) (s : State) : Host.Outcome State Fault Refusal :=
  .next (match m.claim.kind with
    | .launch core resv => s.launchBack core resv m
    | .deq w out lanes => if s.stopHolds (.group w out 0) then s.stopKeep (.claimReply m) else s.deqBack m w out lanes)

/-! ## Retirement, pre-emption and slices -/

/-- Are the stores, copies and tiles done of a crew that closes, or whose context is discarded (02 R46, 10 R269)? -/
def Crew.closed (c : Crew) : Bool :=
  (c.st == .closing || c.st == .gone) && c.copies.isEmpty &&
    c.groups.all (fun g => !g.hasHeld && g.later.isEmpty && !g.fenceWaits .dev && g.outs.isEmpty) &&
    c.tiles.all fun t => !(t.st == .filling || t.st == .draining)

/-- CREW_RETIRE: a closing crew whose stores and copies are complete ends its fence, with `.ASYNC` for every copy that it started
(13 R339), and releases what it holds (02 R46, R47). One whose context is discarded holds no resources of a core (10 R269). -/
def execCrewRetire (crew : Nat) (s : State) : Host.Outcome State Fault Refusal :=
  .next (match s.crew? crew with
    | none => s
    | some c =>
      if !c.closed || (s.core c.core).mq.any (fun j => j.iss.who.crew == crew) then s
      else
        let wt := (c.groups.map (·.copyWt)).foldl max 0
        let s := if c.st == .gone then s else ((s.syncClocks crew .dev).raiseClocks crew wt wt).saveCrew crew .closing
        let s := s.divide c.core fun s => { s with crews := s.crews.filter fun x => x.id != crew }
        let s := { s with svcOpen := s.svcOpen.filter fun o => o.2.2.crew != crew }
        ((c.recs.map (·.queue)).eraseDups).foldl (fun s n =>
          s.releaseRecs n ((c.recs.filter fun r => r.queue == n).map (·.seq))) s)

/-- Does a precise stop keep a group of the crew frozen (17 R426)? -/
def State.stopKeeps (s : State) (c : Crew) : Bool := c.groups.any fun g => s.stopped c.core g.part

/-- May a crew that is being stopped be saved now? A precise stop lengthens the pre-emption (23 R498). -/
def State.maySave (s : State) (c : Crew) : Bool := c.st == .stopping && s.settled c && !s.stopKeeps c

/-- PREEMPTION (02 R48): a running crew is stopped, one with a group in a stopped partition once the stop is released (17 R426); the
context of one that is stopped already is written, or discarded under GSTOP.ABORT (10 R269), once everything is settled. -/
def execPreemption (crew : Nat) (s : State) : Host.Outcome State Fault Refusal :=
  .next (match s.crew? crew with
    | none => s
    | some c =>
      if c.st == .running && s.stopKeeps c then { s with stop := s.stop.map fun t => { t with deferred := t.deferred ++ [crew] } }
      else if c.st == .running then s.stopCrew crew .saved
      else if s.maySave c then
        let t := s.saveCrew crew c.stopTo
        if (s.graph? c.graph).any (·.aborting) then t.discardCrew crew else t
      else s)

/-- SLICE_END: the core pre-empts every crew of the outgoing VF (14 R350). -/
def execSliceEnd (core : Nat) (s : State) : Host.Outcome State Fault Refusal :=
  .next (match (s.core core).tsvf with
    | none => s
    | some vf =>
      let mine := s.crews.filter fun c => c.core == core && c.vf == vf && c.st == .running
      (s.updCore core fun co => { co with switching := true }).post (mine.map fun c => .preemption c.id))

/-- Does a core still hold crews or reservations of a VF? -/
def State.vfStands (s : State) (core vf : Nat) : Bool :=
  (s.crews.any fun c => c.core == core && c.vf == vf && c.resident) ||
    (s.core core).resv.any fun r => (s.stage? r.stage).any fun t => t.vf == vf

/-- Count a slice switch that overran by some ns (23 R498, R499). -/
def State.overrun (s : State) (vf ns : Nat) : State :=
  let o := 0x1_0050 + 0x100 * vf
  let us := ns / 1000
  let w := s.reg o
  let n := if 1 ≤ us then min (fld w 24 24 + 1) (2 ^ 24 - 1) else fld w 24 24
  s.setReg o (BitVec.ofNat 64 (n * 2 ^ 24 + max (fld w 0 24) (min us (2 ^ 24 - 1))))

/-- SLICE_SWITCH_COMPLETE: the next VF's slice begins and runs whole (14 R350, 23 R498). -/
def execSliceSwitchComplete (core : Nat) (s : State) : Host.Outcome State Fault Refusal :=
  .next (match (s.core core).tsvf with
    | none => s
    | some vf =>
      if s.vfStands core vf then s
      else
        let now := (sget 0 s.time (core / 72)).toNat
        let ts := s.tsVfs core
        let next := (ts.find? fun v => decide (vf < v)).orElse fun _ => ts.head?
        (s.overrun vf (now - (s.core core).sliceEnd)).updCore core fun co => { co with
          tsvf := next
          sliceEnd := now + (next.map s.vfSlice).getD 0
          switching := false
          evalDue := true })

end Sys2Proof.Machine
end

