-- ==== Sys2Proof/Machine/Admission.lean ====
section
/-! DEFINITION. The VF blocks of the partitioning controller (14 R346 to R349) and admission (14 R341 to R345, R351 to
R353, 19 R443). -/

namespace Sys2Proof.Machine

/-! ## The VF blocks -/

/-- The registers of a VF that a write may change, as the write would leave them. -/
structure VfRegs where
  ctl : Word
  asid : Word
  mask : List Word
  quota : Word
  deriving DecidableEq, Repr

/-- The registers as they stand. -/
def State.vfRegs (s : State) (vf : Nat) : VfRegs where
  ctl := s.vfReg vf 0
  asid := s.vfReg vf 8
  mask := (List.range 5).map fun k => s.vfReg vf (0x10 + 8 * k)
  quota := s.vfReg vf 0x38

/-- Is a VFQUOTA value in range (14 R348)? -/
def quotaOk (q : Word) : Bool :=
  decide (fld q 0 4 ≤ 12) && decide (fld q 8 7 ≤ 64) && decide (fld q 16 11 ≤ 1024) && decide (fld q 32 4 ≤ 11) &&
    decide (fld q 40 7 ≤ 64) && decide (fld q 48 9 ≤ 256)

/-- The larger of two uses, resource by resource. -/
def Use.sup (a b : Use) : Use where
  slots := List.zipWith max a.slots b.slots
  vregs := List.zipWith max a.vregs b.vregs
  gregs := max a.gregs b.gregs
  bars := max a.bars b.bars
  entries := max a.entries b.entries
  bytes := max a.bytes b.bytes
  acc := max a.acc b.acc

/-- Do the quotas of the enabled VFs fit every core (14 R349)? The bits of an absent core are ignored (24 R512). -/
def State.quotasFit (s : State) (rs : List VfRegs) : Bool :=
  let on := rs.filter fun r => r.ctl.getLsbD 0
  (List.range 288).all fun core => (s.core core).absent ||
    let here := on.filter fun r => ((r.mask.getD (core / 64) 0).getLsbD (core % 64))
    let use (r : VfRegs) : Use := { quotaUse r.quota with entries := 0 }
    let sp := ((here.filter fun r => !r.ctl.getLsbD 2).map use).foldl Use.add {}
    let ts := ((here.filter fun r => r.ctl.getLsbD 2).map use).foldl Use.sup {}
    (sp.add ts).within coreUse

/-- The core's time-sliced VF after a change of the VFs: one that is none of them gives way, and the first begins its
slice; one that has been the only one begins a slice as a second joins it, where the one that it had is over (14 R350,
23 R498). -/
def State.retime (old s : State) (core : Nat) : State :=
  let ts := s.tsVfs core
  let now := (sget 0 s.time (core / 72)).toNat
  let keep : Bool := match (s.core core).tsvf with
    | some v => ts.contains v
    | none => ts.isEmpty
  let joined : Bool := decide ((old.tsVfs core).length < 2) && decide (2 ≤ ts.length) && decide ((s.core core).sliceEnd ≤ now)
  if keep then
    if joined then s.updCore core fun co => { co with sliceEnd := now + (co.tsvf.map s.vfSlice).getD 0 } else s
  else s.updCore core fun co => { co with
    tsvf := ts.head?
    sliceEnd := now + (ts.head?.map s.vfSlice).getD 0
    switching := false }

/-- The result of a write of VFCTL, VFASID, VFCOREk or VFQUOTA: REJ, or the value taken (14 R349). SLICE is held as written
where TS is 0 too, and a SLICE of 0 written with TS keeps the one from before (notes/assumptions/92.md). -/
def State.vfTake (s : State) (vf ofs : Nat) (v : Word) : State :=
  let old := s.vfRegs vf
  let slice := if v.getLsbD 2 && fld v 32 16 == 0 then fld old.ctl 32 16 else fld v 32 16
  let ctl : Nat := fld v 0 1 + fld v 2 1 * 4 + slice * 2 ^ 32
  let new : VfRegs := match ofs with
    | 0 => { old with ctl := BitVec.ofNat 64 ctl }
    | 8 => { old with asid := v &&& (bitsMask 27 16 ||| bitsMask 11 0) }
    | 0x38 => { old with quota := v &&& (bitsMask 56 48 ||| bitsMask 46 40 ||| bitsMask 35 32 ||| bitsMask 26 16 |||
        bitsMask 14 8 ||| bitsMask 3 0) }
    | _ => { old with mask := lupd old.mask ((ofs - 0x10) / 8) fun _ => if ofs = 0x30 then v &&& bitsMask 31 0 else v }
  let inRange : Bool := match ofs with
    | 0 => !v.getLsbD 2 || slice != 0
    | 0x38 => quotaOk new.quota
    | _ => true
  let all := (List.range 16).map fun w => if w = vf then new else s.vfRegs w
  if s.graphs.any (fun g => g.vf == vf) || !inRange || !s.quotasFit all then s.setFld (0x1_0000 + 0x100 * vf) 1 1 1
  else
    let b := 0x1_0000 + 0x100 * vf
    let was := s
    let s := s.setReg b (new.ctl &&& ~~~2)
    let s := s.setReg (b + 8) new.asid
    let s := (numbered new.mask).foldl (fun s p => s.setReg (b + 0x10 + 8 * p.1) p.2) s
    let s := s.setReg (b + 0x38) new.quota
    ((List.range 288).foldl was.retime s).holdFloor

/-- A write of a VF block's register that is taken clears REJ (14 R347, R349). -/
def State.vfTook (s : State) (vf : Nat) : State := s.setFld (0x1_0000 + 0x100 * vf) 1 1 0

/-- VF_REGISTER_WRITE: the registers of a VF block but HENQ, SVCTAIL and SVCVAL (14 R346 to R349, R523, 23 R499). -/
def execVfRegisterWrite (vf ofs : Nat) (v : Word) (s : State) : Host.Outcome State Fault Refusal :=
  .next (
    let r := 0x1_0000 + 0x100 * vf + ofs
    let on := (s.vfReg vf 0x60).getLsbD 0
    match ofs with
    | 0x50 => (s.setReg r (v &&& bitsMask 47 0)).vfTook vf
    | 0x58 => if on then s else (s.setReg r (v &&& bitsMask 51 12)).vfTook vf
    | 0x60 =>
      let size := if on || decide (10 < fld v 1 4) then fld (s.reg r) 1 4 else fld v 1 4
      (s.setReg r (BitVec.ofNat 64 (fld v 0 1 + 2 * size))).vfTook vf
    | 0x78 => (s.setReg r v).vfTook vf
    | _ => if ofs ≤ 0x38 ∧ ofs % 8 = 0 then s.vfTake vf ofs v else s)

/-! ## Reading the descriptor (14 R341 to R345) -/

/-- What a read by admission gives: a value, a failure (reason 5), or peer words that must come first; and the state, in
which the walks have set A and filled their TLBs. -/
inductive Rd (α : Type) where
  | ok (a : α) (s : State)
  | no (s : State)
  | far (vas : List Nat) (s : State)

/-- Go on with what was read. -/
def Rd.bind {α β : Type} (r : Rd α) (k : α → State → Rd β) : Rd β :=
  match r with
  | .ok a s => k a s
  | .no s => .no s
  | .far vas s => .far vas s

/-- Bytes of a piece on a peer page, from the words that have come for the group's GLOAD (16 R398). -/
def farPiece (got : SMap Nat) (va n : Nat) : Except (List Nat) (Option (List Byte)) :=
  let words := (List.range (ceilDiv (va % 4 + n) 4)).map fun k => va / 4 * 4 + 4 * k
  let need := words.filter fun w => sget 0 got (codeKey w) == 0
  if !need.isEmpty then .error need
  else if words.any fun w => codeBad (sget 0 got (codeKey w)) ≠ 0 then .ok none
  else .ok (some ((List.range n).map fun k => codeAt (sget 0 got (codeKey ((va + k) / 4 * 4))) (va + k)))

/-- Read bytes at their homes under an ASID (10 R268, 14 R351 step 1). A page without translation or R, poison, a multicast page
and an unreachable far end fail; a window frame reads as zeros, for the pieces are no aligned accesses of 8 bytes (15 R376). A word whose
slice hands its state over must come first, and no word of a peer with it (24 R513). -/
def State.readPieces (s : State) (asid : Nat) (got : SMap Nat) : List (Nat × Nat) → Rd (List Byte)
  | [] => .ok [] s
  | p :: t =>
    if s.sliceMoves (homeOf p.1) then .far [] s else
    match s.translate (ctrlOf (homeOf p.1)) asid p.1 (·.r) false with
    | (s, .ok x) =>
      let here : Rd (List Byte) := match s.homeBlk asid p.1 with
        | some b => if b.poison.has (wordOf p.1) then .no s else .ok (b.read p.1 p.2) s
        | none =>
          let s := if x.ac && x.attr.ap != .peer then s.countAcc (ctrlOf (homeOf p.1)) asid p.1 false else s
          if x.attr.ap = .peer then (match farPiece got p.1 p.2 with
            | .error vas => .far vas s
            | .ok none => .no s
            | .ok (some bs) => .ok bs s)
          else if x.attr.ap = .mcast then .no s
          else if inWindow x.attr.ap x.pa then .ok (List.replicate p.2 0) s
          else if s.backPoison x.attr.ap x.pa || (s.zdown.isSome && x.attr.ap == .host) then .no s
          else .ok (s.backRead x.attr.ap x.pa p.2) s
      here.bind fun bs s => (s.readPieces asid got t).bind fun rest s => .ok (bs ++ rest) s
    | (s, _) => .no s

/-- Read `n` bytes at an address. -/
def State.readVa (s : State) (asid : Nat) (got : SMap Nat) (va n : Nat) : Rd (List Byte) :=
  if 2 ^ 51 < va + n then .no s else s.readPieces asid got (wordPieces va n)

/-- The number in `n` bytes at an offset of a list of bytes. -/
def leAt (bs : List Byte) (ofs n : Nat) : Nat := leNat ((bs.drop ofs).take n)

/-- The entries of a table. -/
def rowsOf (size : Nat) : Nat → List Byte → List (List Byte)
  | 0, _ => []
  | k + 1, bs => bs.take size :: rowsOf size k (bs.drop size)

/-- A descriptor with its tables, as bytes. -/
structure Desc where
  hdr : List Byte
  queues : List (List Byte)
  stages : List (List Byte)
  edges : List (List Byte)
  tiles : List (List Nat)            -- for each stage, the sizes of its tiles in 512-byte units

/-- Read the tile tables of the stages. -/
def State.readTiles (s : State) (asid : Nat) (got : SMap Nat) : List (List Byte) → Rd (List (List Nat))
  | [] => .ok [] s
  | t :: ts =>
    let n := leAt t 50 1
    let here := if n = 0 then .ok [] s else s.readVa asid got (leAt t 56 8) (2 * n)
    here.bind fun r s => (s.readTiles asid got ts).bind fun q s => .ok ((rowsOf 2 n r).map leNat :: q) s

/-- Read the descriptor and its tables. -/
def State.readDesc (s : State) (asid : Nat) (got : SMap Nat) (va : Nat) : Rd Desc :=
  (s.readVa asid got va 64).bind fun h s =>
    let nq := leAt h 4 2
    let ns := leAt h 6 2
    let ne := leAt h 8 2
    let tab (s : State) (ofs n size : Nat) : Rd (List Byte) :=
      if n = 0 then .ok [] s else s.readVa asid got (leAt h ofs 8) (n * size)
    (tab s 16 nq 48).bind fun q s => (tab s 24 ns 64).bind fun t s => (tab s 32 ne 16).bind fun e s =>
      (s.readTiles asid got (rowsOf 64 ns t)).bind fun r s =>
        .ok { hdr := h, queues := rowsOf 48 nq q, stages := rowsOf 64 ns t, edges := rowsOf 16 ne e, tiles := r } s

/-- Is every byte of a range zero? -/
def zeros (bs : List Byte) (ofs n : Nat) : Bool := leAt bs ofs n == 0

/-- Is the header well formed (14 R341, R345)? -/
def hdrOk (h : List Byte) : Bool :=
  leAt h 0 4 == 1 && decide (leAt h 4 2 ≤ 4096) && decide (1 ≤ leAt h 6 2) && decide (leAt h 6 2 ≤ 1024) &&
    decide (leAt h 8 2 ≤ leAt h 4 2) && leAt h 10 2 != 0 && decide (leAt h 10 2 < 4096) && zeros h 12 4 && zeros h 40 24

/-- Is a queue-table entry well formed (14 R342, R345)? -/
def queueOk (q : List Byte) : Bool :=
  leAt q 0 8 != 0 && leAt q 0 8 % 512 == 0 && leAt q 8 8 % 512 == 0 && decide (leAt q 0 8 < 2 ^ 51) &&
    decide (leAt q 8 8 < 2 ^ 51) && (leAt q 20 4 != 0 || leAt q 8 8 == 0) && decide (32 ≤ leAt q 16 4) &&
    decide (leAt q 16 4 ≤ 16384) && decide (leAt q 20 4 ≤ 2 ^ 24) && decide (leAt q 36 1 ≤ 15) && decide (leAt q 37 1 ≤ 1) &&
    zeros q 38 10

/-- The input of a stage-table entry: none for a range. -/
def stageInq (t : List Byte) : Option Nat := if leAt t 8 2 / 2 ^ 15 = 1 then none else some (leAt t 8 2 % 2 ^ 12)

/-- Its output queues. -/
def stageOuts (t : List Byte) : List Nat := (List.range (leAt t 10 1)).map fun k => leAt t (12 + 2 * k) 2

/-- Is a stage-table entry well formed (14 R343, R345)? -/
def stageOk (nq : Nat) (t : List Byte) (tiles : List Nat) : Bool :=
  let range := (stageInq t).isNone
  let nout := leAt t 10 1
  let fcr := leAt t 51 1
  leAt t 0 8 % 4 == 0 && decide (leAt t 0 8 < 2 ^ 48) && leAt t 8 2 / 2 ^ 12 % 8 == 0 &&
    (!range || leAt t 8 2 % 2 ^ 12 == 0) && ((stageInq t).all fun q => decide (q < nq)) && decide (nout ≤ 8) &&
    leAt t 11 1 != 0 && ((stageOuts t).all fun q => decide (q < nq)) && zeros t (12 + 2 * nout) (16 - 2 * nout) &&
    !((stageInq t).any fun q => (stageOuts t).contains q) &&
    (if range then leAt t 28 4 != 0 && leAt t 32 2 != 0 && leAt t 34 2 != 0 else zeros t 28 8) &&
    decide (1 ≤ leAt t 44 1) && decide (leAt t 44 1 ≤ 16) && decide (leAt t 36 2 ≤ 32 * leAt t 44 1) &&
    decide (1 ≤ leAt t 45 1) && decide (leAt t 45 1 ≤ 32) && decide (leAt t 46 2 ≤ 32) && decide (leAt t 48 1 ≤ 16) &&
    decide (leAt t 49 1 ≤ 64) && decide (leAt t 50 1 ≤ 128) && decide (fcr < 64) && fcr / 8 % 2 == 0 &&
    decide (fcr % 8 ≤ 4) && zeros t 52 4 && (leAt t 50 1 != 0 || zeros t 56 8) && tiles.all (· != 0)

/-- Is an edge-table entry well formed (14 R344)? -/
def edgeOk (nq : Nat) (e : List Byte) : Bool :=
  decide (leAt e 0 2 < nq) && decide (leAt e 2 2 < 1024) && zeros e 6 10

/-- Is the descriptor well formed as a whole (14 R343 to R345)? -/
def Desc.ok (d : Desc) : Bool :=
  let nq := d.queues.length
  let edges := d.edges.map fun e => leAt e 0 2
  let ins := d.stages.filterMap stageInq
  hdrOk d.hdr && d.queues.all queueOk && (d.stages.zip d.tiles).all (fun p => stageOk nq p.1 p.2) &&
    d.edges.all (edgeOk nq) && decide (edges.Nodup) &&
    (List.range nq).all fun q => (ins.filter (· == q)).length == if edges.contains q then 0 else 1

/-! ## Admission (14 R351 to R353) -/

/-- The n lowest numbers below a limit that are free. -/
def lowestFree (used : List Nat) (limit n : Nat) : List Nat :=
  ((List.range limit).filter fun k => !used.contains k).take n

/-- The shape of a stage-table entry. -/
def shapeOf (t : List Byte) (tiles : List Nat) : Shape where
  groups := leAt t 44 1
  vregs := 8 * leAt t 45 1
  gregs := 32 * leAt t 46 2
  barriers := leAt t 48 1
  tiles := tiles.map (512 * ·)
  acc := 16 * leAt t 49 1

/-- The queue of a table entry; its level and bound are not computed yet. -/
def queueOf (d : Desc) (nums : List Nat) (graph vf i : Nat) (q : List Byte) : Queue :=
  let win := leAt q 16 4
  let pan := leAt q 20 4
  let edge := (d.edges.find? fun e => leAt e 0 2 == i).map fun e => (leAt e 2 2, leAt e 4 2)
  let lreq := leAt q 28 4
  { num := nums.getD i 0, graph := graph, vf := vf, asid := leAt d.hdr 10 2, winbase := leAt q 0 8, panbase := leAt q 8 8
    wincnt := win, pancnt := pan, size := 16 * (leAt q 36 1 + 1), host := leAt q 37 1 % 2 == 1
    lq := if lreq = 0 then win + pan else min (win + pan) lreq
    dq := 0, cons := none, edge := edge }

/-- The stage of a table entry. -/
def stageOf (d : Desc) (qnums : List Nat) (num graph vf : Nat) (t : List Byte) (tiles : List Nat) : Stage :=
  let sh := shapeOf t tiles
  { num := num, graph := graph, vf := vf, asid := leAt d.hdr 10 2, entry := BitVec.ofNat 48 (leAt t 0 8)
    inp := match stageInq t with
      | none => .range (leAt t 28 4) (leAt t 32 2) (leAt t 34 2)
      | some q => .queue (qnums.getD q 0)
    outs := (stageOuts t).map fun q => qnums.getD q 0
    weight := leAt t 11 1
    batch := if leAt t 36 2 = 0 then 32 * sh.groups else leAt t 36 2
    flush := leAt t 38 2
    cost := if leAt t 40 4 = 0 then 65536 else leAt t 40 4
    shape := sh
    fcr := BitVec.ofNat 6 (leAt t 51 1) }

/-- The largest shape among several, resource by resource (14 R352). -/
def largest (shs : List Shape) : Shape :=
  let most (f : Shape → Nat) : Nat := (shs.map f).foldl max 0
  let n := most fun s => s.tiles.length
  { groups := most (·.groups), vregs := most (·.vregs), gregs := most (·.gregs), barriers := most (·.barriers)
    tiles := if n = 0 then [] else most (fun s => s.tiles.sum) :: List.replicate (n - 1) 0
    acc := most (·.acc) }

/-- What each keeper and entry slot serves: stage numbers (14 R351 step 4, R352). -/
def slotsOf (stages : List Stage) (edge : Nat → Bool) : List (List Nat) :=
  let outs := (stages.map (·.outs)).flatten
  let consumers (t : Stage) : List Nat :=
    let qs := t.outs.filter fun q => !edge q
    (stages.filter fun u => match u.inp with
      | .queue q => qs.contains q
      | .range .. => false).map (·.num)
  let keepers := (stages.filter fun t => t.outs.any fun q => !edge q).map consumers
  let entries := (stages.filter fun t => match t.inp with
    | .queue q => !outs.contains q
    | .range .. => false).map fun t => [t.num]
  keepers ++ entries

/-- Reserve the slots, each on the lowest core whose remaining quota holds it; what other VFs have there at the moment is no
matter (14 R352). -/
def State.reserve (s : State) (graph vf : Nat) (stages : List Stage) : List (List Nat) → Option State
  | [] => some s
  | serves :: rest =>
    let sh := largest ((stages.filter fun t => serves.contains t.num).map (·.shape))
    match (List.range 288).find? fun c => s.vfHas vf c && !(s.core c).absent &&
        ((s.heldOn c (some vf)).add (sh.use (s.basePart c))).within (quotaUse (s.vfReg vf 0x38)) with
    | none => none
    | some c =>
      let (id, s) := s.newTag
      let k : Keeper := {
        id := id, graph := graph, vf := vf, core := c, p0 := s.basePart c, slots := s.keeperSlots c vf (s.basePart c) sh.groups
        shape := sh, serves := serves.map fun n => (n, 0) }
      State.reserve { s with keepers := s.keepers ++ [k] } graph vf stages rest

/-- The cores whose quota fits a stage's shape (14 R351 step 5). -/
def State.candCores (s : State) (t : Stage) : List Nat :=
  (List.range 288).filter fun c => s.vfHas t.vf c && !(s.core c).absent && decide ((s.core c).cands.length < 64) &&
    (t.shape.use 0).within (quotaUse (s.vfReg t.vf 0x38))

/-- Enter the stages into the candidate tables; none where one enters no table. -/
def State.enterCands (s : State) : List Stage → Option State
  | [] => some s
  | t :: ts =>
    match s.candCores t with
    | [] => none
    | cs => (cs.foldl (fun s c => s.updCore c fun co => { co with cands := lsort id (co.cands ++ [t.num]) }) s).enterCands ts

/-- The bound of a queue (14 R353): its L_q and D_q in ns; none is reason 4. -/
def State.bound (s : State) (t : Stage) (rate wincnt lq dmax : Nat) : Option (Nat × Rat) :=
  let n : ℚ := 32 * t.shape.groups
  let f : ℚ := (s.reg (0xD40 + 8 * t.vf)).toNat / 1000
  let tc : ℚ := t.cost / f
  let h : ℚ := ((s.keepers.filter fun k => k.serves.any fun p => p.1 == t.num).map fun k => (1 : ℚ) / k.serves.length).sum
  let others (c : Nat) : Nat := (((s.tsVfs c).filter (· != t.vf)).map s.vfSlice).sum
  let rot : ℚ := if s.vfTs t.vf then ((((List.range 288).filter (s.vfHas t.vf)).map others).foldl max 0 : Nat) else 0
  let p : ℚ := if s.vfTs t.vf then s.vfSlice t.vf / (s.vfSlice t.vf + rot) else 1
  let fixed : ℚ := 600 + 256 / f + t.flush * 64 / f + rot
  let d (l : Nat) : ℚ := fixed + (⌈(l : ℚ) / n⌉ + 1) * tc / (h * p)
  let dm : ℚ := dmax * 1000 / 65536
  if n * h * p < (rate : ℚ) / 65536 / 1000 * tc then none
  else if (wincnt : ℚ) < n * (⌈h⌉ + 1) then none
  else if dmax = 0 ∨ d lq ≤ dm then some (lq, d lq)
  else
    let m := (⌊(dm - fixed) * (h * p) / tc - 1⌋).toNat
    let l := min (lq - 1) (32 * t.shape.groups * m)
    if 32 * t.shape.groups ≤ l ∧ d l ≤ dm then some (l, d l) else none

/-- The words that a window pins in each set, by 1536 · slice + set (14 R355): the home blocks of its spans, all their words. -/
def Queue.pins (q : Queue) (m : SMap Nat) : SMap Nat :=
  (List.range (ceilDiv (q.winbase % 512 + q.wincnt * q.size) 512)).foldl (fun m k =>
    let va := q.winbase + 512 * k
    let key := 1536 * homeOf va + l2Set va
    sset 0 m key (sget 0 m key + 32)) m

/-- Does every page of a queue's window and pannier lie on a writable RC page of local HBM (14 R342)? -/
def State.windowOk (s : State) (q : Queue) : Bool :=
  (runPages q.winbase (q.wincnt * q.size) ++ runPages q.panbase (q.pancnt * q.size)).all fun va => match s.walk q.asid va with
    | .leaf p lvl _ => let x := xlOf p lvl va
      x.attr.w && x.attr.ok == .rc && x.attr.ap == .hbm && !x.beyond
    | _ => false

/-- The levels, bounds and pins of a graph's queues; none is reason 4. -/
def State.boundAll (s : State) (stages : List Stage) : List (Queue × List Byte) → Option (List Queue)
  | [] => some []
  | (q, b) :: rest =>
    if !s.windowOk q then none
    else
      let cons := stages.find? fun t => t.inp == .queue q.num
      let q' : Option Queue := match cons with
        | none => some q
        | some t => (s.bound t (leAt b 24 4) q.wincnt q.lq (leAt b 32 4)).map fun r =>
            { q with lq := r.1, dq := r.2, cons := some t.num }
      q'.bind fun q => (s.boundAll stages rest).map fun l => q :: l

/-- What admission decides: the handle with the state, the reason of a rejection, or that peer words are to be read first. -/
inductive Admit where
  | yes (handle : Nat) (s : State)
  | no (reason : Nat)
  | far (vas : List Nat)

/-- Admit a descriptor that was read (14 R351 from the tests of step 1 on). -/
def State.admitDesc (s : State) (d : Desc) (vf : Nat) : Admit :=
  let asid := leAt d.hdr 10 2
  let nq := d.queues.length
  let ns := d.stages.length
  if !d.ok then .no 1
  else if 16 ≤ vf ∨ !s.vfOn vf then .no 6
  else if asid < fld (s.vfReg vf 8) 0 12 ∨ fld (s.vfReg vf 8) 16 12 < asid then .no 1
  else if 64 ≤ s.graphs.length ∨ 1024 < s.stages.length + ns ∨ 4096 < s.queues.length + nq then .no 2
  else
    let snums := lowestFree (s.stages.map (·.num)) 1024 ns
    let qnums := lowestFree (s.queues.map (·.num)) 4096 nq
    let handle := (lowestFree (s.graphs.map (·.handle)) 64 1).headD 0
    let queues := (numbered d.queues).map fun p => queueOf d qnums handle vf p.1 p.2
    let stages := (snums.zip (d.stages.zip d.tiles)).map fun p => stageOf d qnums p.1 handle vf p.2.1 p.2.2
    let edge (n : Nat) : Bool := queues.any fun q => q.num == n && q.edge.isSome
    match s.reserve handle vf stages (slotsOf stages edge) with
    | none => .no 3
    | some s => (match s.enterCands stages with
      | none => .no 3
      | some s => (match s.boundAll stages (queues.zip d.queues) with
        | none => .no 4
        | some queues =>
          if ((s.queues ++ queues).foldl (fun m q => q.pins m) ([] : SMap Nat)).any (fun e => decide (64 < e.2)) then .no 4
          else
            let s := s.dropHome fun b => queues.any fun q => q.pinsSpan b.asid b.span   -- their spans are filled whole from now on
            .yes handle { s with
            graphs := s.graphs ++ [{ handle := handle, vf := vf, asid := asid, queues := qnums, stages := snums }]
            stages := s.stages ++ stages
            queues := s.queues ++ queues }))

/-- Admit the descriptor at an address (14 R351), after its reads; `got` are the peer words read for it so far. -/
def State.admission (s : State) (crewAsid : Nat) (got : SMap Nat) (va vf : Nat) : State × Admit :=
  match s.readDesc crewAsid got va with
  | .no s => (s, .no 5)
  | .far vas s => (s, .far vas)
  | .ok d s => (s, s.admitDesc d vf)

/-- Does the read of a descriptor need words of host memory while the Zenvex Link retrains (23 R501, R506)? They are the words that a
link which is down could not give. -/
def State.admitWaits (s : State) (asid : Nat) (got : SMap Nat) (va : Nat) : Bool :=
  s.zretrains && (match s.readDesc asid got va, { s with zdown := some 0 }.readDesc asid got va with
    | .no _, _ => false
    | _, .no _ => true
    | _, _ => false)

/-- ADMISSION_DECISION (10 R268): D receives the handle, or the reason; a rejection reserves nothing. Words of the descriptor
on a peer are read over the fabric first, and then the GLOAD, which has issued, asks again. -/
def execAdmissionDecision (w : Who) (va vf : Nat) (s : State) : Host.Outcome State Fault Refusal :=
  .next (match s.crew? w.crew, s.group? w with
    | some c, some g => if s.admitWaits c.asid g.answers va then { s with flight := s.flight ++ [.admissionDecision w va vf] } else
      (match s.admission c.asid g.answers va vf with
      | (s, .no n) => s.giveAnswer w (BitVec.ofNat 64 (2 ^ 63 + n))
      | (_, .yes h s) => s.giveAnswer w (BitVec.ofNat 64 h)
      | (s, .far []) => { s with flight := s.flight ++ [.admissionDecision w va vf] }
      | (s, .far vas) => s.readWords w c 0 ((vas.map fun va => (va / 64 * 64, true)).eraseDups) false)
    | _, _ => s)

end Sys2Proof.Machine
end

