-- ==== Sys2Proof/Machine/Ecdsa.lean ====
section
/-! DEFINITION. ECDSA P-384 over SHA-384, which verifies an image (18 R437): the algorithms are those of FIPS 180-4 and FIPS 186-4,
which the rule names and does not repeat. -/

namespace Sys2Proof.Machine

/-! ## Values in a row -/

/-- Go on with the value of a number: the kernel finds it before it goes on. -/
def withVal {α : Type} (n : Nat) (k : Nat → α) : α :=
  match n with
  | 0 => k 0
  | m + 1 => k (m + 1)

/-- Go on with the values of a list. -/
def withVals {α : Type} : List Nat → (List Nat → α) → α
  | [], k => k []
  | n :: t, k => withVal n fun n => withVals t fun t => k (n :: t)

/-- The number that bytes are, the first one the most significant. -/
def beNat (bs : List Byte) : Nat := bs.foldl (fun a b => 256 * a + b.toNat) 0

/-! ## SHA-384 -/

/-- A 64-bit word rotated to the right. -/
def ror64 (x n : Nat) : Nat := x >>> n ||| x <<< (64 - n) % 2 ^ 64

/-- A quarter of the constants of SHA-384's rounds. -/
def shaK0 : List Nat :=
  [0x428A2F98D728AE22, 0x7137449123EF65CD, 0xB5C0FBCFEC4D3B2F, 0xE9B5DBA58189DBBC, 0x3956C25BF348B538,
   0x59F111F1B605D019, 0x923F82A4AF194F9B, 0xAB1C5ED5DA6D8118, 0xD807AA98A3030242, 0x12835B0145706FBE,
   0x243185BE4EE4B28C, 0x550C7DC3D5FFB4E2, 0x72BE5D74F27B896F, 0x80DEB1FE3B1696B1, 0x9BDC06A725C71235,
   0xC19BF174CF692694, 0xE49B69C19EF14AD2, 0xEFBE4786384F25E3, 0x0FC19DC68B8CD5B5, 0x240CA1CC77AC9C65]

/-- A quarter of the constants of SHA-384's rounds. -/
def shaK1 : List Nat :=
  [0x2DE92C6F592B0275, 0x4A7484AA6EA6E483, 0x5CB0A9DCBD41FBD4, 0x76F988DA831153B5, 0x983E5152EE66DFAB,
   0xA831C66D2DB43210, 0xB00327C898FB213F, 0xBF597FC7BEEF0EE4, 0xC6E00BF33DA88FC2, 0xD5A79147930AA725,
   0x06CA6351E003826F, 0x142929670A0E6E70, 0x27B70A8546D22FFC, 0x2E1B21385C26C926, 0x4D2C6DFC5AC42AED,
   0x53380D139D95B3DF, 0x650A73548BAF63DE, 0x766A0ABB3C77B2A8, 0x81C2C92E47EDAEE6, 0x92722C851482353B]

/-- A quarter of the constants of SHA-384's rounds. -/
def shaK2 : List Nat :=
  [0xA2BFE8A14CF10364, 0xA81A664BBC423001, 0xC24B8B70D0F89791, 0xC76C51A30654BE30, 0xD192E819D6EF5218,
   0xD69906245565A910, 0xF40E35855771202A, 0x106AA07032BBD1B8, 0x19A4C116B8D2D0C8, 0x1E376C085141AB53,
   0x2748774CDF8EEB99, 0x34B0BCB5E19B48A8, 0x391C0CB3C5C95A63, 0x4ED8AA4AE3418ACB, 0x5B9CCA4F7763E373,
   0x682E6FF3D6B2B8A3, 0x748F82EE5DEFB2FC, 0x78A5636F43172F60, 0x84C87814A1F0AB72, 0x8CC702081A6439EC]

/-- A quarter of the constants of SHA-384's rounds. -/
def shaK3 : List Nat :=
  [0x90BEFFFA23631E28, 0xA4506CEBDE82BDE9, 0xBEF9A3F7B2C67915, 0xC67178F2E372532B, 0xCA273ECEEA26619C,
   0xD186B8C721C0C207, 0xEADA7DD6CDE0EB1E, 0xF57D4F7FEE6ED178, 0x06F067AA72176FBA, 0x0A637DC5A2C898A6,
   0x113F9804BEF90DAE, 0x1B710B35131C471B, 0x28DB77F523047D84, 0x32CAAB7B40C72493, 0x3C9EBE0A15C9BEBC,
   0x431D67C49C100D4C, 0x4CC5D4BECB3E42B6, 0x597F299CFC657E2A, 0x5FCB6FAB3AD6FAEC, 0x6C44198C4A475817]

/-- The constants of the rounds. -/
def shaK : List Nat := shaK0 ++ shaK1 ++ shaK2 ++ shaK3

/-- The value before the first block. -/
def shaInit : List Nat :=
  [0xCBBB9D5DC1059ED8, 0x629A292A367CD507, 0x9159015A3070DD17, 0x152FECD8F70E5939, 0x67332667FFC00B31,
   0x8EB44A8768581511, 0xDB0C2E0D64F98FA7, 0x47B5481DBEFA4FA4]

/-- One round, with its constant plus its word of the schedule. -/
def shaRound (t : Nat) : List Nat → List Nat
  | [a, b, c, d, e, f, g, h] =>
    let ch := (e &&& f) ^^^ ((e ^^^ (2 ^ 64 - 1)) &&& g)
    let maj := (a &&& b) ^^^ (a &&& c) ^^^ (b &&& c)
    let t1 := h + (ror64 e 14 ^^^ ror64 e 18 ^^^ ror64 e 41) + ch + t
    let t2 := (ror64 a 28 ^^^ ror64 a 34 ^^^ ror64 a 39) + maj
    [(t1 + t2) % 2 ^ 64, a, b, c, (d + t1) % 2 ^ 64, e, f, g]
  | l => l

/-- The next word of the schedule, after sixteen of it. -/
def shaNext (w : List Nat) : Nat :=
  let x := w.getD 1 0
  let y := w.getD 14 0
  (w.getD 0 0 + (ror64 x 1 ^^^ ror64 x 8 ^^^ (x >>> 7)) + w.getD 9 0 + (ror64 y 19 ^^^ ror64 y 61 ^^^ (y >>> 6))) % 2 ^ 64

/-- The rounds of a block. -/
def shaRounds : List Nat → List Nat → List Nat → List Nat
  | [], _, v => v
  | k :: ks, w, v => withVals (shaRound (k + w.headD 0) v) fun v => withVals (w.tail ++ [shaNext w]) fun w => shaRounds ks w v

/-- Some blocks of 128 bytes. -/
def shaBlocks : Nat → List Byte → List Nat → List Nat
  | 0, _, v => v
  | n + 1, bs, v => withVals ((List.range 16).map fun k => beNat ((bs.drop (8 * k)).take 8)) fun w =>
      withVals ((v.zip (shaRounds shaK w v)).map fun p => (p.1 + p.2) % 2 ^ 64) fun v => shaBlocks n (bs.drop 128) v

/-- SHA-384 of some bytes, as a number whose most significant byte is the digest's first. -/
def sha384 (bs : List Byte) : Nat :=
  let n := (bs.length + 17 + 127) / 128
  let padded := bs ++ [0x80] ++ List.replicate (128 * n - bs.length - 17) 0 ++ (bytesOf (8 * bs.length) 16).reverse
  ((shaBlocks n padded shaInit).take 6).foldl (fun a x => a * 2 ^ 64 + x) 0

/-! ## The curve P-384 -/

/-- The prime of the field, the order of the base point, and the base point. -/
def p384 : Nat := 2 ^ 384 - 2 ^ 128 - 2 ^ 96 + 2 ^ 32 - 1
def n384 : Nat := 0xFFFFFFFFFFFFFFFFFFFFFFFFFFFFFFFFFFFFFFFFFFFFFFFFC7634D81F4372DDF581A0DB248B0A77AECEC196ACCC52973
def gx384 : Nat := 0xAA87CA22BE8B05378EB1C71EF320AD746E1D3B628BA79B9859F741E082542A385502F25DBF55296C3A545E3872760AB7
def gy384 : Nat := 0x3617DE4A96262C6F5D9E98BF9292DC29F8F41DBD289A147CE9DA3113B5F0B8C00A60B1CE1D7E819D7A431D7C90EA0E5F

/-- A point (x : y : z), which stands for (x/z², y/z³); with z = 0 the point at infinity. -/
structure Pt where
  x : Nat
  y : Nat
  z : Nat
  deriving DecidableEq, Repr

/-- Go on with the values of a point. -/
def Pt.withPt {α : Type} (a : Pt) (k : Pt → α) : α :=
  withVal a.x fun x => withVal a.y fun y => withVal a.z fun z => k { x := x, y := y, z := z }

/-- A difference in the field. -/
def subF (a b : Nat) : Nat := (a + p384 - b % p384) % p384

/-- Twice a point. -/
def Pt.dbl (a : Pt) : Pt :=
  let d := a.z * a.z % p384
  let g := a.y * a.y % p384
  let b := a.x * g % p384
  let m := 3 * (subF a.x d * (a.x + d)) % p384
  let x := subF (m * m) (8 * b)
  { x := x, y := subF (m * subF (4 * b) x) (8 * g * g), z := 2 * a.y * a.z % p384 }

/-- The sum of two points. -/
def Pt.add (a b : Pt) : Pt :=
  if a.z = 0 then b
  else if b.z = 0 then a
  else
    let za := a.z * a.z % p384
    let zb := b.z * b.z % p384
    let u := a.x * zb % p384
    let v := a.y * zb * b.z % p384
    let h := subF (b.x * za) u
    let r := subF (b.y * za * a.z) v
    if h = 0 then (if r = 0 then a.dbl else { x := 1, y := 1, z := 0 })
    else
      let h2 := h * h % p384
      let h3 := h * h2 % p384
      let x := subF (r * r) (h3 + 2 * u * h2)
      { x := x, y := subF (r * subF (u * h2) x) (v * h3), z := a.z * b.z * h % p384 }

/-- The low bits of two multipliers worked off, from the highest on: to twice what stands so far comes one of two points, or their sum. -/
def mulPts (u v : Nat) (a b ab : Pt) : Nat → Pt → Pt
  | 0, t => t
  | k + 1, t => t.dbl.withPt fun t =>
      let t := match u.testBit k, v.testBit k with
        | false, false => t
        | true, false => t.add a
        | false, true => t.add b
        | true, true => t.add ab
      t.withPt fun t => mulPts u v a b ab k t

/-- A power modulo m, by the exponent's low bits. -/
def powMod (m x e : Nat) : Nat → Nat → Nat
  | 0, t => t
  | k + 1, t => withVal (t * t % m * (if e.testBit k then x else 1) % m) fun t => powMod m x e k t

/-- The inverse modulo a prime. -/
def invMod (m x : Nat) : Nat := powMod m x (m - 2) 384 1

/-- Does a public key (its two coordinates) verify a signature r, s of a digest? -/
def ecdsaVerify (key : Nat × Nat) (e r s : Nat) : Bool :=
  if r = 0 ∨ n384 ≤ r ∨ s = 0 ∨ n384 ≤ s then false
  else
    withVal e fun e => withVal (invMod n384 s) fun w => withVal (e * w % n384) fun u => withVal (r * w % n384) fun v =>
      let g : Pt := { x := gx384, y := gy384, z := 1 }
      let q : Pt := { x := key.1, y := key.2, z := 1 }
      (g.add q).withPt fun gq => (mulPts u v g q gq 384 { x := 1, y := 1, z := 0 }).withPt fun t =>
        t.z != 0 && withVal (invMod p384 (t.z * t.z % p384)) fun i => t.x * i % p384 % n384 == r

end Sys2Proof.Machine
end

