-- ==== Sys2Proof/Machine/HostLink.lean ====
section
/-! DEFINITION. The host link's registers that act (14 R358, R523): the service queues and the host enqueue. -/

namespace Sys2Proof.Machine

/-- A register of a VF block is set. -/
def State.setVf (s : State) (vf ofs : Nat) (v : Nat) : State := s.setReg (0x1_0000 + 0x100 * vf + ofs) (BitVec.ofNat 64 v)

/-- The number of records of a VF's service queue (14 R523). -/
def State.svcSize (s : State) (vf : Nat) : Nat := 2 ^ (fld (s.vfReg vf 0x60) 1 4 + 5)

/-- May a record be posted now: the queue is on, has room, and the Zenvex Link is up (23 R506)? -/
def State.svcRoom (s : State) (vf : Nat) : Bool :=
  (s.vfReg vf 0x60).getLsbD 0 && !s.zshut &&
    decide ((s.vfReg vf 0x68).toNat - (s.vfReg vf 0x70).toNat < s.svcSize vf)

/-- The bytes of a service record (10 R267). -/
def SvcReq.bytes (r : SvcReq) : List Byte :=
  bytesOf r.pc 6 ++ bytesOf r.code 2 ++ bytesOf r.token 8 ++ bytesOf r.arga.toNat 8 ++ bytesOf r.argb.toNat 8

/-- The slices whose home blocks stand for words of host memory. -/
def State.hostSlices (s : State) (pa n : Nat) : List Nat :=
  (s.slices.filter fun (e : Nat × Slice) => e.2.home.any fun b => b.inRegion pa n).map (·.1)

/-- The bytes of one 128-byte-or-larger region of host memory are brought up to date from the module's caches before a read
of it over the link (15 R388). -/
def State.hostSync (s : State) (pa n : Nat) : State := s.cleanHome fun b => b.inRegion pa n

/-- SERVICE_RECORD_POST: the first waiting record of a VF is posted; a ring that was empty makes an interrupt (14 R523). -/
def execServiceRecordPost (vf : Nat) (s : State) : Host.Outcome State Fault Refusal :=
  .next (match s.svcWait.find? fun r => r.vf == vf with
    | none => s
    | some r =>
      if !s.svcRoom vf then s
      else
        let head := (s.vfReg vf 0x68).toNat
        let at_ := fld (s.vfReg vf 0x58) 12 40 * 2 ^ 12 + 32 * (head % s.svcSize vf)
        let s := match s.svcOpen.find? fun o => o.2.1 == r.token with
          | some o => s.escort (s.coreOf o.2.2.crew) 32 true
          | none => s
        let s := { s with svcWait := s.svcWait.erase r, host := s.host.write at_ r.bytes }
        let s := if head = (s.vfReg vf 0x70).toNat then { s with outbox := s.outbox ++ [.interrupt] } else s
        s.setVf vf 0x68 ((head + 1) % 2 ^ 48))

/-- SVCTAIL: records consumed; a value above SVCHEAD or below the previous one is ignored (14 R523). -/
def execSvctail (vf : Nat) (v : Word) (s : State) : Host.Outcome State Fault Refusal :=
  .next (
    let n := fld v 0 48
    if (s.vfReg vf 0x68).toNat < n ∨ n < (s.vfReg vf 0x70).toNat then s else (s.setVf vf 0x70 n).vfTook vf)

/-- SVCVAL: the answer of the open request that SVCTOK names (14 R523); one that is not posted yet is not open to the host
driver. -/
def execSvcval (vf : Nat) (v : Word) (s : State) : Host.Outcome State Fault Refusal :=
  .next (
    let tok := (s.vfReg vf 0x78).toNat
    let posted := !s.svcWait.any fun r => r.token == tok
    match s.svcOpen.find? fun o => o.1 == vf && o.2.1 == tok with
    | none => s
    | some o =>
      if !posted then s
      else ({ s with svcOpen := s.svcOpen.filter fun p => p != o }.giveAnswer o.2.2 v).vfTook vf)

/-- HENQ: an enqueue begins, unless one is in progress or the link is down (14 R358, 23 R506). -/
def execHenq (vf : Nat) (v : Word) (s : State) : Host.Outcome State Fault Refusal :=
  .next (
    if (s.vfReg vf 0x48).getLsbD 63 || s.zdown.isSome then s
    else
      let s := (s.setVf vf 0x48 (2 ^ 63)).vfTook vf
      { s with henq := s.henq.filter (fun (p : Nat × Word) => p.1 != vf) ++ [(vf, v)] }.send (.henqRecordRead vf v))

/-- HENQ_RECORD_READ: the record is read over the link and appended, or the enqueue ends (14 R358). -/
def execHenqRecordRead (vf : Nat) (v : Word) (s : State) : Host.Outcome State Fault Refusal :=
  .next (
    let w := s
    let s := { s with henq := s.henq.filter fun (p : Nat × Word) => p.1 != vf }
    match s.queue? (fld v 0 12) with
    | none => s.hstat vf 2 0 0
    | some q =>
      if q.vf ≠ vf ∨ !q.host then s.hstat vf 2 0 0
      else
        let pa := fld v 16 48 * 16
        w.unlessMoves (w.hostSlices pa q.size) (.henqRecordRead vf v) <|   -- 24 R513
        let s := s.hostSync pa q.size
        if (wordPieces pa q.size).any fun p => s.backPoison .host p.1 then s.hstat vf 3 0 0
        else s.send (.queueAppendAtHome {
          src := .henq vf, recs := [{ lane := 0, queue := q.num, bytes := s.host.read pa q.size }] }))

end Sys2Proof.Machine
end

