-- ==== Sys2Proof/Machine/Translation.lean ====
section
/-! DEFINITION. Changing translations (15 R379 to R385), the region directory (R387 to R389) and checkpoints (R390 to R395). -/

namespace Sys2Proof.Machine

/-! ## Held requests -/

/-- The address of a peer's request, the rights it needs, and whether it writes. -/
def peerNeeds : PeerOp → Nat × (Attr → Bool) × Bool
  | .load va _ => (va, (fun a => a.r), false)
  | .store va _ => (va, (fun a => a.w), true)
  | .atom va _ _ _ => (va, fun a => a.r && a.w, true)

/-- The rights that a held request needs. -/
def reqRights : Instr → Attr → Bool
  | .storePerformedAtHome _ => (·.w)
  | .atomicAtHome _ => fun a => a.r && a.w
  | .loadRequestAtHome r => if r.fetch then (·.x) else (·.r)
  | .peerRequestArrival m => (peerNeeds m.op).2.1
  | _ => fun _ => true

/-- A held request as it goes on: its WB bit is what the walk found (15 R385). -/
def reqWb (wb : Bool) : Instr → Instr
  | .storePerformedAtHome m => .storePerformedAtHome { m with wb := wb }
  | .atomicAtHome m => .atomicAtHome { m with wb := wb }
  | i => i

/-- Does a held request that finds a translation wait under WB from now on: a write to a page with WB (15 R385)? -/
def State.toWb (s : State) (h : Held) : Bool :=
  match h.why, h.req, s.walk h.asid h.va with
  | .noTrans, .storePerformedAtHome _, .leaf p _ _ => (leafAttr p).w && (leafAttr p).wb
  | .noTrans, .atomicAtHome _, .leaf p _ _ => (leafAttr p).r && (leafAttr p).w && (leafAttr p).wb
  | .noTrans, .peerRequestArrival m, .leaf p _ _ => (peerNeeds m.op).2.2 && (peerNeeds m.op).2.1 (leafAttr p) && (leafAttr p).wb
  | _, _, _ => false

/-- HELD_REQUEST_REWALK: a held request walks again (15 R380, R385): does it go on? One whose walk gives no translation with its
rights stays held, since the moment at which it was first held (22 R483). -/
def State.rewalk (s : State) (h : Held) : Bool :=
  match h.why, s.walk h.asid h.va with
  | .noTrans, .leaf p lvl _ => reqRights h.req (leafAttr p) && !(xlOf p lvl h.va).beyond && !s.toWb h
  | .wb, .leaf p lvl _ => reqRights h.req (leafAttr p) && !(xlOf p lvl h.va).beyond && !(leafAttr p).wb
  | _, _ => false

/-- A held request as its release finds it: it carries the WB bit that a walk finds now, also after a checkpoint (15 R385, R393). -/
def State.released (s : State) (h : Held) : Instr :=
  match s.walk h.asid h.va, h.why with
  | .leaf p _ _, _ => reqWb (leafAttr p).wb h.req
  | _, .ck => h.req
  | _, _ => reqWb false h.req

/-- Is a request of a program held at a slice that hands its state over (24 R513)? -/
def State.heldMoves (s : State) (h : Held) : Bool :=
  (match h.req with
    | .loadRequestAtHome _ | .storePerformedAtHome _ | .atomicAtHome _ => true
    | _ => false) && s.sliceMoves h.slice

/-- The held requests that a test names go on, in their order; those at a slice that hands its state over wait there (24 R513). -/
def State.letGo (s : State) (p : Held → Bool) : State :=
  { s with
    todo := s.todo ++ ((s.held.filter p).filter fun h => !s.heldMoves h).map s.released
    sliceWait := s.sliceWait ++ ((s.held.filter p).filter s.heldMoves).map s.released
    held := s.held.filter fun h => !p h }

/-! ## Invalidation (15 R380, R381) -/

/-- An answer of a probe from before an invalidation of its page installs no entry (15 R380). -/
def Inv.stale (v : Inv) : Instr → Instr
  | .attributeProbeReply m => (match m.res with
    | .ok a lvl =>
      let p := m.probe
      if v.hits (if a.g then 0 else p.asid) (p.va % 2 ^ 51 / pageSize lvl * pageSize lvl) (pageSize lvl)
      then .attributeProbeReply { m with res := .stale } else .attributeProbeReply m
    | _ => .attributeProbeReply m)
  | i => i

/-- No TLB and no attribute cache holds a matching entry, and none is on its way; NOTIFIED entries that match are cleared
(15 R380, R383). -/
def State.dropXlate (s : State) (v : Inv) : State :=
  { s.mapFlying v.stale with
    ctrls := s.ctrls.map fun (e : Nat × Ctrl) => (e.1, { e.2 with
      tlb := e.2.tlb.filter fun t => !v.hits t.asid t.va (pageSize t.lvl)
      counts := e.2.counts.filter fun k => !(k.notified && s.invHits v k.asid (k.unit * 2 ^ 15)) })
    cores := s.cores.map fun (e : Nat × Core) => (e.1, { e.2 with
      attrs := e.2.attrs.filter fun a => !v.hits (if a.attr.g then 0 else a.asid) (a.page * 2 ^ 15) (pageSize a.lvl) }) }

/-- The fetched words of matching pages that have not issued are dropped, those on their way among them (22 R482). -/
def State.dropCode (s : State) (v : Inv) : State :=
  let stale (r : LdReq) : LdReq := match r.origin with
    | .group w id 32 => if s.invHits v r.asid r.va then { r with origin := .group w id 33 } else r
    | _ => r
  let onWay : Instr → Instr
    | .loadRequestAtHome r => .loadRequestAtHome (stale r)
    | .loadResultReturn m => .loadResultReturn { m with req := stale m.req }
    | i => i
  { s.mapReqs onWay with
    segs := s.segs.map fun g => match g.use with
      | .load r => { g with use := .load (stale r) }
      | _ => g
    crews := s.crews.map fun c => { c with groups := c.groups.map fun g => { g with
      answers := g.answers.filter fun p => !(decide (2 ^ 60 ≤ p.1) && s.invHits v c.asid (p.1 - 2 ^ 60)) } } }

/-- Does an invalidation match a block? -/
def Inv.hitsBlk (v : Inv) (b : Blk) : Bool := v.hits b.asid (b.span * 512 + 16 * b.first) (16 * b.words)

/-- Words of a matching block that are on their way to a cache install nothing (15 R381, R382). -/
def Inv.noFill (v : Inv) : Instr → Instr
  | .loadResultReturn m =>
    if m.fill.any fun f => v.hitsBlk (fillBlk f) then .loadResultReturn { m with fill := none } else .loadResultReturn m
  | .homeFillReturn m =>   -- no word of it is asked for any more
    if m.copy.any fun f => v.hitsBlk (fillBlk f) then .homeFillReturn { m with first := 32, last := 32 } else .homeFillReturn m
  | i => i

/-- PURGE_BLOCKS: matching dirty words are written back, and the blocks dropped, those on their way among them (15 R381). -/
def State.purge (s : State) (v : Inv) : State :=
  let s := s.dropHome v.hitsBlk
  { s.mapReqs v.noFill with
    slices := s.slices.map fun (e : Nat × Slice) => (e.1, { e.2 with loc := e.2.loc.filter fun b => !v.hitsBlk b })
    cores := s.cores.map fun (e : Nat × Core) => (e.1, { e.2 with l1 := e.2.l1.filter fun b => !v.hitsBlk b }) }

/-- The leaf that maps a block's span: under its ASID, or for a global block the one that every ASID that maps the page has in
common (15 R368). -/
def State.leafOf (s : State) (b : Blk) : Option (Word × Nat) :=
  let under (g : Bool) (a : Nat) : Option (Word × Nat) := match s.walk a (b.span * 512) with
    | .leaf p lvl _ => if !g || p.getLsbD 11 then some (p, lvl) else none
    | _ => none
  if b.asid = 0 then (List.range 4096).findSome? (under true) else under false b.asid

/-- A local copy on its way stands for what a test gives for it. -/
def rebackFill (new : Blk → Option Blk) : Instr → Instr
  | .homeFillReturn m => .homeFillReturn { m with copy := m.copy.map fun f => match new (fillBlk f) with
      | some b => { f with ap := b.ap, pa := b.pa }
      | none => f }
  | i => i

/-- The home blocks and local copies of matching pages that stay, and the copies on their way, stand for what the new translation says
(15 R385, R386); those that now stand for words of host memory have entries of the directory (R387), and those whose page now lies
behind the fabric, which is cached nowhere here (R389), go. -/
def State.reback (s : State) (v : Inv) : State :=
  let new (b : Blk) : Option Blk := (s.leafOf b).bind fun r =>
    let base := b.span * 512 / pageSize r.2 * pageSize r.2
    let x := xlOf r.1 r.2 (b.span * 512)
    if v.hits b.asid base (pageSize r.2) then some { b with ap := x.attr.ap, pa := x.pa } else none
  let far (b : Blk) : Bool := (new b).any fun b => b.ap == .peer || b.ap == .mcast
  let go : Instr → Instr
    | .homeFillReturn m => if m.copy.any fun f => far (fillBlk f) then .homeFillReturn { m with first := 32, last := 32 }
        else rebackFill new (.homeFillReturn m)
    | i => i
  let comes := s.flying.filterMap fun i => match i with
    | .homeFillReturn m => (m.copy.map fillBlk).bind new
    | _ => none
  let s := (s.mapReqs go).dropHome far
  let s := { s with slices := s.slices.map fun (e : Nat × Slice) => (e.1, { e.2 with loc := e.2.loc.filter (!far ·) }) }
  let moved := comes ++ (s.slices.map fun (e : Nat × Slice) => (e.2.home ++ e.2.loc).filterMap new).flatten
  let s := { s with slices := s.slices.map fun (e : Nat × Slice) => (e.1, { e.2 with
    home := e.2.home.map fun b => (new b).getD b
    loc := e.2.loc.map fun b => (new b).getD b }) }
  (moved.filter fun b => b.ap == .host).foldl (fun s b => s.dirFill (b.pa + 16 * b.first) (16 * b.words)) s

/-- The first VA and the level of the copy-pending pages. -/
def State.pending (s : State) : List (Nat × Nat × Nat) := (s.ck.map (·.pend)).getD []

/-- TLBINVC with GO (15 R380): BUSY; the entries go when the invalidation completes (09 R212). -/
def State.tlbinv (s : State) (scope : Nat) (val : Word) : State :=
  let v : Inv := { scope := scope, asid := fld val 20 12, va := fld (s.reg 0x208) 15 36 * 2 ^ 15, units := fld val 32 16, purge := val.getLsbD 18 }
  { s.setFld 0x210 60 4 8 with inv := some v }

/-- TLBINV_RANGE: a range of 0 units is not taken (15 R380). -/
def execTlbinvRange (val : Word) (s : State) : Host.Outcome State Fault Refusal :=
  .next (if fld val 32 16 = 0 then s.setFld 0x210 60 4 1 else s.tlbinv 0 val)

/-- TLBINV_ASID. -/
def execTlbinvAsid (val : Word) (s : State) : Host.Outcome State Fault Refusal := .next (s.tlbinv 1 val)

/-- TLBINV_ALL. -/
def execTlbinvAll (val : Word) (s : State) : Host.Outcome State Fault Refusal := .next (s.tlbinv 2 val)

/-- A write to another module that is not answered yet. -/
def Seg.write (g : Seg) : Option (Nat × Nat × Nat) :=
  match g.use with
  | .store m | .mcast m => some (m.asid, m.va, m.sclk)
  | .atom m => some (m.asid, m.va, m.sclk)
  | _ => none

/-- The writes on their way to their homes: those that wait for a fill or for the part before them, and those that another module
performs among them. -/
def State.writes (s : State) : List (Nat × Nat × Nat) :=
  (s.flying ++ s.todo ++ s.sliceWait ++ s.parked.map (·.2) ++ s.laters.filter fun i => !s.heldBefore i).filterMap writeOf ++
    s.segs.filterMap Seg.write

/-- May an invalidation end (15 R380, R395)? A PURGE cannot while the Zenvex Link is down and a matching home block has dirty words of
host memory (23 R506), nor while a slice with a matching block hands its state over (24 R513). -/
def State.invDone (s : State) (v : Inv) : Bool :=
  !(v.purge && s.slices.any fun (e : Nat × Slice) => 
    (e.2.home.any fun b => v.hitsBlk b && s.linkKeeps b) || s.sliceMoves e.1 && (e.2.home ++ e.2.loc).any v.hitsBlk) &&
  !(s.writes.any fun w => s.invHits v w.1 w.2.1) && !(s.pending.any fun p => s.invHits v p.1 p.2.1)

/-- Is it a request that fails, and waits no more, where it finds no valid translation and no invalidation is in progress: a probe, or a
peer's request which neither a page's WB nor a checkpoint holds (15 R385, R393)? -/
def State.fails (s : State) (h : Held) : Bool :=
  match h.req, h.why with
  | .attributeProbe _, _ => true
  | .peerRequestArrival _, .noTrans => !s.toWb h
  | .peerRequestArrival _, .wb => (match s.walk h.asid h.va with
    | .leaf p _ _ => !(leafAttr p).wb
    | _ => true)
  | _, _ => false

/-- INVALIDATION_COMPLETE: the fetched words and the entries go, PURGE, BUSY clear, and the requests that match, and those that were held while it was in
progress, walk again (15 R380, 09 R212). -/
def execInvalidationComplete (s : State) : Host.Outcome State Fault Refusal :=
  .next (match s.inv with
    | none => s
    | some v =>
      if !s.invDone v then s
      else
        let hits := (s.held.filter fun h => s.invHits v h.asid h.va).map (·.id)
        let s := (s.dropCode v).dropXlate v
        let s := if v.purge then s.purge v else s.reback v
        let s := { s.setFld 0x210 60 4 0 with inv := none }
        let again (h : Held) : Bool := hits.contains h.id || (h.why == .noTrans && h.busy)
        let s := s.letGo fun h => again h && (s.rewalk h || s.fails h)
        { s with held := s.held.map fun h => { h with busy := false, why := if again h && s.toWb h then .wb else h.why } })

/-! ## The entry port (15 R379) -/

/-- Does an operation touch the entry of a copy-pending page (15 R395)? -/
def State.touchesPending (s : State) (pa : Nat) : Bool :=
  s.pending.any fun p => match s.walk p.1 p.2.1 with
    | .leaf _ _ a => a == pa
    | _ => false

/-- An operation of the entry port: PTED takes the old value; one that touches a copy-pending page waits. -/
def State.port (s : State) (again : Instr) (f : Word → Word → Option Word) : State :=
  let pa := (s.reg 0x228).toNat
  if hbmEnd ≤ pa then s.setFld 0x238 62 2 1
  else if s.touchesPending pa then (s.setFld 0x238 63 1 1).send again
  else
    let old := s.hbm64 pa
    let s := match f old (s.reg 0x230) with
      | some new => s.setHbm64 pa new
      | none => s
    (s.setReg 0x230 old).setFld 0x238 62 2 0

/-- PTE_READ. -/
def execPteRead (val : Word) (s : State) : Host.Outcome State Fault Refusal := .next (s.port (.pteRead val) fun _ _ => none)

/-- PTE_WRITE. -/
def execPteWrite (val : Word) (s : State) : Host.Outcome State Fault Refusal := .next (s.port (.pteWrite val) fun _ d => some d)

/-- PTE_OR. -/
def execPteOr (val : Word) (s : State) : Host.Outcome State Fault Refusal :=
  .next (s.port (.pteOr val) fun o d => some (o ||| d))

/-- PTE_CLEAR. -/
def execPteClear (val : Word) (s : State) : Host.Outcome State Fault Refusal :=
  .next (s.port (.pteClear val) fun o d => some (o &&& ~~~d))

/-! ## Checkpoints (15 R390 to R395) -/

/-- The greatest clock of any core or resident crew. -/
def State.topClock (s : State) : Nat :=
  let cs := s.cores.foldl (fun m (e : Nat × Core) => max m (max e.2.lclk e.2.sclk)) 0
  (s.crews.filter Crew.resident).foldl (fun m c => max m (max c.lclk c.sclk)) cs

/-- Raise every clock, and F, to at least a time. -/
def State.raiseAll (s : State) (t : Nat) : State :=
  { s.raiseFloor t with
    cores := (List.range 288).foldl (fun m c => let co := sget {} m c
      sset {} m c { co with lclk := max co.lclk t, sclk := max co.sclk t }) s.cores
    crews := s.crews.map fun c => if c.resident then { c with lclk := max c.lclk t, sclk := max c.sclk t } else c }

/-- CHECKPOINT_START: steps 1 and 2 of R393, or RESULT 100 (R392). -/
def execCheckpointStart (_val : Word) (s : State) : Host.Outcome State Fault Refusal :=
  .next (
    let ap := fld (s.reg 0x240) 62 2
    if s.ck.isSome then s
    else if ap = 0 ∨ ap = 3 ∨ fld (s.reg 0x248) 4 11 = 0 then s.setFld 0x248 60 3 4
    else
      let t := s.topClock
      let s := s.raiseAll (t + 1)
      let s := (((s.setFld 0x248 60 4 8).setFld 0x248 24 32 0)).setReg 0x250 (BitVec.ofNat 64 t)
      { s with ck := some { phase := .drain, cut := t } })

/-- Are all writes that carry a clock at or below T performed (R393 step 3), every chunk of the copies issued before among them? -/
def State.ckDrained (s : State) (k : Ck) : Bool :=
  !(s.writes.any fun w => decide (w.2.2 ≤ k.cut)) &&
    !(s.held.any fun h => (writeOf h.req).any fun w => decide (w.2.2 ≤ k.cut)) &&
    !(s.crews.any fun c => c.moves && c.copies.any fun y => decide (y.sclk ≤ k.cut) && !y.posting && !y.adding)

/-- The leaves below a table that a test of the leaf and its level names, in ascending VA; none where a table cannot be read. -/
def State.leaves (s : State) (ok : Word → Nat → Bool) (asid : Nat) : List Nat → Nat → Nat → Option (List (Nat × Nat × Nat))
  | [], _, _ => none
  | lvl :: ls, va, t =>
    if hbmEnd ≤ t then none
    else (List.range 4096).foldr (fun i acc => acc.bind fun rest =>
      let p := s.hbm64 (t + 8 * i)
      let v := va + i * pageSize lvl
      if sget false s.hbmPoison ((t + 8 * i) / 16) then none
      else if !p.getLsbD 0 || malformed p lvl then some rest
      else if isPtr p then (s.leaves ok asid ls v (fld p 16 37 * 2 ^ 15)).map (· ++ rest)
      else some (if ok p lvl then (asid, v, lvl) :: rest else rest)) (some [])

/-- The leaves of the ASIDs whose entries a test names (15 R378), those which a test of the leaf and its level names. -/
def State.tableLeaves (s : State) (take : Word → Bool) (ok : Word → Nat → Bool) : Option (List (Nat × Nat × Nat)) :=
  let tab := fld (s.reg 0x200) 15 37 * 2 ^ 15
  if !(s.reg 0x200).getLsbD 0 then some []
  else (List.range 4096).foldr (fun a acc => acc.bind fun rest =>
    let e := s.hbm64 (tab + 8 * a)
    if a = 0 then some rest
    else if hbmEnd ≤ tab + 8 * a ∨ sget false s.hbmPoison ((tab + 8 * a) / 16) then none
    else if !e.getLsbD 0 || !take e then some rest
    else (s.leaves ok a [1, 2, 3] 0 (fld e 15 37 * 2 ^ 15)).map (· ++ rest)) (some [])

/-- The leaves of the ASIDs that checkpoints take in (15 R378, R390) which a test names. -/
def State.ckLeaves (s : State) (ok : Word → Nat → Bool) : Option (List (Nat × Nat × Nat)) := s.tableLeaves (·.getLsbD 1) ok

/-- The addresses, with their ASIDs, that the tables map to a byte of local HBM or of host memory. -/
def State.frameVas (s : State) (ap : Apt) (pa : Nat) : List (Nat × Nat) :=
  let maps (p : Word) (lvl : Nat) : Bool :=
    (leafAttr p).ap == ap && decide (leafPa p lvl 0 ≤ pa) && decide (pa < leafPa p lvl 0 + pageSize lvl)
  ((s.tableLeaves (fun _ => true) maps).getD []).map fun l => (l.1, l.2.1 + pa % pageSize l.2.2)

/-- The pages that a checkpoint copies (R393 step 4): those with D. -/
def State.ckPages (s : State) : Option (List (Nat × Nat × Nat)) := s.ckLeaves fun p _ => p.getLsbD 14

/-- The page for which a checkpoint holds a write to a frame of local HBM or of host memory that arrives from outside (R393 step 2):
one of an ASID that it takes in while it waits for earlier writes, and then a page that is not copied yet. -/
def State.ckFrame (s : State) (ap : Apt) (pa : Nat) : Option (Nat × Nat) :=
  let maps (p : Word) (lvl : Nat) : Bool :=
    (leafAttr p).ap == ap && decide (leafPa p lvl 0 ≤ pa) && decide (pa < leafPa p lvl 0 + pageSize lvl)
  match s.ck with
  | none => none
  | some k => (match k.phase with
    | .drain => ((s.ckLeaves maps).getD []).head?.map fun p => (p.1, p.2.1)
    | .copy => (k.pend.find? fun p => match s.walk p.1 p.2.1 with
        | .leaf q lvl _ => maps q lvl
        | _ => false).map fun p => (p.1, p.2.1))

/-- Is a write held under a checkpoint? -/
def isCk (h : Held) : Bool := h.why == .ck

/-- A checkpoint ends with a RESULT; every write that it holds goes on (R395), and nothing waits for answers to it any more. -/
def State.ckEnd (s : State) (result : Nat) : State :=
  let s := s.setFld 0x248 60 4 result
  { s with
    ck := none
    segs := s.segs.filter fun g => match g.use with
      | .log _ | .ck _ => false
      | _ => true }.letGo isCk

/-- CHECKPOINT_DRAINED: the tables are walked, and the writes held on other pages go on (R393 step 4). -/
def execCheckpointDrained (s : State) : Host.Outcome State Fault Refusal :=
  .next (match s.ck with
    | none => s
    | some k =>
      if k.phase != .drain || !s.ckDrained k then s
      else match s.ckPages with
        | none => s.ckEnd 2
        | some ps =>
          let on (h : Held) : Bool := ps.any (s.ckOn h.asid h.va)
          { s with ck := some { k with phase := .copy, pend := ps } }.letGo fun h => isCk h && !on h)

/-- Is a word of a page poisoned, at its home or in its backing memory? -/
def State.pagePoison (s : State) (asid va : Nat) (x : Xl) (k : Nat) : Bool :=
  let a := va + 16 * k
  match s.homeBlk asid a with
  | some b => b.poison.has (wordOf a)
  | none => (x.attr.ap == .hbm || x.attr.ap == .host) && s.backPoison x.attr.ap (x.pa + 16 * k)

/-- The bytes of a page, word by word at their homes, a poisoned word as zero (22 R486). -/
def State.pageBytes (s : State) (asid va size : Nat) (x : Xl) : List Byte :=
  ((List.range (size / 16)).map fun k =>
    let a := va + 16 * k
    if s.pagePoison asid va x k then List.replicate 16 0
    else match s.homeBlk asid a with
    | some b => b.read a 16
    | none => s.backRead x.attr.ap (x.pa + 16 * k) 16).flatten

/-- A record of the log (R391). -/
def ckRecord (num cut size asid va : Nat) : List Byte :=
  bytesOf va 8 ++ bytesOf asid 2 ++ bytesOf size 1 ++ List.replicate 5 0 ++ bytesOf cut 8 ++ bytesOf num 8 ++ List.replicate 32 0

/-- Write bytes of the log: to host memory, or to a peer in pieces that no boundary cuts; none where it is unreachable. -/
def State.logWrite (s : State) (pos : Nat) (bs : List Byte) : Option State :=
  let b := s.reg 0x240
  let a := fld b 6 46 * 64 + pos
  if fld b 62 2 = 2 then (if s.zdown.isSome then none else some { s with host := s.host.write a bs })
  else
    let dev := fld b 52 10
    (List.range (bs.length / 64)).foldl (fun (acc : Option State) k => acc.bind fun s =>
      let ofs := (a + 64 * k) % 2 ^ 42
      (s.route false dev ofs).map fun r =>
        let (tag, s) := s.newTag
        s.sendSeg { tag := tag, dev := dev, ofs := ofs, port := r.2, plane := r.1, sent := true, use := .log ((bs.drop (64 * k)).take 64) } []) (some s)

/-- Bytes that no rule gives (notes/assumptions/3.md). -/
def State.openBytes (s : State) (n : Nat) : List Byte :=
  ((List.range (n / 8)).map fun j => bytesOf (Config.freeWord (s.draw + j)).toNat 8).flatten

/-- A page that lies on another module is read there over the fabric, word by word; what cannot be read, and a multicast page,
which has no home of its own, are open. -/
def State.ckRead (s : State) (k : Ck) (x : Xl) (size : Nat) : State :=
  let ofs := peerOfs x.pa + k.got.length
  let unit := x.attr.ap == .peer && decide (x.pa / 2 ^ 15 % 2 ^ 27 < 2 ^ 26)
  match (if unit then s.route false (peerDev x.pa) ofs else none) with
  | some (pl, po) =>
    let (tag, s) := s.newTag
    ({ s with ck := some { k with asked := true } } : State).sendSeg
      { tag := tag, dev := peerDev x.pa, ofs := ofs, port := po, plane := pl, sent := true, use := .ck 16 } []
  | none => { s with
      draw := s.draw + size / 8
      ck := some { k with got := k.got ++ s.openBytes (size - k.got.length) } }

/-- Bytes of the log leave; `done` follows at once where they need no answer. -/
def State.ckLog (s : State) (k : Ck) (bs : List Byte) (done : Ck → State → State) : State :=
  match s.logWrite k.pos bs with
  | none => s.ckEnd 3
  | some s =>
    let k := { k with wrote := true, logOut := if fld (s.reg 0x240) 62 2 = 2 then 0 else bs.length / 64 }
    if k.logOut = 0 then done k s else { s with ck := some k }

/-- A page is copied (R393 step 5): D is cleared, the page is invalidated, and the writes held for it go on. -/
def State.ckPageDone (s : State) (p : Word) (at_ asid va lvl : Nat) (rest : List (Nat × Nat × Nat)) (k : Ck) : State :=
  let s := s.setHbm64 at_ (p &&& ~~~(BitVec.ofNat 64 (2 ^ 14)))
  let s := s.dropXlate { scope := 0, asid := if p.getLsbD 11 then 0 else asid, va := va, units := pageSize lvl / 2 ^ 15, purge := false }
  let s := s.setFld 0x248 24 32 (k.num + 1)
  let s := { s with
    ck := some { k with pend := rest, pos := k.pos + 64 + pageSize lvl, num := k.num + 1, got := [], wrote := false } }
  s.letGo fun h => isCk h && s.ckOn h.asid h.va (asid, va, lvl)

/-- CHECKPOINT_PAGE_WRITTEN: the next page's record, or the end record (R393 steps 5 and 6), whose ASID and VA are 0: a DESIGN CHOICE
(notes/assumptions/142.md). A page under WB waits, and so do reads and
records that are to cross the Zenvex Link while it retrains (23 R501, R506). -/
def execCheckpointPageWritten (s : State) : Host.Outcome State Fault Refusal :=
  .next (match s.ck with
    | none => s
    | some k =>
      let limit := fld (s.reg 0x248) 4 11 * 2 ^ 30
      if k.phase != .copy || k.asked || decide (0 < k.logOut) then s
      else match k.pend with
        | [] =>
          if k.wrote then s.ckEnd 0
          else if s.zretrains && fld (s.reg 0x240) 62 2 == 2 then s
          else if limit < k.pos + 64 then s.ckEnd 1
          else s.ckLog k (ckRecord k.num k.cut 0xFF 0 0) fun _ s => s.ckEnd 0
        | (asid, va, lvl) :: rest => (match s.walk asid va with
          | .leaf p lvl' a =>
            let x := xlOf p lvl' va
            let size := pageSize lvl
            let far := x.attr.ap == .peer || x.attr.ap == .mcast
            if x.attr.wb || (s.zretrains && (x.attr.ap == .host || fld (s.reg 0x240) 62 2 == 2)) then s
            else if k.wrote then s.ckPageDone p a asid va lvl rest k
            else if limit < k.pos + 64 + size then s.ckEnd 1
            else if far && decide (k.got.length < size) then s.ckRead k x size
            else
              let bad := (List.range (size / 16)).filter fun j => !far && s.pagePoison asid va x j
              let bytes := if far then k.got else s.pageBytes asid va size x
              let s := bad.foldl (fun s j => s.postFlt {
                kind := 0x20, addr := BitVec.ofNat 64 (va + 16 * j), asid := asid, die := homeOf va / 24 }) s
              s.ckLog k (ckRecord k.num k.cut (3 - lvl) asid va ++ bytes) fun k s => s.ckPageDone p a asid va lvl rest k
          | _ => s.ckEnd 2))

/-- The answer to a read of a page that a checkpoint copies: its word, a poisoned one as zero (22 R486), one that fails as open. -/
def State.ckGot (s : State) (r : PeerRes) : State :=
  match s.ck with
  | none => s
  | some k =>
    let put (s : State) (bs : List Byte) : State := { s with ck := some { k with got := k.got ++ bs, asked := false } }
    match r, k.pend with
    | .data bs [], _ => put s bs
    | .data _ (_ :: _), (asid, va, _) :: _ => (put s (List.replicate 16 0)).postFlt {
        kind := 0x20, addr := BitVec.ofNat 64 (va + k.got.length), asid := asid, die := homeOf va / 24 }
    | _, _ => put { s with draw := s.draw + 2 } (s.openBytes 16)

/-- A segment of the log is answered: a failure stops the checkpoint (R395). -/
def State.ckLogged (s : State) (ok : Bool) : State :=
  match s.ck with
  | none => s
  | some k => if ok then { s with ck := some { k with logOut := k.logOut - 1 } } else s.ckEnd 3

/-! ## The companion processor's accesses (15 R388, R389) -/

/-- A conflict in a region: one larger than 128 bytes is split once (15 R388); where the directory is full, another region is
reclaimed first (R389). -/
def State.dirConflict (s : State) (pa : Nat) : State :=
  match s.dir.find? (·.has pa) with
  | none => s
  | some d =>
    let (use, s) := s.newTag
    if d.size ≤ 128 then
      { s with dir := s.dir.map fun e => if e = d then { d with conflict := s.now, used := use } else e }
    else
      let s := if s.dir.length < 32768 then s else s.reclaimDir (· == d)
      let half (k : Nat) : DirEnt := { base := d.base + k * (d.size / 2), size := d.size / 2, conflict := s.now, used := use }
      { s with dir := s.dir.filter (· ≠ d) ++ [half 0, half 1] }

/-- COMPANION_READ: a DIRTY region's dirty words are written back before the read completes (15 R388); it waits while the Zenvex Link
is down or retrains (23 R501, R506). -/
def execCompanionRead (pa n : Nat) (s : State) : Host.Outcome State Fault Refusal :=
  .next (
    if inWindow .host pa then s
    else if s.zshut then { s with linkWait := s.linkWait ++ [.companionRead pa n] }
    else match s.dir.find? (·.has pa) with
      | none => s
      | some d =>
        if !s.regionDirty d.base d.size then s
        else s.unlessMoves (s.hostSlices d.base d.size) (.companionRead pa n) <| (s.cleanHome fun b => b.inRegion d.base d.size).dirConflict pa)

/-- The words of a block that meet bytes of its memory. -/
def Blk.wordsAt (b : Blk) (pa n : Nat) : Mask := Mask.ofFn fun w =>
  decide (b.first ≤ w) && decide (w ≤ b.last) && decide (b.pa + 16 * w < pa + n) && decide (pa < b.pa + 16 * w + 16)

/-- Write back the home's newer words among bytes of host memory. -/
def State.cleanBytes (s : State) (pa n : Nat) : State :=
  let go (b : Blk) : Mask := if b.ap == .host then b.dirty &&& b.wordsAt pa n else 0
  { s.slices.foldl (fun s e => e.2.home.foldl (fun s b => s.writeBack { b with dirty := go b }) s) s with
    slices := s.slices.map fun e => (e.1, { e.2 with home := e.2.home.map fun b => { b with dirty := b.dirty &&& ~~~go b } }) }

/-- A write from outside of a word that has no home block takes a time for it at its home: the eviction mark of its set rises to it, and
so does F (13 R323, R324). -/
def State.markWrite (s : State) (va : Nat) : State :=
  let i := homeOf va
  let wt := max ((s.slice i).mark va + 1) (sget 0 s.floorF (i / 24))
  ((s.updSlice i (·.rebase wt)).updSlice i fun sl => { sl with marks := sset 0 sl.marks (l2Set va) wt }).raiseFloor wt

/-- COMPANION_WRITE: a checkpoint holds it as a write from outside (15 R393). Else host memory and the home blocks that hold the word are
written, timestamped with F (13 R324), and the word is clean; where none holds it, every address that the tables map to it takes a time
at its home; in a region absent from the directory F rises above the reclaim mark. The control window takes the write as a
register's. It waits while the Zenvex Link is down, which serves no write of the window, or retrains, and while a slice that holds
its words hands its state over (23 R501, R506, 24 R513). -/
def execCompanionWrite (pa : Nat) (bs : List Byte) (s : State) : Host.Outcome State Fault Refusal :=
  .next (
    if inWindow .host pa && s.zdown.isSome then s
    else if s.zshut then { s with linkWait := s.linkWait ++ [.companionWrite pa bs] }
    else if inWindow .host pa then s.winStore pa bs
    else match s.ckFrame .host pa with
    | some (asid, va) => s.hold .ck asid va (.companionWrite pa bs)
    | none => s.unlessMoves ((s.slices.filter fun (e : Nat × Slice) =>
        e.2.home.any fun b => b.ap == .host && b.wordsAt pa bs.length != 0).map (·.1) ++
          (if s.retiring.isSome then ((wordPieces pa bs.length).map fun p => (s.frameVas .host p.1).map fun a => homeOf a.2).flatten else []))
        (.companionWrite pa bs) <|
      let (id, s) := s.newTag
      let s := s.cleanBytes pa bs.length
      let s := { s with host := s.host.write pa bs }
      let s := (wordPieces pa bs.length).foldl (fun s p => if p.2 = 16 then s.setPoison .host p.1 false else s) s
      if !s.dir.any (·.has pa) then s.raiseFloor (s.dirMark + 1)
      else
        let s := (wordPieces pa bs.length).foldl (fun (s : State) p =>
          if !(s.slices.any fun (e : Nat × Slice) => e.2.home.any fun b => b.ap == .host && b.wordsAt p.1 p.2 != 0) then
            (s.frameVas .host p.1).foldl (fun (s : State) a => s.markWrite a.2) s
          else s.slices.foldl (fun (s : State) (e : Nat × Slice) =>
            (e.2.home.filter fun b => b.ap == .host && decide (b.pa + 16 * b.first ≤ p.1) && decide (p.1 < b.pa + 16 * b.last + 16)).foldl
              (fun (s : State) (b : Blk) =>
                let wt := max (b.le + 1) (sget 0 s.floorF (e.1 / 24))
                let va := b.span * 512 + (p.1 - b.pa)
                let s := s.escort (sliceNode e.1) p.2 false
                let s := (s.updSlice e.1 (·.rebase wt)).updSlice e.1 fun sl => { sl with
                  home := updBlk sl.home b.asid va fun b =>
                    let b := b.store va ((bs.drop (p.1 - pa)).take p.2) wt (id + 1)
                    { b with dirty := b.dirty &&& ~~~Mask.one (wordOf va) } }
                s.raiseFloor wt) s) s) s
        s.dirConflict pa)

/-- May two sibling halves merge: neither has seen a conflict for 1 ms (15 R388)? -/
def State.mayMerge (s : State) (base : Nat) : Option (DirEnt × DirEnt) :=
  match s.dir.find? fun d => d.base == base && decide (d.size < 65536) && decide (d.base % (2 * d.size) = 0) with
  | none => none
  | some d => (match s.dir.find? fun e => e.base == base + d.size && e.size == d.size with
    | none => none
    | some e => if d.conflict + 1000000 ≤ s.now ∧ e.conflict + 1000000 ≤ s.now then some (d, e) else none)

/-- REGION_MERGE: the halves become one region, DIRTY if either was (15 R388). -/
def execRegionMerge (base : Nat) (s : State) : Host.Outcome State Fault Refusal :=
  .next (match s.mayMerge base with
    | none => s
    | some (d, e) => { s with dir := s.dir.filter (fun x => x ≠ d ∧ x ≠ e) ++ [{
        base := base, size := 2 * d.size, conflict := max d.conflict e.conflict, used := max d.used e.used }] })

end Sys2Proof.Machine
end

