-- ==== Sys2Proof/Machine/Fabric.lean ====
section
/-! DEFINITION. The scale-up fabric (16) and the failures of its links and of the Zenvex Link (23 R500 to R506). -/

namespace Sys2Proof.Machine

/-! ## Segments that fail and segments that wait (16 R401, 23 R502) -/

/-- SEGMENT_FAIL: the fate of an unanswered segment by its request (23 R502). -/
def State.failSeg (s : State) (g : Seg) : State :=
  let s := { s with segs := s.segs.filter fun x => x.tag != g.tag }.portCount g.port 3 1
  match g.use with
  | .load r => (match r.origin with
    | .copy crew id _ => s.copyBreak crew id 0x11 r.va (2 ^ 60)
    | _ => s.send (.loadRequestAtHome r))
  | .store m | .mcast m => s.send (.storeAcknowledgement { msg := m, kind := .failed })
  | .atom m => s.atReply m (.peerFault 0)
  | .log _ => s.ckLogged false
  | .ck _ => s.ckGot (.fault 0)
  | .msg crew id =>
    let va := ((s.copy? crew id).map (·.mdst)).getD 0
    (s.copyBreak crew id 0x11 va (2 ^ 60)).copyAcked crew id 0

/-- The payload of a message segment: its part of what its copy holds (16 R400). -/
def State.segPayload (s : State) (g : Seg) : List Byte :=
  match g.use with
  | .msg crew id => ((((s.copy? crew id).map (·.payload)).getD []).drop (g.ofs % 2 ^ 15)).take 256
  | _ => []

/-- A waiting segment leaves on the route that its address has now, or fails; a load in torus mode, not a copy's, goes on waiting for
one (23 R502, R505). -/
def State.leaveSeg (s : State) (g : Seg) : State :=
  let mc : Bool := match g.use with
    | .mcast _ => true
    | _ => false
  let load : Bool := match g.use with
    | .load r => (match r.origin with
      | .copy .. => false
      | _ => true)
    | _ => false
  match s.route mc g.dev g.ofs with
  | none => if load && (s.strandPort g.dev g.ofs).isSome then s else s.failSeg g
  | some (pl, po) =>
    let g' := { g with plane := pl, port := po }
    if s.segWaits pl po || g'.behind (s.segs.takeWhile fun x => x.tag != g.tag) then s
    else { s with segs := s.segs.filter fun x => x.tag != g.tag }.putSeg g' (s.segPayload g)

/-- A segment of another module's goes on by its turn list (16 R402): it waits at a port that retrains or drains, behind those that wait
there (23 R501); one that meets a down link fails, which its source is told (R505, notes/assumptions/121.md). -/
def State.passOn (s : State) (m : TorusSeg) : State :=
  match m.turns with
  | [] => s
  | p :: t =>
    if !s.portUp p then { s with outbox := s.outbox ++ [.torusLost m] }
    else if s.segWaits 8 p || s.transit.any fun x => x.turns.head? == some p then { s with transit := s.transit ++ [m] }
    else { s.portCount p 0 m.payload.length with outbox := s.outbox ++ [.torus p { m with turns := t }] }

/-- The waiting segments leave, in the order in which they came, and those of other modules that wait here. -/
def State.leaveSegs (s : State) : State :=
  let s := (s.segs.filter fun g => !g.sent).foldl State.leaveSeg s
  s.transit.foldl State.passOn { s with transit := [] }

/-- Records of a sending segment whose burst has failed are unforwarded again (16 R409, 23 R502). -/
def Queue.unsend (q : Queue) (p : Nat × Nat × Nat → Bool) : Queue := { q with
  again := lsort id (q.again ++ (q.inflight.filter p).map (·.1))
  inflight := q.inflight.filter fun x => !p x }

/-- Records in flight that a test names fail, each counted at its port (23 R502). -/
def State.failRecs (s : State) (port : Nat) (p : Nat × Nat × Nat → Bool) : State :=
  let n := (s.queues.map fun q => (q.inflight.filter p).length).sum
  { s.portCount port 3 n with queues := s.queues.map fun q => q.unsend p }

/-- Word that a burst has met a down link further on (23 R505): its records that are not acknowledged fail. -/
def State.burstLost (s : State) (tag : Nat) : State :=
  match s.queues.findSome? fun q => q.inflight.find? fun p => p.2.2 == tag with
  | some p => s.failRecs p.2.1 fun x => x.2.2 == tag
  | none => s

/-- Has a port nothing unanswered any more? -/
def State.portDrained (s : State) (port : Nat) : Bool :=
  !((s.segs.any fun g => g.sent && g.port == port) || s.queues.any fun q => q.inflight.any fun p => p.2.1 == port)

/-- Every sent and unanswered segment of a port fails; its forwarded records are unforwarded again (23 R502). -/
def State.failPort (s : State) (port : Nat) : State :=
  ((s.segs.filter fun g => g.sent && g.port == port).foldl State.failSeg s).failRecs port fun p => p.2.1 == port

/-! ## FABCFG and PLANEMAP (16 R396, R397, R401) -/

/-- FABCFG: a write that is taken (16 R397). -/
def execFabcfg (val : Word) (s : State) : Host.Outcome State Fault Refusal :=
  .next (
    let v := val &&& (bitsMask 63 12 ||| 3)
    let cur := s.reg 0x300
    let sizes := [24, 29, 34, 39].map fun b => fld v b 5 + 1
    let bad := fld v 12 12 = 0 ∨ fld v 44 10 < fld v 54 10 ∨ (v.getLsbD 0 ∧ sizes.foldl (· * ·) 1 ≠ fld v 44 10 + 1)
    if cur.getLsbD 1 then (if v = cur &&& ~~~2 then s.setReg 0x300 v else s)
    else if v.getLsbD 1 ∧ bad then s
    else s.setReg 0x300 v)

/-- A plane begins to drain for a change of its DEAD bit, once the changes of the bit before it have taken effect. -/
def State.planeSwitch (s : State) (plane : Nat) (dead : Bool) : State :=
  if s.planeTarget plane == dead then s
  else { s with planeSw := s.planeSw ++ [(plane, dead)] }

/-- PLANE_DEAD_SET. -/
def execPlaneDeadSet (plane : Nat) (s : State) : Host.Outcome State Fault Refusal := .next (s.planeSwitch plane true)

/-- PLANE_DEAD_CLEAR. -/
def execPlaneDeadClear (plane : Nat) (s : State) : Host.Outcome State Fault Refusal := .next (s.planeSwitch plane false)

/-- Has a plane switch drained: is every segment that it waits for answered? -/
def State.planeDrained (s : State) (p : Nat × Bool) : Bool :=
  !(s.segs.any fun g => g.sent && g.plane == (if p.2 then p.1 else p.1 ^^^ 1) && (p.2 || planeOf g.ofs == p.1))

/-- Is it the first of its plane's changes? -/
def State.planeFirst (s : State) (p : Nat × Bool) : Bool := (s.planeSw.find? fun q => q.1 == p.1) == some p

/-- PLANE_SWITCH_DRAINED: the bit takes effect, and the waiting segments leave (16 R401). -/
def execPlaneSwitchDrained (plane : Nat) (s : State) : Host.Outcome State Fault Refusal :=
  .next (match s.planeSw.find? fun p => p.1 == plane with
    | none => s
    | some p =>
      if !s.planeDrained p then s
      else ({ s with planeSw := s.planeSw.erase p }.setFld 0x308 plane 1 (if p.2 then 1 else 0)).leaveSegs)

/-! ## Requests that arrive from peers (16 R398, R399, 13 R324) -/

/-- The bytes that an answer to a peer carries: a load's data, an atomic's old value (17 R420). -/
def answerBytes : PeerOp → PeerRes → Nat
  | .load _ _, .data bs _ => bs.length
  | .atom _ n _ _, .done _ => n
  | _, _ => 0

/-- Answer a peer. -/
def State.peerAnswer (s : State) (m : PeerReq) (r : PeerRes) : State :=
  { s.portCount m.port 0 (answerBytes m.op r) with outbox := s.outbox ++ [.peerAns m.tag m.port r] }

/-- The bytes of an access at its homes, filled where they miss, and the numbers of the poisoned ones. -/
def State.homeBytes (s : State) (asid : Nat) : List (Nat × Nat) → State × List Byte × List Nat
  | [] => (s, [], [])
  | p :: t =>
    let s := match s.translate (ctrlOf (homeOf p.1)) asid p.1 (fun _ => true) false with
      | (s, .ok x) => s.ensureHome asid p.1 x false
      | (s, _) => s
    let b := s.homeBlk asid p.1
    let r := s.homeBytes asid t
    (r.1, (b.map (·.read p.1 p.2)).getD (List.replicate p.2 0) ++ r.2.1,
      (if b.any fun b => b.poison.has (wordOf p.1) then List.range p.2 else []) ++ r.2.2.map (p.2 + ·))

/-- An atomic of a peer at its home here: the old value; none where the word is poisoned or the Zenvex Link is down. -/
def State.peerAtom (s : State) (asid va n : Nat) (op : AtomOp) (b : Word) (x : Xl) : Except Nat (Word × State) :=
  let i := homeOf va
  let f := sget 0 s.floorF (i / 24)
  if x.attr.ap = .host then
    let w := s.cleanBytes (x.pa / 16 * 16) 16
    if s.zdown.isSome then .error 0
    else if w.backPoison .host x.pa || (s.homeBlk asid va).any fun b => b.poison.has (wordOf va) then .error 0x18
    else
      let w := (w.escort (sliceNode i) (2 * n) true).escort (sliceNode i) n false
      let s := if x.ac then w.countAcc (ctrlOf i) asid va true else w
      let old := leNat (s.host.read x.pa n)
      match AtomOp.apply op n old b.toNat with
      | none => .ok (BitVec.ofNat 64 old, s)
      | some new =>
        let le := ((s.homeBlk asid va).map (·.le)).getD ((s.slice i).mark va)
        let wt := max f (le + 1)
        let s := s.updSlice i (·.rebase wt)
        let s := { s with host := s.host.write x.pa (bytesOf new n) }
        let s := match s.homeBlk asid va with
          | some _ => s.setHome i asid va fun k => { k.write va (bytesOf new n) with wt := wt, le := wt }
          | none => s.updSlice i fun sl => { sl with marks := sset 0 sl.marks (l2Set va) wt }
        .ok (BitVec.ofNat 64 old, s.raiseFloor wt)
  else
    let s := s.ensureHome asid va x true
    match s.homeBlk asid va with
    | none => .error 0x10
    | some k =>
      if k.poison.has (wordOf va) then .error 0x18
      else
        let old := leNat (k.read va n)
        match AtomOp.apply op n old b.toNat with
        | none => .ok (BitVec.ofNat 64 old, s)
        | some new =>
          let r := s.storeBlk asid va (bytesOf new n) f k false
          .ok (BitVec.ofNat 64 old, r.2.raiseFloor r.1)

/-- The words of a peer's request. -/
def peerWords : PeerOp → List Nat
  | .load va n | .atom va n _ _ => (wordPieces va n).map (·.1)
  | .store va bs => (wordPieces va bs.length).map (·.1)

/-- The bytes of a peer's request. -/
def peerSize : PeerOp → Nat
  | .load _ n | .atom _ n _ _ => n
  | .store _ bs => bs.length

/-- A peer's request as it is when it is counted in FRX and has its number, and the state then (17 R420). -/
def State.peerCounted (s : State) (m : PeerReq) : PeerReq × State :=
  if m.counted then (m, s)
  else
    let (no, s) := (s.portCount m.port 1 (match m.op with
      | .load _ _ => 0
      | op => peerSize op)).newTag
    ({ m with counted := true, no := no }, s)

/-- Is it a peer's request for some of another's bytes that has come before that one (16 R403)? -/
def peerBefore (m : PeerReq) : Instr → Bool
  | .peerRequestArrival q => q.counted && decide (q.no < m.no) &&
      decide ((peerNeeds q.op).1 < (peerNeeds m.op).1 + peerSize m.op) && decide ((peerNeeds m.op).1 < (peerNeeds q.op).1 + peerSize q.op)
  | _ => false

/-- Is it an atomic of a word of host memory, which crosses the Zenvex Link (09 R216)? -/
def State.hostAtomic (s : State) (asid va : Nat) : PeerOp → Bool
  | .atom _ _ _ _ => s.hostAt asid va
  | _ => false

/-- A peer's request is performed in the order of arrival of those for its bytes (16 R403): a write is held behind one that is held, and
a request waits for one that waits here, and an atomic of host memory for a Zenvex Link that retrains (23 R506). A load waits for none
that is held (15 R385, R393). -/
def State.peerTurn (s : State) (asid va : Nat) (m : PeerReq) (k : Unit → State) : State :=
  match s.held.find? fun h => (peerNeeds m.op).2.2 && peerBefore m h.req with
  | some h => s.hold h.why asid va (.peerRequestArrival m)
  | none =>
    if s.moving.any (peerBefore m) || (s.zretrains && (peerNeeds m.op).2.2 && s.hostAtomic asid va m.op) then
      { s with flight := s.flight ++ [.peerRequestArrival m] }
    else k ()

/-- PEER_REQUEST_ARRIVAL: performed under INASID; a failure is the answer, and no fault record is posted (23 R504). -/
def execPeerRequestArrival (m : PeerReq) (s : State) : Host.Outcome State Fault Refusal :=
  .next (
    let (va, rights, wr) := peerNeeds m.op
    let asid := fld (s.reg 0x300) 12 12
    if !(s.reg 0x300).getLsbD 1 then s.peerAnswer m (.fault 0)
    else
      let (m, s) := s.peerCounted m
      s.peerTurn asid va m fun _ =>
      if wr && s.ckHolds asid va (2 ^ 64) then s.hold .ck asid va (.peerRequestArrival m)
      else s.unlessBarred asid (peerWords m.op) (.peerRequestArrival m) <|
      match s.translate (ctrlOf (homeOf va)) asid va rights wr with
      | (s, .noTrans) =>
        if (s.reg 0x210).getLsbD 63 then s.hold .noTrans asid va (.peerRequestArrival m) else s.peerAnswer m (.fault 0x10)
      | (s, .perm) => s.peerAnswer m (.fault 0x11)
      | (s, .ok x) =>
        if x.attr.ap = .peer ∨ x.attr.ap = .mcast ∨ inWindow x.attr.ap x.pa then s.peerAnswer m (.fault 0x11)
        else if wr && x.attr.wb then s.hold .wb asid va (.peerRequestArrival m)
        else match m.op with
          | .load va n =>
            let r := s.homeBytes asid (wordPieces va n)
            r.1.peerAnswer m (.data r.2.1 r.2.2)
          | .store va bs =>
            (match s.homeWrite asid va bs (sget 0 s.floorF (homeOf va / 24)) with
              | none => s.peerAnswer m (.fault 0x10)
              | some (wt, s) => (s.raiseFloor wt).peerAnswer m (.done 0))
          | .atom va n op b =>
            if va % n ≠ 0 then s.peerAnswer m (.fault 0x14)
            else (match s.peerAtom asid va n op b x with
              | .error c => s.peerAnswer m (.fault c)
              | .ok (old, s) => s.peerAnswer m (.done old)))

/-- An answered segment leaves; in torus mode the segments that wait behind it may go (23 R505). -/
def State.dropSeg (s : State) (tag : Nat) : State :=
  let s := { s with segs := s.segs.filter fun x => x.tag != tag }
  if s.torus then s.leaveSegs else s

/-- PEER_REPLY: the answer to a segment of this module reaches what waits for it (16 R398, 22 R486), or word that it has failed
(23 R505). A disabled fabric refuses it at the port (R397). -/
def execPeerReply (m : PeerRep) (s : State) : Host.Outcome State Fault Refusal :=
  .next (if !(s.reg 0x300).getLsbD 1 then s else match s.segs.find? fun g => g.tag == m.tag && g.sent with
    | none => if m.res = .lost then s.burstLost m.tag else s
    | some g => if m.res = .lost then (let s := s.failSeg g
        if s.torus then s.leaveSegs else s) else
      let s := s.dropSeg g.tag
      let s := match g.use, m.res with
        | .atom a, .done _ => s.portCount g.port 1 a.n
        | _, _ => s
      match g.use, m.res with
      | _, .lost => s
      | .load r, .data bs bad => (s.portCount g.port 1 bs.length).send
          (.loadResultReturn { req := r, data := bs, poison := !bad.isEmpty, bad := bad, wt := 0, fill := none })
      | .load r, .fault 0x18 => s.send
          (.loadResultReturn { req := r, data := List.replicate r.n 0, poison := true, wt := 0, fill := none })
      | .load r, .fault c => (match r.origin with
        | .copy crew id _ => s.copyBreak crew id 0x11 r.va (2 ^ 60 + c)
        | _ => s.loadLost r 0x11 (2 ^ 60 + c))
      | .load _, .done _ => s
      | .store a, .fault c | .mcast a, .fault c => s.send (.storeAcknowledgement { msg := a, kind := .peerFault c })
      | .log _, r => s.ckLogged (match r with
        | .fault _ => false
        | _ => true)
      | .ck _, r => (s.portCount g.port 1 (match r with
        | .data bs _ => bs.length
        | _ => 0)).ckGot r
      | .store a, _ | .mcast a, _ => s.send (.storeAcknowledgement { msg := a, kind := .peerDone })
      | .atom a, .done old => s.atReply a (.done old none)
      | .atom a, .fault c => s.atReply a (if c = 0x18 then .poisoned else .peerFault c)
      | .atom a, .data bs _ => s.atReply a (.done (BitVec.ofNat 64 (leNat bs)) none)
      | .msg crew id, .fault c => (s.copyBreak crew id 0x11 (((s.copy? crew id).map (·.mdst)).getD 0) (2 ^ 60 + c)).copyAcked crew id 0
      | .msg crew id, _ => s.copyAcked crew id 0)

/-! ## Multicast and the torus (16 R402, R404) -/

/-- Does a home block hold a byte of HBM? -/
def Blk.holdsFrame (b : Blk) (pa : Nat) : Bool :=
  b.ap == .hbm && decide (b.pa + 16 * b.first ≤ pa) && decide (pa < b.pa + 16 * b.last + 16)

/-- The slices whose home blocks hold words of a frame; with no such block, those of its addresses. -/
def State.frameSlices (s : State) (pa n : Nat) : List Nat :=
  let here := (s.slices.filter fun (e : Nat × Slice) => e.2.home.any fun b => (wordPieces pa n).any fun p => b.holdsFrame p.1).map (·.1)
  if here.isEmpty && s.retiring.isSome then
    ((wordPieces pa n).map fun p => (s.frameVas .hbm p.1).map fun a => homeOf a.2).flatten else here

/-- A write to a frame of local HBM: every home block that holds a word of it, and the memory where none does, as an RC
store under 13 R324, in one access; then every address that the tables map to the word takes a time at its home. Bytes beyond
the end of HBM are discarded (notes/assumptions/33.md). -/
def State.frameWrite (s : State) (pa : Nat) (bs : List Byte) : State :=
  let bs := bs.take (hbmEnd - pa)
  let (id, s) := s.newTag
  (wordPieces pa bs.length).foldl (fun (s : State) p =>
    let part := (bs.drop (p.1 - pa)).take p.2
    let homes := (s.slices.map fun (e : Nat × Slice) => (e.2.home.filter fun b => b.holdsFrame p.1).map fun b => (e.1, b)).flatten
    if homes.isEmpty then
      let vas := s.frameVas .hbm p.1
      let s := { s with hbm := s.hbm.write p.1 part }
      let s := if p.2 = 16 then s.setPoison .hbm p.1 false else s
      vas.foldl (fun (s : State) a => s.markWrite a.2) s
    else homes.foldl (fun (s : State) e =>
      let va := e.2.span * 512 + (p.1 - e.2.pa)
      let wt := max (e.2.le + 1) (sget 0 s.floorF (e.1 / 24))
      let s := (s.updSlice e.1 (·.rebase wt)).updSlice e.1 fun sl => { sl with
        home := updBlk sl.home e.2.asid va fun b => b.store va part wt (id + 1) }
      s.raiseFloor wt) s) s

/-- Write bytes to local HBM at a physical address: home blocks that hold them take them too (notes/assumptions/33.md); words
that are wholly written lose their poison. -/
def State.hbmPut (s : State) (pa : Nat) (bs : List Byte) : State :=
  let bs := bs.take (hbmEnd - pa)
  let s := s.frameWrite pa bs
  (List.range (bs.length / 16)).foldl (fun s k => s.setPoison .hbm (pa + 16 * k) false) { s with hbm := s.hbm.write pa bs }

/-- MULTICAST_WRITE_ARRIVAL: the member's group table names the frame; without one the write is discarded; either way it is
answered (16 R404). A disabled fabric refuses it at the port (R397), and a checkpoint holds it (15 R393). -/
def execMulticastWriteArrival (m : McWrite) (s : State) : Host.Outcome State Fault Refusal :=
  .next (
    let tab := s.reg 0x310
    let a := fld tab 15 37 * 2 ^ 15 + 8 * (m.group % 65536)
    let e := s.hbm64 a
    let pa := fld e 15 37 * 2 ^ 15 + m.ofs % 2 ^ 15
    let on := tab.getLsbD 0 && decide (a < hbmEnd) && e.getLsbD 0
    if !(s.reg 0x300).getLsbD 1 then { s with outbox := s.outbox ++ [.peerAns m.tag m.port (.fault 0)] }
    else match (if on then s.ckFrame .hbm pa else none) with
      | some p => s.hold .ck p.1 p.2 (.multicastWriteArrival m)
      | none => s.unlessMoves (if on then s.frameSlices pa m.bytes.length else []) (.multicastWriteArrival m) <|
        let s := s.portCount m.port 1 m.bytes.length
        let s := if on then s.frameWrite pa m.bytes else s
        { s with outbox := s.outbox ++ [.mcastAns m.tag] })

/-- TORUS_FORWARD: a segment of another module's is counted, and goes on by its turn list (16 R402, 17 R420). -/
def execTorusForward (m : TorusSeg) (s : State) : Host.Outcome State Fault Refusal :=
  .next (
    if !(s.torus && (s.reg 0x300).getLsbD 1) then s
    else match m.turns with
      | [] => s
      | _ :: _ =>
        let s := s.portCount m.port 1 m.payload.length
        s.passOn m)

/-! ## Tagged messages (16 R405, R406, 02 R34) -/

/-- A message is discarded and counted in MSGDROP, saturating. -/
def State.msgDrop (s : State) : State := s.setFld 0x318 0 48 (min (fld (s.reg 0x318) 0 48 + 1) (2 ^ 48 - 1))

/-- The record of an armed queue (02 R34). -/
def armedRecord (size paddr tag len src port time : Nat) : List Byte :=
  bytesOf paddr 8 ++ bytesOf tag 8 ++ bytesOf len 4 ++ bytesOf src 2 ++ bytesOf port 2 ++ bytesOf time 8 ++
    List.replicate (size - 32) 0

/-- The queue that a tag is armed for. -/
def State.armed? (s : State) (tag : Nat) : Option Queue :=
  if tag = 0 ∨ 2 ^ 26 ≤ tag then none else s.queues.find? fun q => q.tag == tag

/-- The bytes of a landing slot, and the next slot that is free for a payload. -/
def Queue.landSize (q : Queue) : Nat := 2 ^ (q.lslot + 6)
def Queue.landSlot (q : Queue) (n : Nat) : Option Nat :=
  let slots := 2 ^ q.lcnt
  let size := q.landSize
  let free (k : Nat) : Bool := !(q.lused.any fun p =>
    decide (p.2.1 < q.land + k * size + size) && decide (q.land + k * size < p.2.1 + p.2.2))
  if size < n then none else ((List.range slots).map fun k => (q.lnext + k) % slots).find? free

/-- The landing of a message waits while the slots of its queue, or the words that it lands in, cannot be written (23 R501, 24 R513). -/
def State.unlessLands (s : State) (tag n : Nat) (e : Instr) (k : State) : State := match s.armed? tag with
  | none => k
  | some q => s.unlessShut q e (match q.landSlot n with
    | none => k
    | some j => s.unlessBarred q.asid ((wordPieces (q.land + j * q.landSize) n).map (·.1)) e k)

/-- A message lands and its record is appended, or it is discarded (16 R405); `bad` names poisoned words of the payload. -/
def State.landMessage (s : State) (port src tag : Nat) (payload : List Byte) (bad : List Nat) : State :=
  match s.armed? tag with
  | none => s.msgDrop
  | some q =>
    let slots := 2 ^ q.lcnt
    let size := q.landSize
    match q.landSlot payload.length with
    | none => s.msgDrop
    | some slot =>
      let at_ := q.land + slot * size
      match s.homeWrite q.asid at_ payload (sget 0 s.floorF (homeOf at_ / 24)) with
      | none => s.msgDrop
      | some (wt, s) =>
        let s := s.raiseFloor wt
        let s := if port = 16 then s.escort (sliceNode (homeOf at_)) payload.length false else s
        let s := bad.foldl (fun (s : State) k => s.setHome (homeOf (at_ + 16 * k)) q.asid (at_ + 16 * k) fun b =>
          { b with poison := b.poison ||| Mask.one (wordOf (at_ + 16 * k)) }) s
        let die := if port < 16 then port / 4 else 0
        match s.appendOutside q.num (armedRecord q.size at_ tag payload.length src port (sget 0 s.time die).toNat) true with
        | (s, .accepted seq) => s.updQueue q.num fun q => { q with lused := q.lused ++ [(seq, at_, size)], lnext := (slot + 1) % slots }
        | (s, _) => s.msgDrop

/-- TAGGED_MESSAGE_ARRIVAL: the sender's message is answered whether it is performed or discarded. -/
def execTaggedMessageArrival (m : TagMsg) (s : State) : Host.Outcome State Fault Refusal :=
  .next (
    if !(s.reg 0x300).getLsbD 1 then { s with outbox := s.outbox ++ [.peerAns m.tag m.port (.fault 0)] }
    else s.unlessLands m.ctag m.payload.length (.taggedMessageArrival m) <|
      let s := (s.portCount m.port 1 m.payload.length).landMessage m.port m.srcdev m.ctag m.payload []
      { s with outbox := s.outbox ++ [.messageAns m.tag] })

/-- HMSGA: the payload of a host-link message is read (16 R406); with LEN 0 nothing is sent. -/
def execHmsga (val : Word) (s : State) : Host.Outcome State Fault Refusal :=
  .next (
    if s.msg.isSome || s.zdown.isSome then s
    else if fld val 0 16 = 0 then s.msgDrop
    else { s with msg := some (s.reg 0x320).toNat }.send (.hostMessageDelivery val))

/-- HOST_MESSAGE_DELIVERY: the message with the tag that HMSGT held, from port 16 and module 0xFFFF. -/
def execHostMessageDelivery (val : Word) (s : State) : Host.Outcome State Fault Refusal :=
  .next (match s.msg with
    | none => s
    | some tag => s.unlessLands tag (fld val 0 16 * 16) (.hostMessageDelivery val) <|
      let pa := fld val 16 48 * 16
      let n := fld val 0 16 * 16
      s.unlessMoves (s.hostSlices pa n) (.hostMessageDelivery val) <|   -- 24 R513
      let s := ({ s with msg := none } : State).hostSync pa n
      let bad := (List.range (fld val 0 16)).filter fun k => s.backPoison .host (pa + 16 * k)
      s.landMessage 16 0xFFFF tag (s.host.read pa n) bad)

/-! ## Split queues (16 R407 to R410) -/

/-- The end of a binding. -/
def State.segDone (s : State) (result : Nat) : State := s.setFld 0x330 60 4 result  -- BUSY clears

/-- A binding of the queue that SEGBIND names, where its graph allows the role. -/
def State.bindSeg (s : State) (val : Word) (ok : Queue → Bool) (f : Queue → Queue) : State :=
  match s.queue? (fld val 0 12) with
  | none => s.segDone 1
  | some q => if !ok q then s.segDone 2 else (s.updQueue q.num f).segDone 0

/-- SEGBIND with ROLE 00. -/
def execSegbindUnbind (val : Word) (s : State) : Host.Outcome State Fault Refusal :=
  .next (s.bindSeg val (fun _ => true) fun q => { q with role := .unbound, psum := none })

/-- SEGBIND with ROLE 01: a queue that an edge-table entry names. -/
def execSegbindSend (val : Word) (s : State) : Host.Outcome State Fault Refusal :=
  .next (s.bindSeg val (fun q => q.edge.isSome) fun q =>
    { q with role := .send, peer := fld val 12 10, peerq := fld val 22 12 })

/-- SEGBIND with ROLE 10: a queue with a consumer stage. -/
def execSegbindReceive (val : Word) (s : State) : Host.Outcome State Fault Refusal :=
  .next (s.bindSeg val (fun q => q.edge.isNone) fun q =>
    { q with role := .receive, peer := fld val 12 10, peerq := fld val 22 12, expose := q.next })

/-- The records of a sending segment that were already unacknowledged when the summary before this one came have found no room at the
receiving home, and are to be forwarded again (16 R407, R409, notes/assumptions/122.md). -/
def Queue.again2 (q : Queue) : Queue :=
  let left := q.inflight.filter fun p => !q.waited.contains p.1
  { q with
    again := lsort id (q.again ++ ((q.inflight.filter fun p => q.waited.contains p.1).map (·.1)))
    inflight := left
    waited := left.map (·.1) }

/-- RECEIVING_SUMMARY: a receiving segment's home sends its summary, which names the sender's queue; a summary that
arrives is kept by its sending segment (16 R408). -/
def execReceivingSummary (m : SegSumEv) (s : State) : Host.Outcome State Fault Refusal :=
  .next (match m with
    | .send n => (match s.queue? n with
      | none => s
      | some q =>
        if q.role != .receive || !(s.reg 0x300).getLsbD 1 then s
        else
          let w := ((q.cons.bind s.stage?).map (·.weight)).getD 0
          { s with outbox := s.outbox ++ [.segSum (Config.peerMask q.peer q.peerq).toNat
            { queue := q.peerq, backlog := q.backlog, lq := q.lq, nextExp := q.expose, w := w }] })
    | .arrive m => if !(s.reg 0x300).getLsbD 1 then s
      else s.updQueue m.queue fun q => if q.role = .send then { q with psum := some m }.again2 else q)

/-- The numbers of a sending segment that are not forwarded, in ascending order. -/
def Queue.unforwarded (q : Queue) : List Nat := q.again ++ (List.range (q.next - q.fwd)).map (q.fwd + ·)

/-- The numbers that a burst may take, and the score (16 R409). -/
def Queue.burst (q : Queue) (port : Nat) : Option (List Nat × Int) :=
  match q.psum, q.edge with
  | some m, some (_, mask) =>
    if q.role != .send || mask / 2 ^ port % 2 = 0 then none
    else
      let cred := m.lq - m.backlog - q.inflight.length
      let may := (q.unforwarded.filter fun n => decide (n < m.nextExp + 256)).take (min 32 cred)
      let score : Int := (m.w : Int) * ((q.backlog : Int) - (m.backlog : Int))
      if may.isEmpty ∨ score ≤ 0 then none else some (may, score)
  | _, _ => none

/-- Where a record of a sending segment stands: its window slot, or its pannier slot. -/
def Queue.recVa (q : Queue) (n : Nat) : Nat :=
  match q.pan.find? fun e => e.2.seq == n with
  | some e => q.panbase + e.1 * q.size
  | none => q.slotVa n

/-- PORT_FORWARD_BURST: the port chooses a sending segment, claims at its home, and forwards (16 R409). -/
def execPortForwardBurst (port : Nat) (s : State) : Host.Outcome State Fault Refusal :=
  .next (
    if !(s.reg 0x300).getLsbD 1 || !s.portUp port || (sget {} s.retrain port).attempts != 0 || s.downing.getLsbD port then s
    else
      let pick := (lsort Queue.num (s.queues.filter fun q => !s.queueShut q)).foldl (fun (best : Option (Queue × List Nat × Int)) q =>
        match q.burst port, best with
        | none, b => b
        | some (l, sc), none => some (q, l, sc)
        | some (l, sc), some b => if b.2.2 < sc then some (q, l, sc) else some b) none
      match pick with
      | none => s
      | some (q, ns, _) =>
        let recs := ns.foldl (fun (acc : State × List (Nat × List Byte)) n =>
          let r := acc.1.homeBytes q.asid (wordPieces (q.recVa n) q.size)
          (r.1, acc.2 ++ [(n, r.2.1)])) (s, [])
        let (tag, s) := recs.1.newTag
        let s := s.updQueue q.num fun q => { q with
          again := q.again.filter fun n => !ns.contains n
          waited := q.waited.filter fun n => !ns.contains n
          fwd := max q.fwd ((ns.map (· + 1)).foldl max 0)
          inflight := q.inflight ++ ns.map fun n => (n, port, tag) }
        { s.portCount port 0 (ns.length * q.size) with outbox := s.outbox ++
            [.burst tag port q.peer s.modNum (s.turnList q.peer 0 port) q.peerq recs.2] })

/-- Acknowledge a forwarded record to its sender. -/
def State.burstAck (s : State) (m : FwdRec) (q : Queue) : State :=
  { s with outbox := s.outbox ++ [.burstAck m.port m.src q.peerq m.seq] }

/-- FORWARDED_RECORD_ARRIVAL: the record is held at its window slot, or, where that is taken or is still a lower number's (one in the
pannier among them), in the pannier, and exposed once every lower one is (16 R410, 23 R496, R503). One that finds no room, or no receiving
segment, is not acknowledged. -/
def execForwardedRecordArrival (m : FwdRec) (s : State) : Host.Outcome State Fault Refusal :=
  .next (match s.queue? m.queue with
    | none => s
    | some q =>
      if q.role != .receive || !(s.reg 0x300).getLsbD 1 then s
      else s.unlessShut q (.forwardedRecordArrival m) <|
        let s := s.portCount m.port 1 m.bytes.length
        if m.seq < q.expose || (q.early.any fun r => r.seq == m.seq) || (q.earlyPan.any fun r => r.2.seq == m.seq) then
          s.burstAck m q
        else
          let clk := sget 0 s.floorF (q.home / 24)
          let win : Bool := q.slotFree m.seq && decide (m.seq < q.expose + q.wincnt)
            && !(q.pan ++ q.earlyPan).any fun e => e.2.seq % q.wincnt == m.seq % q.wincnt
          let took (s : State) (wt : Nat) (f : Queue → Queue) : State :=
            let s := (s.raiseFloor wt).updQueue q.num fun q => { f q with backlog := q.backlog + 1 }
            ((s.flowRecs q.num (q.early.length + q.earlyPan.length + 2)).wakeClaims q.num).burstAck m q
          match (if win then s.homeWrite q.asid (q.slotVa m.seq) m.bytes clk else none) with
          | some (wt, s) => took s wt fun q => { q with
              early := q.early ++ [{ seq := m.seq, wt := wt, at_ := s.cycle }], busy := q.busy ++ [m.seq] }
          | none => (match s.panPlace q.num q.asid clk m.bytes m.seq q.pancnt q.panPos with
            | (s, some wt) => took s wt fun q => { q with
                earlyPan := q.earlyPan ++ (q.pan.getLast?).toList, pan := q.pan.dropLast }
            | (s, none) => s))

/-- FORWARD_ACKNOWLEDGEMENT: the records leave the sending backlog, and their slots are free (16 R409), also where they were to be
forwarded again; a disabled fabric refuses it at the port (R397). -/
def execForwardAcknowledgement (queue : Nat) (seqs : List Nat) (s : State) : Host.Outcome State Fault Refusal :=
  .next (match s.queue? queue with
    | none => s
    | some q => if !(s.reg 0x300).getLsbD 1 then s else
      s.unlessMoves [q.home] (.forwardAcknowledgement queue seqs) <|
      let got := (q.inflight.map (·.1) ++ q.again).filter fun n => seqs.contains n
      let s := s.updQueue queue fun q => { q with
        again := q.again.filter fun n => !got.contains n
        inflight := q.inflight.filter fun p => !got.contains p.1
        win := q.win.filter fun r => !got.contains r.seq
        pan := q.pan.filter fun e => !got.contains e.2.seq }
      s.releaseRecs queue got)

/-! ## Links that fail (23 R500, R501, R505, R506) -/

/-- The number of a link: ports, and 16 for the Zenvex Link. -/
def linkNo : Link → Nat
  | .port n => n
  | .zenvex => 16

/-- Is a link up? -/
def State.linkUp (s : State) (l : Link) : Bool := (s.reg 0x338).getLsbD (linkNo l)

/-- A link goes down. -/
def linkDown : Link → Instr
  | .port n => .portDown n
  | .zenvex => .zenvexLinkDown

/-- LINK_ERROR: a retrain begins, or an attempt has failed and makes another; each adds 1 to FRTR, and the port's PSKEW reads 0.
Where the third attempt fails the link goes down (23 R501, R506). -/
def execLinkError (l : Link) (s : State) : Host.Outcome State Fault Refusal :=
  .next (
    let r := sget {} s.retrain (linkNo l)
    if !s.linkUp l then s
    else if 3 ≤ r.attempts then s.post [linkDown l]
    else
      let r' : Retrain := { attempts := r.attempts + 1, since := if r.attempts = 0 then s.now else r.since }
      let s := { s with retrain := sset {} s.retrain (linkNo l) r' }
      match l with
      | .port n => (s.portCount n 2 1).setReg (0xA40 + 8 * n) 0
      | .zenvex => s)

/-- What waits for the Zenvex Link goes on, in its order (23 R501, R506): the companion processor's accesses, and .SYS
acknowledgements. -/
def State.linkFree (s : State) : State := { s.post s.linkWait with
  linkWait := []
  crews := s.crews.map fun c => { c with groups := c.groups.map fun g => { g with sysWait := false } } }

/-- Does an access of the companion processor go to the control window? -/
def windowAccess : Instr → Bool
  | .registerWrite _ _ => true
  | .companionWrite pa _ => inWindow .host pa
  | _ => false

/-- RETRAIN_COMPLETE: the waiting segments leave, and what waits for the Zenvex Link at the queues' homes goes on; what was sent and not
acknowledged is sent again by the link itself. -/
def execRetrainComplete (l : Link) (s : State) : Host.Outcome State Fault Refusal :=
  .next (let s := ({ s with retrain := sset {} s.retrain (linkNo l) {} } : State).leaveSegs
    match l with
    | .port _ => s
    | .zenvex => s.linkFree.flowAll)

/-- PORT_DOWN: UP clears, the module sets DEAD of the port's plane in switched mode, and the port's unanswered segments fail
(23 R501, R502, R505). -/
def execPortDown (port : Nat) (s : State) : Host.Outcome State Fault Refusal :=
  .next (
    if !s.portUp port then s
    else
      let s := { s.setFld 0x338 port 1 0 with
        retrain := sset {} s.retrain port {}
        downing := s.downing &&& ~~~BitVec.ofNat 16 (2 ^ port) }.setReg (0xA40 + 8 * port) 0
      let s := if s.torus then s else s.planeSwitch (port % 8) true
      (s.failPort port).leaveSegs)

/-- PORT_TRAIN: a write of 1 to a down port starts its training; its end is the link's own. -/
def execPortTrain (port : Nat) (s : State) : Host.Outcome State Fault Refusal :=
  .next (if s.portUp port then s else { s with training := s.training ||| BitVec.ofNat 16 (2 ^ port) })

/-- PORT_TAKE_DOWN: the port drains, and goes down once it is drained (23 R500); in switched mode the module sets DEAD of its plane as it does
for a port that fails (R501, notes/assumptions/121.md). -/
def execPortTakeDown (port : Nat) (s : State) : Host.Outcome State Fault Refusal :=
  .next (
    if !s.portUp port then s
    else
      let bit := BitVec.ofNat 16 (2 ^ port)
      if !s.portDrained port then { s with downing := s.downing ||| bit }
      else
        let s := ({ s with downing := s.downing &&& ~~~bit, retrain := sset {} s.retrain port {} }.setFld 0x338 port 1 0).setReg
          (0xA40 + 8 * port) 0
        (if s.torus then s else s.planeSwitch (port % 8) true).leaveSegs)

/-- PORT_TRAINED: a port in training comes up. -/
def execPortTrained (port : Nat) (s : State) : Host.Outcome State Fault Refusal :=
  .next (
    if !s.training.getLsbD port then s
    else ({ s with training := s.training &&& ~~~BitVec.ofNat 16 (2 ^ port) }.setFld 0x338 port 1 1).leaveSegs)

/-- ZENVEX_LINK_DOWN: ZUP clears; an access to the control window that waits is not served, and a .SYS acknowledgement that waits is
undeliverable (23 R506, 22 R492). -/
def execZenvexLinkDown (s : State) : Host.Outcome State Fault Refusal :=
  .next (
    if s.zdown.isSome then s
    else { s.setFld 0x338 16 1 0 with
      zdown := some s.now
      retrain := sset {} s.retrain 16 {}
      linkWait := s.linkWait.filter fun i => !windowAccess i
      crews := s.crews.map fun c => { c with groups := c.groups.map fun g => { g with
        failMark := g.failMark || g.sysWait, sysWait := false } } })

/-- ZENVEX_DOWN_TIMEOUT: down for more than 1 s, the module is fatal (20 R458, 23 R506). -/
def execZenvexDownTimeout (s : State) : Host.Outcome State Fault Refusal :=
  .next (match s.zdown with
    | none => s
    | some t => if s.now ≤ t + 1000000000 then s else { s with fatal := true }.postFlt { kind := 0x24, addr := 0 })

/-- ZENVEX_LINK_UP: ZUP is set, and the waits proceed. -/
def execZenvexLinkUp (s : State) : Host.Outcome State Fault Refusal :=
  .next ({ s.setFld 0x338 16 1 1 with zdown := none } : State).linkFree.flowAll

end Sys2Proof.Machine
end

