-- ==== Sys2Proof/Machine/Faults.lean ====
section
/-! DEFINITION. The fault ring and machine checks (20 R455 to R458, 22 R486), and retirement in service (24 R507 to R514). -/

namespace Sys2Proof.Machine

/-! ## The fault ring (20 R455 to R457) -/

/-- The number of records of the fault ring. -/
def State.fltSize (s : State) : Nat := 2 ^ (fld (s.reg 0xC08) 1 4 + 6)

/-- May a record be posted: the ring is on, has room, and the Zenvex Link is up (23 R506)? -/
def State.fltRoom (s : State) : Bool :=
  (s.reg 0xC08).getLsbD 0 && !s.zshut && decide (fld (s.reg 0xC10) 0 48 - fld (s.reg 0xC18) 0 48 < s.fltSize)

/-- The bytes of a record (20 R457), byte 0 first. -/
def FltRec.bytes (r : FltRec) (seq : Nat) : List Byte :=
  bytesOf r.pc.toNat 6 ++ [0] ++ bytesOf r.core 2 ++ bytesOf (r.vf * 16 + r.grp) 1 ++ bytesOf r.stage 2 ++ bytesOf r.acc 1 ++
    bytesOf r.kind 1 ++ bytesOf r.asid 2 ++ bytesOf r.rtag.toNat 2 ++ bytesOf seq 6 ++ bytesOf r.addr.toNat 8

/-- FAULT_RECORD_POST: the first waiting record takes the next SEQ; a ring that was empty makes an interrupt. -/
def execFaultRecordPost (s : State) : Host.Outcome State Fault Refusal :=
  .next (match s.fltWait with
    | [] => s
    | r :: rest =>
      if !s.fltRoom then s
      else
        let seq := fld (s.reg 0xC10) 0 48
        let at_ := fld (s.reg 0xC00) 12 40 * 2 ^ 12 + 32 * (seq % s.fltSize)
        let s := s.escort (sliceNode (24 * r.die)) 32 true   -- from the die that buffers it
        let s := { s with fltWait := rest, host := s.host.write at_ (r.bytes seq) }
        let s := if seq = fld (s.reg 0xC18) 0 48 then { s with outbox := s.outbox ++ [.interrupt] } else s
        let s := match r.kind, r.crew with
          | 0x10, some k => s.updCrew k fun c => { c with fltSeq := some seq }
          | _, _ => s
        s.setReg 0xC10 (BitVec.ofNat 64 ((seq + 1) % 2 ^ 48)))

/-- Machine-check records beyond the 64 that a die buffers while none can be posted are dropped and counted in FLTLOST,
saturating (20 R456). -/
def State.trimFlt (s : State) : State :=
  if s.fltRoom then s
  else
    let keep := s.fltWait.foldl (fun (acc : List FltRec) r =>
      if r.kind ≠ 0x10 ∧ 64 ≤ (acc.filter fun x => x.kind != 0x10 && x.die == r.die).length then acc else acc ++ [r]) []
    let lost := s.fltWait.length - keep.length
    if lost = 0 then s
    else { s with fltWait := keep }.setReg 0xC28 (BitVec.ofNat 64 (min (fld (s.reg 0xC28) 0 48 + lost) (2 ^ 48 - 1)))

/-- FLTTAIL: records consumed; a value above FLTHEAD or below the previous one is ignored. -/
def execFlttail (val : Word) (s : State) : Host.Outcome State Fault Refusal :=
  .next (
    let n := fld val 0 48
    if fld (s.reg 0xC10) 0 48 < n ∨ n < fld (s.reg 0xC18) 0 48 then s else s.setReg 0xC18 (BitVec.ofNat 64 n))

/-- Is a crew held, or to be held, or does a copy of a discarded one stand still, for records of cause 0x10 that all have a SEQ below a bound (20 R455, 22 R477)? -/
def State.replays (s : State) (v : Nat) (c : Crew) : Bool :=
  (c.st == .held || c.st == .gone || (c.st == .stopping && c.stopTo == .held)) && (c.fltSeq.any fun q => decide (q < v)) &&
    !(s.fltWait.any fun r => r.kind == 0x10 && r.crew == some c.id)

/-- FLTREPLAY: every held crew whose records have lower SEQs is a saved crew again (20 R455 step 5); one that is still being
stopped for them will be saved and not held, and the copies of one whose context is discarded go on (10 R269). A value at or below the last one written has no effect (22 R477). -/
def execFltreplay (val : Word) (s : State) : Host.Outcome State Fault Refusal :=
  .next (
    let v := fld val 0 48
    if v ≤ fld (s.reg 0xC20) 0 48 then s
    else (s.crews.filter (s.replays v)).foldl (fun (s : State) c =>
      let (n, s) := s.newTag
      if c.st == .gone then (s.updCrew c.id fun c => { c with fltSeq := none }).copiesOnward c.id else
      s.updCrew c.id fun c =>
        if c.st == .held then { c with st := .saved, savedAt := n, fltSeq := none }
        else { c with stopTo := .saved, fltSeq := none }) (s.setReg 0xC20 (BitVec.ofNat 64 v)))

/-! ## Data errors (20 R458, 22 R486, 24 R508) -/

/-- The die of the memory controller that holds a frame of HBM (01 R19). -/
def hbmDie (pa : Nat) : Nat := ((pa / 2 ^ 15 % 32) ^^^ (pa / 2 ^ 20 % 32)) / 8

/-- A slice counts an uncorrectable error of its own arrays (24 R508, R510). -/
def Slice.countErr (now : Nat) (sl : Slice) : Slice :=
  { sl with
    uncorr := min (sl.uncorr + 1) 0xFFFFFF
    errT := sl.errT.filter (fun t => decide (now < t + 86400000000000)) ++ [now] }

/-- A word that a message carries is poisoned on its way: the bytes of a load, those that reach a cache, from another or from backing
memory, or those of a store, which poison the word that takes them (20 R458, 22 R486). -/
def spoilMsg (asid va : Nat) (i : Instr) : Instr :=
  let here (a v : Nat) : Bool := a == asid && v % 2 ^ 51 / 16 == va % 2 ^ 51 / 16
  let fill (f : Fill) : Fill :=
    if f.asid == asid && f.span == spanOf va then { f with poison := f.poison ||| Mask.one (wordOf va) } else f
  match i with
  | .loadResultReturn m =>
    let hit := (List.range m.req.n).filter fun k => here m.req.asid (m.req.va + k)
    .loadResultReturn { m with
      poison := m.poison || !hit.isEmpty
      bad := if m.poison && m.bad.isEmpty then [] else m.bad ++ hit.filter fun k => !m.bad.contains k
      fill := m.fill.map fill }
  | .homeFillReturn m => .homeFillReturn { m with
      copy := m.copy.map fill
      bad := if m.copy.isNone && m.asid == asid && spanOf m.va == spanOf va then m.bad ||| Mask.one (wordOf va) else m.bad }
  | .storePerformedAtHome m => .storePerformedAtHome { m with spoilt := m.spoilt || here m.asid m.va }
  | i => i

/-- The module is fatal (20 R458): kind 0x24 is recorded, and the records that wait are posted, that one among them, as far as the ring
has room; nothing else happens any more. -/
def State.failModule (s : State) (die : Nat) : State :=
  let s := { s with fatal := true }.postFlt { kind := 0x24, addr := 0, die := die }
  s.post (List.replicate s.fltWait.length .faultRecordPost)

/-- DATA_ERROR_DETECTED: an uncorrectable error poisons its word and is recorded; a slice counts the errors of its own
arrays. One that a bridge carries is buffered on the die of its home slice, one over the Zenvex Link on die 0 (20 R456). A memory controller that fails is fatal, and the state of a queue that cannot be read ends the queue's graph (24 R513). -/
def execDataErrorDetected (e : ErrAt) (s : State) : Host.Outcome State Fault Refusal :=
  .next (match e with
    | .slice i _ _ own true =>
      if own then s.updSlice i fun sl => { sl with corr := min (sl.corr + 1) 0xFFFFFF } else s
    | .slice i asid va own false =>
      let s := s.updSlice i fun sl =>
        let sl := { sl with home := updBlk sl.home asid va (·.spoil va), loc := updBlk sl.loc asid va (·.spoil va) }
        if own then sl.countErr s.now else sl
      s.postFlt { kind := 0x20, addr := BitVec.ofNat 64 (va / 16 * 16), asid := asid, die := i / 24 }
    | .sweep i asid va => (match findBlk (s.slice i).home asid va with
      | none => s
      | some b =>
        (s.updSlice i fun sl => { sl with home := updBlk sl.home asid va (·.spoil va) }.countErr s.now).postFlt
          { kind := 0x20, addr := BitVec.ofNat 64 (2 ^ 63 + b.pa + 16 * wordOf va), die := i / 24 })
    | .l1 c asid va =>
      (s.updCore c fun co => { co with l1 := updBlk co.l1 asid va (·.spoil va) }).postFlt
        { kind := 0x20, addr := BitVec.ofNat 64 (va / 16 * 16), asid := asid, core := c, die := c / 72 }
    | .carried zenvex asid va =>
      (s.mapFlying (spoilMsg asid va)).postFlt
        { kind := 0x20, addr := BitVec.ofNat 64 (va / 16 * 16), asid := asid, die := if zenvex then 0 else homeOf va / 24 }
    | .controller n => s.failModule (n / 8)
    | .queueState n => (match s.queue? n with
      | none => s
      | some q =>
        let s := s.postFlt { kind := 0x23, addr := BitVec.ofNat 64 (2 ^ 62), die := q.home / 24 }
        match s.graph? q.graph with
        | none => s
        | some g => (s.drainGraph g).abortGraph g)
    | .hbm pa => (s.setPoison .hbm pa true).postFlt
        { kind := 0x20, addr := BitVec.ofNat 64 (2 ^ 63 + pa / 16 * 16), die := hbmDie pa }
    | .host pa => (s.setPoison .host pa true).postFlt
        { kind := 0x20, addr := BitVec.ofNat 64 (2 ^ 63 + pa / 16 * 16), die := 0 })

/-- CONTEXT_ERROR: the crew is discarded with its held entries, its records are released and not delivered again, and what
else befell it in this cycle lapses; a record of an earlier cycle that waits stays (20 R456, R458, R460). -/
def execContextError (crew : Nat) (s : State) : Host.Outcome State Fault Refusal :=
  .next (match s.crew? crew with
    | none => s
    | some c =>
      let s := s.saveCrew crew .closing
      let s := s.divide c.core fun s => { s with crews := s.crews.filter fun x => x.id != crew }
      let s := { s with
        svcOpen := s.svcOpen.filter fun o => o.2.2.crew != crew
        fltWait := s.fltWait.filter fun r => r.crew != some crew || r.at_ != s.cycle }
      let s := ((c.recs.map (·.queue)).eraseDups).foldl (fun s n =>
        s.releaseRecs n ((c.recs.filter fun r => r.queue == n).map (·.seq))) s
      s.postFlt {
        kind := 0x22, addr := c.seqbase, asid := c.asid, stage := c.stage, vf := c.vf, core := c.core, die := c.core / 72 })

/-! ## Retirement (24 R507 to R514) -/

/-- One bit of CRC-32. -/
def crcBit (c : BitVec 32) : BitVec 32 := if c.getLsbD 0 then c >>> 1 ^^^ 0xEDB8_8320 else c >>> 1

/-- CRC-32 over bytes: the IEEE 802.3 polynomial, for the spec names none (notes/assumptions/107.md). -/
def crc32 (bs : List Byte) : BitVec 32 :=
  ~~~bs.foldl (fun c b => (List.range 8).foldl (fun c _ => crcBit c) (c ^^^ b.setWidth 32)) (BitVec.allOnes 32)

/-- Bytes 0 to 11 of an entry (24 R507). -/
def LogEnt.body (e : LogEnt) : List Byte :=
  bytesOf e.spare 1 ++ bytesOf e.pos 1 ++ bytesOf e.grp 1 ++ bytesOf e.die 1 ++ bytesOf (if e.slice then 1 else 0) 1 ++
    bytesOf e.reason 1 ++ bytesOf e.time 6

/-- The 16 bytes of an entry in the store. -/
def LogEnt.bytes (e : LogEnt) : List Byte := e.body ++ bytesOf e.crc.toNat 4

/-- What the log holds where no entry is: zeros, for the spec gives no other (notes/assumptions/107.md). -/
def LogEnt.blank : LogEnt where
  reason := 0
  slice := false
  die := 0
  grp := 0
  pos := 0
  spare := 0
  time := 0

/-- An entry as it is written, with its CRC. -/
def LogEnt.sealed (e : LogEnt) : LogEnt := { e with crc := crc32 e.body }

/-- Is an entry's CRC right (18 R438)? -/
def LogEnt.crcOk (e : LogEnt) : Bool := e.crc == crc32 e.body

/-- Append an entry to the repair log; a full log takes none (24 R507). -/
def State.repair (s : State) (e : LogEnt) : State :=
  if 256 ≤ s.store.log.length then s else { s with store := { s.store with log := s.store.log ++ [e.sealed] } }

/-- The retirement that a write of RETIRE, or a threshold, asks for. -/
def Retire.word (r : Retire) : Nat := (if r.slice then 2 ^ 11 else 0) + r.unit

/-- A retirement ends with a RESULT, and the next that waits begins (24 R510). -/
def State.retireEnd (s : State) (result : Nat) : State :=
  let s := { s.setFld 0xE00 60 4 result with retiring := none }
  match s.retWait with
  | [] => s
  | r :: t => { s with retWait := t }.post
      [if r.slice then .sliceRetire (BitVec.ofNat 64 r.word) r.reason else .coreRetire (BitVec.ofNat 64 r.word) r.reason]

/-- A retirement begins: BUSY, and the unit in RETIRE. -/
def State.retireBegin (s : State) (r : Retire) : State :=
  let v := sget 0 s.win 0xE00 &&& 0x7000_0000_0000_0000
  { s.setReg 0xE00 (v ||| BitVec.ofNat 64 (2 ^ 63 + r.word)) with retiring := some r }

/-- One retirement at a time: a trigger that falls in another's waits, a write is ignored (24 R509, R510, R514). -/
def State.retireAsk (s : State) (r : Retire) (k : State → State) : State :=
  if s.retiring.isSome then (if r.req then s else { s with retWait := s.retWait ++ [r] }) else k s

/-- CORE_RETIRE: BUSY, and the core's crews are pre-empted (24 R511 step 1), where a precise stop stands on the core once it is
released. -/
def execCoreRetire (val : Word) (reason : Nat) (s : State) : Host.Outcome State Fault Refusal :=
  .next (
    let core := fld val 0 9
    let r : Retire := { slice := false, unit := core, reason := reason, req := reason == 5 }
    s.retireAsk r fun s =>
      if 288 ≤ core || (s.core core).absent then s.retireEnd 2
      else
        let s := s.retireBegin r
        if s.stopsOn core then s
        else s.post ((s.crews.filter fun c => c.core == core && c.st == .running).map fun c => .preemption c.id))

/-- Has a core no precise stop, crew, reservation or array instruction left (24 R511 step 1)? -/
def State.coreClear (s : State) (core : Nat) : Bool :=
  !s.stopsOn core && !(s.crews.any fun c => c.core == core && c.moves) && (s.core core).resv.isEmpty && (s.core core).mq.isEmpty

/-- The core of a COREID whose physical core has changed: TRAPBASE, the watchpoints, the counters and what the scheduler
keeps stay; the rest is as at reset (24 R511 step 3). -/
def Core.moved (co : Core) (phys : Nat) : Core :=
  { co with
    phys := some phys
    persist := 0
    mretry := 0
    vretry := 0
    attrs := []
    resid := []
    mresid := []
    l1 := []
    pred := []
    plActive := none
    plShadow := none
    bgDone := none
    reexT := []
    persT := []
    evalDue := true }

/-- The route tables' entry of a node follows the map in force, once the node has drained (12 R318). -/
def State.reroute (s : State) (node : Nat) : State := { s with routes := s.routes.set node (s.siteOf node) }

/-- The record of kind 0x23 (20 R458). -/
def retireRec (addr die : Nat) : FltRec := { kind := 0x23, addr := BitVec.ofNat 64 addr, die := die }

/-- A spare core that fails its self-test is written to the log, and is no spare any more (24 R511 step 2). -/
def State.loseSpare (s : State) (k reason : Nat) : State :=
  { s.repair {
      reason := reason, slice := false, die := k / 18, grp := k % 18, pos := s.spareOf k, spare := 0xFF, time := s.now } with
    deadCores := s.deadCores ++ [k] }

/-- CORE_RETIRE_DONE: steps 2 to 6 of R511; without a spare the COREID is absent, and its keeper slots are lost (R512). -/
def execCoreRetireDone (s : State) : Host.Outcome State Fault Refusal :=
  .next (match s.retiring with
    | none => s
    | some r =>
      if r.slice || !s.coreClear r.unit || s.inNet r.unit then s
      else
        let core := r.unit
        let k := core / 4
        let tests := s.spareCoreFree k
        let ok := tests && Config.spareOk s.draw
        let s := { s with draw := if tests then s.draw + 1 else s.draw }
        let s := if tests && !ok then s.loseSpare k 1 else s
        let s := s.repair {
          reason := r.reason, slice := false, die := core / 72, grp := k % 18, pos := s.physOf core
          spare := if ok then s.spareOf k else 0xFF, time := s.now }
        let s := if ok then s.updCore core fun co => co.moved (s.spareOf k)
          else { s.updCore core fun co => { co.moved (s.physOf core) with absent := true, cands := [], sums := [], evalDue := false } with
            keepers := s.keepers.filter fun x => x.core != core }
        (s.reroute core).postFlt (retireRec core (core / 72)) |>.retireEnd (if ok then 0 else 1))

/-- A spare slice of a die that is unused and in service. -/
def State.freeSlice (s : State) (die : Nat) : Option Nat := (List.range 2).find? fun n => s.spareSliceFree (2 * die + n)

/-- SLICE_RETIRE: BUSY; with no spare on the die a write is not taken, and a trigger is fatal (24 R513). -/
def execSliceRetire (val : Word) (reason : Nat) (s : State) : Host.Outcome State Fault Refusal :=
  .next (
    let i := fld val 0 9
    let r : Retire := { slice := true, unit := i, reason := reason, req := reason == 5 }
    s.retireAsk r fun s =>
      if 96 ≤ i then s.retireEnd 2
      else match s.freeSlice (i / 24) with
        | some _ => s.retireBegin r
        | none =>
          if r.req then s.retireEnd 3
          else s.failModule (i / 24))

/-- SLICE_RETIRE_DONE: the whole state of the slice stands at the spare, which takes the index (24 R513); its blocks, marks
and held writes are where they were, as programs see it. -/
def execSliceRetireDone (s : State) : Host.Outcome State Fault Refusal :=
  .next (match s.retiring with
    | none => s
    | some r =>
      if !r.slice || s.inNet (sliceNode r.unit) then s
      else match s.freeSlice (r.unit / 24) with
        | none => s.retireEnd 3
        | some n =>
          let i := r.unit
          let die := i / 24
          let old := (s.slice i).spare
          let s := s.repair {
            reason := r.reason, slice := true, die := die, grp := i % 24 / 8, pos := (old.map (· + 8)).getD (i % 8)
            spare := n, time := s.now }
          let s := { s.updSlice i fun sl => { sl with spare := some n, corr := 0, uncorr := 0, errT := [] } with
            deadSpares := s.deadSpares ++ (old.map (2 * die + ·)).toList }
          let late := s.hbmWait
          let s := { s.reroute (sliceNode i) with todo := s.todo ++ s.sliceWait, sliceWait := [], hbmWait := [] }
          let s := (s.postFlt (retireRec (2 ^ 63 + i) die)).retireEnd 0
          (late.foldl (fun s p => s.hbmPut p.1 p.2) s).flowAll)

/-- The retirements that a threshold asks for now (24 R510). -/
def State.retireTriggers (s : State) : List Instr :=
  let pol := s.reg 0xE10
  let asked (slice : Bool) (u : Nat) : Bool := (s.retiring.toList ++ s.retWait).any fun r => r.slice == slice && r.unit == u
  let recent (l : List Nat) (span : Nat) : Nat := (l.filter fun t => decide (s.now < t + span)).length
  let reach (n thr : Nat) : Bool := thr != 0 && decide (thr ≤ n)
  if !pol.getLsbD 63 then []
  else
    (s.cores.filterMap fun (e : Nat × Core) =>
      if e.2.absent || asked false e.1 then none
      else if reach (recent e.2.persT 86400000000000) (fld pol 0 8) then some (.coreRetire (BitVec.ofNat 64 e.1) 2)
      else if reach (recent e.2.reexT 3600000000000) (fld pol 16 16) then some (.coreRetire (BitVec.ofNat 64 e.1) 3)
      else none) ++
    (s.slices.filterMap fun (e : Nat × Slice) =>
      if asked true e.1 || !reach (recent e.2.errT 86400000000000) (fld pol 8 8) then none
      else some (.sliceRetire (BitVec.ofNat 64 (2 ^ 11 + e.1)) 4))

end Sys2Proof.Machine
end

