-- ==== Sys2Proof/Machine/Boot.lean ====
section
/-! DEFINITION. Module reset and start-up (18 R436 to R440, 24 R507, R515), and a write of a register (00 R6). -/

namespace Sys2Proof.Machine

/-! ## The spare map (01 R12, R16, 18 R438) -/

/-- The COREID of a cluster whose slot a physical core holds. -/
def State.holderCore (s : State) (k p : Nat) : Option Nat :=
  ((List.range 4).map (4 * k + ·)).find? fun c => !(s.core c).absent && s.physOf c == p

/-- The slice of a die that a spare slice stands in for. -/
def State.holderSlice (s : State) (die n : Nat) : Option Nat :=
  ((List.range 24).map (24 * die + ·)).find? fun i => (s.slice i).spare == some n

/-- An entry of the repair log changes the map in force; one whose CRC fails is ignored (18 R438, 24 R507). It retires its unit; a spare
stands in only where the map in force has one that is unused and in service, the one that SPARE names among a die's slices: under
another image's map SPARE may name a unit that is none. A slice that none is left for has no unit, and the start ends at step 5
(notes/assumptions/123.md). -/
def State.applyEntry (s : State) (e : LogEnt) : State :=
  let spare (s : State) : Option Nat :=
    if e.spare < 2 && s.spareSliceFree (2 * e.die + e.spare) then some e.spare else s.freeSlice e.die
  let stand (s : State) (i : Nat) : State := match spare s with
    | some n => s.updSlice i fun sl => { sl with spare := some n }
    | none => s.updSlice i fun sl => { sl with spare := none, dead := true }
  if !e.crcOk then s
  else if !e.slice then
    let k := 18 * e.die + e.grp
    match s.holderCore k e.pos with
    | some c =>
      let free := e.spare != 0xFF && s.spareCoreFree k
      s.updCore c fun co => if free then { co with phys := some (s.spareOf k) } else { co with phys := some e.pos, absent := true }
    | none => if e.pos = s.spareOf k then { s with deadCores := s.deadCores ++ [k] } else s
  else if e.pos < 8 then
    let i := 24 * e.die + 8 * e.grp + e.pos
    if (s.slice i).spare = none ∧ !(s.slice i).dead then stand s i else s
  else
    let s' := { s with deadSpares := s.deadSpares ++ [2 * e.die + (e.pos - 8)] }
    match s.holderSlice e.die (e.pos - 8) with
    | some i => stand s' i
    | none => s'

/-- The map in force: the image's, and then the log's entries in their order. Where both spare bytes of a die name one slice, the
second spare is the one in use and the first is left unused: a DESIGN CHOICE, for 01 R16 gives no case of it (notes/assumptions/123.md). -/
def State.applyMap (s : State) : State :=
  let s := (numbered s.image.spareSlices).foldl (fun (s : State) p => match p.2 with
    | some j => s.updSlice (p.1 / 2 * 24 + j) fun sl => { sl with spare := some (p.1 % 2) }
    | none => s) s
  s.store.log.foldl State.applyEntry s

/-! ## The self-test of step 5 (24 R515) -/

/-- Retire a unit at start-up: the log takes the entry, and the map changes. -/
def State.bootRetire (s : State) (slice : Bool) (die grp pos spare : Nat) : State :=
  let e : LogEnt := { reason := 1, slice := slice, die := die, grp := grp, pos := pos, spare := spare, time := s.now }
  (s.repair e).applyEntry e.sealed

/-- Is a failing physical core (5 · cluster + physical index) an unused spare that is still in service? -/
def State.idleCore (s : State) (u : Nat) : Bool := u % 5 == s.spareOf (u / 5) && s.spareCoreFree (u / 5)

/-- Retire a failing core. -/
def State.dropCore (s : State) (u : Nat) : State :=
  let k := u / 5
  match s.holderCore k (u % 5) with
  | some _ => s.bootRetire false (k / 18) (k % 18) (u % 5) (if s.spareCoreFree k then s.spareOf k else 0xFF)
  | none => if s.idleCore u then s.bootRetire false (k / 18) (k % 18) (u % 5) 0xFF else s

/-- Is a failing physical slice (26 · die + number, 24 and 25 the spares) an unused spare that is still in service? -/
def State.idleSlice (s : State) (u : Nat) : Bool :=
  decide (24 ≤ u % 26) && s.spareSliceFree (2 * (u / 26) + (u % 26 - 24))

/-- Retire a failing slice, and say whether a spare was left for it. -/
def State.dropSlice (s : State) (u : Nat) : State × Bool :=
  let die := u / 26
  let q := u % 26
  let used : Option (Nat × Nat) :=
    if q < 24 then (if (s.slice (24 * die + q)).spare = none ∧ !(s.slice (24 * die + q)).dead then some (24 * die + q, q % 8) else none)
    else (s.holderSlice die (q - 24)).map fun i => (i, q - 24 + 8)
  match used with
  | some (i, pos) => (match s.freeSlice die with
    | some n => (s.bootRetire true die (i % 24 / 8) pos n, true)
    | none => (s, false))
  | none => (if s.idleSlice u then s.bootRetire true die 0 (q - 24 + 8) 0xFF else s, true)

/-- The failing units that are in service. -/
def State.failing (s : State) (env : BootEnv) : List Nat × List Nat :=
  (env.badCores.filter fun u => s.idleCore u || (s.holderCore (u / 5) (u % 5)).isSome,
    env.badSlices.filter fun u => s.idleSlice u ||
      (if u % 26 < 24 then (s.slice (24 * (u / 26) + u % 26)).spare == none && !(s.slice (24 * (u / 26) + u % 26)).dead
       else (s.holderSlice (u / 26) (u % 26 - 24)).isSome))

/-- Has every slice of the map a unit (24 R515)? -/
def State.slicesWhole (s : State) : Bool := (List.range 96).all fun i => !(s.slice i).dead

/-- Retire every failing unit, unused spares first, and say whether every slice had a spare. -/
def State.retireFailing (s : State) (env : BootEnv) : State × Bool :=
  let f := s.failing env
  let (idleC, busyC) := f.1.partition s.idleCore
  let (idleS, busyS) := f.2.partition s.idleSlice
  let s := (idleC ++ busyC).foldl State.dropCore s
  (idleS ++ busyS).foldl (fun (o : State × Bool) u => let r := o.1.dropSlice u; (r.1, o.2 && r.2)) (s, true)

/-! ## The steps (18 R439) -/

/-- A little-endian number in an image. -/
def imageAt (bs : List Byte) (o n : Nat) : Nat := leNat ((bs.drop o).take n)

/-- LENGTH and SEQ of an image (18 R437). -/
def imageLength (bs : List Byte) : Nat := imageAt bs 4 4
def imageSeq (bs : List Byte) : Nat := imageAt bs 8 8

/-- What an image says: its header, the spare map and the firmware where the header places them (18 R437, R438); the reserved bits of
TRAPBASE are 0 whatever the firmware names (00 R7, 20 R448). A spare-map byte that names no unit is taken as it is
(notes/assumptions/106.md). -/
def imageOf (bs : List Byte) : Image :=
  let bs := bs.take (imageLength bs)
  let map := imageAt bs 16 4
  { seq := imageSeq bs
    spareCores := (List.range 72).map fun k => imageAt bs (map + 20 * (k / 18) + k % 18) 1
    spareSlices := (List.range 8).map fun k =>
      let j := imageAt bs (map + 20 * (k / 2) + 18 + k % 2) 1
      if j < 24 then some j else none
    trapbase := Config.bodyTrapbase (bs.drop (imageAt bs 20 4)) &&& trapbaseBits }

/-- A copy of the image. -/
def Store.copy (t : Store) (useB : Bool) : List Byte := if useB then t.b else t.a

/-- Does a key verify the signature of signed bytes: r and then s, 48 bytes each (18 R437)? Each stands little-endian, as R3 has every
datum of several bytes: their order and places are a DESIGN CHOICE (notes/assumptions/106.md). -/
def sigOk (key : Nat × Nat) (p : List Byte × List Byte) : Bool :=
  ecdsaVerify key (sha384 p.1) (leNat (p.2.take 48)) (leNat (p.2.drop 48))

/-- Does the key verify a copy's signature (18 R437)? One whose MAGIC or LENGTH is not as R437 has it does not verify
(notes/assumptions/106.md). -/
def Store.verifies (t : Store) (useB : Bool) : Bool :=
  let bs := t.copy useB
  imageAt bs 0 4 == 0x4A583449 && decide (224 ≤ imageLength bs) && decide (imageLength bs ≤ 2 ^ 23) &&
    decide (imageLength bs ≤ bs.length) && sigOk t.key (signedPart (bs.take (imageLength bs)))

/-- Is a copy accepted: does its signature verify, and is its SEQ at least the highest accepted (18 R437)? -/
def Store.accepts (t : Store) (useB : Bool) : Bool := t.verifies useB && decide (t.highest ≤ imageSeq (t.copy useB))

/-- The image that the companion processor has written stands in the copy not used at the last start, of 8 MiB (18 R436). -/
def State.takeImage (s : State) (env : BootEnv) : State :=
  match env.image with
  | none => s
  | some f =>
    let f := f.take (2 ^ 23)
    { s with store := if s.store.useB then { s.store with a := f } else { s.store with b := f } }

/-- A byte of the boot record: of a start, in the order of the starts, and of its steps 16 bytes each (18 R440); what no start has written
reads 0 (notes/assumptions/106.md). -/
def Store.bootAt (t : Store) (k : Nat) : Byte :=
  match (t.boots[k / 144]?).bind fun b => b.steps.find? fun e => e.1 == k % 144 / 16 + 1 with
  | some e => Config.bootByte e.1 e.2.1 e.2.2.1 e.2.2.2 (k % 16)
  | none => 0

/-- The store at an offset (18 R436): the image copies, the repair log, the boot record and the reserved rest of 32 MiB. -/
def Store.byteAt (t : Store) (o : Nat) : Option Byte :=
  if o < 2 ^ 23 then some (t.a.getD o 0)
  else if o < 2 ^ 24 then some (t.b.getD (o - 2 ^ 23) 0)
  else if o < 2 ^ 24 + 4096 then some (((t.log.getD ((o - 2 ^ 24) / 16) LogEnt.blank).bytes).getD (o % 16) 0)
  else if o < 2 ^ 24 + 4096 + 1152 then some (t.bootAt (o - 2 ^ 24 - 4096))
  else if o < 2 ^ 25 then some (sget 0 t.rest o)
  else none

/-- Is copy B the one that is read first: the copy with the higher SEQ, A where they are equal (notes/assumptions/14.md)? -/
def Store.first (t : Store) : Bool := decide (imageSeq t.a < imageSeq t.b)

/-- The copy that step 2 reads (18 R439, 24 R515): the first; by its alternate, the other one than the copy that failed at the previous
start, and then the copy that has passed. -/
def Store.reads (t : Store) (alt : Bool) : Bool :=
  if !alt then t.first
  else if ((t.boots.getLast?.map (·.steps)).bind fun r => (r.find? fun e => e.1 == 2).map fun e => e.2.1) = some 1 then !t.readB
  else t.readB

/-- Step 2: a copy is accepted, and is the image in force. -/
def State.acceptImage (s : State) (useB : Bool) : Option State :=
  let img := imageOf (s.store.copy useB)
  if s.store.accepts useB then
    some { s with store := { s.store with useB := useB, img := img, highest := img.seq } }
  else none

/-- Has a step an alternate? -/
def hasAlt (n : Nat) : Bool := n == 2 || n == 4 || n == 5 || n == 7 || n == 8

/-- One step of a start, by its alternate or not: the state, and the outcome, none where it fails. -/
def State.bootStep (s : State) (env : BootEnv) (alt : Bool) (n : Nat) : State × Option Nat :=
  let o := if alt then 3 else 0
  let test (b : Bool) (o : Nat) (t : State) : State × Option Nat := if b then (t, some o) else (s, none)
  match n with
  | 1 => test env.romOk 0 s
  | 2 =>
    let b := s.store.reads alt
    let s := { s with store := { s.store with readB := b } }
    (match s.acceptImage b with
      | some t => (t, some o)
      | none => (s, none))
  | 3 => test env.trimOk 0 s.applyMap
  | 4 => test (if alt then env.hbmAltOk else env.hbmOk) o s
  | 5 =>
    if alt then let r := s.retireFailing env; (r.1, if r.2 && r.1.slicesWhole then some 3 else none)
    else test (s.failing env == ([], []) && s.slicesWhole) 0 s
  | 6 => test env.routeOk 0 { s with routes := s.routeTables }
  | 7 => test (if alt then env.zenvexAltOk else env.zenvexOk) o (s.setFld 0x338 16 1 1)
  | 8 =>
    if alt then (s.setFld 0x338 0 16 env.ports.toNat, some 2)
    else test (env.ports == BitVec.allOnes 16) 0 (s.setFld 0x338 0 16 0xFFFF)
  | _ =>
    let t := s.image.trapbase
    ({ s with cores := (List.range 288).foldl (fun m c => sset {} m c { sget {} m c with trapbase := t }) s.cores }, some 0)

/-- The time that a step of a start takes: each die has counted its TIME since the reset reached it, and the dies' counts are not
synchronised (17 R429, notes/assumptions/42.md). -/
def State.bootTime (s : State) (n : Nat) : State :=
  { s with time := (List.range 4).foldl (fun m d =>
      sset 0 m d (sget 0 m d + BitVec.ofNat 64 (Config.dieTime (64 * s.draw + 4 * n + d)))) s.time }

/-- The outcome of a step in the record of a start. -/
def outcomeOf (r : List (Nat × Nat × Nat × Nat)) (n : Nat) : Option Nat := (r.find? fun e => e.1 == n).map fun e => e.2.1

/-- Does a step take its alternate: it failed at the previous start, or has used the alternate and passed, and no image with a higher
SEQ has been accepted since (18 R439, 24 R515)? An image that step 2 will accept counts for step 2 itself (notes/assumptions/14.md). -/
def State.takesAlt (s : State) (n : Nat) : Bool :=
  let seq := if n = 2 ∧ s.store.accepts s.store.first then imageSeq (s.store.copy s.store.first) else s.store.highest
  hasAlt n && (((s.store.boots.getLast?.map (·.steps)).bind (outcomeOf · n)) == some 1 || decide (seq < sget 0 s.store.alts n))

/-- A step has passed: the store keeps whether it used its alternate, and the highest SEQ accepted (24 R515). -/
def State.keepAlt (s : State) (n : Nat) (alt : Bool) : State :=
  { s with store := { s.store with alts := sset 0 s.store.alts n (if alt then s.store.highest + 1 else 0) } }

/-- A record of a step at its end; its detail code is the model's free value. -/
def bootRec (s : State) (n o : Nat) : Nat × Nat × Nat × Nat := (n, o, (Config.freeWord (s.draw + n)).toNat % 2 ^ 16, s.now)

/-- The steps of a start from one on: the state, the record, and the step that failed with whether it took its alternate. -/
def State.bootSteps (env : BootEnv) :
    List Nat → State → List (Nat × Nat × Nat × Nat) → State × List (Nat × Nat × Nat × Nat) × Option (Nat × Bool)
  | [], s, r => (s, r, none)
  | n :: ns, s, r =>
    let alt := s.takesAlt n
    let q := s.bootStep env alt n
    let t := q.1.bootTime n
    match q.2 with
    | none => (t.setReg 0xDC0 (BitVec.ofNat 64 (2 ^ 8 + n)), r ++ [bootRec t n 1], some (n, alt))
    | some o => State.bootSteps env ns ((t.keepAlt n alt).setReg 0xDC0 (BitVec.ofNat 64 (o * 2 ^ 8 + n))) (r ++ [bootRec t n o])

/-- What a module reset leaves before its start: the rewritable store, the memories, and what is on its way outside
(notes/assumptions/14.md). -/
def State.cleared (s : State) : State :=
  { State.reset with
    store := s.store
    hbm := s.hbm
    host := s.host
    hbmPoison := s.hbmPoison
    hostPoison := s.hostPoison
    inbox := s.inbox
    outbox := s.outbox
    draw := s.draw + 16 }

/-- Starts until one is ready or ends: a step that fails the first time makes another start; one that fails with its
alternate, or a second time where it has none, ends it, and the module answers with BOOTSTAT only, or not at all. A ready module
has measured its skews. -/
def State.boot (env : BootEnv) : Nat → State → State
  | 0, s => { s with ended := true }
  | k + 1, s =>
    let prev := (s.store.boots.getLast?.map (·.steps)).getD []
    let (t, r, out) := State.bootSteps env [1, 2, 3, 4, 5, 6, 7, 8, 9] s.cleared []
    let boots := t.store.boots ++ [{ steps := r }]
    let t := { t with store := { t.store with boots := boots.drop (boots.length - 8) } }
    match out with
    | none => { (t.setFld 0xDC0 63 1 1).post [.skewUpdate ((List.range 20).map fun k => Config.freeWord (t.draw + 10 + k))] with
        draw := t.draw + 30 }
    | some (n, alt) =>
      if alt || (!hasAlt n && outcomeOf prev n == some 1) then { t with ended := true, mute := n == 1 || n == 7 }
      else State.boot env k t

/-- MODULE_RESET. -/
def execModuleReset (env : BootEnv) (s : State) : Host.Outcome State Fault Refusal := .next ((s.takeImage env).boot env 12)

/-- REGISTER_WRITE: the companion processor writes a register of the control window, which is not served while the Zenvex
Link is down, and waits while it retrains (23 R501, R506). -/
def execRegisterWrite (ofs : Nat) (val : Word) (s : State) : Host.Outcome State Fault Refusal :=
  .next (if s.zdown.isSome then s
    else if s.zretrains then { s with linkWait := s.linkWait ++ [.registerWrite ofs val] }
    else s.winWrite ofs val)

end Sys2Proof.Machine
end

