-- ==== Sys2Proof/Machine/Convert.lean ====
section
/-! DEFINITION. Conversions, packing, block scales, special functions (08 R189 to R200) and the tandem word (05 R118 to R122). -/

namespace Sys2Proof.Machine

/-- CVT.FF (08 R191). -/
def execCvtFf (h : Hdr) (td ts : FloatTy) (m : FMod) (k : BitVec 4) (d a : Opnd) (s : State) : Host.Outcome State Fault Refusal :=
  let fs := [(0, d), (1, a)]
  .next (s.vexec { h := h, fs := fs, srcs := [a], d := d } fun x l =>
    (cvtFfW td ts m (x.md m.rnd) k.toNat (x.srcF ts a l) (x.src d l)).out)

/-- CVT.FI (08 R191). -/
def execCvtFi (h : Hdr) (td : IntTy) (ts : FloatTy) (m : FMod) (k : BitVec 4) (d a : Opnd) (s : State) : Host.Outcome State Fault Refusal :=
  let fs := [(0, d), (1, a)]
  .next (s.vexec { h := h, fs := fs, srcs := [a], d := d } fun x l =>
    (cvtFiW td ts m (x.md m.rnd) k.toNat (x.srcF ts a l) (x.src d l)).out)

/-- CVT.IF (08 R191). -/
def execCvtIf (h : Hdr) (td : FloatTy) (ts : IntTy) (m : FMod) (k : BitVec 4) (d a : Opnd) (s : State) : Host.Outcome State Fault Refusal :=
  let fs := [(0, d), (1, a)]
  .next (s.vexec { h := h, fs := fs, srcs := [a], d := d } fun x l =>
    (cvtIfW td ts m (x.md m.rnd) k.toNat (x.srcI ts.w.bits a l) (x.src d l)).out)

/-- CVT.II (08 R191). -/
def execCvtIi (h : Hdr) (td ts : IntTy) (m : FMod) (k : BitVec 4) (d a : Opnd) (s : State) : Host.Outcome State Fault Refusal :=
  let fs := [(0, d), (1, a)]
  .next (s.vexec { h := h, fs := fs, srcs := [a], d := d } fun x l =>
    (cvtIiW td ts m k.toNat (x.srcI ts.w.bits a l) (x.src d l)).out)

/-- CVTS (08 R192); a G register in B supplies one scale to every element. -/
def execCvts (h : Hdr) (td ts : FloatTy) (m : FMod) (k : BitVec 4) (d a b : Opnd) (s : State) : Host.Outcome State Fault Refusal :=
  let fs := [(0, d), (1, a), (2, b)]
  .next (s.vexec { h := h, fs := fs, srcs := [a, b], d := d } fun x l =>
    let sc := match b with
      | .g n => packElems ts.bits (List.replicate (64 / ts.bits) (x.g.rdG n.toNat).toNat)
      | o => x.srcF ts o l
    (cvtsW td ts m (x.md m.rnd) k.toNat (x.srcF ts a l) sc (x.src d l)).out)

/-- CVTEF (08 R193): D and the residual register C. -/
def execCvtef (h : Hdr) (td : FloatTy) (m : FMod) (k : BitVec 4) (scl : Bool) (d a b c : Opnd) (s : State) : Host.Outcome State Fault Refusal :=
  let fs := (0, d) :: (1, a) :: (if scl then [(2, b), (3, c)] else [(3, c)])
  .next (s.vexec { h := h, fs := fs, srcs := if scl then [a, b] else [a], d := d, d2 := some c } fun x l =>
    let r := cvtefW td m (x.md m.rnd) k.toNat (x.srcF .f32 a l) (if scl then some (x.srcF .f32 b l) else none) (x.src d l)
    { d := r.1.d, d2 := r.2.d, fl := r.1.fl ||| r.2.fl })

/-- CVTSR (08 R194); an immediate random word is read as an integer. -/
def execCvtsr (h : Hdr) (td ts : FloatTy) (m : FMod) (k : BitVec 4) (d a b : Opnd) (s : State) : Host.Outcome State Fault Refusal :=
  let fs := [(0, d), (1, a), (2, b)]
  .next (s.vexec { h := h, fs := fs, srcs := [a, b], d := d } fun x l =>
    (cvtsrW td ts m k.toNat (x.srcF ts a l) (x.srcI 32 b l) (x.src d l)).out)

/-- PACK.B6 (08 R196). An immediate source is sign-extended to the 64 bits of the lane, here and in UNPK: a DESIGN CHOICE
(notes/assumptions/101.md). -/
def execPackB6 (h : Hdr) (k : BitVec 2) (d a b : Opnd) (s : State) : Host.Outcome State Fault Refusal :=
  let fs := [(0, d), (1, a), (2, b)]
  .next (s.vexec { h := h, fs := fs, srcs := [a, b], d := d, arith := false } fun x l =>
    { d := packB6W k.toNat (x.srcI 64 a l) (x.srcI 64 b l) })

/-- UNPK.B6 (08 R196). -/
def execUnpkB6 (h : Hdr) (k : BitVec 2) (d a b : Opnd) (s : State) : Host.Outcome State Fault Refusal :=
  let fs := [(0, d), (1, a), (2, b)]
  .next (s.vexec { h := h, fs := fs, srcs := [a, b], d := d, arith := false } fun x l =>
    { d := unpkB6W k.toNat (x.srcI 64 a l) (x.src b l) })

/-- PACK.TRI (08 R197). -/
def execPackTri (h : Hdr) (k : BitVec 2) (d a b : Opnd) (s : State) : Host.Outcome State Fault Refusal :=
  let fs := [(0, d), (1, a), (2, b)]
  .next (s.vexec { h := h, fs := fs, srcs := [a, b], d := d, arith := false } fun x l =>
    (packTriW k.toNat (x.srcI 8 a l) (x.srcI 8 b l) (x.src d l)).out)

/-- UNPK.TRI (08 R197). -/
def execUnpkTri (h : Hdr) (k : BitVec 2) (d a : Opnd) (s : State) : Host.Outcome State Fault Refusal :=
  let fs := [(0, d), (1, a)]
  .next (s.vexec { h := h, fs := fs, srcs := [a], d := d, arith := false } fun x l =>
    (unpkTriW k.toNat (x.srcI 64 a l)).out)

/-- BSCL (08 R195). -/
def execBscl (h : Hdr) (k : BitVec 4) (d a b : Opnd) (s : State) : Host.Outcome State Fault Refusal :=
  let fs := [(0, d), (1, a), (2, b)]
  .next (s.vexec { h := h, fs := fs, srcs := [a, b], d := d } fun x l =>
    (bsclW k.toNat (x.srcF .f32 a l) (x.srcF .f32 b l) (x.src d l)).out)

/-- RCP (08 R198 to R200). -/
def execRcp (h : Hdr) (ty : FTy) (m : FMod) (d a : Opnd) (s : State) : Host.Outcome State Fault Refusal :=
  let fs := [(0, d), (1, a)]
  .next (s.vexec { h := h, fs := fs, srcs := [a], d := d } fun x l =>
    (sfW .rcp ty m (x.md m.rnd) (x.srcF ty.ty a l)).out)

/-- RSQ (08 R198 to R200). -/
def execRsq (h : Hdr) (ty : FTy) (m : FMod) (d a : Opnd) (s : State) : Host.Outcome State Fault Refusal :=
  let fs := [(0, d), (1, a)]
  .next (s.vexec { h := h, fs := fs, srcs := [a], d := d } fun x l =>
    (sfW .rsq ty m (x.md m.rnd) (x.srcF ty.ty a l)).out)

/-- SQRT (08 R198 to R200). -/
def execSqrt (h : Hdr) (ty : FTy) (m : FMod) (d a : Opnd) (s : State) : Host.Outcome State Fault Refusal :=
  let fs := [(0, d), (1, a)]
  .next (s.vexec { h := h, fs := fs, srcs := [a], d := d } fun x l =>
    (sfW .sqrt ty m (x.md m.rnd) (x.srcF ty.ty a l)).out)

/-- EXP2 (08 R198 to R200). -/
def execExp2 (h : Hdr) (ty : FTy) (m : FMod) (d a : Opnd) (s : State) : Host.Outcome State Fault Refusal :=
  let fs := [(0, d), (1, a)]
  .next (s.vexec { h := h, fs := fs, srcs := [a], d := d } fun x l =>
    (sfW .exp2 ty m (x.md m.rnd) (x.srcF ty.ty a l)).out)

/-- LOG2 (08 R198 to R200). -/
def execLog2 (h : Hdr) (ty : FTy) (m : FMod) (d a : Opnd) (s : State) : Host.Outcome State Fault Refusal :=
  let fs := [(0, d), (1, a)]
  .next (s.vexec { h := h, fs := fs, srcs := [a], d := d } fun x l =>
    (sfW .log2 ty m (x.md m.rnd) (x.srcF ty.ty a l)).out)

/-- SIN (08 R198 to R200). -/
def execSin (h : Hdr) (ty : FTy) (m : FMod) (d a : Opnd) (s : State) : Host.Outcome State Fault Refusal :=
  let fs := [(0, d), (1, a)]
  .next (s.vexec { h := h, fs := fs, srcs := [a], d := d } fun x l =>
    (sfW .sin ty m (x.md m.rnd) (x.srcF ty.ty a l)).out)

/-- COS (08 R198 to R200). -/
def execCos (h : Hdr) (ty : FTy) (m : FMod) (d a : Opnd) (s : State) : Host.Outcome State Fault Refusal :=
  let fs := [(0, d), (1, a)]
  .next (s.vexec { h := h, fs := fs, srcs := [a], d := d } fun x l =>
    (sfW .cos ty m (x.md m.rnd) (x.srcF ty.ty a l)).out)

/-- TANH (08 R198 to R200). -/
def execTanh (h : Hdr) (ty : FTy) (m : FMod) (d a : Opnd) (s : State) : Host.Outcome State Fault Refusal :=
  let fs := [(0, d), (1, a)]
  .next (s.vexec { h := h, fs := fs, srcs := [a], d := d } fun x l =>
    (sfW .tanh ty m (x.md m.rnd) (x.srcF ty.ty a l)).out)

/-! ## The tandem word (05 R118 to R122) -/

/-- MOD of an operation of a tandem word of kind R (05 R119). -/
def tandemMod (m : BitVec 3) : FMod where
  rnd := (Rnd.of m).getD .rn
  sat := false
  ftz := false
  negA := false
  negB := false
  negC := false
  absA := false
  absB := false

/-- The operation of the FMA-pipe table (05 R120) on its three source values. -/
def tandemFnA (opa : BitVec 6) (md : BitVec 3) (rm : Rnd → Rnd) (a b c : Word) : LRes :=
  let ty := FTy.of (opa.setWidth 2)
  let w := EW.of (opa.setWidth 2)
  let m := tandemMod md
  let r := rm m.rnd
  let sgn := md.getLsbD 1
  match opa.toNat / 4 with
  | 0 => faddW ty m r a b
  | 1 => fmulW ty m r a b
  | 2 => ffmaW ty m r a b c
  | 3 => fminmaxW ty (tandemMod 0) false false a b
  | 4 => fminmaxW ty (tandemMod 0) true false a b
  | 5 => fminmaxW ty (tandemMod 0) false true a b
  | 6 => fminmaxW ty (tandemMod 0) true true a b
  | 7 => fscaleW ty m r a b
  | 8 => frndW ty m r a
  | 9 => intArith w.bits sgn false (fun a b _ => a * b) a b 0
  | 10 => intArith w.bits sgn false (fun a b c => a * b + c) a b c
  | _ =>
    match opa.toNat with
    | 0x2C => fdotW .f16 .f16 2 m r a b c
    | 0x2D => fdotW .bf16 .bf16 2 m r a b c
    | 0x2E => fdotW .e4m3 .e4m3 4 m r a b c
    | _ => fdotW .e5m2 .e5m2 4 m r a b c

/-- The conversions of the integer and convert-pipe table, 0x24 to 0x2F (05 R121). -/
def tandemCvt (opb : BitVec 6) (md : BitVec 3) (rm : Rnd → Rnd) (a dOld : Word) : LRes :=
  let m := tandemMod md
  let r := rm m.rnd
  let i32 : IntTy := { w := .w32, signed := true }
  match opb.toNat with
  | 0x24 => cvtFfW .f32 .f16 m r 0 a dOld
  | 0x25 => cvtFfW .f16 .f32 m r 0 a dOld
  | 0x26 => cvtFfW .f32 .bf16 m r 0 a dOld
  | 0x27 => cvtFfW .bf16 .f32 m r 0 a dOld
  | 0x28 => cvtFfW .f64 .f32 m r 0 a dOld
  | 0x29 => cvtFfW .f32 .f64 m r 0 a dOld
  | 0x2A => cvtIfW .f32 i32 m r 0 a dOld
  | 0x2B => cvtFiW i32 .f32 m r 0 a dOld
  | 0x2C => cvtFfW .e4m3 .bf16 m r 0 a dOld
  | 0x2D => cvtFfW .e5m2 .bf16 m r 0 a dOld
  | 0x2E => cvtFfW .bf16 .e4m3 m r 0 a dOld
  | _ => cvtFfW .bf16 .e5m2 m r 0 a dOld

/-- The operation of the integer and convert-pipe table (05 R121) on its sources and old destination. -/
def tandemFnB (opb : BitVec 6) (md : BitVec 3) (rm : Rnd → Rnd) (a b c dOld : Word) : LRes :=
  let w := (EW.of (opb.setWidth 2)).bits
  let sat := md.getLsbD 2
  let sgn := md.getLsbD 1
  match opb.toNat / 4 with
  | 0 => intArith w sgn sat (fun a b _ => a + b) a b 0
  | 1 => intArith w sgn sat (fun a b _ => a - b) a b 0
  | 2 => intArith w sgn false (fun a b _ => min a b) a b 0
  | 3 => intArith w sgn false (fun a b _ => max a b) a b 0
  | 4 => shiftElems w shlN a b
  | 5 => shiftElems w shrN a b
  | 6 => shiftElems w shraN a b
  | 7 =>
    { d := blutW (match opb.toNat with
        | 0x1C => 0x88
        | 0x1D => 0xEE
        | 0x1E => 0x66
        | _ => 0x22) a b 0 }
  | 8 =>
    match opb.toNat with
    | 0x20 => { d := popcW a }
    | 0x21 => { d := clzW a }
    | 0x22 => { d := brevW a }
    | _ => { d := a }
  | 9 | 10 | 11 => tandemCvt opb md rm a dOld
  | _ =>
    match opb.toNat with
    | 0x30 => { d := isadW sgn a b c }
    | 0x31 => { d := rotW a b }
    | 0x32 => { d := funnelW a b c }
    | 0x33 => idotW 4 true true sat a b c
    | 0x34 => idotW 4 true false sat a b c
    | 0x35 => idotW 4 false true sat a b c
    | _ => idotW 4 false false sat a b c

/-- The fields of an operation of a tandem word, as R450 numbers them. -/
def tandemFs (n : Nat) (d a b c : BitVec 8) : List (Nat × Opnd) :=
  (0, .v d) :: ([(1, Opnd.v a), (2, .v b), (3, .v c)].take n)

/-- The tandem word: both operations read all their sources before either writes (05 R118 to R122). -/
def execTandemWord (h : Hdr) (opa opb : BitVec 6) (ma mb : BitVec 3) (da aa ba ca db ab bb cb : BitVec 8)
    (s : State) : Host.Outcome State Fault Refusal :=
  let fs := tandemFs (tandemA opa).2 da aa ba ca ++ tandemFs (tandemB opb).2 db ab bb cb
  .next ((s.vexec { h := h, fs := fs, srcs := [], d := .v da, d2 := some (.v db) } fun x l =>
    let r1 := tandemFnA opa ma x.md (x.g.rdV aa.toNat l) (x.g.rdV ba.toNat l) (x.g.rdV ca.toNat l)
    let r2 := tandemFnB opb mb x.md (x.g.rdV ab.toNat l) (x.g.rdV bb.toNat l) (x.g.rdV cb.toNat l)
      (x.g.rdV db.toNat l)
    { d := r1.d, d2 := r2.d, fl := r1.fl ||| r2.fl }))

end Sys2Proof.Machine
end

