-- ==== Sys2Proof/Machine/Floating.lean ====
section
/-! DEFINITION. The floating family (08 R178 to R188), one meaning for each instruction. -/

namespace Sys2Proof.Machine

/-- FADD (08 R180, R188). -/
def execFadd (h : Hdr) (ty : FTy) (m : FMod) (d a : Opnd) (b : Src2) (s : State) : Host.Outcome State Fault Refusal :=
  let fs := (0, d) :: (1, a) :: b.fs
  .next (s.vexec { h := h, fs := fs, srcs := opnds ((1, a) :: b.fs), d := d } fun x l =>
    (faddW ty m (x.md m.rnd) (x.srcF ty.ty a l) (x.src2F ty b l)).out)

/-- FMUL (08 R180, R188). -/
def execFmul (h : Hdr) (ty : FTy) (m : FMod) (d a : Opnd) (b : Src2) (s : State) : Host.Outcome State Fault Refusal :=
  let fs := (0, d) :: (1, a) :: b.fs
  .next (s.vexec { h := h, fs := fs, srcs := opnds ((1, a) :: b.fs), d := d } fun x l =>
    (fmulW ty m (x.md m.rnd) (x.srcF ty.ty a l) (x.src2F ty b l)).out)

/-- FFMA (08 R180, R188). -/
def execFfma (h : Hdr) (ty : FTy) (m : FMod) (d a : Opnd) (bc : Src3) (s : State) : Host.Outcome State Fault Refusal :=
  let fs := (0, d) :: (1, a) :: bc.fs
  .next (s.vexec { h := h, fs := fs, srcs := opnds ((1, a) :: bc.fs), d := d } fun x l =>
    let y := x.src3F ty d bc l
    (ffmaW ty m (x.md m.rnd) (x.srcF ty.ty a l) y.1 y.2).out)

/-- FMIN (08 R181). -/
def execFmin (h : Hdr) (ty : FTy) (m : FMod) (d a b : Opnd) (s : State) : Host.Outcome State Fault Refusal :=
  let fs := [(0, d), (1, a), (2, b)]
  .next (s.vexec { h := h, fs := fs, srcs := [a, b], d := d } fun x l =>
    (fminmaxW ty m false false (x.srcF ty.ty a l) (x.srcF ty.ty b l)).out)

/-- FMAX (08 R181). -/
def execFmax (h : Hdr) (ty : FTy) (m : FMod) (d a b : Opnd) (s : State) : Host.Outcome State Fault Refusal :=
  let fs := [(0, d), (1, a), (2, b)]
  .next (s.vexec { h := h, fs := fs, srcs := [a, b], d := d } fun x l =>
    (fminmaxW ty m true false (x.srcF ty.ty a l) (x.srcF ty.ty b l)).out)

/-- FMINM (08 R181). -/
def execFminm (h : Hdr) (ty : FTy) (m : FMod) (d a b : Opnd) (s : State) : Host.Outcome State Fault Refusal :=
  let fs := [(0, d), (1, a), (2, b)]
  .next (s.vexec { h := h, fs := fs, srcs := [a, b], d := d } fun x l =>
    (fminmaxW ty m false true (x.srcF ty.ty a l) (x.srcF ty.ty b l)).out)

/-- FMAXM (08 R181). -/
def execFmaxm (h : Hdr) (ty : FTy) (m : FMod) (d a b : Opnd) (s : State) : Host.Outcome State Fault Refusal :=
  let fs := [(0, d), (1, a), (2, b)]
  .next (s.vexec { h := h, fs := fs, srcs := [a, b], d := d } fun x l =>
    (fminmaxW ty m true true (x.srcF ty.ty a l) (x.srcF ty.ty b l)).out)

/-- FCMP (08 R182). -/
def execFcmp (h : Hdr) (ty : FTy) (m : FMod) (cc : Cmp) (any : Bool) (d a b : Opnd) (s : State) : Host.Outcome State Fault Refusal :=
  let fs := [(0, d), (1, a), (2, b)]
  .next (s.vexec { h := h, fs := fs, srcs := [a, b], d := d } fun x l =>
    let r := fcmpElems ty m cc (x.srcF ty.ty a l) (x.srcF ty.ty b l)
    { d := maskElems ty.ty.bits r.1, pb := predElems any r.1, fl := r.2 })

/-- FCLASS (08 R183). -/
def execFclass (h : Hdr) (ty : FTy) (any : Bool) (mask : BitVec 10) (d a : Opnd) (s : State) : Host.Outcome State Fault Refusal :=
  let fs := [(0, d), (1, a)]
  .next (s.vexec { h := h, fs := fs, srcs := [a], d := d, arith := false } fun x l =>
    let r := fclassElems ty mask (x.srcF ty.ty a l)
    { d := maskElems ty.ty.bits r, pb := predElems any r })

/-- FDOT2 (08 R184). -/
def execFdot2 (h : Hdr) (bf : Bool) (m : FMod) (d a b c : Opnd) (s : State) : Host.Outcome State Fault Refusal :=
  let fs := [(0, d), (1, a), (2, b), (3, c)]
  .next (s.vexec { h := h, fs := fs, srcs := [a, b, c], d := d } fun x l =>
    let t : FloatTy := if bf then .bf16 else .f16
    (fdotW t t 2 m (x.md m.rnd) (x.srcF t a l) (x.srcF t b l) (x.srcF .f32 c l)).out)

/-- FDOT4 (08 R184). -/
def execFdot4 (h : Hdr) (ta tb : Bool) (m : FMod) (d a b c : Opnd) (s : State) : Host.Outcome State Fault Refusal :=
  let fs := [(0, d), (1, a), (2, b), (3, c)]
  .next (s.vexec { h := h, fs := fs, srcs := [a, b, c], d := d } fun x l =>
    let t (e5 : Bool) : FloatTy := if e5 then .e5m2 else .e4m3
    (fdotW (t ta) (t tb) 4 m (x.md m.rnd) (x.srcF (t ta) a l) (x.srcF (t tb) b l) (x.srcF .f32 c l)).out)

/-- FRND (08 R185). -/
def execFrnd (h : Hdr) (ty : FTy) (m : FMod) (d a : Opnd) (s : State) : Host.Outcome State Fault Refusal :=
  let fs := [(0, d), (1, a)]
  .next (s.vexec { h := h, fs := fs, srcs := [a], d := d } fun x l =>
    (frndW ty m (x.md m.rnd) (x.srcF ty.ty a l)).out)

/-- FSCALE (08 R185): B is read as an integer. -/
def execFscale (h : Hdr) (ty : FTy) (m : FMod) (d a b : Opnd) (s : State) : Host.Outcome State Fault Refusal :=
  let fs := [(0, d), (1, a), (2, b)]
  .next (s.vexec { h := h, fs := fs, srcs := [a, b], d := d } fun x l =>
    (fscaleW ty m (x.md m.rnd) (x.srcF ty.ty a l) (x.srcI ty.ty.bits b l)).out)

/-- FGETEXP (08 R186). -/
def execFgetexp (h : Hdr) (ty : FTy) (m : FMod) (d a : Opnd) (s : State) : Host.Outcome State Fault Refusal :=
  let fs := [(0, d), (1, a)]
  .next (s.vexec { h := h, fs := fs, srcs := [a], d := d } fun x l =>
    (fgetexpW ty m (x.srcF ty.ty a l)).out)

/-- FGETMANT (08 R186). -/
def execFgetmant (h : Hdr) (ty : FTy) (m : FMod) (d a : Opnd) (s : State) : Host.Outcome State Fault Refusal :=
  let fs := [(0, d), (1, a)]
  .next (s.vexec { h := h, fs := fs, srcs := [a], d := d } fun x l =>
    (fgetmantW ty m (x.srcF ty.ty a l)).out)

/-- FERR (08 R187). -/
def execFerr (h : Hdr) (ty : FTy) (m : FMod) (mul : Bool) (d a b : Opnd) (s : State) : Host.Outcome State Fault Refusal :=
  let fs := [(0, d), (1, a), (2, b)]
  .next (s.vexec { h := h, fs := fs, srcs := [a, b], d := d } fun x l =>
    (ferrW ty m (x.md m.rnd) mul (x.srcF ty.ty a l) (x.srcF ty.ty b l)).out)

end Sys2Proof.Machine
end

