-- ==== Sys2Proof/Machine/Integer.lean ====
section
/-! DEFINITION. The integer family (07 R164 to R174), one meaning for each instruction. -/

namespace Sys2Proof.Machine

/-- IADD (07 R166). -/
def execIadd (h : Hdr) (w : EW) (sgn sat : Bool) (d a : Opnd) (b : Src2) (s : State) : Host.Outcome State Fault Refusal :=
  let fs := (0, d) :: (1, a) :: b.fs
  .next (s.vexec { h := h, fs := fs, srcs := opnds ((1, a) :: b.fs), d := d } fun x l =>
    (intArith w.bits sgn sat (fun a b _ => a + b) (x.srcI w.bits a l) (x.src2I w.bits sgn b l) 0).out)

/-- IMUL (07 R166). -/
def execImul (h : Hdr) (w : EW) (sgn sat : Bool) (d a : Opnd) (b : Src2) (s : State) : Host.Outcome State Fault Refusal :=
  let fs := (0, d) :: (1, a) :: b.fs
  .next (s.vexec { h := h, fs := fs, srcs := opnds ((1, a) :: b.fs), d := d } fun x l =>
    (intArith w.bits sgn sat (fun a b _ => a * b) (x.srcI w.bits a l) (x.src2I w.bits sgn b l) 0).out)

/-- ISUB (07 R166). -/
def execIsub (h : Hdr) (w : EW) (sgn sat : Bool) (d a b : Opnd) (s : State) : Host.Outcome State Fault Refusal :=
  let fs := [(0, d), (1, a), (2, b)]
  .next (s.vexec { h := h, fs := fs, srcs := [a, b], d := d } fun x l =>
    (intArith w.bits sgn sat (fun a b _ => a - b) (x.srcI w.bits a l) (x.srcI w.bits b l) 0).out)

/-- IMULH (07 R166). -/
def execImulh (h : Hdr) (w : EW) (sgn : Bool) (d a b : Opnd) (s : State) : Host.Outcome State Fault Refusal :=
  let fs := [(0, d), (1, a), (2, b)]
  .next (s.vexec { h := h, fs := fs, srcs := [a, b], d := d } fun x l =>
    (intArith w.bits sgn false (fun a b _ => mulHigh w.bits a b) (x.srcI w.bits a l) (x.srcI w.bits b l) 0).out)

/-- IMAD (07 R166, R170). -/
def execImad (h : Hdr) (w : EW) (sgn sat : Bool) (d a : Opnd) (bc : Src3) (s : State) : Host.Outcome State Fault Refusal :=
  let fs := (0, d) :: (1, a) :: bc.fs
  .next (s.vexec { h := h, fs := fs, srcs := opnds ((1, a) :: bc.fs), d := d } fun x l =>
    let y := x.src3I w.bits sgn d bc l
    (intArith w.bits sgn sat (fun a b c => a * b + c) (x.srcI w.bits a l) y.1 y.2).out)

/-- IMIN (07 R166). -/
def execImin (h : Hdr) (w : EW) (sgn : Bool) (d a b : Opnd) (s : State) : Host.Outcome State Fault Refusal :=
  let fs := [(0, d), (1, a), (2, b)]
  .next (s.vexec { h := h, fs := fs, srcs := [a, b], d := d } fun x l =>
    (intArith w.bits sgn false (fun a b _ => min a b) (x.srcI w.bits a l) (x.srcI w.bits b l) 0).out)

/-- IMAX (07 R166). -/
def execImax (h : Hdr) (w : EW) (sgn : Bool) (d a b : Opnd) (s : State) : Host.Outcome State Fault Refusal :=
  let fs := [(0, d), (1, a), (2, b)]
  .next (s.vexec { h := h, fs := fs, srcs := [a, b], d := d } fun x l =>
    (intArith w.bits sgn false (fun a b _ => max a b) (x.srcI w.bits a l) (x.srcI w.bits b l) 0).out)

/-- IABS (07 R166). -/
def execIabs (h : Hdr) (w : EW) (sat : Bool) (d a : Opnd) (s : State) : Host.Outcome State Fault Refusal :=
  let fs := [(0, d), (1, a)]
  .next (s.vexec { h := h, fs := fs, srcs := [a], d := d } fun x l =>
    (intArith w.bits true sat (fun a _ _ => a.natAbs) (x.srcI w.bits a l) 0 0).out)

/-- ICMP (07 R168). -/
def execIcmp (h : Hdr) (w : EW) (sgn : Bool) (cc : Cmp) (any : Bool) (d a : Opnd) (b : Src2) (s : State) : Host.Outcome State Fault Refusal :=
  let fs := (0, d) :: (1, a) :: b.fs
  .next (s.vexec { h := h, fs := fs, srcs := opnds ((1, a) :: b.fs), d := d } fun x l =>
    let r := icmpElems w.bits sgn cc (x.srcI w.bits a l) (x.src2I w.bits sgn b l)
    { d := maskElems w.bits r, pb := predElems any r })

/-- SHL (07 R167). -/
def execShl (h : Hdr) (w : EW) (sgn : Bool) (d a : Opnd) (b : Src2) (s : State) : Host.Outcome State Fault Refusal :=
  let fs := (0, d) :: (1, a) :: b.fs
  .next (s.vexec { h := h, fs := fs, srcs := opnds ((1, a) :: b.fs), d := d } fun x l =>
    (shiftElems w.bits shlN (x.srcI w.bits a l) (x.src2I w.bits sgn b l)).out)

/-- SHR (07 R167). -/
def execShr (h : Hdr) (w : EW) (sgn : Bool) (d a : Opnd) (b : Src2) (s : State) : Host.Outcome State Fault Refusal :=
  let fs := (0, d) :: (1, a) :: b.fs
  .next (s.vexec { h := h, fs := fs, srcs := opnds ((1, a) :: b.fs), d := d } fun x l =>
    (shiftElems w.bits shrN (x.srcI w.bits a l) (x.src2I w.bits sgn b l)).out)

/-- SHRA (07 R167). -/
def execShra (h : Hdr) (w : EW) (sgn : Bool) (d a : Opnd) (b : Src2) (s : State) : Host.Outcome State Fault Refusal :=
  let fs := (0, d) :: (1, a) :: b.fs
  .next (s.vexec { h := h, fs := fs, srcs := opnds ((1, a) :: b.fs), d := d } fun x l =>
    (shiftElems w.bits shraN (x.srcI w.bits a l) (x.src2I w.bits sgn b l)).out)

/-- ISAD (07 R171). An immediate is one value of 64 bits: a DESIGN CHOICE (notes/assumptions/100.md). -/
def execIsad (h : Hdr) (sgn : Bool) (d a b c : Opnd) (s : State) : Host.Outcome State Fault Refusal :=
  let fs := [(0, d), (1, a), (2, b), (3, c)]
  .next (s.vexec { h := h, fs := fs, srcs := [a, b, c], d := d } fun x l =>
    { d := isadW sgn (x.srcI 64 a l) (x.srcI 64 b l) (x.srcI 64 c l) })

/-- BLUT (07 R170, R171). -/
def execBlut (h : Hdr) (tbl : BitVec 8) (d a : Opnd) (bc : Src3) (s : State) : Host.Outcome State Fault Refusal :=
  let fs := (0, d) :: (1, a) :: bc.fs
  .next (s.vexec { h := h, fs := fs, srcs := opnds ((1, a) :: bc.fs), d := d, arith := false } fun x l =>
    let y := x.src3U d bc l
    { d := blutW tbl (x.srcI 64 a l) y.1 y.2 })

/-- ROT (07 R170, R171). -/
def execRot (h : Hdr) (d a : Opnd) (b : Src2) (s : State) : Host.Outcome State Fault Refusal :=
  let fs := (0, d) :: (1, a) :: b.fs
  .next (s.vexec { h := h, fs := fs, srcs := opnds ((1, a) :: b.fs), d := d, arith := false } fun x l =>
    { d := rotW (x.srcI 64 a l) (x.src2U b l) })

/-- FUNNEL (07 R171). -/
def execFunnel (h : Hdr) (d a b c : Opnd) (s : State) : Host.Outcome State Fault Refusal :=
  let fs := [(0, d), (1, a), (2, b), (3, c)]
  .next (s.vexec { h := h, fs := fs, srcs := [a, b, c], d := d, arith := false } fun x l =>
    { d := funnelW (x.srcI 64 a l) (x.srcI 64 b l) (x.srcI 64 c l) })

/-- POPC (07 R171). -/
def execPopc (h : Hdr) (d a : Opnd) (s : State) : Host.Outcome State Fault Refusal :=
  let fs := [(0, d), (1, a)]
  .next (s.vexec { h := h, fs := fs, srcs := [a], d := d, arith := false } fun x l =>
    { d := popcW (x.srcI 64 a l) })

/-- CLZ (07 R171). -/
def execClz (h : Hdr) (d a : Opnd) (s : State) : Host.Outcome State Fault Refusal :=
  let fs := [(0, d), (1, a)]
  .next (s.vexec { h := h, fs := fs, srcs := [a], d := d, arith := false } fun x l =>
    { d := clzW (x.srcI 64 a l) })

/-- CTZ (07 R171). -/
def execCtz (h : Hdr) (d a : Opnd) (s : State) : Host.Outcome State Fault Refusal :=
  let fs := [(0, d), (1, a)]
  .next (s.vexec { h := h, fs := fs, srcs := [a], d := d, arith := false } fun x l =>
    { d := ctzW (x.srcI 64 a l) })

/-- BREV (07 R171). -/
def execBrev (h : Hdr) (d a : Opnd) (s : State) : Host.Outcome State Fault Refusal :=
  let fs := [(0, d), (1, a)]
  .next (s.vexec { h := h, fs := fs, srcs := [a], d := d, arith := false } fun x l =>
    { d := brevW (x.srcI 64 a l) })

/-- BFX (07 R172). -/
def execBfx (h : Hdr) (sgn : Bool) (d a : Opnd) (b : Src2) (s : State) : Host.Outcome State Fault Refusal :=
  let fs := (0, d) :: (1, a) :: b.fs
  .next (s.vexec { h := h, fs := fs, srcs := opnds ((1, a) :: b.fs), d := d, arith := false } fun x l =>
    { d := bfxW sgn (x.srcI 64 a l) (x.src2U b l) })

/-- BFI (07 R170, R172). -/
def execBfi (h : Hdr) (d a : Opnd) (bc : Src3) (s : State) : Host.Outcome State Fault Refusal :=
  let fs := (0, d) :: (1, a) :: bc.fs
  .next (s.vexec { h := h, fs := fs, srcs := opnds ((1, a) :: bc.fs), d := d, arith := false } fun x l =>
    let y := x.src3U d bc l
    { d := bfiW (x.srcI 64 a l) y.1 y.2 })

/-- ISEL (07 R171). -/
def execIsel (h : Hdr) (d a b p : Opnd) (s : State) : Host.Outcome State Fault Refusal :=
  let fs := [(0, d), (1, a), (2, b), (3, p)]
  .next (s.vexec { h := h, fs := fs, srcs := [a, b, p], d := d, arith := false } fun x l =>
    { d := if x.src p l = 1 then x.srcI 64 a l else x.srcI 64 b l })

/-- LEA (07 R170, R171). -/
def execLea (h : Hdr) (sh : BitVec 3) (d a : Opnd) (b : Src2) (s : State) : Host.Outcome State Fault Refusal :=
  let fs := (0, d) :: (1, a) :: b.fs
  .next (s.vexec { h := h, fs := fs, srcs := opnds ((1, a) :: b.fs), d := d } fun x l =>
    { d := leaW (x.srcI 64 a l) (x.src2U b l) sh })

/-- IADDC (07 R173). -/
def execIaddc (h : Hdr) (d a b pin : Opnd) (pout : BitVec 4) (s : State) : Host.Outcome State Fault Refusal :=
  let fs := [(0, d), (1, a), (2, b), (3, pin)]
  .next (s.vexec { h := h, fs := fs, srcs := [a, b, pin], d := d, pout := some pout } fun x l =>
    let y := iaddcW (x.srcI 64 a l) (x.srcI 64 b l) (x.src pin l == 1)
    { d := y.1, pout := y.2 })

/-- PLUT (07 R171). -/
def execPlut (h : Hdr) (tbl : BitVec 8) (pd pa pb pc : Opnd) (s : State) : Host.Outcome State Fault Refusal :=
  let fs := [(0, pd), (1, pa), (2, pb), (3, pc)]
  .next (s.vexec { h := h, fs := fs, srcs := [pa, pb, pc], d := pd, arith := false } fun x l =>
    { pb := tbl.getLsbD ((x.src pa l).toNat + 2 * (x.src pb l).toNat + 4 * (x.src pc l).toNat) })

/-- IDOT4 (07 R174). -/
def execIdot4 (h : Hdr) (xs ys sat : Bool) (d a b c : Opnd) (s : State) : Host.Outcome State Fault Refusal :=
  let fs := [(0, d), (1, a), (2, b), (3, c)]
  .next (s.vexec { h := h, fs := fs, srcs := [a, b, c], d := d } fun x l =>
    (idotW 4 xs ys sat (x.srcI 32 a l) (x.srcI 32 b l) (x.srcI 32 c l)).out)

/-- IDOT2 (07 R174). -/
def execIdot2 (h : Hdr) (xs ys sat : Bool) (d a b c : Opnd) (s : State) : Host.Outcome State Fault Refusal :=
  let fs := [(0, d), (1, a), (2, b), (3, c)]
  .next (s.vexec { h := h, fs := fs, srcs := [a, b, c], d := d } fun x l =>
    (idotW 2 xs ys sat (x.srcI 32 a l) (x.srcI 32 b l) (x.srcI 32 c l)).out)

end Sys2Proof.Machine
end

