-- ==== Sys2Proof/Machine/Matrix.lean ====
section
/-! DEFINITION. The matrix array (11): planes, the three streams, the online softmax, and the words and events that start
and complete them. -/

namespace Sys2Proof

/-- The float format that a matrix format holds (11 R271). -/
def MFmt.ty : MFmt → FloatTy
  | .e4m3 => .e4m3
  | .e5m2 => .e5m2
  | .e3m2 => .e3m2
  | .e2m3 => .e2m3
  | .e2m1 => .e2m1
  | .bf16 => .bf16
  | .fp16 => .f16
  | _ => .f32

/-- Is the format an integer format? -/
def MFmt.int : MFmt → Bool
  | .i8 | .tri => true
  | _ => false

/-- Is the format one of the 8- and 6-bit float formats? -/
def MFmt.eight : MFmt → Bool
  | .e4m3 | .e5m2 | .e3m2 | .e2m3 => true
  | _ => false

/-- The depth K_p, cycles per row and K-block length of a pair of weights and activations (11 R272); none where they do
not pair. An integer pair's block is 32 (R291). -/
def matPair (w a : MFmt) : Option (Nat × Nat × Nat) :=
  match w, a with
  | .e2m1, .e2m1 => some (256, 1, 16)
  | .bf16, .bf16 | .fp16, .fp16 => some (128, 2, 32)
  | .i8, .i8 => some (128, 1, 32)
  | .tri, .i8 => some (512, 1, 32)
  | w, a =>
    if w.eight && a.eight then some (128, 1, 32)
    else if w.eight && a == .e2m1 then some (128, 1, 16)
    else if w == .e2m1 && a.eight then some (256, 2, 16)
    else none

/-- The bytes of a packed row of elements (04 R80, 11 R289). -/
def MFmt.rowBytes (f : MFmt) (e : Nat) : Nat :=
  match f with
  | .e3m2 | .e2m3 => 3 * ceilDiv e 4
  | .e2m1 => ceilDiv e 2
  | .bf16 | .fp16 => 2 * e
  | .tri => ceilDiv e 4
  | .f32 | .i32 => 4 * e
  | _ => e

/-- Bytes of a plane's column (11 R274). -/
def MFmt.colBytes : MFmt → Nat
  | .e3m2 | .e2m3 => 96
  | .bf16 | .fp16 => 256
  | _ => 128

/-- The elements that a block scale covers (11 R273). -/
def MFmt.block (f : MFmt) : Nat := if f = .e2m1 then 16 else 32

/-- Scale bytes of a scaled plane, and of one column. -/
def MFmt.colScales (f : MFmt) : Nat := if f = .e2m1 then 16 else 4

/-- The bytes of a plane: weights, and scales where it is scaled (11 R274). -/
def planeBytes (f : MFmt) (unscaled : Bool) : Nat :=
  64 * f.colBytes + (if unscaled || !f.scaled then 0 else 64 * f.colScales)

/-- Element `i` of packed bytes (04 R80). -/
def elemAt (f : MFmt) (b : Nat → Nat) (i : Nat) : Nat :=
  match f with
  | .e3m2 | .e2m3 =>
    let o := 3 * (i / 4)
    (b o + 256 * b (o + 1) + 65536 * b (o + 2)) / 2 ^ (6 * (i % 4)) % 64
  | .e2m1 => b (i / 2) / 16 ^ (i % 2) % 16
  | .bf16 | .fp16 => b (2 * i) + 256 * b (2 * i + 1)
  | .tri => b (i / 4) / 4 ^ (i % 4) % 4
  | _ => b i

/-- The value of an integer element, and its flag (04 R78, R93). -/
def intElem (f : MFmt) (c : Nat) : Int × Fl := if f = .tri then triVal c else (toI 8 true c, 0)

/-- The exact block sum of products, and the special cases 3 to 5 of 04 R92. A zero sum is −0 where every product is, for each
product is an addend (R89). -/
def blockSum (wf af : MFmt) (ws as : List Nat) : Num × Fl :=
  let ps := (ws.zip as).map fun p => mulNum (decodeNum af.ty.fmt false p.2) (decodeNum wf.ty.fmt false p.1)
  let nums := ps.map (·.1)
  if nums.any Num.isNan then (.nan false, Fl.nv)
  else
    let inf (n : Bool) : Bool := nums.any fun x => x == .inf n
    match inf false, inf true with
    | true, true => (.nan false, Fl.nv)
    | true, false => (.inf false, 0)
    | false, true => (.inf true, 0)
    | false, false => ((sumNum .rn nums).1, 0)

/-- The value v of a K-block under its scales (04 R90 to R92, R77). -/
def blockValue (wf af : MFmt) (ws as : List Nat) (sw sa : Nat) : Num × Fl :=
  if sw = 0 ∨ sa = 0 then (.fin false 0 0, 0)
  else
    let w := decodeTy .ue4m3 false sw
    let a := decodeTy .ue4m3 false sa
    if w.1.isNan || a.1.isNan then (.nan false, Fl.nv ||| w.2 ||| a.2)
    else
      let s := blockSum wf af ws as
      if s.1.isNan then s
      else ((mulNum (mulNum s.1 a.1).1 w.1).1, s.2)

/-- One K-block added to an accumulator element of a floating pair: one rounding (04 R90). -/
def accBlock (acc : Nat) (v : Num × Fl) : Nat × Fl :=
  let f := FloatTy.f32.fmt
  match v.1 with
  | .nan _ => (f.qnan, v.2)
  | x =>
    let r := combine f .rn false false [] [decodeNum f false acc, x]
    (r.1, v.2 ||| r.2)

/-- One K-block added to an accumulator element of an integer pair (04 R93). -/
def accInt (wf af : MFmt) (acc : Nat) (ws as : List Nat) : Nat × Fl :=
  let ps := (ws.zip as).map fun p =>
    let w := intElem wf p.1
    (w.1 * (intElem af p.2).1, w.2)
  (wrapN 32 ((acc : Int) + (ps.map (·.1)).foldl (· + ·) 0), flOr (ps.map (·.2)))

/-- The scale of a block: 1.0 where the operand is unscaled. -/
def scaleAt (on : Bool) (b : Nat → Nat) (i : Nat) : Nat := if on then b i else 0x38

/-- One accumulator element of a row: its K-blocks in ascending order (11 R291). `wt` gives the column's elements, `ac` the
row's; `ws`, `sa` the scales of the blocks that hold an element. -/
def accElem (wf af : MFmt) (blk e : Nat) (wt ac ws sa : Nat → Nat) (acc : Nat) : Nat × Fl :=
  (List.range (ceilDiv e blk)).foldl (fun r q =>
    let ks := (List.range (min blk (e - blk * q))).map (· + blk * q)
    let r' := if wf.int then accInt wf af r.1 (ks.map wt) (ks.map ac)
      else accBlock r.1 (blockValue wf af (ks.map wt) (ks.map ac) (ws (blk * q)) (sa (blk * q)))
    (r'.1, r.2 ||| r'.2)) (acc, 0)

/-! ## The online softmax of one row (11 R292) -/

/-- EXP2.F32 under RN. -/
def exp2F32 (x : Nat) : Nat × Fl := sfE .exp2 FloatTy.f32.fmt .rn false x (decodeNum FloatTy.f32.fmt false x)

/-- What a row of MSOFT gives: the new maximum and sum, the factor c, the probabilities, and the flags. -/
structure SoftRow where
  mx : Nat
  sum : Nat
  c : Nat
  p : List Nat
  fl : Fl

/-- The row step of MSOFT up to its output rows. -/
def softRow (alpha m0 sum : Nat) (scores : List Nat) : SoftRow :=
  let f := FloatTy.f32.fmt
  let num (x : Nat) : Num := decodeNum f false x
  let ts := scores.map fun a => fmulE f .rn false false (num alpha) (num a)
  let mx := ts.foldl (fun m t =>
    let r := minMax f true false (num m.1) (num t.1)
    (r.1, m.2 ||| r.2)) (m0, (0 : Fl))
  let fl := flOr (ts.map (·.2)) ||| mx.2
  if mx.1 = 0xFF80_0000 then
    let s := combine f .rn false false [(num 0x3F80_0000, num sum)] (List.replicate 64 (num 0))
    { mx := mx.1, sum := s.1, c := 0x3F80_0000, p := List.replicate 64 0, fl := fl ||| s.2 }
  else
    let sub (x : Nat) : Nat × Fl := combine f .rn false false [] [num x, (num mx.1).neg]
    let ex (x : Nat) : Nat × Fl :=
      let d := sub x
      let r := exp2F32 d.1
      (r.1, d.2 ||| r.2)
    let c := ex m0
    let ps := ts.map fun t => ex t.1
    let p := ps.map (·.1) ++ List.replicate (64 - ps.length) 0
    let s := combine f .rn false false [(num c.1, num sum)] (p.map num)
    { mx := mx.1, sum := s.1, c := c.1, p := p, fl := fl ||| c.2 ||| flOr (ps.map (·.2)) ||| s.2 }

/-- One element in an MRDT or MSOFT output format: CVT.FF of an FP32 value. -/
def outElem (f : MFmt) (md : Rnd) (sat : Bool) (x : Nat) : Nat × Fl :=
  let v := decodeTy .f32 false x
  toFloat f.ty md sat false { x := v.1, fl := v.2 }

/-- The largest magnitude of a block (11 R294): a NaN if any element is one. -/
def blockMax (xs : List Nat) : Num :=
  let f := FloatTy.f32.fmt
  if xs.any fun x => (decodeNum f false x).isNan then .nan false
  else xs.foldl (fun (m : Num) x =>
    let a := (decodeNum f false x).abs
    match cmpNum a m with
    | some .gt => a
    | _ => m) (.fin false 0 0)

/-- A scaled block of an MRDT row: its scale byte, its elements, the flags (11 R294, 04 R85). -/
def scaledBlock (f : MFmt) (md : Rnd) (sat : Bool) (xs : List Nat) : Nat × List Nat × Fl :=
  let t : Nat := if f = .e4m3 then 448 else 57344
  let m := blockMax xs
  let s := bsclE m (.fin false t 0)
  match m with
  | .nan _ | .inf _ => (s.1, List.replicate xs.length (if f = .e4m3 then 0x7F else 0x7E), s.2 ||| Fl.nv)
  | .fin _ 0 _ => (s.1, xs.map (fun x => if (decodeNum FloatTy.f32.fmt false x).sign then 0x80 else 0), s.2)
  | _ =>
    let rs := xs.map fun x => toFloat f.ty md sat false (divNum (decodeNum FloatTy.f32.fmt false x) (decodeNum FloatTy.ue4m3.fmt false s.1))
    (s.1, rs.map (·.1), s.2 ||| flOr (rs.map (·.2)))

/-- Bytes of one element in an output format. -/
def MFmt.outBytes : MFmt → Nat
  | .bf16 | .fp16 => 2
  | .f32 | .i32 => 4
  | _ => 1

end Sys2Proof

namespace Sys2Proof.Machine

/-! ## Planes (11 R275, R281) -/

/-- A plane descriptor. -/
structure Plane where
  tile : Nat
  f : MFmt
  unscaled : Bool

/-- The active descriptor. -/
def Crew.active (c : Crew) : Option Plane :=
  if !c.mprog.getLsbD 12 then none
  else (MFmt.of (c.mprog.extractLsb' 7 4)).map fun f => { tile := fld c.mprog 0 7, f := f, unscaled := c.mprog.getLsbD 11 }

/-- The shadow descriptor as bits [25:13] of MPROG hold it. -/
def planeBits (p : Option (Nat × MFmt × Bool)) : Nat :=
  match p with
  | none => 0
  | some (t, f, u) => t + f.code.toNat * 2 ^ 7 + (if u then 2 ^ 11 else 0) + 2 ^ 12

/-- Set the shadow descriptor; the tile it named is unpinned (11 R286). -/
def Crew.setShadow (c : Crew) (p : Option (Nat × MFmt × Bool)) : Crew :=
  let old := fld c.mprog 13 7
  let c := { c with mprog := putBits c.mprog 13 13 (planeBits p) }
  let c := c.undrain old
  match p with
  | some (t, _, _) => c.updTile t fun x => { x with st := .draining }
  | none => c

/-- Exchange the descriptors (11 R287). -/
def Crew.swapPlanes (c : Crew) : Crew :=
  { c with mprog := putBits (putBits c.mprog 0 13 (fld c.mprog 13 13)) 13 13 (fld c.mprog 0 13) }

/-- Bytes of a tile. -/
def Crew.tileBytes (c : Crew) (t ofs n : Nat) : List Nat := (c.scratch.read (c.tileBase t + ofs) n).map (·.toNat)

/-! ## Accumulator rows (11 R278) -/

/-- The default of a row maximum: minus infinity. -/
def negInf : BitVec 32 := 0xFF80_0000

/-- An element of an accumulator row. -/
def Crew.accAt (c : Crew) (row j : Nat) : Nat := (sget 0 c.acc (64 * row + j)).toNat

/-- Set an element of an accumulator row. -/
def Crew.setAcc (c : Crew) (row j v : Nat) : Crew := { c with acc := sset 0 c.acc (64 * row + j) (BitVec.ofNat 32 v) }

/-- Set a whole accumulator row. -/
def Crew.setRow (c : Crew) (row : Nat) (vs : List Nat) : Crew :=
  { c with acc := ssetList 0 c.acc (64 * row) (vs.map (BitVec.ofNat 32)) }

/-- One row of a stream (11 R291): `row` gives its bytes and `scale` its scale bytes. -/
def Crew.streamRow (c : Crew) (p : Plane) (af : MFmt) (e base : Nat) (z scaled : Bool) (row scale : List Nat) : Crew × Fl :=
  match matPair p.f af with
  | none => (c, 0)
  | some (_, _, blk) =>
    let wScaled := p.f.scaled && !p.unscaled
    let rs := (List.range 64).map fun j =>
      let col := c.tileBytes p.tile (j * p.f.colBytes) p.f.colBytes
      let scl := c.tileBytes p.tile (64 * p.f.colBytes + j * p.f.colScales) p.f.colScales
      accElem p.f af blk e (elemAt p.f (col.getD · 0)) (elemAt af (row.getD · 0))
        (fun k => scaleAt wScaled (scl.getD · 0) (k / p.f.block)) (fun k => scaleAt scaled (scale.getD · 0) (k / af.block))
        (if z then 0 else c.accAt base j)
    (c.setRow base (rs.map (·.1)), flOr (rs.map (·.2)))

/-! ## Rows with progress points (11 R282) -/

/-- The rows of an instruction with progress points. -/
def MOp.rows : MOp → Nat
  | .stream _ _ _ _ rows _ _ _ _ => rows
  | .msoft _ _ _ _ _ _ rows _ _ => rows
  | .mrdt _ _ _ _ _ _ rows _ _ => rows
  | _ => 0

/-- Is it a stream of 0 rows, which is checked and has no effect (11 R288)? -/
def MOp.idle : MOp → Bool
  | .stream _ _ _ _ 0 _ _ _ _ => true
  | _ => false

/-- Has the instruction progress points? -/
def MOp.progress (o : MOp) : Bool :=
  match o with
  | .stream .. | .msoft .. | .mrdt .. => !o.idle
  | _ => false

/-- The tile of an instruction with progress points, and whether it is its destination. -/
def MOp.tile : MOp → Option (Nat × Bool)
  | .stream _ t _ _ _ _ _ _ _ => some (t, false)
  | .msoft _ t _ _ _ _ _ _ _ => some (t, true)
  | .mrdt _ _ _ t _ _ _ _ _ => some (t, true)
  | _ => none

/-- A tile write of the array, which takes effect when its instruction ends (11 R280). -/
def Crew.holdOut (c : Crew) (a : Nat) (bs : List Byte) : Crew := { c with mout := c.mout ++ [(a, bs)] }

/-- Perform row `i` of an instruction with progress points. -/
def Crew.matRow (c : Crew) (op : MOp) (i : Nat) : Crew × Fl :=
  match op with
  | .stream f t ofs scl _ e stride base z =>
    (match c.active with
      | none => (c, 0)
      | some p =>
        let nb := ceilDiv e f.block
        c.streamRow p f e (base + i) z scl.isSome (c.tileBytes t (ofs + i * stride) (f.rowBytes e))
          (c.tileBytes t (scl.getD 0 + i * nb) nb))
  | .msoft f t ofs alpha ncols osets rows obase sbase =>
    let s := sbase + i
    let r := softRow alpha.toNat (sget negInf c.rmax s).toNat (sget 0 c.rsum s).toNat ((List.range ncols).map (c.accAt s))
    let c := { c with rmax := sset negInf c.rmax s (BitVec.ofNat 32 r.mx), rsum := sset 0 c.rsum s (BitVec.ofNat 32 r.sum) }
    let c := (List.range osets).foldl (fun (q : Crew × Fl) k =>
      let row := obase + k * rows + i
      let es := (List.range 64).map fun j => fmulE FloatTy.f32.fmt .rn false false
        (decodeNum FloatTy.f32.fmt false r.c) (decodeNum FloatTy.f32.fmt false (q.1.accAt row j))
      (q.1.setRow row (es.map (·.1)), q.2 ||| flOr (es.map (·.2)))) (c, r.fl)
    let ps := r.p.map (outElem f .rn false)
    let n := f.outBytes
    (c.1.holdOut (c.1.tileBase t + ofs + i * 64 * n) ((ps.map fun p => bytesOf p.1 n).flatten), c.2 ||| flOr (ps.map (·.2)))
  | .mrdt rnd sat f t ofs scl _ base stride =>
    let xs := (List.range 64).map (c.accAt (base + i))
    let at_ := c.tileBase t + ofs + i * stride
    let put (c : Crew) (es : List (Nat × Fl)) : Crew × Fl :=
      (c.holdOut at_ ((es.map fun p => bytesOf p.1 f.outBytes).flatten), flOr (es.map (·.2)))
    (match f, scl with
      | .f32, _ | .i32, _ => put c (xs.map fun x => (x, 0))
      | .i8, _ => put c (xs.map fun x => satWrap 8 true sat (toI 32 true x))
      | f, none => put c (xs.map (outElem f rnd sat))
      | f, some so =>
        [0, 1].foldl (fun (q : Crew × Fl) b =>
          let r := scaledBlock f rnd sat ((xs.drop (32 * b)).take 32)
          let c := q.1.holdOut (c.tileBase t + so + 2 * i + b) (bytesOf r.1 1)
          (c.holdOut (at_ + 32 * b) (r.2.1.map (BitVec.ofNat 8)), q.2 ||| r.2.2)) (c, 0))
  | _ => (c, 0)

/-! ## Issue (11 R279, R280, R297) -/

/-- The job in the array, if any. -/
def Core.job (co : Core) : Option Job := co.mq.head?

/-- Does a group's word continue the interrupted instruction (11 R282 step 3)? Behind an RTT.SKIP none does (20 R453). -/
def Crew.continues (c : Crew) (grp code : Nat) (pc : Pc) : Bool :=
  c.ownMat grp && !c.mskip && decide (fld c.mprog 55 4 = code) &&
    decide (fld c.mprog 26 18 = pc.toNat / 4 % 2 ^ 18)

/-- Must a group's matrix word wait until the array can accept it (11 R279, R282 step 4)? -/
def State.matBusy (s : State) (c : Crew) (grp : Nat) (mlw : Bool) : Bool :=
  let co := s.core c.core
  !co.mq.isEmpty || (mlw && co.bgDone.isSome) || (c.mprog.getLsbD 63 && !c.ownMat grp)

/-- A matrix word at its issue: the checks of its decoding, which wait for nothing (06 R147), the wait for the array, the checks before
the array, and the array's queue. The tiles
are seen as the abandonment of the group's interrupted instruction leaves them, where the word is another. `run` names a run of
registers from a field, `bad` values of cause 0x02. -/
def State.matWord (s : State) (h : Hdr) (run : Opnd × Nat) (fs : List (Nat × Opnd)) (code : Nat) (bad : Ctx → Bool)
    (op : Ctx → MOp) : State :=
  s.withCtx h fun x =>
    s.runChecked x run.1 run.2 fs fun _ =>
      if bad x then s.trapIssue x 0x02 x.iss.set (x.iss.hi.setWidth 64)
      else if s.matBusy x.c x.iss.who.grp (code == 0) then s.waitRetry x
      else if x.off ≠ 0 then s.trapIssue x 0x05 x.iss.set (x.off.setWidth 64)
      else
        let o := op x
        let cont := o.progress && x.c.continues x.iss.who.grp code x.iss.pc
        let c := if x.c.ownMat x.iss.who.grp && !cont && !o.idle then x.c.matAbandon else x.c
        let tile : Option (Nat × Bool) := match o with
          | .mlw (some (t, _, _)) => some (t, false)
          | o => o.tile
        let trap (reason t : Nat) : State := s.trapIssue x 0x08 x.act (info08 reason t (c.tile t))
        let go (wait : Bool) : State :=
          if wait then s.waitRetry x
          else
            let j : Job := { iss := x.iss, h := h, act := x.act, op := o, fs := fs, code := code, cont := cont }
            let s := s.updCore x.c.core fun co => { co with mq := co.mq ++ [j] }
            (s.awaitAnswer x).post [.matrixAccept x.c.core]
        match tile with
        | none => go false
        | some (t, false) =>
          if (c.tile t).gone then trap 1 t else go ((c.tile t).st == .filling)
        | some (t, true) =>
          let e := c.tile t
          if e.handed then trap 1 t
          else if c.pinned t then trap 4 t
          else go (!cont && (e.st == .filling || e.st == .draining))

/-! ## Acceptance (11 R276, R279, R297) -/

/-- The context of a job: its group as it stands. -/
def State.jobCtx (s : State) (j : Job) : Option Ctx :=
  match s.crew? j.iss.who.crew, s.group? j.iss.who with
  | some c, some g => some { iss := j.iss, c := c, g := g, act := j.act, off := 0 }
  | _, _ => none

/-- What is wrong with an instruction as the array takes it: a cause and its TRAPINFO (11 R297, 20 R450). MSOFT and MRDT of 0 rows reach
no row and so trap on no base, while MST and MZERO of 0 rows trap on a base above acc: a DESIGN CHOICE between 02 R36 and the words of
11 R292 and R294 (notes/assumptions/138.md). -/
def matBad (c : Crew) (j : Job) : Option (Nat × Word) :=
  let acc := c.shape.acc
  let f8 (reason : Nat) (t : Option Nat) : Option (Nat × Word) := some (0x08, match t with
    | some t => info08 reason t (c.tile t)
    | none => BitVec.ofNat 64 reason)
  let f3 (field : Nat) : Option (Nat × Word) :=
    some (0x03, info03 (field, ((j.fs.find? fun p => p.1 == field).map (·.2)).getD .absent))
  let fv (field v : Nat) : Option (Nat × Word) := some (0x03, BitVec.ofNat 64 (v % 2 ^ 12 + field * 2 ^ 12))
  let plane (f : MFmt) (t : Option Nat) (k : Plane → Nat → Option (Nat × Word)) : Option (Nat × Word) :=
    match c.active with
    | none => f8 2 t
    | some p => (match matPair p.f f with
      | none => f8 3 t
      | some (kp, _, _) => k p kp)
  match j.op with
  | .mlw (some (t, f, u)) => if (c.tile t).size < planeBytes f u then f3 0 else none
  | .stream f t ofs scl rows e stride base _ => plane f (some t) fun _ kp =>
      let size := (c.tile t).size
      if ofs % 16 ≠ 0 then f3 1
      else if stride % 16 ≠ 0 then fv 4 stride
      else if e = 0 ∨ kp < e then (if j.code = 2 then fv 4 e else f3 3)
      else if 1 ≤ rows ∧ size < ofs + (rows - 1) * stride + f.rowBytes e then f3 1
      else if scl.isSome ∧ size < scl.getD 0 + rows * ceilDiv e f.block then f3 2
      else if acc < base + rows then fv 5 base
      else none
  | .msts f _ row bytes _ => plane f none fun _ kp =>
      if bytes.length < f.rowBytes kp then f3 1 else if acc ≤ row then fv 5 row else none
  | .msoft f t ofs _ _ osets rows obase sbase =>
    let n := 64 * f.outBytes
    if ofs % 16 ≠ 0 then f3 1
    else if rows ≠ 0 ∧ acc < sbase + rows then fv 5 sbase
    else if rows ≠ 0 ∧ acc < obase + osets * rows then fv 5 obase
    else if rows ≠ 0 ∧ (c.tile t).size < ofs + rows * n then f3 1
    else none
  | .mrd div _ n _ row sum =>
    if acc < row + n then fv 5 row else if div.isSome ∧ acc < sum + n then fv 5 sum else none
  | .mrdt _ _ f t ofs scl rows base stride =>
    let size := (c.tile t).size
    if ofs % 16 ≠ 0 then f3 1
    else if 1 ≤ rows ∧ size < ofs + (rows - 1) * stride + 64 * f.outBytes then f3 1
    else if rows ≠ 0 ∧ scl.isSome ∧ size < scl.getD 0 + 2 * rows then f3 3
    else if rows ≠ 0 ∧ acc < base + rows then fv 5 base
    else none
  | .mzero row n => if acc < row + n then fv 5 row else none
  | .msrd _ n _ row => if acc < row + n then fv 5 row else none
  | .mswr _ n row _ => if acc < row + n then fv 5 row else none
  | _ => none

/-- The shadow descriptor. -/
def Crew.shadow (c : Crew) : Option Plane :=
  if !c.mprog.getLsbD 25 then none
  else (MFmt.of (c.mprog.extractLsb' 20 4)).map fun f =>
    { tile := fld c.mprog 13 7, f := f, unscaled := c.mprog.getLsbD 24 }

/-- The cycles that a plane takes to load (11 R276, R284). -/
def Plane.load (p : Plane) : Nat := ceilDiv (planeBytes p.f p.unscaled) 128

/-- The array holds the planes of one crew at a time (11 R276): a crew whose plane is loaded drives out another's. -/
def Core.planesOf (co : Core) (crew : Nat) : Core := { co with
  plActive := if co.plActive = some crew then co.plActive else none
  plShadow := if co.plShadow = some crew then co.plShadow else none }

/-- MSWAP of a crew exchanges what the array holds of its planes; another crew's stay (11 R276, R287). -/
def Core.swapPlanes (co : Core) (crew : Nat) : Core :=
  let now (here there : Option Nat) : Option Nat :=
    if there = some crew then some crew else if here = some crew then none else here
  { co with plActive := now co.plActive co.plShadow, plShadow := now co.plShadow co.plActive }

/-- What an instruction that needs a plane waits for before it starts: the plane's reload where the array does not hold it
(11 R276), and MSWAP the background load of its shadow (R287). The cycles, and the core as it then stands. -/
def State.planeWait (s : State) (c : Crew) (op : MOp) : Nat × Core :=
  let co := s.core c.core
  match (if op.idle then .mlw none else op), c.active, c.shadow with
  | .stream .., some p, _ | .msts .., some p, _ =>
    if co.plActive = some c.id then (0, co) else (p.load, { co.planesOf c.id with plActive := some c.id })
  | .mswap, _, some p =>
    if co.plShadow = some c.id then
      (if co.bgCrew = c.id then (co.bgDone.getD s.cycle) - s.cycle else 0, co)
    else (p.load, { co.planesOf c.id with plShadow := some c.id })
  | _, _, _ => (0, co)

/-- Cycles before the first row or the completion, for each row, and after the last row (11 R284). -/
def matCycles (c : Crew) (op : MOp) : Nat × Nat × Nat :=
  let per (f : MFmt) : Nat := match c.active with
    | some p => ((matPair p.f f).map (·.2.1)).getD 1
    | none => 1
  match op with
  | .stream f .. => (24, per f, 0)
  | .msts f .. => (24 + per f, 0, 0)
  | .msoft _ _ _ _ _ osets _ _ _ => (16, 2 + osets, 0)
  | .mrd _ _ n .. => (8 + n, 0, 0)
  | .mrdt .. => (8, 2, 0)
  | .mzero _ n => (1 + ceilDiv n 64, 0, 0)
  | .mswap => (1, 0, 0)
  | _ => (4, 0, 0)

/-- MPROG at the start of an instruction with progress points (11 R282 step 1). -/
def startProg (w : Word) (grp code : Nat) (pc : Pc) : Word :=
  putBits w 26 38 (2 ^ 37 + grp * 2 ^ 33 + code * 2 ^ 29 + pc.toNat / 4 % 2 ^ 18)

/-- MATRIX_ACCEPT: the checks of the array, and the start. -/
def execMatrixAccept (core : Nat) (s : State) : Host.Outcome State Fault Refusal :=
  .next (match (s.core core).job with
    | none => s
    | some j =>
      let drop (s : State) : State := s.updCore core fun co => { co with mq := co.mq.tail }
      if j.accepted then s
      else match s.jobCtx j with
      | none => drop s
      | some x =>
        match matBad x.c j with
        | some (cause, info) =>
          (drop s).takeTrap j.iss.who { cause := cause, lanes := j.act, info := info, pc := j.iss.pc, skipLen := j.iss.len }
        | none =>
          let own := x.c.ownMat j.iss.who.grp
            let s := if own && !j.cont && !j.op.idle then s.updCrew x.c.id Crew.matAbandon else s
            let step := if j.cont then fld x.c.mprog 44 11 else 0
            let s := if j.op.progress && !j.cont then s.updCrew x.c.id fun c =>
                let c := { c with mprog := startProg c.mprog j.iss.who.grp j.code j.iss.pc, mtile := j.op.tile }
                match j.op.tile with
                | some (t, true) => c.updTile t fun e => { e with st := .filling, fills := e.fills + 1 }
                | some (t, false) => c.updTile t fun e => { e with st := .draining, reads := e.reads + 1 }
                | none => c
              else s
            let (base, per, _) := matCycles x.c j.op
            let (wait, co) := s.planeWait x.c j.op
            let s := s.updCore core fun _ => co
            let ready := s.cycle + wait + (if j.op.progress && step < j.op.rows then per else base)
            let s := s.updCore core fun co => { co with
              mq := { j with accepted := true, step := step, ready := ready } :: co.mq.tail }
            match j.op with
            | .mlw arg =>
              let s := s.updCrew x.c.id fun c => c.setShadow arg
              let s := (drop s).updCore core fun co => match arg with
                | some (_, f, u) => { co.planesOf x.c.id with
                    bgDone := some (s.cycle + ceilDiv (planeBytes f u) 128), bgCrew := x.c.id, plShadow := some x.c.id }
                | none => co
              (s.updGroup j.iss.who fun g => g.advance j.iss.set j.iss.len).performed x j.h j.act
            | .mrd div _ n out _ _ =>
              let o : Out := {
                id := out, pc := j.iss.pc.toNat, kind := .mrd n, dst := .v (BitVec.ofNat 8 (out % 256)), dst2 := .absent, pred := 0
                lanes := j.act, gl := 0, left := [], got := [], cancel := 0 }
              let o := { o with pred := if div.isSome then 1 else 0 }
              let s := s.updGroup j.iss.who fun g => { g with outs := g.outs ++ [o] }
              (s.updGroup j.iss.who fun g => g.advance j.iss.set j.iss.len).performed x j.h j.act
            | _ => s)

/-! ## Rows and completion -/

/-- The group of an interrupted instruction stands at its head again (11 R282 step 2); that of a closing crew is finished, and
its instruction abandoned (step 4). -/
def State.matStop (s : State) (core : Nat) (j : Job) : State :=
  let s := (s.updCore core fun co => { co with mq := co.mq.tail }).updGroup j.iss.who fun g =>
    { g.headDone with mfl := g.mfl ||| j.fl }
  s.updCrew j.iss.who.crew fun c => if c.st == .closing then c.matAbandon else c

/-- What an instruction of the array gives its group: registers, flags into FSR, a trap, and at its end the group goes on (11 R279,
R283). An outstanding result that has been cancelled gives nothing (20 R460, 21 R462). -/
def State.writeRegs (s : State) (r : StopRegs) : State :=
  let s := s.updGroup r.who fun g =>
    let o := r.out.bind fun id => g.outs.find? fun o => o.id == id
    if r.out.isSome && o.isNone then g else     -- cancelled
    let fl := if r.out.isSome && !o.any Out.flags then 0 else r.fl
    let g := r.vals.foldl (fun g p => g.wrV (p.1 / 32) (Mask.one (p.1 % 32)) fun _ => p.2) g
    let g := match r.out with
      | some id => g.outDone id r.act
      | none => g
    if r.mine then { g.orFsr (g.mfl ||| fl) with mfl := 0 } else g.orFsr fl
  let s := s.trapIfClear r.who
  match r.trap, r.done with
  | some t, _ => s.takeTrap r.who t
  | none, none => s
  | none, some j => (match s.jobCtx j with
    | none => s
    | some x => (s.updGroup r.who fun g => g.advance j.iss.set j.iss.len).performed x j.h j.act)

/-- What the array gives a group reaches it, or waits for the release of a stop (17 R426). -/
def State.arrayBack (s : State) (r : StopRegs) : State :=
  if s.stopHolds (.group r.who 0 0) then { s with stop := s.stop.map fun t => { t with held := t.held ++ [.array r] } }
  else s.writeRegs r

/-- Is the datapath of a row checked by residues (04 R99)? -/
def MOp.checked (o : MOp) : Bool :=
  match o with
  | .stream .. | .msts .. => !o.idle
  | _ => false

/-- Cause 0x19 of an instruction of the array (21 R472). -/
def Job.mismatch (j : Job) (info : Nat) : TrapRec :=
  { cause := 0x19, lanes := j.act, info := BitVec.ofNat 64 info, pc := j.iss.pc, skipLen := j.iss.len }

/-- A residue mismatch that strikes the array now: whether it mismatched twice; it is counted (21 R472). -/
def State.matStrike (s : State) (core vf : Nat) (op : MOp) : State × Bool :=
  match (if op.checked then (s.core core).mresid else []) with
  | [] => (s, false)
  | twice :: t =>
    ((s.updCore core fun co =>
      let co := { co.retried s.now with mresid := t, mretry := min (co.mretry + 1) 0xFFFFFF }
      if twice then co.persists s.now else co).perfAdd core vf 0x10 1, twice)

/-- MATRIX_ROW_COMPLETE: a row, its progress point, and what may follow there (11 R282, R283). STEP counts the rows done, all of them
once the last one is: a DESIGN CHOICE, for R281 gives 0 to 1,023 (notes/assumptions/117.md). -/
def execMatrixRowComplete (core : Nat) (s : State) : Host.Outcome State Fault Refusal :=
  .next (match (s.core core).job with
    | none => s
    | some j =>
      match s.jobCtx j with
      | none => s.updCore core fun co => { co with mq := co.mq.tail }
      | some x =>
        if !j.accepted || decide (j.op.rows ≤ j.step) then s
        else
          let (s, twice) := s.matStrike core x.c.vf j.op
          if twice then
            (s.matStop core j).arrayBack { who := j.iss.who, trap := some (j.mismatch (1 + j.step * 2 ^ 4)) }
          else
            let (c, fl) := x.c.matRow j.op j.step
            let c := if j.step + 1 = j.op.rows then c.streamRead else c
            let c := { c with mprog := putBits c.mprog 44 11 (j.step + 1) }
            let s := s.updCrew x.c.id fun _ => c
            let (base, per, _) := matCycles c j.op
            let j := { j with
              step := j.step + 1
              fl := j.fl ||| fl
              ready := s.cycle + (if j.step + 1 < j.op.rows then per else base) }
            let s := s.updCore core fun co => { co with mq := j :: co.mq.tail }
            if (j.stopped || c.st != .running) && decide (j.step < j.op.rows) then s.matStop core j else s)

/-- One element of MRD: the bits, or with DIV the quotient by its row's sum (11 R293). -/
def mrdElem (div : Option Rnd) (x sum : Nat) : Nat × Fl :=
  match div with
  | none => (x, 0)
  | some md =>
    let f := FloatTy.f32.fmt
    toFloat .f32 md false false (divNum (decodeNum f false x) (decodeNum f false sum))

/-- The registers that MRD writes, and its flags: lane l of register i takes columns 2l and 2l + 1 of row i. -/
def Crew.mrdRegs (c : Crew) (div : Option Rnd) (n row sum : Nat) (act : Mask) : (Nat → Nat → Word) × Fl :=
  let el (i j : Nat) : Nat × Fl := mrdElem div (c.accAt (row + i) j) (sget 0 c.rsum (sum + i)).toNat
  (fun i l => packElems 32 [(el i (2 * l)).1, (el i (2 * l + 1)).1],
    flOr ((List.range n).map fun i => lanesFl act fun l => (el i (2 * l)).2 ||| (el i (2 * l + 1)).2))

/-- The effect of an instruction without progress points, at its completion. -/
def State.matEffect (s : State) (x : Ctx) (j : Job) : State × Fl :=
  match j.op with
  | .mswap =>
    ((s.updCrew x.c.id Crew.swapPlanes).updCore x.c.core (·.swapPlanes x.c.id), 0)
  | .msts f z row bytes scl =>
    (match x.c.active with
      | none => (s, 0)
      | some p =>
        let kp := ((matPair p.f f).map (·.1)).getD 0
        let (c, fl) := x.c.streamRow p f kp row z scl.isSome (bytes.map (·.toNat)) ((scl.getD []).map (·.toNat))
        (s.updCrew x.c.id fun _ => c, fl))
  | .mrd div zr n out row sum =>
    let r := x.c.mrdRegs div n row sum j.act
    let vals := ((List.range n).map fun i => j.act.lanes.map fun l => (32 * (out % 256 + i) + l, r.1 i l)).flatten
    let s := s.arrayBack { who := j.iss.who, pc := j.iss.pc.toNat, out := some out, act := j.act, vals := vals, fl := r.2 }
    (if zr then s.updCrew x.c.id fun c => (List.range n).foldl (fun c i => c.setRow (row + i) (List.replicate 64 0)) c else s, 0)
  | .mzero row n =>
    (s.updCrew x.c.id fun c => (List.range n).foldl (fun c i =>
      { c.setRow (row + i) (List.replicate 64 0) with
        rmax := sset negInf c.rmax (row + i) negInf
        rsum := sset 0 c.rsum (row + i) 0 }) c, 0)
  | .msrd sum n d row =>
    let at_ (k : Nat) : Nat := if k < n then (if sum then sget 0 x.c.rsum (row + k) else sget negInf x.c.rmax (row + k)).toNat else 0
    let vals := j.act.lanes.map fun l => (32 * d + l, packElems 32 [at_ (2 * l), at_ (2 * l + 1)])
    (s.arrayBack { who := j.iss.who, pc := j.iss.pc.toNat, act := j.act, vals := vals }, 0)
  | .mswr sum n row vals =>
    (s.updCrew x.c.id fun c => ((numbered vals).take n).foldl (fun c p =>
      if sum then { c with rsum := sset 0 c.rsum (row + p.1) p.2 }
      else { c with rmax := sset negInf c.rmax (row + p.1) p.2 }) c, 0)
  | _ => (s, 0)

/-- MATRIX_COMPLETE: the effect, the flags into FSR, BUSY clear, and the group goes on (11 R279, R282, R283). A stream of 0 rows leaves
the flags of the group's interrupted instruction to that one's end (R288). -/
def execMatrixComplete (core : Nat) (s : State) : Host.Outcome State Fault Refusal :=
  .next (match (s.core core).job with
    | none => s
    | some j =>
      let drop (s : State) : State := s.updCore core fun co => { co with mq := co.mq.tail }
      match s.jobCtx j with
      | none => drop s
      | some x =>
        let (s, twice) := if j.op.progress then (s, false) else s.matStrike core x.c.vf j.op
        if twice then
          (drop s).arrayBack { who := j.iss.who, trap := some (j.mismatch 1) }
        else
          let (s, fl) := s.matEffect x j
          let s := drop s
          let s := if j.op.progress then s.updCrew x.c.id Crew.matAbandon else s
          s.arrayBack { who := j.iss.who, fl := j.fl ||| fl, mine := !j.op.idle, done := match j.op with
            | .mrd .. => none
            | _ => some j })

/-- MLW_BACKGROUND_LOAD_DONE (11 R284). -/
def execMlwBackgroundLoadDone (core : Nat) (s : State) : Host.Outcome State Fault Refusal :=
  .next (s.updCore core fun co => { co with bgDone := none })

/-! ## The words (11 R285 to R296) -/

/-- An offset field that may be absent. -/
def Ctx.ofsOf (x : Ctx) (o : Opnd) : Nat := if o = .absent then 0 else x.low32 o

/-- A field of an operand list that may be absent. -/
def optField (n : Nat) (o : Opnd) : List (Nat × Opnd) := if o = .absent then [] else [(n, o)]

/-- An offset that is none where the operand is absent. -/
def Ctx.optOfs (x : Ctx) (o : Opnd) : Option Nat := if o = .absent then none else some (x.low32 o)

/-- MLW (11 R286). -/
def execMlw (h : Hdr) (arg : MlwArg) (s : State) : Host.Outcome State Fault Refusal :=
  .next (match arg with
    | .drop => s.matWord h (.absent, 0) [] 0 (fun _ => false) fun _ => .mlw none
    | .load t f nsw => s.matWord h (.absent, 0) [(0, t)] 0 (fun _ => false) fun _ => .mlw (some (tileNo t, f, nsw)))

/-- MSWAP (11 R287). -/
def execMswap (h : Hdr) (s : State) : Host.Outcome State Fault Refusal :=
  .next (s.matWord h (.absent, 0) [] 1 (fun _ => false) fun _ => .mswap)

/-- MST (11 R288). -/
def execMst (h : Hdr) (f : MFmt) (t a b : Opnd) (pb : Params) (s : State) : Host.Outcome State Fault Refusal :=
  .next (s.matWord h (.absent, 0) ([(0, t)] ++ optField 1 a ++ optField 2 b ++ Params.fields pb) 2
    (fun x => decide (2 ^ 13 ≤ x.param pb.w3)) fun x =>
      .stream f (tileNo t) (x.ofsOf a) (x.optOfs b) (x.param pb.w0) (x.param pb.w1) (x.param pb.w2) (x.param pb.w3 % 2 ^ 12)
        (decide (x.param pb.w3 / 2 ^ 12 % 2 = 1)))

/-- MSTZ (11 R288). -/
def execMstz (h : Hdr) (f : MFmt) (t a b c : Opnd) (s : State) : Host.Outcome State Fault Refusal :=
  .next (s.matWord h (.absent, 0) ([(0, t)] ++ optField 1 a ++ optField 2 b ++ [(3, c)]) 3
    (fun x => let w := x.scalar c
      fld w 42 6 != 0 || fld w 26 6 != 0 || fld w 11 5 != 0) fun x =>
        let w := x.scalar c
        .stream f (tileNo t) (x.ofsOf a) (x.optOfs b) (fld w 0 11) (fld w 32 10) (16 * fld w 48 16) (fld w 16 10) true)

/-- The bytes of a V register: 8 of each lane, whatever its state (11 R290). -/
def Group.vBytes (g : Group) (n : Nat) : List Byte := ((List.range 32).map fun l => bytesOf (g.rdV n l).toNat 8).flatten

/-- The number of a V operand. -/
def vNo : Opnd → Nat
  | .v n => n.toNat
  | _ => 0

/-- MSTS (11 R290). -/
def execMsts (h : Hdr) (f : MFmt) (z nsa : Bool) (a b c : Opnd) (s : State) : Host.Outcome State Fault Refusal :=
  .next (s.matWord h (.absent, 0) ([(1, a)] ++ (if nsa then [] else [(2, b)]) ++ [(3, c)]) 4 (fun _ => false) fun x =>
    .msts f z (x.low32 c)
      (x.g.vBytes (vNo a) ++ if !runBeyond x.c.shape x.g.handler a 2 then x.g.vBytes (vNo a + 1) else [])
      (if nsa then none else some (x.g.vBytes (vNo b))))

/-- MSOFT (11 R292). -/
def execMsoft (h : Hdr) (f : MFmt) (t a b c : Opnd) (s : State) : Host.Outcome State Fault Refusal :=
  .next (s.matWord h (.absent, 0) ([(0, t)] ++ optField 1 a ++ [(2, b), (3, c)]) 5
    (fun x => let w := x.scalar b
      w.getLsbD 63 || fld w 51 5 != 0 || fld w 43 5 != 0 || fld w 26 6 != 0 || fld w 10 6 != 0 ||
        fld w 56 7 == 0 || decide (64 < fld w 56 7) || fld w 48 3 == 0 || decide (4 < fld w 48 3)) fun x =>
        let w := x.scalar b
        let alpha : BitVec 32 := match c with
          | .imm n => (immFloat .f32 n).setWidth 32
          | o => (x.scalar o).setWidth 32
        .msoft f (tileNo t) (x.ofsOf a) alpha (fld w 56 7) (fld w 48 3) (fld w 32 11) (fld w 16 10) (fld w 0 10))

/-- MRD (11 R293): the destination must lie within the allocation, and the rounding mode is that of FCR as the word issues. -/
def execMrd (h : Hdr) (div : Option Rnd) (zr : Bool) (n : BitVec 4) (d a c : Opnd) (s : State) :
    Host.Outcome State Fault Refusal :=
  .next (
    let k := n.toNat + 1
    let (tag, s) := s.newTag
    s.matWord h (d, k) ([(0, d), (1, a)] ++ (if div.isSome then [(3, c)] else [])) 6 (fun _ => false) fun x =>
        .mrd (div.map x.md) zr k (256 * tag + vNo d) (x.low32 a) (if div.isSome then x.low32 c else 0))

/-- MRDT (11 R294). -/
def execMrdt (h : Hdr) (rnd : Rnd) (sat : Bool) (f : MFmt) (t a b c : Opnd) (s : State) :
    Host.Outcome State Fault Refusal :=
  .next (s.matWord h (.absent, 0) ([(0, t)] ++ optField 1 a ++ [(2, b)] ++ optField 3 c) 7
    (fun x => let w := x.scalar b
      fld w 27 21 != 0 || fld w 10 6 != 0) fun x =>
      let w := x.scalar b
      .mrdt (x.md rnd) sat f (tileNo t) (x.ofsOf a) (x.optOfs c) (fld w 16 11) (fld w 0 10) (16 * fld w 48 16))

/-- MZERO (11 R295). -/
def execMzero (h : Hdr) (a b : Opnd) (s : State) : Host.Outcome State Fault Refusal :=
  .next (s.matWord h (.absent, 0) [(1, a), (2, b)] 8 (fun _ => false) fun x => .mzero (x.low32 a) (x.low32 b))

/-- MSRD (11 R296). -/
def execMsrd (h : Hdr) (sum : Bool) (n : BitVec 6) (d a : Opnd) (s : State) : Host.Outcome State Fault Refusal :=
  .next (s.matWord h (.absent, 0) [(0, d), (1, a)] 9 (fun _ => false) fun x => .msrd sum (n.toNat + 1) (vNo d) (x.low32 a))

/-- MSWR (11 R296): every lane of the source register is read. -/
def execMswr (h : Hdr) (sum : Bool) (n : BitVec 6) (a b : Opnd) (s : State) : Host.Outcome State Fault Refusal :=
  .next (s.matWord h (.absent, 0) [(1, a), (2, b)] 10 (fun _ => false) fun x =>
    .mswr sum (n.toNat + 1) (x.low32 b)
      ((List.range 64).map fun i => BitVec.ofNat 32 (elemN (x.g.rdV (vNo a) (i / 2)) 32 (i % 2))))

end Sys2Proof.Machine
end

