-- ==== Sys2Proof/Machine/Move.lean ====
section
/-! DEFINITION. The move and lane family (08 R201 to R208): moves, exchanges between lanes, and the special registers of
05 R125. LPW stands in Control.lean beside EXIT. -/

namespace Sys2Proof.Machine

/-! ## Moves -/

/-- MOV (08 R202). -/
def execMov (h : Hdr) (d a : Opnd) (s : State) : Host.Outcome State Fault Refusal :=
  .next (s.vexec { h := h, fs := [(0, d), (1, a)], srcs := [a], d := d, arith := false } fun x l => { d := x.src a l })

/-- MOVI (08 R202). -/
def execMovi (h : Hdr) (zx : Bool) (d : Opnd) (imm : BitVec 32) (s : State) : Host.Outcome State Fault Refusal :=
  .next (s.vexec { h := h, fs := [(0, d)], srcs := [], d := d, arith := false } fun _ _ =>
    { d := if zx then imm.setWidth 64 else imm.signExtend 64 })

/-- MOVIH (08 R202). -/
def execMovih (h : Hdr) (d : Opnd) (imm : BitVec 32) (s : State) : Host.Outcome State Fault Refusal :=
  .next (s.vexec { h := h, fs := [(0, d)], srcs := [], d := d, arith := false } fun x l =>
    { d := imm ++ (x.src d l).setWidth 32 })

/-! ## Exchanges between lanes (08 R203, R204) -/

/-- The kinds of LXCH. -/
inductive LxKind where
  | idx | up | down | xor
  deriving DecidableEq, Repr

/-- The lane and element that element `i` of lane `l` takes, and whether it is in range (08 R204). -/
def lxSource (k : LxKind) (n w l i v : Nat) : Nat × Nat × Bool :=
  let base := l - l % w
  match k with
  | .idx => (base + v / n % w, v % n, true)
  | .up => if v ≤ l - base then (l - v, i, true) else (l, i, false)
  | .down => if l - base + v < w then (l + v, i, true) else (l, i, false)
  | .xor => (base + Nat.xor (l - base) (v % w), i, true)

/-- One lane of LXCH: the elements of the source lanes, zero from a lane outside the issue set. -/
def lxLane (k : LxKind) (ew : Nat) (lw : BitVec 3) (x : Ctx) (a b : Opnd) (l : Nat) : LaneOut :=
  let n := 64 / ew
  let rs := (List.range n).map fun i =>
    let q := lxSource k n (2 ^ lw.toNat) l i (elemN (x.srcI ew b l) ew i)
    if x.iss.set.has q.1 then (elemN (x.src a q.1) ew q.2.1, q.2.2) else (0, false)
  { d := packElems ew (rs.map (·.1)), pout := (rs.map (·.2)).all id }

/-- The word of an LXCH: P of field C takes the range test. -/
def lxWord (h : Hdr) (d a b p : Opnd) : VWord where
  h := h
  fs := [(0, d), (1, a), (2, b), (3, p)]
  srcs := [a, b]
  d := d
  pout := match p with | .p n => some n | _ => none
  arith := false

/-- LXCH.IDX. -/
def execLxchIdx (h : Hdr) (ew : EW) (lw : BitVec 3) (d a b p : Opnd) (s : State) :
    Host.Outcome State Fault Refusal :=
  .next (s.vexec (lxWord h d a b p) fun x l => lxLane .idx ew.bits lw x a b l)

/-- LXCH.UP. -/
def execLxchUp (h : Hdr) (lw : BitVec 3) (d a b p : Opnd) (s : State) : Host.Outcome State Fault Refusal :=
  .next (s.vexec (lxWord h d a b p) fun x l => lxLane .up 64 lw x a b l)

/-- LXCH.DOWN. -/
def execLxchDown (h : Hdr) (lw : BitVec 3) (d a b p : Opnd) (s : State) : Host.Outcome State Fault Refusal :=
  .next (s.vexec (lxWord h d a b p) fun x l => lxLane .down 64 lw x a b l)

/-- LXCH.XOR. -/
def execLxchXor (h : Hdr) (lw : BitVec 3) (d a b p : Opnd) (s : State) : Host.Outcome State Fault Refusal :=
  .next (s.vexec (lxWord h d a b p) fun x l => lxLane .xor 64 lw x a b l)

/-- The active lanes in which POLL's value is true (08 R205). -/
def pollTrue (x : Ctx) (neg : Bool) (a : Opnd) : Mask :=
  Mask.ofFn fun l => x.act.has l && ((x.src a l == 1) != neg)

/-- POLL.ALL (08 R205). -/
def execPollAll (h : Hdr) (neg : Bool) (d a : Opnd) (s : State) : Host.Outcome State Fault Refusal :=
  .next (s.vexec { h := h, fs := [(0, d), (1, a)], srcs := [a], d := d, arith := false } fun x _ =>
    { pb := pollTrue x neg a == x.act })

/-- POLL.ANY (08 R205). -/
def execPollAny (h : Hdr) (neg : Bool) (d a : Opnd) (s : State) : Host.Outcome State Fault Refusal :=
  .next (s.vexec { h := h, fs := [(0, d), (1, a)], srcs := [a], d := d, arith := false } fun x _ =>
    { pb := pollTrue x neg a != 0 })

/-- POLL.MASK (08 R205). -/
def execPollMask (h : Hdr) (neg : Bool) (d a : Opnd) (s : State) : Host.Outcome State Fault Refusal :=
  .next (s.vexec { h := h, fs := [(0, d), (1, a)], srcs := [a], d := d, arith := false } fun x _ =>
    { d := (pollTrue x neg a).setWidth 64 })

/-- The elements of one index in the active lanes, in lane order. -/
def foldElems (x : Ctx) (w : Nat) (a : Opnd) (i : Nat) : List Nat := x.act.lanes.map fun l => elemN (x.src a l) w i

/-- FOLD.ADD (08 R206). RND and FTZ have no effect on an integer type (notes/assumptions/20.md). -/
def execFoldAdd (h : Hdr) (ty : FoldTy) (rnd : Rnd) (sat ftz : Bool) (d a : Opnd) (s : State) :
    Host.Outcome State Fault Refusal :=
  .next (s.vexec { h := h, fs := [(0, d), (1, a)], srcs := [a], d := d } fun x _ =>
    (perElem ty.bits fun i => foldAddE ty (x.md rnd) sat ftz (foldElems x ty.bits a i)).out)

/-- FOLD.MIN and FOLD.MAX (08 R206). -/
def execFoldMinmax (h : Hdr) (ty : FoldTy) (isMax ftz : Bool) (d a : Opnd) (s : State) :
    Host.Outcome State Fault Refusal :=
  .next (s.vexec { h := h, fs := [(0, d), (1, a)], srcs := [a], d := d } fun x _ =>
    (perElem ty.bits fun i => foldMinmaxE ty isMax ftz (foldElems x ty.bits a i)).out)

/-- BCAST (08 R207). -/
def execBcast (h : Hdr) (d a b : Opnd) (s : State) : Host.Outcome State Fault Refusal :=
  .next (s.vexec { h := h, fs := [(0, d), (1, a), (2, b)], srcs := [a, b], d := d, arith := false } fun x l =>
    let q := (x.src b l).toNat % 32
    { d := if x.iss.set.has q then x.src a q else 0 })

/-- SELEM and SELEM.INS (08 R207). -/
def execSelem (h : Hdr) (ins : Bool) (ew : EW) (d a b : Opnd) (s : State) : Host.Outcome State Fault Refusal :=
  .next (s.vexec { h := h, fs := [(0, d), (1, a), (2, b)], srcs := [a, b], d := d, arith := false } fun x l =>
    let w := ew.bits
    let e := (x.src b l).toNat % (64 / w)
    { d := if ins then putBits (x.src d l) (w * e) w (elemN (x.src a l) w 0)
        else BitVec.ofNat 64 (elemN (x.src a l) w e) })

/-! ## Special registers (05 R125) -/

/-- Does the register need supervisor rights (05 R125, RW-S)? -/
def sregSuper (n : Nat) : Bool := n == 0x19 || n == 0x1C || (decide (0x28 ≤ n) && decide (n ≤ 0x2C))

/-- CHKSTAT (04 R101). -/
def Core.chkstat (c : Core) : Word := BitVec.ofNat 64 (c.persist * 2 ^ 48 + c.mretry * 2 ^ 24 + c.vretry)

/-- The entries that SBCOUNT counts: committed and unacknowledged (09 R220). -/
def Group.sbcount (g : Group) : Nat := (g.sb.filter (·.committed)).length

/-- A WATCH register as read: EN reads 0 while LEN is above 12 (22 R488). -/
def watchRead (w : Word) : Word := if 12 < (w.toNat >>> 56) % 16 then w &&& 0x7FFF_FFFF_FFFF_FFFF else w

/-- The value of a special register in a lane (05 R125). -/
def State.sreg (s : State) (x : Ctx) (n l : Nat) : Word :=
  let co := s.core x.c.core
  let pf := sget {} co.perf x.c.vf
  match n with
  | 0x00 => BitVec.ofNat 64 l
  | 0x01 => BitVec.ofNat 64 x.iss.who.grp
  | 0x02 => x.c.crewid
  | 0x03 => BitVec.ofNat 64 x.c.core
  | 0x04 => BitVec.ofNat 64 (x.c.core / 72)
  | 0x05 => BitVec.ofNat 64 ((sget 0 s.win 0x300).toNat >>> 54)
  | 0x06 => BitVec.ofNat 64 x.c.vf
  | 0x07 => BitVec.ofNat 64 x.c.stage
  | 0x08 => x.c.seqbase
  | 0x09 => x.c.reccount
  | 0x0A => x.c.coordx
  | 0x0B => x.c.coordy
  | 0x0C => x.c.coordz
  | 0x0D => BitVec.ofNat 64 x.c.lclk
  | 0x0E => BitVec.ofNat 64 x.c.sclk
  | 0x0F => sget 0 s.time (x.c.core / 72)
  | 0x10 => x.g.fsr.setWidth 64
  | 0x11 => x.g.fcr.setWidth 64
  | 0x12 => BitVec.ofNat 64 x.g.sbcount
  | 0x13 => x.c.mprog
  | 0x14 => x.g.tcause
  | 0x15 => x.g.tpc
  | 0x16 => x.g.taddr
  | 0x17 => x.g.tlanes
  | 0x18 => x.g.tinfo
  | 0x19 => co.trapbase
  | 0x1A => co.chkstat
  | 0x1B => s.energy
  | 0x1C => pf.sel
  | 0x1D => pf.ctl.setWidth 64
  | 0x2C => s.leasecfg
  | _ =>
    if n < 0x28 then BitVec.ofNat 64 (sget 0 pf.pmc (n - 0x20)) else watchRead (sget 0 co.watch (n - 0x28))

/-- The index of a special-register operand. -/
def Opnd.sregNum : Opnd → Nat
  | .sreg n => n.toNat
  | _ => 0

/-- SRD (08 R208). -/
def execSrd (h : Hdr) (d a : Opnd) (s : State) : Host.Outcome State Fault Refusal :=
  .next (s.vexec { h := h, fs := [(0, d)], srcs := [], d := d, arith := false, super := sregSuper (Opnd.sregNum a) }
    fun x l => { d := s.sreg x (Opnd.sregNum a) l })

/-- FCR as written: bit 3 reads 0, and RMODE of 101 to 111 leaves RMODE (04 R95). -/
def fcrWrite (old : BitVec 6) (v : Word) : BitVec 6 :=
  let md := v.toNat % 8
  BitVec.ofNat 6 (v.toNat % 64 / 16 * 16 + (if 4 < md then old.toNat % 8 else md))

/-- A reserved event code (17 R415). -/
def evReserved (e : Nat) : Bool := (decide (0x11 ≤ e) && decide (e < 0x30)) || decide (0x34 ≤ e)

/-- PERFSEL as written: a reserved code leaves its field (17 R414). -/
def perfselWrite (old v : Word) : Word :=
  packElems 8 ((List.range 8).map fun k => if evReserved (elemN v 8 k) then elemN old 8 k else elemN v 8 k)

/-- Does an event code select a fabric count, for which the counter holds 0 (17 R417)? -/
def evFabric (e : Nat) : Bool := decide (0x30 ≤ e) && decide (e < 0x34)

/-- A counter of a VF as held: 0 while it selects a fabric count. -/
def Perf.hold (p : Perf) : Perf := { p with pmc := p.pmc.filter fun c => !evFabric (elemN p.sel 8 c.1) }

/-- PERFCTL as written: OVF is write-one-to-clear (17 R414). -/
def perfctlWrite (old : BitVec 24) (v : Word) : BitVec 24 :=
  let n := v.setWidth 24
  (n &&& 0xFF00FF) ||| (old &&& ~~~n &&& 0x00FF00)

/-- One field of LEASECFG as written: a value outside 4 to 1,024 leaves it (13 R325). -/
def leaseField (old v : Word) (lo : Nat) : Nat :=
  let f := (v.toNat >>> lo) % 2 ^ 11
  if 4 ≤ f ∧ f ≤ 1024 then f else (old.toNat >>> lo) % 2 ^ 11

/-- LEASECFG as written (13 R325). -/
def leaseWrite (old v : Word) : Word :=
  BitVec.ofNat 64 (leaseField old v 0 + leaseField old v 11 * 2 ^ 11 + leaseField old v 22 * 2 ^ 22)

/-- A write of a special register; RO registers discard it (00 R6). -/
def State.sregWrite (s : State) (x : Ctx) (n : Nat) (v : Word) : State :=
  let updPerf (f : Perf → Perf) : State := s.updCore x.c.core fun co =>
    { co with perf := sset {} co.perf x.c.vf (f (sget {} co.perf x.c.vf)) }
  match n with
  | 0x10 => s.updGroup x.iss.who fun g => { g with fsr := v.setWidth 7 }
  | 0x11 => s.updGroup x.iss.who fun g => { g with fcr := fcrWrite g.fcr v }
  | 0x19 => s.updCore x.c.core fun co => { co with trapbase := v &&& trapbaseBits }
  | 0x1C => updPerf fun p => ({ p with sel := perfselWrite p.sel v } : Perf).hold
  | 0x1D => updPerf fun p => { p with ctl := perfctlWrite p.ctl v }
  | 0x2C => { s with leasecfg := leaseWrite s.leasecfg v }
  | _ =>
    if 0x20 ≤ n ∧ n < 0x28 then updPerf fun p =>
        ({ p with pmc := sset 0 p.pmc (n - 0x20) (v.toNat % 2 ^ 48) } : Perf).hold
    else if 0x28 ≤ n ∧ n < 0x2C then
      s.updCore x.c.core fun co => { co with watch := sset 0 co.watch (n - 0x28) (v &&& 0xFF07_FFFF_FFFF_FFFF) }
    else s

/-- SWR (08 R208): the value of the lowest active lane; nothing where no lane is active. -/
def execSwr (h : Hdr) (d a : Opnd) (s : State) : Host.Outcome State Fault Refusal :=
  .next (s.withCtx h fun x =>
    s.checked x [(1, a)] (sregSuper (Opnd.sregNum d)) fun _ =>
      let s := if x.act = 0 then s else s.sregWrite x (Opnd.sregNum d) (x.scalar a)
      s.retire x h)

/-- An entry of LP as LPR reads it (03 R54). -/
def lpWord (e : Lp) : Word :=
  let st : Nat := match e.st with
    | .live => 0
    | .parked => 1
    | .yielded => 2
    | .exited => 3
    | .absent => 4
  BitVec.ofNat 64 (st * 2 ^ 60 + e.depth.toNat * 2 ^ 48 + e.pc.toNat)

/-- LPR and LPR.SNAP (08 R209). In a handler, which reaches no snapshot entry (21 R462), LPR.SNAP reads a free value
(notes/assumptions/102.md). -/
def execLpr (h : Hdr) (snap : Bool) (d : Opnd) (s : State) : Host.Outcome State Fault Refusal :=
  .next (s.vexec { h := h, fs := [(0, d)], srcs := [], d := d, arith := false } fun x l =>
    { d := if snap && x.g.handler then Config.snapWord (((s.cycle * 288 + x.c.core) * 4 + x.g.part) * 32 + l)
        else lpWord (if snap then sget Lp.none x.g.snap l else x.g.lpOf l) })

end Sys2Proof.Machine
end

