-- ==== Sys2Proof/Machine/Observe.lean ====
section
/-! DEFINITION. Observation and power (17 R423 to R430, 18 R431 to R435): skew, energy and the clock governor, PC sampling,
and the precise stop. -/

namespace Sys2Proof.Machine

/-! ## Time and skew (17 R429) -/

/-- What DSKEWd reads: die d's TIME less die 0's, within 2 ns; the error of the measurement is a free value. -/
def State.dskew (s : State) (d : Nat) (err : Word) : Word :=
  let x := sget 0 s.time d - sget 0 s.time 0
  if d = 0 then x else x + BitVec.ofNat 64 (err.toNat % 5) - 2

/-- SKEW_UPDATE: DSKEWd as measured over the bridges; PSKEWn is what port n measured, and 0 while it is not up. The measurements
are those of the ports, and then the errors of the dies. -/
def execSkewUpdate (ps : List Word) (s : State) : Host.Outcome State Fault Refusal :=
  .next (
    let s := (List.range 4).foldl (fun (s : State) d => s.setReg (0xA00 + 8 * d) (s.dskew d (ps.getD (16 + d) 0))) s
    (List.range 16).foldl (fun (s : State) n =>
      let up := s.portUp n && (sget {} s.retrain n).attempts == 0
      s.setReg (0xA40 + 8 * n) (if up then ps.getD n 0 else 0)) s)

/-! ## Energy and the clock (18 R431 to R435) -/

/-- ENERGY_UPDATE: the count rises by what was drawn, and never wraps. -/
def execEnergyUpdate (uj : Nat) (s : State) : Host.Outcome State Fault Refusal :=
  .next { s with energy := BitVec.ofNat 64 (min (s.energy.toNat + uj) (2 ^ 64 - 1)) }

/-- The energy of the window so far in µJ. -/
def State.windowEnergy (s : State) : Nat := s.energy.toNat - s.winE.toNat

/-- The steps of the clock, highest first. -/
def clockSteps : List Nat := (List.range 10).map fun k => 2100 - 100 * k

/-- The planned clock (18 R434): the highest step whose energy keeps the budget. -/
def planClock (phi budget mhz e : Nat) : Nat :=
  if budget = 0 then 2100
  else max phi ((clockSteps.find? fun m => decide (e * m ≤ budget * 1000 * mhz)).getD 0)

/-- BUDGET_WINDOW_BOUNDARY: OVER counts a window that ended above its budget, the new budget takes effect, and the clock is
planned. -/
def execBudgetWindowBoundary (s : State) : Host.Outcome State Fault Refusal :=
  .next (
    let e := s.windowEnergy
    let o := fld (s.reg 0xD08) 16 32
    let s := if s.budget ≠ 0 ∧ s.budget * 1000 < e then s.setFld 0xD08 16 32 (min (o + 1) (2 ^ 32 - 1)) else s
    let b := fld (s.reg 0xD00) 0 32
    { s with budget := b, winE := s.energy, mhz := planClock s.phi b s.mhz e })

/-- BUDGET_REACHED: the clock is at its floor until the next boundary. -/
def execBudgetReached (s : State) : Host.Outcome State Fault Refusal :=
  .next (if s.budget ≠ 0 ∧ s.budget * 1000 ≤ s.windowEnergy then { s with mhz := s.phi } else s)

/-! ## PC sampling (17 R423, R424) -/

/-- The groups that stand in a partition of a core. -/
def State.groupsIn (s : State) (core part : Nat) : List (Who × Crew × Group) :=
  ((s.crews.filter fun c => c.core == core && c.resident).map fun c =>
    (numbered c.groups).filterMap fun p =>
      if p.2.part = part then some ({ crew := c.id, grp := p.1 }, c, p.2) else none).flatten

/-- The group in a slot. -/
def State.groupAt (s : State) (core part slot : Nat) : Option (Who × Crew × Group) :=
  (s.groupsIn core part).find? fun x => x.2.2.slot == slot

/-- The PC that a sample names. -/
def State.samplePc (s : State) (c : Crew) (g : Group) : Pc :=
  if g.finished then
    match (g.lanesIn (· != .absent)).low with
    | some l => (g.lpOf l).pc
    | none => (g.lpOf 0).pc
  else match g.head, s.select c g with
    | some i, _ => i.pc
    | none, some e => e.pc
    | none, none => BitVec.ofNat 48 (g.topKey (if g.live = 0 then g.remain else g.live)).2

/-- Is it a word of the matrix array? -/
def matrixWord : Instr → Bool
  | .mlw .. | .mswap .. | .mst .. | .mstz .. | .msts .. | .msoft .. | .mrd .. | .mrdt .. | .mzero .. | .msrd .. | .mswr .. => true
  | _ => false

/-- WHY of a group whose word is tried again each cycle: 8 for a fence or release under way, and else a barrier, array or copy
capacity, tile state, or the store-buffer limit. -/
def State.retryWhy (s : State) (c : Crew) (w : Who) (g : Group) (i : Instr) : Nat :=
  let moves (t : Nat) : Bool := (c.tile t).st == .filling || (c.tile t).st == .draining
  let copy (k : CopyKind) (t : Opnd) : Nat :=
    if (copyTile k (c.tile (tileNo t))).2 then 6 else if 128 ≤ s.copiesOn c.core then 7 else 8
  let port : Bool := i.fields.any fun o => match o with
    | .sp n => moves (g.port n.toNat).tile
    | _ => false
  if g.phase = 1 || g.phase = 5 then 8
  else match i with
    | .bara .. | .barw .. | .baraw .. => 3
    | .lds .. | .sts .. | .trel .. => 6
    | .hand _ _ t _ => if (c.tile (tileNo t)).st = .ready then 7 else 6
    | .enqt .. | .enqwt .. => if (List.range c.tiles.length).any moves then 6 else 8
    | .copyG2t _ _ t _ _ _ | .copytG2t _ _ t _ _ _ | .copys _ _ t _ _ _ _ => copy .g2t t
    | .copyT2g _ _ t _ _ _ | .copytT2g _ _ t _ _ _ => copy .t2g t
    | .copyG2g .. => copy .g2g .absent
    | .mlw .. => if s.matBusy c w.grp true then 7 else 6
    | i => if matrixWord i then (if s.matBusy c w.grp false then 7 else 6) else if port then 6 else 8

/-- Why a group that neither issues nor fetches is parked (17 R424); causes that the table lacks are given the nearest code
(notes/assumptions/16.md). -/
def State.parkWhy (s : State) (c : Crew) (w : Who) (g : Group) : Nat :=
  if g.live = 0 then 1
  else
    let i := s.instrAt c g (s.samplePc c g)
    match g.wait with
    | .till _ => 4
    | .answer => if i.any matrixWord then 7 else 5
    | .acq _ _ => 8
    | .trap _ => 2
    | .probe _ => 2
    | .retry _ => (i.map (s.retryWhy c w g)).getD 9
    | .none => if (s.readySel c g).isSome || s.stopped c.core g.part then 9 else 2

/-- Is the group's next word being fetched? -/
def State.fetching (s : State) (c : Crew) (g : Group) : Bool :=
  match g.wait with
  | .none | .probe _ => (match s.fetchWord c g (s.samplePc c g) with
    | .probe _ | .need _ => true
    | _ => false)
  | _ => false

/-- STATUS and WHY: a sample is taken at the end of the cycle before `s.cycle`. -/
def State.sampleStatus (s : State) (w : Who) (c : Crew) (g : Group) : Nat × Nat :=
  let co := s.core c.core
  if sget 0 co.lastCyc g.part = s.cycle ∧ sget (0, 0) co.lastWho g.part = (w.crew, w.grp) then (0, 0)
  else if g.finished then (3, 0)
  else if s.fetching c g then (1, 0)
  else (2, s.parkWhy c w g)

/-- A sample's record is written; while a slice that holds its words hands its state over, it waits (24 R513). -/
def State.samplePut (s : State) (pa : Nat) (bs : List Byte) : State :=
  if (s.frameSlices pa bs.length).any s.sliceMoves then { s with hbmWait := s.hbmWait ++ [(pa, bs)] } else s.hbmPut pa bs

/-- PC_SAMPLE: one slot is visited; its record is written, or lost where the ring is full. -/
def execPcSample (s : State) : Host.Outcome State Fault Refusal :=
  .next (
    let ctl := s.winRead 0x800
    let slot := s.smpSlot % 48
    let t := { s with smpSlot := (slot + 1) % 48 }
    if !ctl.getLsbD 0 then s
    else match s.groupAt (fld ctl 9 9) (slot / 12) (slot % 12) with
      | none => t
      | some (w, c, g) =>
        if !ctl.getLsbD 22 && c.vf != fld ctl 18 4 then t
        else
          let size := 2 ^ (fld ctl 23 4 + 8)
          let head := fld (s.reg 0x810) 0 32
          if (head + 2 ^ 32 - fld (s.reg 0x818) 0 32) % 2 ^ 32 = size then
            t.setReg 0x820 (BitVec.ofNat 64 (min (fld (s.reg 0x820) 0 48 + 1) (2 ^ 48 - 1)))
          else
            let st := s.sampleStatus w c g
            let wh := slot / 12 * 2 ^ 14 + slot % 12 * 2 ^ 10 + c.vf * 2 ^ 6 + st.2 * 2 ^ 2 + st.1
            let rec_ := bytesOf (s.samplePc c g).toNat 6 ++ bytesOf wh 2 ++ bytesOf c.core 2 ++
              bytesOf (sget 0 s.time (c.core / 72)).toNat 6
            (t.samplePut (fld (s.reg 0x808) 12 40 * 2 ^ 12 + 16 * (head % size)) rec_).setReg 0x810
              (BitVec.ofNat 64 ((head + 1) % 2 ^ 32)))

/-! ## The precise stop (17 R425 to R428) -/

/-- STOP_TRIGGER_TIME: TIME of the core's die has reached STOPVAL. An absent core has nothing to stop: a DESIGN CHOICE, for 24 R512 says
only that its COREID answers to nothing (notes/assumptions/120.md). -/
def execStopTriggerTime (s : State) : Host.Outcome State Fault Refusal :=
  .next (
    let core := fld (s.reg 0x900) 6 9
    let part := fld (s.reg 0x900) 4 2
    if s.stopArmed core part 0 && !(s.core core).absent && decide ((s.reg 0x908).toNat ≤ (sget 0 s.time (core / 72)).toNat) then
      s.freeze core part 0 0 0 none
    else s)

/-- A result that the stop holds, as its release writes it. -/
def State.heldBack (s : State) : StopRes → State
  | .array r => s.writeRegs r
  | .msg e => match e with
    | .loadResultReturn m => s.loadBack m
    | .storeAcknowledgement a => s.storeAck a
    | .atomicReply a => s.atomBack a
    | .claimReply m => (match m.claim.kind with
      | .deq w out lanes => s.deqBack m w out lanes
      | .launch _ _ => s)
    | _ => s

/-- The held results written, in the order in which they arrived. -/
def State.heldWritten (s : State) (t : Stop) : State := t.held.foldl State.heldBack { s with stop := none }

/-- The same for the dump: no handler is entered by it, so that the registers written are seen. -/
def State.heldSeen (s : State) (t : Stop) : State :=
  let calm (g : Group) : Group := match g.wait with
    | .trap _ => { g with wait := .none }
    | _ => g
  let plain (r : StopRes) : StopRes := match r with
    | .array r => .array { r with trap := none, done := none }
    | r => r
  let s := { s with crews := s.crews.map fun (c : Crew) => { c with groups := c.groups.map calm } }
  s.heldWritten { t with held := t.held.map plain }

/-- Bytes padded with zeros to a length. -/
def padTo (n : Nat) (bs : List Byte) : List Byte := bs ++ List.replicate (n - bs.length) 0

/-- LP or a snapshot as the dump has it: 8 bytes a lane, as LPR reads them. -/
def lpBytes (m : SMap Lp) : List Byte := ((List.range 32).map fun l => bytesOf (lpWord (sget Lp.none m l)).toNat 8).flatten

/-- The dump of a slot (17 R427). -/
def slotDump (c : Crew) (grp : Nat) (g : Group) : List Byte :=
  padTo 64 (([c.crewid.toNat, c.stage, c.vf, grp, c.shape.vregs, c.shape.gregs].map fun n => bytesOf n 8).flatten) ++
    lpBytes g.lp ++ lpBytes g.snap ++
    padTo 64 (((List.range 15).map fun n => bytesOf (g.rdP n).toNat 4).flatten) ++
    padTo 64 (bytesOf g.fsr.toNat 8 ++ bytesOf g.fcr.toNat 8 ++ bytesOf g.sbcount 8) ++
    ((List.range c.shape.vregs).map fun n => ((List.range 32).map fun l => bytesOf (g.rdV n l).toNat 8).flatten).flatten ++
    ((List.range c.shape.gregs).map fun n => bytesOf (g.rdG n).toNat 8).flatten

/-- A lane of a register, as a pending write shows it. -/
def Group.pendWord (g : Group) (l : Nat) : Opnd → Word
  | .v n => g.rdV n.toNat l
  | .g n => g.rdG n.toNat
  | .p n => if (g.rdP n.toNat).has l then 1 else 0
  | _ => 0

/-- The pending write of some lanes of a register by the word at an address; `after` is the group with the held results written, where
every lane of it has arrived. -/
def pendDump (slot pc : Nat) (lanes : Mask) (r : Opnd) (after : Option Group) : List Byte :=
  padTo 32 (bytesOf slot 1 ++ [0] ++ bytesOf r.code.toNat 2 ++ bytesOf lanes.toNat 4 ++ bytesOf pc 8 ++
      bytesOf (if after.isSome then 1 else 0) 1) ++
    ((List.range 32).map fun l => match after with
      | some g => if lanes.has l then bytesOf (g.pendWord l r).toNat 8 else List.replicate 8 0
      | none => List.replicate 8 0).flatten

/-- The writes of side registers that a group waits for, MSRD's: the word, the lanes, the register, and whether the array has given
them. -/
def State.sideWrites (s : State) (t : Stop) (w : Who) : List (Nat × Mask × Opnd × Bool) :=
  ((s.core t.core).mq.filterMap fun j => match j.op with
    | .msrd _ _ d _ => if j.iss.who = w then some (j.iss.pc.toNat, j.act, .v (BitVec.ofNat 8 d), false) else none
    | _ => none) ++
  t.held.filterMap fun r => match r with
    | .array r => if r.who = w ∧ r.out = none then r.vals.head?.map fun p =>
        (r.pc, r.act, .v (BitVec.ofNat 8 (p.1 / 32)), true) else none
    | .msg _ => none

/-- The pending writes of a stopped partition. -/
def State.pendings (s : State) (t : Stop) : List (List Byte) :=
  let after := s.heldSeen t
  ((s.groupsIn t.core t.part).map fun x =>
    (x.2.2.outs.map fun o =>
      let g' := (after.group? x.1).bind fun g => if g.outs.any fun p => p.id == o.id then none else some g
      o.writes.map fun r => pendDump x.2.2.slot o.pc o.lanes r g').flatten ++
    (s.sideWrites t x.1).map fun q => pendDump x.2.2.slot q.1 q.2.1 q.2.2.1 (if q.2.2.2 then after.group? x.1 else none)).flatten

/-- The dump (17 R427). -/
def State.stopDump (s : State) (t : Stop) : List Byte :=
  let gs := lsort (fun x => x.2.2.slot) (s.groupsIn t.core t.part)
  let ps := s.pendings t
  let mask := gs.foldl (fun m x => m + 2 ^ x.2.2.slot) 0
  padTo 64 (bytesOf t.time.toNat 8 ++ bytesOf t.core 2 ++ bytesOf t.part 1 ++ bytesOf t.trig 1 ++ bytesOf ps.length 2 ++
      bytesOf mask 2 ++ bytesOf t.pc 8 ++ bytesOf (if t.trig = 2 then t.cause else 0) 1) ++
    (gs.map fun x => slotDump x.2.1 x.1.grp x.2.2).flatten ++ ps.flatten

/-- STOP_DUMP_COMPLETE: the dump stands in local HBM, and DUMPED is set. -/
def execStopDumpComplete (s : State) : Host.Outcome State Fault Refusal :=
  .next (match s.stop with
    | none => s
    | some t =>
      if t.dumped then s
      else
        let pa := fld (s.reg 0x910) 12 40 * 2 ^ 12
        s.unlessMoves (s.frameSlices pa (s.stopDump t).length) .stopDumpComplete
          { (s.hbmPut pa (s.stopDump t)).setFld 0x918 62 1 1 with stop := some { t with dumped := true } })

/-- The pre-emptions that a precise stop has put off take effect, and those of a core whose retirement has waited (17 R428, 24
R511). -/
def State.deferredStops (s : State) (t : Stop) : State :=
  let going (c : Crew) : Bool := t.deferred.contains c.id || (c.core == t.core && s.coreGoing t.core)
  (s.crews.filter fun c => c.st == .running && going c).foldl (fun (s : State) c =>
    if s.stopKeeps c then { s with stop := s.stop.map fun t => { t with deferred := t.deferred ++ [c.id] } }
    else s.stopCrew c.id .saved) s

/-- STOP_RELEASE (17 R428): the held results are written; the partition goes on as if no cycle had passed, and a group frozen before
its handler enters it; pre-emptions that wait take effect; FROZEN clears, but where a result that was held has completed a trap on which
a trigger, armed anew, has stopped the partition again. A release waits for the dump (notes/assumptions/17.md). -/
def execStopRelease (s : State) : Host.Outcome State Fault Refusal :=
  .next (match s.stop with
    | none => s
    | some t =>
      if !t.dumped then s.send .stopRelease
      else
        let s := s.heldWritten t
        let last := sget 0 (s.core t.core).lastCyc t.part
        let s := if t.cyc ≤ last then s.updCore t.core fun co => { co with lastCyc := sset 0 co.lastCyc t.part s.cycle } else s
        let s := match t.trapped with
          | none => s
          | some w => (match s.crew? w.crew with
            | none => s
            | some c => s.updGroup w fun g => match g.wait with
              | .trap r => g.enterTrap (s.core c.core).trapbase r
              | _ => g)
        if s.stop.isSome then s.deferredStops t else (s.deferredStops t).setFld 0x918 63 1 0)

end Sys2Proof.Machine
end

