-- ==== Sys2Proof/Machine/Dispatch.lean ====
section
/-! DEFINITION. One arm for each instruction: the one call of its meaning. -/

namespace Sys2Proof.Machine

def exec (i : Instr) (s : State) : Host.Outcome State Fault Refusal :=
  match i with
  | .nop h => Sys2Proof.Machine.execNop h s
  | .bra h ofs => Sys2Proof.Machine.execBra h ofs s
  | .brx h a => Sys2Proof.Machine.execBrx h a s
  | .call h d ofs => Sys2Proof.Machine.execCall h d ofs s
  | .callx h d a => Sys2Proof.Machine.execCallx h d a s
  | .ret h a => Sys2Proof.Machine.execRet h a s
  | .join h => Sys2Proof.Machine.execJoin h s
  | .yield h => Sys2Proof.Machine.execYield h s
  | .exit h => Sys2Proof.Machine.execExit h s
  | .region h tag => Sys2Proof.Machine.execRegion h tag s
  | .trap h code => Sys2Proof.Machine.execTrap h code s
  | .rtt h skip => Sys2Proof.Machine.execRtt h skip s
  | .brk h code => Sys2Proof.Machine.execBrk h code s
  | .iadd h w sgn sat d a b => Sys2Proof.Machine.execIadd h w sgn sat d a b s
  | .isub h w sgn sat d a b => Sys2Proof.Machine.execIsub h w sgn sat d a b s
  | .imul h w sgn sat d a b => Sys2Proof.Machine.execImul h w sgn sat d a b s
  | .imulh h w sgn d a b => Sys2Proof.Machine.execImulh h w sgn d a b s
  | .imad h w sgn sat d a bc => Sys2Proof.Machine.execImad h w sgn sat d a bc s
  | .imin h w sgn d a b => Sys2Proof.Machine.execImin h w sgn d a b s
  | .imax h w sgn d a b => Sys2Proof.Machine.execImax h w sgn d a b s
  | .iabs h w sat d a => Sys2Proof.Machine.execIabs h w sat d a s
  | .icmp h w sgn cc any d a b => Sys2Proof.Machine.execIcmp h w sgn cc any d a b s
  | .shl h w sgn d a b => Sys2Proof.Machine.execShl h w sgn d a b s
  | .shr h w sgn d a b => Sys2Proof.Machine.execShr h w sgn d a b s
  | .shra h w sgn d a b => Sys2Proof.Machine.execShra h w sgn d a b s
  | .isad h sgn d a b c => Sys2Proof.Machine.execIsad h sgn d a b c s
  | .blut h tbl d a bc => Sys2Proof.Machine.execBlut h tbl d a bc s
  | .rot h d a b => Sys2Proof.Machine.execRot h d a b s
  | .funnel h d a b c => Sys2Proof.Machine.execFunnel h d a b c s
  | .popc h d a => Sys2Proof.Machine.execPopc h d a s
  | .clz h d a => Sys2Proof.Machine.execClz h d a s
  | .ctz h d a => Sys2Proof.Machine.execCtz h d a s
  | .brev h d a => Sys2Proof.Machine.execBrev h d a s
  | .bfx h sgn d a b => Sys2Proof.Machine.execBfx h sgn d a b s
  | .bfi h d a bc => Sys2Proof.Machine.execBfi h d a bc s
  | .isel h d a b p => Sys2Proof.Machine.execIsel h d a b p s
  | .lea h sh d a b => Sys2Proof.Machine.execLea h sh d a b s
  | .iaddc h d a b pin pout => Sys2Proof.Machine.execIaddc h d a b pin pout s
  | .plut h tbl pd pa pb pc => Sys2Proof.Machine.execPlut h tbl pd pa pb pc s
  | .idot4 h xs ys sat d a b c => Sys2Proof.Machine.execIdot4 h xs ys sat d a b c s
  | .idot2 h xs ys sat d a b c => Sys2Proof.Machine.execIdot2 h xs ys sat d a b c s
  | .fadd h ty m d a b => Sys2Proof.Machine.execFadd h ty m d a b s
  | .fmul h ty m d a b => Sys2Proof.Machine.execFmul h ty m d a b s
  | .ffma h ty m d a bc => Sys2Proof.Machine.execFfma h ty m d a bc s
  | .fmin h ty m d a b => Sys2Proof.Machine.execFmin h ty m d a b s
  | .fmax h ty m d a b => Sys2Proof.Machine.execFmax h ty m d a b s
  | .fminm h ty m d a b => Sys2Proof.Machine.execFminm h ty m d a b s
  | .fmaxm h ty m d a b => Sys2Proof.Machine.execFmaxm h ty m d a b s
  | .fcmp h ty m cc any d a b => Sys2Proof.Machine.execFcmp h ty m cc any d a b s
  | .fclass h ty any mask d a => Sys2Proof.Machine.execFclass h ty any mask d a s
  | .fdot2 h bf m d a b c => Sys2Proof.Machine.execFdot2 h bf m d a b c s
  | .fdot4 h ta tb m d a b c => Sys2Proof.Machine.execFdot4 h ta tb m d a b c s
  | .frnd h ty m d a => Sys2Proof.Machine.execFrnd h ty m d a s
  | .fscale h ty m d a b => Sys2Proof.Machine.execFscale h ty m d a b s
  | .fgetexp h ty m d a => Sys2Proof.Machine.execFgetexp h ty m d a s
  | .fgetmant h ty m d a => Sys2Proof.Machine.execFgetmant h ty m d a s
  | .ferr h ty m mul d a b => Sys2Proof.Machine.execFerr h ty m mul d a b s
  | .cvtFf h td ts m k d a => Sys2Proof.Machine.execCvtFf h td ts m k d a s
  | .cvtFi h td ts m k d a => Sys2Proof.Machine.execCvtFi h td ts m k d a s
  | .cvtIf h td ts m k d a => Sys2Proof.Machine.execCvtIf h td ts m k d a s
  | .cvtIi h td ts m k d a => Sys2Proof.Machine.execCvtIi h td ts m k d a s
  | .cvts h td ts m k d a b => Sys2Proof.Machine.execCvts h td ts m k d a b s
  | .cvtef h td m k scl d a b c => Sys2Proof.Machine.execCvtef h td m k scl d a b c s
  | .cvtsr h td ts m k d a b => Sys2Proof.Machine.execCvtsr h td ts m k d a b s
  | .packB6 h k d a b => Sys2Proof.Machine.execPackB6 h k d a b s
  | .unpkB6 h k d a b => Sys2Proof.Machine.execUnpkB6 h k d a b s
  | .packTri h k d a b => Sys2Proof.Machine.execPackTri h k d a b s
  | .unpkTri h k d a => Sys2Proof.Machine.execUnpkTri h k d a s
  | .bscl h k d a b => Sys2Proof.Machine.execBscl h k d a b s
  | .rcp h ty m d a => Sys2Proof.Machine.execRcp h ty m d a s
  | .rsq h ty m d a => Sys2Proof.Machine.execRsq h ty m d a s
  | .sqrt h ty m d a => Sys2Proof.Machine.execSqrt h ty m d a s
  | .exp2 h ty m d a => Sys2Proof.Machine.execExp2 h ty m d a s
  | .log2 h ty m d a => Sys2Proof.Machine.execLog2 h ty m d a s
  | .sin h ty m d a => Sys2Proof.Machine.execSin h ty m d a s
  | .cos h ty m d a => Sys2Proof.Machine.execCos h ty m d a s
  | .tanh h ty m d a => Sys2Proof.Machine.execTanh h ty m d a s
  | .mov h d a => Sys2Proof.Machine.execMov h d a s
  | .movi h zx d imm => Sys2Proof.Machine.execMovi h zx d imm s
  | .movih h d imm => Sys2Proof.Machine.execMovih h d imm s
  | .lxchIdx h ew lw d a b p => Sys2Proof.Machine.execLxchIdx h ew lw d a b p s
  | .lxchUp h lw d a b p => Sys2Proof.Machine.execLxchUp h lw d a b p s
  | .lxchDown h lw d a b p => Sys2Proof.Machine.execLxchDown h lw d a b p s
  | .lxchXor h lw d a b p => Sys2Proof.Machine.execLxchXor h lw d a b p s
  | .pollAll h neg d a => Sys2Proof.Machine.execPollAll h neg d a s
  | .pollAny h neg d a => Sys2Proof.Machine.execPollAny h neg d a s
  | .pollMask h neg d a => Sys2Proof.Machine.execPollMask h neg d a s
  | .foldAdd h ty rnd sat ftz d a => Sys2Proof.Machine.execFoldAdd h ty rnd sat ftz d a s
  | .foldMinmax h ty isMax ftz d a => Sys2Proof.Machine.execFoldMinmax h ty isMax ftz d a s
  | .bcast h d a b => Sys2Proof.Machine.execBcast h d a b s
  | .selem h ins ew d a b => Sys2Proof.Machine.execSelem h ins ew d a b s
  | .srd h d a => Sys2Proof.Machine.execSrd h d a s
  | .swr h d a => Sys2Proof.Machine.execSwr h d a s
  | .lpr h snap d => Sys2Proof.Machine.execLpr h snap d s
  | .lpw h snap a => Sys2Proof.Machine.execLpw h snap a s
  | .ldg h w sx ord scope cp d addr => Sys2Proof.Machine.execLdg h w sx ord scope cp d addr s
  | .stg h w ord scope cp d addr => Sys2Proof.Machine.execStg h w ord scope cp d addr s
  | .lds h w sx d addr => Sys2Proof.Machine.execLds h w sx d addr s
  | .sts h w d addr => Sys2Proof.Machine.execSts h w d addr s
  | .ldc h w sx cp d a ofs => Sys2Proof.Machine.execLdc h w sx cp d a ofs s
  | .atom h w64 op ord scope cp d a ofs b => Sys2Proof.Machine.execAtom h w64 op ord scope cp d a ofs b s
  | .atomc h w64 ord scope cp d a ofs b => Sys2Proof.Machine.execAtomc h w64 ord scope cp d a ofs b s
  | .atomf h ty op nr ord scope cp d a ofs b => Sys2Proof.Machine.execAtomf h ty op nr ord scope cp d a ofs b s
  | .atoms h w64 op d a ofs b => Sys2Proof.Machine.execAtoms h w64 op d a ofs b s
  | .red h w64 op ord scope cp a ofs b => Sys2Proof.Machine.execRed h w64 op ord scope cp a ofs b s
  | .fence h scope async => Sys2Proof.Machine.execFence h scope async s
  | .flush h a ofs b => Sys2Proof.Machine.execFlush h a ofs b s
  | .inval h scope a ofs b => Sys2Proof.Machine.execInval h scope a ofs b s
  | .pref h cp a ofs b => Sys2Proof.Machine.execPref h cp a ofs b s
  | .renew h a ofs => Sys2Proof.Machine.execRenew h a ofs s
  | .tsadv h l sc a => Sys2Proof.Machine.execTsadv h l sc a s
  | .tstate h d t => Sys2Proof.Machine.execTstate h d t s
  | .tstateArm h t b => Sys2Proof.Machine.execTstateArm h t b s
  | .copyG2t h cp t a b c => Sys2Proof.Machine.execCopyG2t h cp t a b c s
  | .copyT2g h cp t a b c => Sys2Proof.Machine.execCopyT2g h cp t a b c s
  | .copyG2g h cp d a b c => Sys2Proof.Machine.execCopyG2g h cp d a b c s
  | .copytG2t h cp t a b pb => Sys2Proof.Machine.execCopytG2t h cp t a b pb s
  | .copytT2g h cp t a b pb => Sys2Proof.Machine.execCopytT2g h cp t a b pb s
  | .copys h cp t a b c rb => Sys2Proof.Machine.execCopys h cp t a b c rb s
  | .trel h t => Sys2Proof.Machine.execTrel h t s
  | .hand h p t b => Sys2Proof.Machine.execHand h p t b s
  | .spset h wr stride port t b c => Sys2Proof.Machine.execSpset h wr stride port t b c s
  | .spget h d port => Sys2Proof.Machine.execSpget h d port s
  | .sprst h port b => Sys2Proof.Machine.execSprst h port b s
  | .enq h p va q st => Sys2Proof.Machine.execEnq h p va q st s
  | .enqt h p a q st => Sys2Proof.Machine.execEnqt h p a q st s
  | .enqw h p va q st => Sys2Proof.Machine.execEnqw h p va q st s
  | .enqwt h p a q st => Sys2Proof.Machine.execEnqwt h p a q st s
  | .deq h vd vs p => Sys2Proof.Machine.execDeq h vd vs p s
  | .qlen h exact d q => Sys2Proof.Machine.execQlen h exact d q s
  | .spawn h p va q => Sys2Proof.Machine.execSpawn h p va q s
  | .arm h p q tag base lcnt lslot => Sys2Proof.Machine.execArm h p q tag base lcnt lslot s
  | .bara h set b m => Sys2Proof.Machine.execBara h set b m s
  | .barw h b => Sys2Proof.Machine.execBarw h b s
  | .baraw h b => Sys2Proof.Machine.execBaraw h b s
  | .sleep h a => Sys2Proof.Machine.execSleep h a s
  | .sysc h d a b code => Sys2Proof.Machine.execSysc h d a b code s
  | .gload h d a b => Sys2Proof.Machine.execGload h d a b s
  | .gstop h abort d a => Sys2Proof.Machine.execGstop h abort d a s
  | .mlw h arg => Sys2Proof.Machine.execMlw h arg s
  | .mswap h => Sys2Proof.Machine.execMswap h s
  | .mst h f t a b pb => Sys2Proof.Machine.execMst h f t a b pb s
  | .mstz h f t a b c => Sys2Proof.Machine.execMstz h f t a b c s
  | .msts h f z nsa a b c => Sys2Proof.Machine.execMsts h f z nsa a b c s
  | .msoft h f t a b c => Sys2Proof.Machine.execMsoft h f t a b c s
  | .mrd h div zr n d a c => Sys2Proof.Machine.execMrd h div zr n d a c s
  | .mrdt h rnd sat f t a b c => Sys2Proof.Machine.execMrdt h rnd sat f t a b c s
  | .mzero h a b => Sys2Proof.Machine.execMzero h a b s
  | .msrd h sum n d a => Sys2Proof.Machine.execMsrd h sum n d a s
  | .mswr h sum n a b => Sys2Proof.Machine.execMswr h sum n a b s
  | .tandemWord h opa opb moda modb da aa ba ca db ab bb cb => Sys2Proof.Machine.execTandemWord h opa opb moda modb da aa ba ca db ab bb cb s
  | .storePerformedAtHome m => Sys2Proof.Machine.execStorePerformedAtHome m s
  | .storeAcknowledgement m => Sys2Proof.Machine.execStoreAcknowledgement m s
  | .loadRequestAtHome m => Sys2Proof.Machine.execLoadRequestAtHome m s
  | .loadResultReturn m => Sys2Proof.Machine.execLoadResultReturn m s
  | .atomicAtHome m => Sys2Proof.Machine.execAtomicAtHome m s
  | .atomicReply m => Sys2Proof.Machine.execAtomicReply m s
  | .attributeProbe m => Sys2Proof.Machine.execAttributeProbe m s
  | .attributeProbeReply m => Sys2Proof.Machine.execAttributeProbeReply m s
  | .homeFillReturn m => Sys2Proof.Machine.execHomeFillReturn m s
  | .sleepEnd w => Sys2Proof.Machine.execSleepEnd w s
  | .derailleurEvaluation core => Sys2Proof.Machine.execDerailleurEvaluation core s
  | .claimAtHome m => Sys2Proof.Machine.execClaimAtHome m s
  | .claimReply m => Sys2Proof.Machine.execClaimReply m s
  | .crewRetire crew => Sys2Proof.Machine.execCrewRetire crew s
  | .preemption crew => Sys2Proof.Machine.execPreemption crew s
  | .sliceEnd core => Sys2Proof.Machine.execSliceEnd core s
  | .sliceSwitchComplete core => Sys2Proof.Machine.execSliceSwitchComplete core s
  | .queueAppendAtHome m => Sys2Proof.Machine.execQueueAppendAtHome m s
  | .queueAnswer m => Sys2Proof.Machine.execQueueAnswer m s
  | .spokeSummary core sum => Sys2Proof.Machine.execSpokeSummary core sum s
  | .summaryStale core num range => Sys2Proof.Machine.execSummaryStale core num range s
  | .admissionDecision w va vf => Sys2Proof.Machine.execAdmissionDecision w va vf s
  | .graphStopComplete graph => Sys2Proof.Machine.execGraphStopComplete graph s
  | .copyChunkComplete crew copy => Sys2Proof.Machine.execCopyChunkComplete crew copy s
  | .copyComplete crew copy => Sys2Proof.Machine.execCopyComplete crew copy s
  | .handTransferComplete crew copy => Sys2Proof.Machine.execHandTransferComplete crew copy s
  | .matrixAccept core => Sys2Proof.Machine.execMatrixAccept core s
  | .matrixComplete core => Sys2Proof.Machine.execMatrixComplete core s
  | .mlwBackgroundLoadDone core => Sys2Proof.Machine.execMlwBackgroundLoadDone core s
  | .miglimitExpiry held => Sys2Proof.Machine.execMiglimitExpiry held s
  | .henq vf val => Sys2Proof.Machine.execHenq vf val s
  | .henqRecordRead vf val => Sys2Proof.Machine.execHenqRecordRead vf val s
  | .svcval vf val => Sys2Proof.Machine.execSvcval vf val s
  | .svctail vf val => Sys2Proof.Machine.execSvctail vf val s
  | .serviceRecordPost vf => Sys2Proof.Machine.execServiceRecordPost vf s
  | .vfRegisterWrite vf ofs val => Sys2Proof.Machine.execVfRegisterWrite vf ofs val s
  | .tlbinvRange val => Sys2Proof.Machine.execTlbinvRange val s
  | .tlbinvAsid val => Sys2Proof.Machine.execTlbinvAsid val s
  | .tlbinvAll val => Sys2Proof.Machine.execTlbinvAll val s
  | .pteRead val => Sys2Proof.Machine.execPteRead val s
  | .pteWrite val => Sys2Proof.Machine.execPteWrite val s
  | .pteOr val => Sys2Proof.Machine.execPteOr val s
  | .pteClear val => Sys2Proof.Machine.execPteClear val s
  | .checkpointStart val => Sys2Proof.Machine.execCheckpointStart val s
  | .companionRead pa n => Sys2Proof.Machine.execCompanionRead pa n s
  | .companionWrite pa bytes => Sys2Proof.Machine.execCompanionWrite pa bytes s
  | .regionMerge base => Sys2Proof.Machine.execRegionMerge base s
  | .fabcfg val => Sys2Proof.Machine.execFabcfg val s
  | .planeDeadSet plane => Sys2Proof.Machine.execPlaneDeadSet plane s
  | .planeDeadClear plane => Sys2Proof.Machine.execPlaneDeadClear plane s
  | .planeSwitchDrained plane => Sys2Proof.Machine.execPlaneSwitchDrained plane s
  | .peerRequestArrival m => Sys2Proof.Machine.execPeerRequestArrival m s
  | .peerReply m => Sys2Proof.Machine.execPeerReply m s
  | .multicastWriteArrival m => Sys2Proof.Machine.execMulticastWriteArrival m s
  | .torusForward m => Sys2Proof.Machine.execTorusForward m s
  | .taggedMessageArrival m => Sys2Proof.Machine.execTaggedMessageArrival m s
  | .hmsga val => Sys2Proof.Machine.execHmsga val s
  | .hostMessageDelivery val => Sys2Proof.Machine.execHostMessageDelivery val s
  | .segbindUnbind val => Sys2Proof.Machine.execSegbindUnbind val s
  | .segbindSend val => Sys2Proof.Machine.execSegbindSend val s
  | .segbindReceive val => Sys2Proof.Machine.execSegbindReceive val s
  | .receivingSummary m => Sys2Proof.Machine.execReceivingSummary m s
  | .portForwardBurst port => Sys2Proof.Machine.execPortForwardBurst port s
  | .forwardedRecordArrival m => Sys2Proof.Machine.execForwardedRecordArrival m s
  | .forwardAcknowledgement queue seqs => Sys2Proof.Machine.execForwardAcknowledgement queue seqs s
  | .linkError l => Sys2Proof.Machine.execLinkError l s
  | .retrainComplete l => Sys2Proof.Machine.execRetrainComplete l s
  | .portDown port => Sys2Proof.Machine.execPortDown port s
  | .portTrain port => Sys2Proof.Machine.execPortTrain port s
  | .portTakeDown port => Sys2Proof.Machine.execPortTakeDown port s
  | .portTrained port => Sys2Proof.Machine.execPortTrained port s
  | .skewUpdate ps => Sys2Proof.Machine.execSkewUpdate ps s
  | .energyUpdate uj => Sys2Proof.Machine.execEnergyUpdate uj s
  | .flttail val => Sys2Proof.Machine.execFlttail val s
  | .fltreplay val => Sys2Proof.Machine.execFltreplay val s
  | .dataErrorDetected at_ => Sys2Proof.Machine.execDataErrorDetected at_ s
  | .contextError crew => Sys2Proof.Machine.execContextError crew s
  | .coreRetire val reason => Sys2Proof.Machine.execCoreRetire val reason s
  | .sliceRetire val reason => Sys2Proof.Machine.execSliceRetire val reason s
  | .moduleReset env => Sys2Proof.Machine.execModuleReset env s
  | .registerWrite ofs val => Sys2Proof.Machine.execRegisterWrite ofs val s
  | .matrixRowComplete core => Sys2Proof.Machine.execMatrixRowComplete core s
  | .clockTick => Sys2Proof.Machine.execClockTick s
  | .invalidationComplete => Sys2Proof.Machine.execInvalidationComplete s
  | .checkpointDrained => Sys2Proof.Machine.execCheckpointDrained s
  | .checkpointPageWritten => Sys2Proof.Machine.execCheckpointPageWritten s
  | .zenvexLinkDown => Sys2Proof.Machine.execZenvexLinkDown s
  | .zenvexDownTimeout => Sys2Proof.Machine.execZenvexDownTimeout s
  | .zenvexLinkUp => Sys2Proof.Machine.execZenvexLinkUp s
  | .budgetWindowBoundary => Sys2Proof.Machine.execBudgetWindowBoundary s
  | .budgetReached => Sys2Proof.Machine.execBudgetReached s
  | .pcSample => Sys2Proof.Machine.execPcSample s
  | .stopTriggerTime => Sys2Proof.Machine.execStopTriggerTime s
  | .stopDumpComplete => Sys2Proof.Machine.execStopDumpComplete s
  | .stopRelease => Sys2Proof.Machine.execStopRelease s
  | .faultRecordPost => Sys2Proof.Machine.execFaultRecordPost s
  | .coreRetireDone => Sys2Proof.Machine.execCoreRetireDone s
  | .sliceRetireDone => Sys2Proof.Machine.execSliceRetireDone s

end Sys2Proof.Machine
end

