-- ==== Sys2Proof/Machine/Cycle.lean ====
section
/-! DEFINITION. The end of a cycle: TIME, the counters of cycles, and the events that a cycle, a time or a condition
brings about. -/

namespace Sys2Proof.Machine

/-! ## Time (17 R429, 18 R435) -/

/-- The parts of a nanosecond in which `State.tfrac` counts: every legal clock's cycle is a whole number of them. -/
def nsParts : Nat := 2327925600

/-- A cycle passes: every die's TIME goes on by the cycle's length. -/
def State.passTime (s : State) : State :=
  let t := s.tfrac + nsParts * 1000 / s.mhz
  let ns := t / nsParts
  { s with
    cycle := s.cycle + 1
    ptr := 0
    tfrac := t % nsParts
    time := if ns = 0 then s.time
      else (List.range 4).foldl (fun m d => sset 0 m d (sget 0 m d + BitVec.ofNat 64 ns)) s.time }

/-! ## Counts of a cycle (17 R415, R422) -/

/-- LCRIDLE: 32 lane-slots for each partition of the observed core that issued nothing. An absent core has no issue slots: a DESIGN
CHOICE, for 24 R512 says only that its COREID answers to nothing (notes/assumptions/120.md). -/
def State.idleCount (s : State) : State :=
  let ctl := s.winRead 0x400
  if !ctl.getLsbD 0 || (s.core (fld ctl 4 9)).absent then s
  else
    let co := s.core (fld ctl 4 9)
    let n := ((List.range 4).filter fun p => sget 0 co.lastCyc p != s.cycle).length
    s.winCount 0x408 (32 * n)

/-- Counter events 0x01 and 0x05: cycles with a resident crew, and cycles of the array. -/
def State.cycleCounts (s : State) : State :=
  s.cores.foldl (fun (s : State) (e : Nat × Core) =>
    e.2.perf.foldl (fun (s : State) (p : Nat × Perf) =>
      let s := if s.crews.any fun c => c.core == e.1 && c.vf == p.1 && c.resident then s.perfAdd e.1 p.1 0x01 1 else s
      let busy : Bool := match e.2.mq.head? with
        | some j => j.accepted && ((s.crew? j.iss.who.crew).any fun c => c.vf == p.1)
        | none => false
      if busy then s.perfAdd e.1 p.1 0x05 1 else s) s) s

/-! ## Waits of groups (13 R333, 09 R220) -/

/-- The acquires whose access is answered: the clocks are set to their maximum, and the groups go on (13 R333). -/
def State.acquires (s : State) : State :=
  s.crews.foldl (fun (s : State) c => (numbered c.groups).foldl (fun (s : State) p => match p.2.wait with
    | .acq id sc => if p.2.answered id then
        (s.syncClocks c.id sc).updGroup { crew := c.id, grp := p.1 } fun g => { g with wait := .none } else s
    | _ => s) s) s

/-- Closing crews go on committing what they hold. -/
def State.closings (s : State) : State :=
  (s.crews.filter fun c => c.st == .closing).foldl (fun (s : State) c =>
    (List.range c.groups.length).foldl (fun (s : State) g => s.commitHeld { crew := c.id, grp := g }) s) s

/-- A frozen crew is discarded when its graph is stopped (20 R452, 10 R269). -/
def State.dropFrozen (s : State) : State :=
  (s.crews.filter fun c => c.st == .frozen && (s.graphs.any fun g => g.handle == c.graph && g.draining)).foldl
    (fun (s : State) c => s.discardCrew c.id) s

/-! ## Summaries (14 R359, 23 R497) -/

/-- The summary of a stage's input. -/
def State.summary (s : State) (t : Stage) : Summary :=
  let saved := min 63 (s.crews.filter fun c => c.stage == t.num && c.st == .saved).length
  let sat (n : Nat) : Nat := min n (2 ^ 20 - 1)
  match t.inp with
  | .range x y z =>
    let n := sat ((x * y * z - t.ctr) * 32 * t.shape.groups)
    { num := t.num, range := true, backlog := n, undel := n, flushdue := false, saved := saved }
  | .queue n =>
    (match s.queue? n with
      | none => { num := n, range := false, backlog := 0, undel := 0, flushdue := false, saved := saved }
      | some q =>
        let rs := q.win ++ q.pan.map (·.2)
        { num := n, range := false, backlog := sat q.backlog, undel := sat rs.length
          flushdue := rs.any fun r => decide (r.at_ + 64 * t.flush < s.cycle), saved := saved })

/-- The die of a stage input's home. -/
def State.inputDie (s : State) (t : Stage) : Nat := s.inputHome t / 24

/-- The summaries that leave in this cycle: at multiples of 64 cycles from module reset, and to the other dies at multiples of 128, a
DESIGN CHOICE of the periods' phase (notes/assumptions/141.md). -/
def State.summaries (s : State) : State :=
  if s.cycle % 64 ≠ 0 then s
  else s.stages.foldl (fun (s : State) t =>
    let m := s.summary t
    let die := s.inputDie t
    let dst := (s.cores.filter fun (e : Nat × Core) =>
      s.names e.1 m.num m.range && (e.1 / 72 == die || s.cycle % 128 == 0)).map (·.1)
    dst.foldl (fun (s : State) c => s.send (.spokeSummary c m)) s) s

/-- The copies that go stale in this cycle. -/
def State.stales (s : State) : List Instr :=
  (s.cores.map fun (e : Nat × Core) => (e.2.sums.filter fun p =>
    p.2.2.stale.isNone && decide (p.2.2.at_ + (if p.2.2.far then 512 else 256) < s.cycle)).map fun p =>
      Instr.summaryStale e.1 p.1 p.2.1).flatten

/-! ## Events by their conditions -/

/-- Sleeps that end, the array's rows and completions, crews that are saved, and crews that retire. -/
def State.coreEvents (s : State) : List Instr :=
  let sleeps := (s.crews.map fun c => (numbered c.groups).filterMap fun p => match p.2.wait with
    | .till n => if n ≤ s.cycle then some (Instr.sleepEnd { crew := c.id, grp := p.1 }) else none
    | _ => none).flatten
  let array := (s.cores.map fun (e : Nat × Core) =>
    (match e.2.mq.head? with
      | some j => if !j.accepted || decide (s.cycle < j.ready) then []
          else if j.op.progress && decide (j.step < j.op.rows) then [Instr.matrixRowComplete e.1] else [.matrixComplete e.1]
      | none => []) ++
    (match e.2.bgDone with
      | some n => if n ≤ s.cycle then [Instr.mlwBackgroundLoadDone e.1] else []
      | none => [])).flatten
  let ends := (s.crews.filter Crew.closed).map fun c => Instr.crewRetire c.id
  let saves := (s.crews.filter s.maySave).map fun c => Instr.preemption c.id
  sleeps ++ array ++ saves ++ ends

/-- Slices that end, switches that complete, and evaluations. -/
def State.schedEvents (s : State) : List Instr :=
  (s.cores.map fun (e : Nat × Core) =>
    (match e.2.tsvf with
      | none => []
      | some vf =>
        if e.2.switching then (if s.vfStands e.1 vf then [] else [Instr.sliceSwitchComplete e.1])
        else if decide (2 ≤ (s.tsVfs e.1).length) && decide (e.2.sliceEnd ≤ (sget 0 s.time (e.1 / 72)).toNat) then
          [.sliceEnd e.1] else []) ++
    (if e.2.evalDue then [Instr.derailleurEvaluation e.1] else [])).flatten

/-- May a graph's stop complete (10 R269)? -/
def State.graphDone (s : State) (g : Graph) : Bool :=
  g.draining && (g.aborting || g.queues.all fun n => (s.queue? n).all fun q => q.backlog == 0) &&
    !(s.crews.any fun c => c.graph == g.handle) &&
    !(s.cores.any fun (e : Nat × Core) => e.2.resv.any fun r => g.stages.contains r.stage) &&
    !(s.claims.any fun c => g.queues.contains c.queue)

/-- Requests held beyond MIGLIMIT (22 R483); holds under a checkpoint do not count (15 R394). -/
def State.expired (s : State) : List Instr :=
  (s.held.filter fun h => h.why != .ck && decide (h.since + fld (s.reg 0x218) 0 20 * 1000 < s.now)).map fun h => .miglimitExpiry h.id

/-- Records for the host that can be posted now. -/
def State.hostEvents (s : State) : List Instr :=
  let room := fld (s.reg 0xC18) 0 48 + s.fltSize - fld (s.reg 0xC10) 0 48
  let flt := if s.fltRoom then List.replicate (min s.fltWait.length room) Instr.faultRecordPost else []
  let svc := ((List.range 16).map fun vf =>
    if s.svcRoom vf then
      let room := (s.vfReg vf 0x70).toNat + s.svcSize vf - (s.vfReg vf 0x68).toNat
      List.replicate (min (s.svcWait.filter fun r => r.vf == vf).length room) (Instr.serviceRecordPost vf)
    else []).flatten
  flt ++ svc

/-- Invalidations, checkpoints, graphs and regions whose wait is over. -/
def State.waitEvents (s : State) : List Instr :=
  (match s.inv with
    | some v => if s.invDone v then [Instr.invalidationComplete] else []
    | none => []) ++
  (match s.ck with
    | some k => (match k.phase with
      | .drain => if s.ckDrained k then [Instr.checkpointDrained] else []
      | .copy => if k.asked || decide (0 < k.logOut) then [] else [.checkpointPageWritten])
    | none => []) ++
  ((s.graphs.filter s.graphDone).map fun g => Instr.graphStopComplete g.handle) ++
  (((s.dir.find? fun d => (s.mayMerge d.base).isSome).map fun d => Instr.regionMerge d.base).toList) ++
  s.expired

/-- The fabric: drains that end, ports that have something to send, summaries of receiving segments at least every 128 ns,
and links whose retrain has run out (16 R401, R408, R409, 23 R501, R506). -/
def State.linkEvents (s : State) : List Instr :=
  let drains := (s.planeSw.filter fun p => s.planeFirst p && s.planeDrained p).map fun p => Instr.planeSwitchDrained p.1
  let bursts := ((List.range 16).filter fun n => s.portUp n && s.queues.any fun q => (q.burst n).isSome).map Instr.portForwardBurst
  let sums := if s.cycle % 128 = 0 then (s.queues.filter fun q => q.role == .receive).map fun q => Instr.receivingSummary (.send q.num)
    else []
  let downs := (s.retrain.filterMap fun (e : Nat × Retrain) =>
    if e.1 < 16 then (if e.2.since + 200000 < s.now then some (Instr.portDown e.1) else none)
    else if e.2.since + 1000000 < s.now then some .zenvexLinkDown else none)
  let dead := match s.zdown with
    | some t => if t + 1000000000 < s.now then [Instr.zenvexDownTimeout] else []
    | none => []
  let taken := ((List.range 16).filter fun n => s.downing.getLsbD n && s.portUp n && s.portDrained n).map Instr.portTakeDown
  drains ++ bursts ++ sums ++ downs ++ dead ++ taken

/-- Observation: a sample, a stop by time. -/
def State.watchEvents (s : State) : List Instr :=
  let ctl := s.winRead 0x800
  let core := fld (s.reg 0x900) 6 9
  (if ctl.getLsbD 0 && s.cycle % (fld ctl 32 20) == 0 then [Instr.pcSample] else []) ++
  (if s.stopArmed core (fld (s.reg 0x900) 4 2) 0 && !(s.core core).absent && decide ((s.reg 0x908).toNat ≤ (sget 0 s.time (core / 72)).toNat) then
    [.stopTriggerTime] else [])

/-- Retirement: one whose core is clear, and those that a threshold asks for. -/
def State.repairEvents (s : State) : List Instr :=
  (match s.retiring with
    | some r => if s.inNet (if r.slice then sliceNode r.unit else r.unit) then []
      else if r.slice then [Instr.sliceRetireDone] else if s.coreClear r.unit then [.coreRetireDone] else []
    | none => []) ++ s.retireTriggers

/-- Power and skew: the energy count every 10 µs, the window every 10 ms, the skew registers every 1 ms of die 0's TIME; the
measurements are the model's free values. -/
def State.meterEvents (s : State) (before : Nat) : State :=
  let turn (n : Nat) : Bool := before / n != s.now / n
  let s := if turn 1000000 then
      { s.post [.skewUpdate ((List.range 20).map fun k => Config.freeWord (s.draw + k))] with draw := s.draw + 20 } else s
  let s := if turn 10000 then s.post [.energyUpdate (min 23000 (Config.energyOf (s.now / 10000)))] else s
  let s := if turn 10000000 then s.post [.budgetWindowBoundary] else s
  if turn 10000 then s.post [.budgetReached] else s

/-- The end of a cycle. -/
def State.cycleEnd (s : State) : State :=
  let before := s.now
  let s := s.heldLeave.passTime
  let s := s.idleCount.cycleCounts.acquires.closings.dropFrozen.trimFlt
  let s := if s.cycle % 64 = 0 then s.post [.clockTick] else s
  let s := s.summaries
  let s := s.post (s.coreEvents ++ s.schedEvents ++ s.stales ++ s.hostEvents ++ s.waitEvents ++ s.linkEvents ++ s.watchEvents ++
    s.repairEvents)
  s.meterEvents before

/-- The start-up (18 R439). The outcomes of its physical steps are the environment's. -/
def bootEvent : Instr := .moduleReset {
  romOk := Config.bootOk 0
  trimOk := Config.bootOk 1
  hbmOk := Config.bootOk 2
  hbmAltOk := Config.bootOk 3
  badCores := Config.bootBad 0
  badSlices := Config.bootBad 1
  routeOk := Config.bootOk 4
  zenvexOk := Config.bootOk 5
  zenvexAltOk := Config.bootOk 6
  ports := Config.bootPorts }

end Sys2Proof.Machine
end

