-- ==== Sys2Proof/Machine/Place.lean ====
section
/-! DEFINITION. A word placed where the next step fetches (notes/assumptions/15.md): the load of a program from outside
the machine. -/

namespace Sys2Proof.Machine

/-- The leaf of the page that holds the placed word: V, R, W, X, RC, local HBM, A, D, frame 0. -/
def placeLeaf : Word := 0xC01F

/-- The group that issues the placed word: lanes 0 to 31 live at address 0. -/
def placeGroup : Group where
  lp := (List.range 32).map fun l => (l, { st := .live, depth := 0, pc := 0 })
  snap := (List.range 32).map fun l => (l, { st := .live, depth := 0, pc := 0 })

/-- The crew that issues the placed word, the whole of partition 0's registers in its shape. -/
def placeCrew : Crew where
  id := 0
  st := .running
  asid := 1
  shape := { groups := 1, vregs := 256, gregs := 1024, barriers := 16, tiles := [32768, 32768], acc := 64 }
  groups := [placeGroup]
  tiles := [{ st := .ready, size := 32768 }, { st := .ready, size := 32768 }]
  bars := List.replicate 16 {}

/-- The block of the core's L1 that holds the placed word: its fetch has filled it (22 R481). -/
def placeBlk (bs : List Byte) : Blk where
  asid := 1
  span := 0
  first := 0
  last := 1
  data := ssetList 0 [] 0 bs

/-- No cache of the slice holds the page's words any more. -/
def Slice.forget (sl : Slice) : Slice :=
  { sl with home := sl.home.filter fun b => !b.holds 1 0, loc := sl.loc.filter fun b => !b.holds 1 0 }

/-- The state whose next step issues the word, in a module that has started and does nothing else. -/
def State.place (s : State) (bs : List Byte) : State :=
  let s := { s with
    fatal := false
    ended := false
    todo := []
    inbox := []
    flight := []
    net := []
    routes := s.routeTables
    stop := none
    zdown := none
    crews := [placeCrew]
    ptr := 0
    hbm := s.hbm.write 0 bs
    hbmPoison := []
    slices := s.slices.map fun (e : Nat × Slice) => (e.1, e.2.forget) }
  let s := s.setReg 0xDC0 (s.reg 0xDC0 ||| BitVec.ofNat 64 (2 ^ 63))
  let s := s.updCtrl (ctrlOf (homeOf 0)) fun _ => { tlb := [{ asid := 1, lvl := 3, va := 0, leaf := placeLeaf }] }
  s.updCore 0 fun co => { co with
    l1 := [placeBlk bs]
    resid := []
    attrs := [{ asid := 1, page := 0, attr := leafAttr placeLeaf }] }

end Sys2Proof.Machine
end

