-- ==== Sys2Proof/Machine/Step.lean ====
section
/-! DEFINITION. The step: what the machine does next, and the word it runs. -/

namespace Sys2Proof.Machine

/-- One step of the module. -/
def step (s : State) : Host.Outcome State Fault Refusal :=
  match s.nextAct bootEvent State.cycleEnd with
  | .run i s' => exec i s'
  | .stay s' => .next s'
  | .halt => .fault .halted

/-- `s` with the instruction whose bits are `w` where the next step fetches. -/
def State.withFetchWord (s : State) (_nbits w : Nat) : State := s.place (bytesOf w 28)

end Sys2Proof.Machine
end

