-- ==== Sys2Proof/Safety.lean ====
section
/-! DEFINITION. The terms that statements about the machine use: a safe step, what an issue may change besides what its
word writes, when a vector word issues normally and what it then leaves, and the invariants. -/

namespace Sys2Proof

/-- Does an operand name this V register? -/
def Opnd.isV (o : Opnd) (n : Nat) : Bool := match o with
  | .v k => k.toNat == n
  | _ => false

/-- Does an operand name this G register? -/
def Opnd.isG (o : Opnd) (n : Nat) : Bool := match o with
  | .g k => k.toNat == n
  | _ => false

/-- Does an operand name this predicate? -/
def Opnd.isP (o : Opnd) (n : Nat) : Bool := match o with
  | .p k => k.toNat == n
  | _ => false

/-- Does an operand name this stream port? -/
def Opnd.isSp (o : Opnd) (n : Nat) : Bool := match o with
  | .sp k => k.toNat == n
  | _ => false

end Sys2Proof

namespace Sys2Proof.Machine

/-- The step answers a next state. -/
def State.Safe (s : State) : Prop := ∃ t, step s = .next t

/-! ## Frames -/

/-- A core before and after an issue: only its event counts (17 R413) and the history of its partitions (03 R72) differ. -/
def Core.IssueOnly (a b : Core) : Prop :=
  b = { a with perf := b.perf, lastWho := b.lastWho, runLen := b.runLen, lastCyc := b.lastCyc }

/-- The control-window registers that an issue may move by itself: the lane-cycle counts (17 R420, R422) and the stop
registers (17 R425). -/
def obsReg (ofs : Nat) : Bool :=
  ofs == 0x408 || ofs == 0x410 || (decide (0x600 ≤ ofs) && decide (ofs < 0x800)) || ofs == 0x900 || ofs == 0x918

/-- What an issue by group `w` may change in a core `b` of the module besides the word's own effect: event counts, lane-cycle
counts, the position of the next issue and a stop. Every memory, cache, queue, clock of the module and every register of
the control window but the observation counts is as before; so are every other crew and every other group. -/
structure IssueFrame (s t : State) (w : Who) : Prop where
  rest : t = { s with
    crews := t.crews, cores := t.cores, win := t.win, stop := t.stop, flight := t.flight, net := t.net, ptr := t.ptr
    svcWait := t.svcWait, fresh := t.fresh }
  svcWait : s.svcWait <+: t.svcWait
  crews : ∀ id, id ≠ w.crew → t.crew? id = s.crew? id
  groups : ∀ j, j ≠ w.grp → t.group? { crew := w.crew, grp := j } = s.group? { crew := w.crew, grp := j }
  win : ∀ o, obsReg o = false → t.reg o = s.reg o
  flight : s.flight <+: t.flight
  net : s.net <+: t.net

/-- The whole frame of an issue: the cores too keep all but counts and history. -/
structure QuietFrame (s t : State) (w : Who) : Prop extends IssueFrame s t w where
  cores : ∀ k, Core.IssueOnly (s.core k) (t.core k)

/-- The crew of the issue keeps everything but its groups and its scratchpad bytes. -/
def Crew.GroupsOnly (c c' : Crew) : Prop := c' = { c with groups := c'.groups, scratch := c'.scratch }

/-- The trap registers, the shadow and the mode of a group are as before (20 R447, R449). -/
def Group.SameTrap (g g' : Group) : Prop :=
  g'.handler = g.handler ∧ g'.trapLp = g.trapLp ∧ g'.tcause = g.tcause ∧ g'.tpc = g.tpc ∧ g'.taddr = g.taddr ∧
    g'.tlanes = g.tlanes ∧ g'.tinfo = g.tinfo ∧ g'.skipLen = g.skipLen ∧ g'.shV = g.shV ∧ g'.shG = g.shG ∧
    g'.shP = g.shP ∧ g'.shFsr = g.shFsr ∧ g'.shFcr = g.shFcr

/-- V, G and P registers, FSR and FCR are as before. -/
def Group.SameRegs (g g' : Group) : Prop :=
  g'.v = g.v ∧ g'.g = g.g ∧ g'.p = g.p ∧ g'.fsr = g.fsr ∧ g'.fcr = g.fcr

/-- The registers are as before, but for those among the operands given. -/
structure Group.SameBut (g g' : Group) (ds : List Opnd) : Prop where
  vregs : ∀ n l, l < 32 → ds.all (fun o => !o.isV n) = true → g'.rdV n l = g.rdV n l
  gregs : ∀ n, ds.all (fun o => !o.isG n) = true → g'.rdG n = g.rdG n
  preds : ∀ n, ds.all (fun o => !o.isP n) = true → g'.rdP n = g.rdP n
  fsr : g'.fsr = g.fsr
  fcr : g'.fcr = g.fcr

/-- The lanes of the issue set go on behind the word, at their depth; the other lanes stand where they were; an exited or
absent lane stays so, and a remaining lane remains (03 R55, R57). That a PC that goes on past 2^48 wraps is a DESIGN CHOICE
(notes/assumptions/87.md). -/
structure Group.WentOn (g g' : Group) (set : Mask) (len : Nat) : Prop where
  pc : ∀ l, (g'.lpOf l).pc = (g.lpOf l).pc + (if set.has l then BitVec.ofNat 48 len else 0)
  depth : ∀ l, (g'.lpOf l).depth = (g.lpOf l).depth
  gone : ∀ l, (g.lpOf l).st.remaining = false → (g'.lpOf l).st = (g.lpOf l).st
  remain : ∀ l, (g.lpOf l).st.remaining = true → (g'.lpOf l).st.remaining = true

/-- What the hints S and Y of an issue that has performed leave of the lanes (03 R61 to R63), where `hint` names the lanes they act
on: S parks those with an outstanding result, Y makes the others yield with a wait set of the live lanes that were not held and
did not yield; a lane that had yielded goes on once its wait set is empty, and every other lane stands as it did. -/
structure Group.Hinted (g g' : Group) (iss : Issue) (hint : Mask) (sh yh : Bool) : Prop where
  status : ∀ l, l < 32 →
    let old (k : Nat) : Bool := (g.lpOf k).st == .yielded
    let rest (k : Nat) : Mask := sget 0 g.wset k &&& g.live &&& ~~~(iss.set ||| iss.held)
    let woke : Mask := Mask.ofFn fun k => old k && rest k == 0
    let park : Mask := if sh then hint &&& g'.outLanes &&& (g.live ||| woke) else 0
    let live : Mask := (g.live ||| woke) &&& ~~~park
    let ys : Mask := if yh then hint &&& live else 0
    let w : Mask := live &&& ~~~iss.held &&& ~~~ys
    let now : Mask := if w = 0 then 0 else ys
    (g'.lpOf l).st = (if park.has l then .parked
      else if now.has l then .yielded
      else if live.has l then .live
      else if old l then (if rest l &&& (live &&& ~~~now) = 0 then .live else .yielded)
      else (g.lpOf l).st) ∧
    (now.has l = true → sget 0 g'.wset l = w)

/-- Every group's step of an issue that only goes on: the fields that are no register. -/
def Group.IssueRest (g g' : Group) : Prop :=
  g' = { g with
    lp := g'.lp, wset := g'.wset, suppress := g'.suppress, wait := g'.wait, phase := g'.phase, head := g'.head
    probed := g'.probed, answers := g'.answers, recs := g'.recs, lastIssue := g'.lastIssue }

/-! ## Vector words -/

/-- The ports of a word can all be used: bound that way, not at their end, their tile there, and no watchpoint of an active
lane (09 R234, R246, 22 R489). -/
def portsReady (s : State) (x : Ctx) (us : List PUse) : Bool :=
  us.isEmpty || x.act == 0 || us.all fun u =>
    let p := x.g.port u.n
    let t := x.c.tile p.tile
    !t.gone && !p.exhausted u.wr && !t.waits u.wr &&
      (x.g.handler || x.act.lanes.all fun l => x.g.suppressed x.iss.pc l ||
        (watchHit (s.core x.c.core) true (!u.wr) u.wr (x.c.portAddr p + 8 * l) 8).isNone)

/-- A vector word issues normally: its operands lie in the crew's allocation, the group has the rights it needs, its ports
can be used, no residue mismatch is to strike it and no lane raises an enabled flag. -/
def vReady (s : State) (x : Ctx) (w : VWord) (f : Nat → LaneOut) : Bool :=
  (firstBeyond x.c.shape x.g.handler w.fs).isNone &&
    (!w.super || supervisor (s.core x.c.core).trapbase x.c.vf x.g) &&
    portsReady s x (portUses w.srcs [w.d]) &&
    (!w.arith || x.act == 0 || (s.core x.c.core).resid.isEmpty) &&
    x.act.lanes.all fun l => !enabledFl x.g.fcr (f l).fl

/-- What a vector word leaves in the group: the results in its destinations for the active lanes, the lowest active lane's
result in a G register, the OR of the flags in FSR, the ports it used one vector on, the lanes behind it as its hints S and Y leave
them (03 R61 to R63), and nothing else. -/
structure VGroup (x : Ctx) (w : VWord) (f : Nat → LaneOut) (g' : Group) : Prop where
  vregs : ∀ n l, l < 32 → g'.rdV n l =
    if x.act.has l && (w.d2.getD (.imm 0)).isV n then (f l).d2
    else if x.act.has l && w.d.isV n then (f l).d else x.g.rdV n l
  gregs : ∀ n, g'.rdG n = match x.act.low with
    | none => x.g.rdG n
    | some l => if (w.d2.getD (.imm 0)).isG n then (f l).d2 else if w.d.isG n then (f l).d else x.g.rdG n
  preds : ∀ n l, n ≠ 15 → (g'.rdP n).has l =
    if !x.act.has l then (x.g.rdP n).has l
    else if w.pout.any (fun k => k.toNat == n) then (f l).pout
    else if (w.d2.getD (.imm 0)).isP n then false
    else if w.d.isP n then (f l).pb else (x.g.rdP n).has l
  fsr : g'.fsr = x.g.fsr ||| lanesFl x.act fun l => (f l).fl
  ports : ∀ n, g'.port n =
    if x.act != 0 && (w.d :: w.srcs).any (fun o => o.isSp n) then { x.g.port n with pos := (x.g.port n).pos + 1 }
    else x.g.port n
  lanes : x.g.WentOn g' x.iss.set x.iss.len
  hints : x.g.Hinted g' x.iss x.act w.h.s w.h.y
  rest : g' = { x.g with
    lp := g'.lp, wset := g'.wset, suppress := g'.suppress, wait := g'.wait, phase := g'.phase, head := g'.head
    probed := g'.probed, answers := g'.answers, recs := g'.recs, lastIssue := g'.lastIssue, latchA := g'.latchA, latchB := g'.latchB
    ports := g'.ports, v := g'.v, g := g'.g, p := g'.p, fsr := g'.fsr }

/-- The scratchpad after a vector word: a port that is its destination takes each active lane's result as eight bytes at the
port's position (09 R246), and every other byte is as before. -/
structure VScratch (x : Ctx) (w : VWord) (f : Nat → LaneOut) (c' : Crew) : Prop where
  stored : ∀ n l k, w.d.isSp n = true → x.act.has l = true → k < 8 →
    c'.scratch.get (x.c.portAddr (x.g.port n) + 8 * l + k) = (f l).d.extractLsb' (8 * k) 8
  other : ∀ a, (∀ n l, w.d.isSp n = true → x.act.has l = true →
      a < x.c.portAddr (x.g.port n) + 8 * l ∨ x.c.portAddr (x.g.port n) + 8 * l + 8 ≤ a) →
    c'.scratch.get a = x.c.scratch.get a

/-- A vector word has performed: its effect and its frame. -/
def VDone (s t : State) (x : Ctx) (w : VWord) (f : Nat → LaneOut) : Prop :=
  QuietFrame s t x.iss.who ∧ ∃ c' g', t.crew? x.iss.who.crew = some c' ∧ t.group? x.iss.who = some g' ∧
    x.c.GroupsOnly c' ∧ VScratch x w f c' ∧ VGroup x w f g'

/-- Where a vector word issues normally, it answers a next state, which is its effect. -/
def VCompletes (i : Instr) (w : VWord) (f : State → Ctx → Nat → LaneOut) : Prop :=
  ∀ s x, s.ctx? w.h = some x → vReady s x w (f s x) = true → ∃ t, exec i s = .next t ∧ VDone s t x w (f s x)

/-! ## Other words -/

/-- The operands of a word lie in the crew's allocation (05 R126 step 4). -/
def Ctx.holds (x : Ctx) (fs : List (Nat × Opnd)) : Bool := (firstBeyond x.c.shape x.g.handler fs).isNone

/-- The operands of a word lie in the crew's allocation, the `n` registers that its field D names among them. -/
def Ctx.holdsRun (x : Ctx) (d : Opnd) (n : Nat) (fs : List (Nat × Opnd)) : Bool :=
  !runBeyond x.c.shape x.g.handler d n && x.holds fs

/-- A word has performed, and changed the crew's groups alone: the frame, and the group and crew after it. -/
structure Performed (s t : State) (x : Ctx) (g' : Group) : Prop where
  frame : QuietFrame s t x.iss.who
  group : t.group? x.iss.who = some g'
  crew : ∃ c', t.crew? x.iss.who.crew = some c' ∧ c' = { x.c with groups := c'.groups }

/-- A word has performed with no effect but its own issue: the lanes of the set go on behind it. -/
def Passed (s t : State) (x : Ctx) : Prop :=
  ∃ g', Performed s t x g' ∧ x.g.WentOn g' x.iss.set x.iss.len ∧ x.g.IssueRest g'

/-- LCLK and SCLK where a release or a fence of a scope sets both to their maximum (13 R333, R334). -/
def Ctx.synced (s : State) (x : Ctx) (sc : Scope) : Nat :=
  max (max x.c.lclk (if sc = .dom ∨ sc = .sys then sget 0 s.floorF (x.c.core / 72) else 0)) x.c.sclk

/-- The lanes of a branch: the active lanes at their targets with their depth moved, the others of the issue set behind the
word, the rest where they were (03 R57, R68); their PC wraps at 2^48 by choice (notes/assumptions/87.md). -/
def Jumped (x : Ctx) (g' : Group) (target : Nat → Word) (depth : BitVec 12) : Prop :=
  ∀ l, l < 32 →
    (g'.lpOf l).pc = (if x.act.has l then (target l).setWidth 48
      else if x.off.has l then (x.g.lpOf l).pc + BitVec.ofNat 48 x.iss.len else (x.g.lpOf l).pc) ∧
    (g'.lpOf l).depth = (if x.act.has l then (x.g.lpOf l).depth + depth else (x.g.lpOf l).depth)

/-- Every active lane's target can be taken (03 R57). -/
def Ctx.targetsOk (x : Ctx) (target : Nat → Word) : Bool := x.act.lanes.all fun l => !badTarget (target l)

/-- No active lane stands at a call depth (03 R68). -/
def Ctx.depthsOk (x : Ctx) (limit : BitVec 12) : Bool := x.act.lanes.all fun l => (x.g.lpOf l).depth != limit

/-- The snapshot as a boundary records it (07 R160, 09 R222): nothing in a handler. -/
def Recorded (x : Ctx) (g' : Group) : Prop :=
  (x.g.handler = true → g'.snap = x.g.snap ∧ g'.portSnap = x.g.portSnap) ∧
  (x.g.handler = false → (∀ l, l < 32 → sget Lp.none g'.snap l = if x.act.has l then
      { st := .live, depth := (x.g.lpOf l).depth, pc := x.iss.pc + BitVec.ofNat 48 x.iss.len }
      else sget Lp.none x.g.snap l) ∧
    (x.act ≠ 0 → g'.portSnap = x.g.ports))

/-- A group leaves its handler (20 R453): the trap LP is LP again, with the named lanes as `named` says, and the shadow is
exchanged back. -/
structure Left (g g' : Group) (named : Lp → Lp) : Prop where
  mode : g'.handler = false
  lp : ∀ l, l < 32 → g'.lpOf l =
    if Mask.has (g.tlanes.setWidth 32) l then named (sget Lp.none g.trapLp l) else sget Lp.none g.trapLp l
  low : (∀ n l, n < 4 → l < 32 → g'.rdV n l = sget 0 g.shV (32 * n + l)) ∧
    (∀ n, n < 4 → g'.rdG n = sget 0 g.shG n) ∧ ∀ n, n < 4 → g'.rdP n = sget 0 g.shP n
  high : (∀ n l, 4 ≤ n → l < 32 → g'.rdV n l = g.rdV n l) ∧ (∀ n, 4 ≤ n → g'.rdG n = g.rdG n) ∧
    ∀ n, 4 ≤ n → g'.rdP n = g.rdP n
  status : g'.fsr = g.shFsr ∧ g'.fcr = g.shFcr

/-! ## Memory words -/

/-- Scratchpad accesses that meet nothing (20 R459): each lies in one tile that is there and may be used, is aligned, and
matches no watchpoint. -/
def scratchReady (s : State) (x : Ctx) (rd wr : Bool) (align : Nat) (as : List Access) : Bool :=
  as.all fun a =>
    (match x.c.tileAt a.va a.n with
      | none => false
      | some t => !(x.c.tile t).gone && !(x.c.tile t).waits wr) &&
    a.va % align == 0 && (x.g.handler || x.g.suppressed x.iss.pc a.lane ||
      (watchHit (s.core x.c.core) true rd wr a.va a.n).isNone)

/-- Global accesses that meet nothing (20 R459): a legal form, no watchpoint, every page in the attribute cache with its
rights, the far end in reach, and no atomic on a page whose peer takes none. -/
def globalReady (s : State) (x : Ctx) (rd wr mcOk winOk : Bool) (as : List Access) : Bool :=
  as.all fun a => (s.formBad x.c.asid mcOk winOk a).isNone && (s.farBad x.c.asid a).isNone &&
    (x.g.handler || x.g.suppressed x.iss.pc a.lane || (watchHit (s.core x.c.core) false rd wr a.va a.n).isNone) &&
    (a.acc != .atomic || !((x.attr s a.va).ap == .peer && !(x.attr s a.va).rap)) &&
    a.pages.all fun va => match lookAttr (s.core x.c.core) x.g x.c.asid a.acc va with
      | .ok _ => true
      | _ => false

/-- The pages that the lanes of a range word name may be read, no word of host memory that is newer at its home waits for a Zenvex
Link that retrains, and no slice that hands its state over holds words of them. -/
def rangeReady (s : State) (x : Ctx) (a : Opnd) (ofs : BitVec 28) (b : Opnd) : Bool :=
  !(s.zretrains && x.act.lanes.any fun l => s.hostDirty x.c.asid (x.range a ofs b l)) &&
  !(x.act.lanes.any fun l => s.rangeMoves x.c.asid (x.range a ofs b l)) &&
  ((x.accesses (.o a ofs) 1 .load).filter fun q => (x.src b q.lane).toNat % 2 ^ 32 != 0).all fun q =>
    decide (q.va < 2 ^ 51) && q.pages.all fun va => match lookAttr (s.core x.c.core) x.g x.c.asid .load va with
      | .ok _ => true
      | _ => false

/-- Two home blocks stand for different bytes of memory. -/
abbrev Blk.apart (j k : Blk) : Prop := (j.ap = .host ↔ k.ap ≠ .host) ∨ j.pa + 512 ≤ k.pa ∨ k.pa + 512 ≤ j.pa

/-- No two home blocks stand for the same bytes of memory. -/
abbrev State.HomesApart (s : State) : Prop := ((s.slices.map fun e => e.2.home).flatten).Pairwise Blk.apart

/-- The memory that a block stands for holds the block's bytes of word `q`. -/
abbrev State.backs (t : State) (k : Blk) (q : Nat) : Prop :=
  (if k.ap = .host then t.host else t.hbm).read (k.pa + 16 * q) 16 = Memory.read k.data (16 * q) 16

/-- The pages that the lanes of RENEW name may be read. -/
def renewReady (s : State) (x : Ctx) (a : Opnd) (ofs : BitVec 28) : Bool :=
  (x.accesses (.o a ofs) 1 .load).all fun q =>
    decide (q.va < 2 ^ 51) && q.pages.all fun va => match lookAttr (s.core x.c.core) x.g x.c.asid .load va with
      | .ok _ => true
      | _ => false

/-- The copy words with their fields and the rows they ask for (09 R239, R241, R242). -/
inductive CopyOf : Instr → Hdr → List (Nat × Opnd) → Cp → (Ctx → Plan) → Prop where
  | g2t (h : Hdr) (cp : Cp) (t a b c : Opnd) : CopyOf (.copyG2t h cp t a b c) h [(0, t), (1, a), (2, b), (3, c)] cp fun x =>
      { kind := .g2t, tile := tileNo t, runs := [{ src := (x.scalar a).toNat, dst := x.low32 c, n := x.low32 b }]
        tileEnd := x.low32 c + x.low32 b, field := (3, c) }
  | t2g (h : Hdr) (cp : Cp) (t a b c : Opnd) : CopyOf (.copyT2g h cp t a b c) h [(0, t), (1, a), (2, b), (3, c)] cp fun x =>
      { kind := .t2g, tile := tileNo t, runs := [{ src := x.low32 c, dst := (x.scalar a).toNat, n := x.low32 b }]
        tileEnd := x.low32 c + x.low32 b, field := (3, c) }
  | g2g (h : Hdr) (cp : Cp) (d a b c : Opnd) : CopyOf (.copyG2g h cp d a b c) h [(0, d), (1, a), (2, b), (3, c)] cp fun x =>
      { kind := .g2g, tile := 0, runs := [{ src := (x.scalar a).toNat, dst := (x.scalar c).toNat, n := x.low32 b }]
        tileEnd := 0, field := (3, c), word := (x.scalar d).toNat }
  | tg2t (h : Hdr) (cp : Cp) (t a b : Opnd) (pb : Params) :
      CopyOf (.copytG2t h cp t a b pb) h ([(0, t), (1, a), (2, b)] ++ Params.fields pb) cp fun x =>
        { kind := .g2t, tile := tileNo t, runs := x.copytRuns pb a b true, tileEnd := x.copytEnd pb b true, field := (2, b) }
  | tt2g (h : Hdr) (cp : Cp) (t a b : Opnd) (pb : Params) :
      CopyOf (.copytT2g h cp t a b pb) h ([(0, t), (1, a), (2, b)] ++ Params.fields pb) cp fun x =>
        { kind := .t2g, tile := tileNo t, runs := x.copytRuns pb a b false, tileEnd := x.copytEnd pb b false, field := (2, b) }
  | rows (h : Hdr) (cp : Cp) (t a b c : Opnd) (rb : BitVec 13) :
      CopyOf (.copys h cp t a b c rb) h [(0, t), (1, a), (2, b), (3, c)] cp fun x =>
        { kind := .g2t, tile := tileNo t
          runs := x.iss.set.lanes.map fun l =>
            { src := ((x.scalar a).toNat + (x.src b l).toNat % 2 ^ 32) % 2 ^ 64, dst := x.low32 c + l * rb.toNat, n := rb.toNat }
          tileEnd := x.low32 c + 32 * rb.toNat, field := (3, c), lanes := x.iss.set.lanes }

/-- A copy that meets nothing at its start: its tile is there and stands free for the direction, its extent fits, its
addresses may be copied, are in reach and not watched, its completion word may be counted, and the core has room for one more. -/
def copyReady (s : State) (x : Ctx) (p : Plan) : Bool :=
  let words : List Access := if p.kind = .g2g then x.act.lanes.map fun l => { lane := l, va := p.word, n := 8, acc := .atomic }
    else []
  !(copyTile p.kind (x.c.tile p.tile)).1 && !(copyTile p.kind (x.c.tile p.tile)).2 && decide (s.copiesOn x.c.core < 128) &&
    (p.kind == .g2g || decide (p.tileEnd ≤ (x.c.tile p.tile).size)) && p.word % 8 == 0 &&
    p.globals.all (fun r => (s.copyFormBad x.c.asid (s.isMsg x.c.asid p.kind p.runs) r).isNone &&
      (s.copyFarBad x.c.asid r).isNone && (x.g.handler || (copyWatch (s.core x.c.core) r).isNone)) &&
    words.all fun a => (s.formBad x.c.asid false false a).isNone && (s.farBad x.c.asid a).isNone &&
      !((x.attr s a.va).ap == .peer && !(x.attr s a.va).rap) &&
      a.pages.all fun va => match lookAttr (s.core x.c.core) x.g x.c.asid a.acc va with
        | .ok _ => true
        | _ => false

/-! ## The matrix array -/

/-- The matrix words with the run of registers that one names, their fields, their code in MPROG (11 R282), the values of cause
0x02 and what they ask of the array; `n` numbers the outstanding result of MRD. -/
inductive MatrixOf : Instr → Hdr → Opnd × Nat → List (Nat × Opnd) → Nat → (Ctx → Bool) → (Nat → Ctx → MOp) → Prop where
  | drop (h : Hdr) : MatrixOf (.mlw h .drop) h (.absent, 0) [] 0 (fun _ => false) fun _ _ => .mlw none
  | mlw (h : Hdr) (t : Opnd) (f : MFmt) (u : Bool) :
      MatrixOf (.mlw h (.load t f u)) h (.absent, 0) [(0, t)] 0 (fun _ => false) fun _ _ => .mlw (some (tileNo t, f, u))
  | mswap (h : Hdr) : MatrixOf (.mswap h) h (.absent, 0) [] 1 (fun _ => false) fun _ _ => .mswap
  | mst (h : Hdr) (f : MFmt) (t a b : Opnd) (pb : Params) :
      MatrixOf (.mst h f t a b pb) h (.absent, 0) ([(0, t)] ++ optField 1 a ++ optField 2 b ++ Params.fields pb) 2
        (fun x => decide (2 ^ 13 ≤ x.param pb.w3)) fun _ x =>
          .stream f (tileNo t) (x.ofsOf a) (x.optOfs b) (x.param pb.w0) (x.param pb.w1) (x.param pb.w2)
            (x.param pb.w3 % 2 ^ 12) (decide (x.param pb.w3 / 2 ^ 12 % 2 = 1))
  | mstz (h : Hdr) (f : MFmt) (t a b c : Opnd) :
      MatrixOf (.mstz h f t a b c) h (.absent, 0) ([(0, t)] ++ optField 1 a ++ optField 2 b ++ [(3, c)]) 3
        (fun x => fld (x.scalar c) 42 6 != 0 || fld (x.scalar c) 26 6 != 0 || fld (x.scalar c) 11 5 != 0) fun _ x =>
          .stream f (tileNo t) (x.ofsOf a) (x.optOfs b) (fld (x.scalar c) 0 11) (fld (x.scalar c) 32 10)
            (16 * fld (x.scalar c) 48 16) (fld (x.scalar c) 16 10) true
  | msts (h : Hdr) (f : MFmt) (z nsa : Bool) (a b c : Opnd) :
      MatrixOf (.msts h f z nsa a b c) h (.absent, 0) ([(1, a)] ++ (if nsa then [] else [(2, b)]) ++ [(3, c)]) 4 (fun _ => false)
        fun _ x => .msts f z (x.low32 c)
          (x.g.vBytes (vNo a) ++ if runBeyond x.c.shape x.g.handler a 2 then [] else x.g.vBytes (vNo a + 1))
          (if nsa then none else some (x.g.vBytes (vNo b)))
  | msoft (h : Hdr) (f : MFmt) (t a b c : Opnd) :
      MatrixOf (.msoft h f t a b c) h (.absent, 0) ([(0, t)] ++ optField 1 a ++ [(2, b), (3, c)]) 5
        (fun x => (x.scalar b).getLsbD 63 || fld (x.scalar b) 51 5 != 0 || fld (x.scalar b) 43 5 != 0 ||
          fld (x.scalar b) 26 6 != 0 || fld (x.scalar b) 10 6 != 0 || fld (x.scalar b) 56 7 == 0 ||
          decide (64 < fld (x.scalar b) 56 7) || fld (x.scalar b) 48 3 == 0 || decide (4 < fld (x.scalar b) 48 3))
        fun _ x => .msoft f (tileNo t) (x.ofsOf a) (match c with
            | .imm n => (immFloat .f32 n).setWidth 32
            | o => (x.scalar o).setWidth 32)
          (fld (x.scalar b) 56 7) (fld (x.scalar b) 48 3) (fld (x.scalar b) 32 11) (fld (x.scalar b) 16 10)
          (fld (x.scalar b) 0 10)
  | mrd (h : Hdr) (div : Option Rnd) (zr : Bool) (k : BitVec 4) (d a c : Opnd) :
      MatrixOf (.mrd h div zr k d a c) h (d, k.toNat + 1) ([(0, d), (1, a)] ++ if div.isSome then [(3, c)] else []) 6
        (fun _ => false) fun n x =>
          .mrd (div.map x.md) zr (k.toNat + 1) (256 * n + vNo d) (x.low32 a) (if div.isSome then x.low32 c else 0)
  | mrdt (h : Hdr) (rnd : Rnd) (sat : Bool) (f : MFmt) (t a b c : Opnd) :
      MatrixOf (.mrdt h rnd sat f t a b c) h (.absent, 0) ([(0, t)] ++ optField 1 a ++ [(2, b)] ++ optField 3 c) 7
        (fun x => fld (x.scalar b) 27 21 != 0 || fld (x.scalar b) 10 6 != 0)
        fun _ x => .mrdt (x.md rnd) sat f (tileNo t) (x.ofsOf a) (x.optOfs c) (fld (x.scalar b) 16 11) (fld (x.scalar b) 0 10)
          (16 * fld (x.scalar b) 48 16)
  | mzero (h : Hdr) (a b : Opnd) : MatrixOf (.mzero h a b) h (.absent, 0) [(1, a), (2, b)] 8 (fun _ => false) fun _ x =>
      .mzero (x.low32 a) (x.low32 b)
  | msrd (h : Hdr) (sum : Bool) (k : BitVec 6) (d a : Opnd) :
      MatrixOf (.msrd h sum k d a) h (.absent, 0) [(0, d), (1, a)] 9 (fun _ => false) fun _ x =>
        .msrd sum (k.toNat + 1) (vNo d) (x.low32 a)
  | mswr (h : Hdr) (sum : Bool) (k : BitVec 6) (a b : Opnd) :
      MatrixOf (.mswr h sum k a b) h (.absent, 0) [(1, a), (2, b)] 10 (fun _ => false) fun _ x =>
        .mswr sum (k.toNat + 1) (x.low32 b)
          ((List.range 64).map fun i => BitVec.ofNat 32 (elemN (x.g.rdV (vNo a) (i / 2)) 32 (i % 2)))

/-- The queue that a lane of an enqueue word names. -/
def EnqWord.queue? (e : EnqWord) (s : State) (x : Ctx) (l : Nat) : Option Queue :=
  s.handle? x.c.graph x.c.vf (x.src e.q l)

/-- The scope of an enqueue word's release (10 R257). -/
def EnqWord.scope (e : EnqWord) (s : State) (x : Ctx) : Scope :=
  if x.act.lanes.any fun l => (e.queue? s x l).any Queue.sends then .dom else .dev

/-- The records of an enqueue word can be asked for: every handle is valid, and every record lies in the registers of the crew or
in one tile that is there and may be read (10 R251, R252); no record has more than 256 bytes (05 R132). -/
def enqReady (s : State) (x : Ctx) (e : EnqWord) : Bool :=
  x.act.lanes.all (fun l => (e.queue? s x l).any fun q => decide (q.num < 4096) && decide (q.size ≤ 256) && !e.over x q.size) &&
    (!e.scratch || scratchReady s x true false 8 (x.act.lanes.map fun l =>
      { lane := l, va := (x.src e.a l).toNat, n := ((e.queue? s x l).map (·.size)).getD 16, acc := .load }))

/-- A word has asked outside its core, and its group waits for the answer with the word at its head: no lane has moved. -/
structure Asked (s t : State) (x : Ctx) (g' : Group) : Prop where
  frame : QuietFrame s t x.iss.who
  group : t.group? x.iss.who = some g'
  rest : g' = { x.g with wait := .answer, phase := 1, head := some x.iss, lastIssue := g'.lastIssue, recs := g'.recs }

/-- The record of a lane of an enqueue word: the one in the scratchpad is read as the word's gate opens, and kept from there on. -/
def EnqWord.record (e : EnqWord) (x : Ctx) (q : Queue) (l : Nat) : List Byte :=
  if e.scratch && x.g.phase == 0 && !x.g.hasAnswers then x.c.scratch.read (x.src e.a l).toNat q.size else e.bytes x q l

/-- A record for each of some lanes of an enqueue word whose queue has the lowest number among them, in one append. -/
def Appends (s : State) (x : Ctx) (e : EnqWord) (lanes : Mask) (sclk : Nat) (m : Append) : Prop :=
  m.src = .group x.iss.who e.waits e.spawn sclk ∧
    (∀ r ∈ m.recs, lanes.has r.lane = true ∧ ∃ q, e.queue? s x r.lane = some q ∧ r.queue = q.num ∧
      r.bytes = e.record x q r.lane) ∧
    ∀ l q, lanes.has l = true → e.queue? s x l = some q →
      (∀ k y, lanes.has k = true → e.queue? s x k = some y → q.num ≤ y.num) → ∃ r ∈ m.recs, r.lane = l

/-! ## Barriers -/

/-- A barrier after the arrival of a group (10 R264): its target is the phase now, and the phase completes where every group of
MASK has arrived or finished; one in handler mode counts as arrived at no barrier (20 R451). -/
def Ctx.arrived (x : Ctx) (k : Nat) (mask : BitVec 16) : Bar :=
  let b := x.c.bar k
  let full := (List.range x.c.groups.length).all fun j =>
    let g := x.c.groups.getD j {}
    !mask.getLsbD j || ((b.arr.getLsbD j || j == x.iss.who.grp) && !g.handler) || g.finished
  { b with
    mask := mask, tgt := sset 0 b.tgt x.iss.who.grp b.phase
    phase := if full then b.phase + 1 else b.phase
    arr := if full then 0 else b.arr ||| BitVec.ofNat 16 (2 ^ x.iss.who.grp) }

/-- A barrier word has performed on the barriers, and set both clocks to their maximum. -/
def BarDone (s t : State) (x : Ctx) (g' : Group) (k : Nat) (b : Bar) : Prop :=
  QuietFrame s t x.iss.who ∧ t.group? x.iss.who = some g' ∧ ∃ c', t.crew? x.iss.who.crew = some c' ∧
    c' = { x.c with groups := c'.groups, bars := c'.bars, lclk := Ctx.synced s x .crew, sclk := Ctx.synced s x .crew } ∧
    c'.bar k = b ∧ ∀ j, j ≠ k → c'.bar j = x.c.bar j

/-! ## Matrix words -/

/-- The crew as a matrix word finds its tiles: another word than its group's interrupted instruction abandons that one (11 R282). -/
def Ctx.matCrew (x : Ctx) (code : Nat) (op : MOp) : Crew :=
  if x.c.ownMat x.iss.who.grp && !(op.progress && x.c.continues x.iss.who.grp code x.iss.pc) && !op.idle then x.c.matAbandon
  else x.c

/-- The array can be asked: it is free, no plane is loading for an MLW, no other group of the crew has an interrupted
instruction, and the tile the instruction names stands ready for it (11 R279, R280). -/
def matrixReady (s : State) (x : Ctx) (code : Nat) (op : MOp) : Bool :=
  let c := x.matCrew code op
  let isMlw : Bool := match op with
    | .mlw _ => true
    | _ => false
  let tile : Option (Nat × Bool) := match op with
    | .mlw (some (t, _, _)) => some (t, false)
    | o => o.tile
  (s.core x.c.core).mq.isEmpty && !(isMlw && (s.core x.c.core).bgDone.isSome) &&
    (!x.c.mprog.getLsbD 63 || x.c.ownMat x.iss.who.grp) &&
    (match tile with
      | none => true
      | some (t, false) => !(c.tile t).gone && (c.tile t).st != .filling
      | some (t, true) => !(c.tile t).handed && !c.pinned t &&
          ((op.progress && x.c.continues x.iss.who.grp code x.iss.pc) ||
            (c.tile t).st != .filling && (c.tile t).st != .draining))

/-- An instruction stands in the array of core `k` and may complete there: no twice-mismatch strikes it, no stop holds its results
back, and its group waits with no trap. -/
structure Completing (s : State) (k : Nat) (j : Job) (x : Ctx) : Prop where
  job : (s.core k).job = some j
  ctx : s.jobCtx j = some x
  core : x.c.core = k
  right : j.op.progress = false → (s.matStrike k x.c.vf j.op).2 = false
  free : s.stop = none
  calm : ∀ r, x.g.wait ≠ .trap r

/-- A matrix instruction has completed: its crew is `c` but for its groups, its flags are in FSR, with those that the array has kept
for the group, its V registers are `v`, its lanes go on, and the array has the next. A stream of 0 rows leaves the kept flags. -/
def MatDone (s t : State) (k : Nat) (j : Job) (x : Ctx) (c : Crew) (fl : Fl) (v : Nat → Nat → Word) : Prop :=
  ∃ g' c', t.group? j.iss.who = some g' ∧ t.crew? j.iss.who.crew = some c' ∧ c' = { c with groups := c'.groups } ∧
    x.g.WentOn g' j.iss.set j.iss.len ∧ g'.wait = .none ∧ g'.mfl = (if j.op.idle then x.g.mfl else 0) ∧
    g'.fsr = x.g.fsr ||| (if j.op.idle then 0 else x.g.mfl) ||| (j.fl ||| fl) ∧
    (∀ n l, l < 32 → g'.rdV n l = v n l) ∧ g'.g = x.g.g ∧ g'.p = x.g.p ∧ g'.fcr = x.g.fcr ∧
    (t.core k).mq = (s.core k).mq.tail ∧ t = { s with crews := t.crews, cores := t.cores, svcWait := t.svcWait }

/-! ## Requests at their home -/

/-- A request may be performed at its home now: no older one of its group, or copy, for its word is on its way or waits
(13 R330), and none that its port sends first (16 R403). -/
def State.mayPerform (s : State) (req : Instr) : Bool :=
  (s.held.find? fun h => reqBefore h.req req && !atomLoad h.req req).isNone && !s.mustWait req && !s.portWaits req

/-- A peer's request has its turn: no earlier one for its bytes is held ahead of it or waits (16 R403), and it is no atomic of host
memory while the Zenvex Link retrains (23 R506). -/
def State.peerFree (s : State) (m : PeerReq) : Bool :=
  (s.held.find? fun h => (peerNeeds m.op).2.2 && peerBefore m h.req).isNone && !s.moving.any (peerBefore m) &&
    !(s.zretrains && (peerNeeds m.op).2.2 && s.hostAtomic (fld (s.reg 0x300) 12 12) (peerNeeds m.op).1 m.op)

/-- The home blocks are sound: each slice is listed once, its blocks lie in their spans, and no two of them hold one word under one
ASID (12 R310). -/
def State.HomesSound (s : State) : Prop :=
  (s.slices.map (·.1)).Nodup ∧ ∀ e ∈ s.slices, (∀ b ∈ e.2.home, b.last < 32 ∧ b.span < 2 ^ 42) ∧
    e.2.home.Pairwise fun j k => ∀ asid va, (j.holds asid va && k.holds asid va) = false

/-- A request that misses at its home waits there for a fill of words that its own word is among (12 R298). -/
def Missed (s t : State) (asid va : Nat) (req : Instr) : Prop :=
  ∃ m : FillMsg, t.parked = s.parked ++ [(m.tag, missedReq req)] ∧ Instr.homeFillReturn m ∈ t.flying ∧ m.slice = homeOf va ∧
    m.asid = asid ∧ m.va = va ∧ m.copy = none ∧ m.serve = (if lateReq req then 1 else 0) ∧ m.first ≤ wordOf va ∧ wordOf va ≤ m.last ∧ t.crews = s.crews ∧
    t.slices = s.slices ∧ t.queues = s.queues

/-- A message can land: nothing that it writes is shut to its home. -/
def State.lands (s : State) (tag n : Nat) : Bool := match s.armed? tag with
  | none => true
  | some q => !s.queueShut q && (match q.landSlot n with
    | none => true
    | some j => !s.shutWords q.asid ((wordPieces (q.land + j * q.landSize) n).map (·.1)))

/-- The words that miss are in the memory of the device or of its host, and are no window's (15 R367, R376). -/
def Xl.near (x : Xl) : Bool := (x.attr.ap == .hbm || x.attr.ap == .host) && !inWindow x.attr.ap x.pa

/-! ## Words that trap -/

/-- The group after a handler trap whose entry waits for nothing (20 R447): the trap registers as the trap says, the shadow
exchanged, handler mode, every lane that is not absent live at the handler with depth 0. -/
structure Trapped (trapbase : Word) (g g' : Group) (t : TrapRec) : Prop where
  cause : g'.tcause = BitVec.ofNat 64 (t.cause + (if t.async then 256 else 0))
  pc : g'.tpc = t.pc.setWidth 64
  addr : g'.taddr = t.addr
  lanes : g'.tlanes = t.lanes.setWidth 64
  info : g'.tinfo = t.info
  mode : g'.handler = true
  lp : ∀ l, l < 32 → g'.lpOf l = if (g.lpOf l).st = .absent then g.lpOf l
    else { st := .live, depth := 0, pc := handlerPc trapbase }
  kept : ∀ l, (sget Lp.none g'.trapLp l).pc = (g.lpOf l).pc ∧ (sget Lp.none g'.trapLp l).depth = (g.lpOf l).depth ∧
    (sget Lp.none g'.trapLp l).st = if (g.lpOf l).st = .yielded then .live else (g.lpOf l).st
  high : (∀ n l, 4 ≤ n → l < 32 → g'.rdV n l = g.rdV n l) ∧ (∀ n, 4 ≤ n → g'.rdG n = g.rdG n) ∧
    ∀ n, 4 ≤ n → g'.rdP n = g.rdP n
  low : (∀ n l, n < 4 → l < 32 → g'.rdV n l = sget 0 g.shV (32 * n + l) ∧ sget 0 g'.shV (32 * n + l) = g.rdV n l) ∧
    (∀ n, n < 4 → g'.rdG n = sget 0 g.shG n ∧ sget 0 g'.shG n = g.rdG n) ∧
    ∀ n, n < 4 → g'.rdP n = sget 0 g.shP n ∧ sget 0 g'.shP n = g.rdP n
  status : g'.fsr = g.shFsr ∧ g'.fcr = g.shFcr ∧ g'.shFsr = g.fsr ∧ g'.shFcr = g.fcr
  rest : g' = { g with
    lp := g'.lp, trapLp := g'.trapLp, wset := [], handler := true, skipLen := g'.skipLen
    tcause := g'.tcause, tpc := g'.tpc, taddr := g'.taddr, tlanes := g'.tlanes, tinfo := g'.tinfo
    v := g'.v, g := g'.g, p := g'.p, fsr := g'.fsr, fcr := g'.fcr, mfl := g'.mfl
    shV := g'.shV, shG := g'.shG, shP := g'.shP, shFsr := g'.shFsr, shFcr := g'.shFcr, shMfl := g'.shMfl
    latchA := none, latchB := none, wait := .none, phase := 0, head := none, probed := [], answers := [], recs := []
    suppress := g'.suppress, lastIssue := g'.lastIssue }

/-- The issue of a word ends in a handler trap of its group. -/
def TrapsWith (s t : State) (x : Ctx) (r : TrapRec) : Prop :=
  QuietFrame s t x.iss.who ∧ ∃ g' c', t.group? x.iss.who = some g' ∧ t.crew? x.iss.who.crew = some c' ∧
    c' = { x.c with groups := c'.groups } ∧ Trapped (s.core x.c.core).trapbase x.g g' r

/-- The group can take a trap at once: it is no handler, no result is outstanding, and no stop is armed. -/
def trapReady (s : State) (x : Ctx) : Bool :=
  !x.g.handler && x.g.outs.isEmpty && (sget 0 s.win 0x900).toNat % 2 == 0

/-! ## Invariants -/

/-- The two memories have their canonical form. -/
def State.MemOk (s : State) : Prop := s.hbm.wf = true ∧ s.host.wf = true

end Sys2Proof.Machine
end

