-- ==== Sys2Proof/Certificates/Slice0/Obligations.lean ====
section
/-! DEFINITION. The statements for the provers. Each says what a rule of the spec says of the machine; a statement about a
word that issues says its completion, its effect and its frame. -/

open Sys2Proof Sys2Proof.Machine

/-- Integer words that are residue-checked: completion, effect and frame of each. -/
def Obligations.IntegerArithmeticWords : Prop :=
  (∀ (h : Hdr) (w : EW) (sgn sat : Bool) (d a : Opnd) (b : Src2),
    let fs := (0, d) :: (1, a) :: b.fs
    VCompletes (.iadd h w sgn sat d a b) { h := h, fs := fs, srcs := opnds ((1, a) :: b.fs), d := d } (
      fun _ x l =>
      (intArith w.bits sgn sat (fun a b _ => a + b) (x.srcI w.bits a l) (x.src2I w.bits sgn b l) 0).out)) ∧
  (∀ (h : Hdr) (w : EW) (sgn sat : Bool) (d a : Opnd) (b : Src2),
    let fs := (0, d) :: (1, a) :: b.fs
    VCompletes (.imul h w sgn sat d a b) { h := h, fs := fs, srcs := opnds ((1, a) :: b.fs), d := d } (
      fun _ x l =>
      (intArith w.bits sgn sat (fun a b _ => a * b) (x.srcI w.bits a l) (x.src2I w.bits sgn b l) 0).out)) ∧
  (∀ (h : Hdr) (w : EW) (sgn sat : Bool) (d a b : Opnd),
    let fs := [(0, d), (1, a), (2, b)]
    VCompletes (.isub h w sgn sat d a b) { h := h, fs := fs, srcs := [a, b], d := d } (
      fun _ x l =>
      (intArith w.bits sgn sat (fun a b _ => a - b) (x.srcI w.bits a l) (x.srcI w.bits b l) 0).out)) ∧
  (∀ (h : Hdr) (w : EW) (sgn : Bool) (d a b : Opnd),
    let fs := [(0, d), (1, a), (2, b)]
    VCompletes (.imulh h w sgn d a b) { h := h, fs := fs, srcs := [a, b], d := d } (
      fun _ x l =>
      (intArith w.bits sgn false (fun a b _ => mulHigh w.bits a b) (x.srcI w.bits a l) (x.srcI w.bits b l) 0).out)) ∧
  (∀ (h : Hdr) (w : EW) (sgn sat : Bool) (d a : Opnd) (bc : Src3),
    let fs := (0, d) :: (1, a) :: bc.fs
    VCompletes (.imad h w sgn sat d a bc) { h := h, fs := fs, srcs := opnds ((1, a) :: bc.fs), d := d } (
      fun _ x l =>
      let y := x.src3I w.bits sgn d bc l
      (intArith w.bits sgn sat (fun a b c => a * b + c) (x.srcI w.bits a l) y.1 y.2).out)) ∧
  (∀ (h : Hdr) (w : EW) (sgn : Bool) (d a b : Opnd),
    let fs := [(0, d), (1, a), (2, b)]
    VCompletes (.imin h w sgn d a b) { h := h, fs := fs, srcs := [a, b], d := d } (
      fun _ x l =>
      (intArith w.bits sgn false (fun a b _ => min a b) (x.srcI w.bits a l) (x.srcI w.bits b l) 0).out)) ∧
  (∀ (h : Hdr) (w : EW) (sgn : Bool) (d a b : Opnd),
    let fs := [(0, d), (1, a), (2, b)]
    VCompletes (.imax h w sgn d a b) { h := h, fs := fs, srcs := [a, b], d := d } (
      fun _ x l =>
      (intArith w.bits sgn false (fun a b _ => max a b) (x.srcI w.bits a l) (x.srcI w.bits b l) 0).out)) ∧
  (∀ (h : Hdr) (w : EW) (sat : Bool) (d a : Opnd),
    let fs := [(0, d), (1, a)]
    VCompletes (.iabs h w sat d a) { h := h, fs := fs, srcs := [a], d := d } (
      fun _ x l =>
      (intArith w.bits true sat (fun a _ _ => a.natAbs) (x.srcI w.bits a l) 0 0).out)) ∧
  (∀ (h : Hdr) (w : EW) (sgn : Bool) (cc : Cmp) (any : Bool) (d a : Opnd) (b : Src2),
    let fs := (0, d) :: (1, a) :: b.fs
    VCompletes (.icmp h w sgn cc any d a b) { h := h, fs := fs, srcs := opnds ((1, a) :: b.fs), d := d } (
      fun _ x l =>
      let r := icmpElems w.bits sgn cc (x.srcI w.bits a l) (x.src2I w.bits sgn b l)
      { d := maskElems w.bits r, pb := predElems any r })) ∧
  (∀ (h : Hdr) (w : EW) (sgn : Bool) (d a : Opnd) (b : Src2),
    let fs := (0, d) :: (1, a) :: b.fs
    VCompletes (.shl h w sgn d a b) { h := h, fs := fs, srcs := opnds ((1, a) :: b.fs), d := d } (
      fun _ x l =>
      (shiftElems w.bits shlN (x.srcI w.bits a l) (x.src2I w.bits sgn b l)).out)) ∧
  (∀ (h : Hdr) (w : EW) (sgn : Bool) (d a : Opnd) (b : Src2),
    let fs := (0, d) :: (1, a) :: b.fs
    VCompletes (.shr h w sgn d a b) { h := h, fs := fs, srcs := opnds ((1, a) :: b.fs), d := d } (
      fun _ x l =>
      (shiftElems w.bits shrN (x.srcI w.bits a l) (x.src2I w.bits sgn b l)).out)) ∧
  (∀ (h : Hdr) (w : EW) (sgn : Bool) (d a : Opnd) (b : Src2),
    let fs := (0, d) :: (1, a) :: b.fs
    VCompletes (.shra h w sgn d a b) { h := h, fs := fs, srcs := opnds ((1, a) :: b.fs), d := d } (
      fun _ x l =>
      (shiftElems w.bits shraN (x.srcI w.bits a l) (x.src2I w.bits sgn b l)).out)) ∧
  (∀ (h : Hdr) (sgn : Bool) (d a b c : Opnd),
    let fs := [(0, d), (1, a), (2, b), (3, c)]
    VCompletes (.isad h sgn d a b c) { h := h, fs := fs, srcs := [a, b, c], d := d } (
      fun _ x l =>
      { d := isadW sgn (x.srcI 64 a l) (x.srcI 64 b l) (x.srcI 64 c l) })) ∧
  (∀ (h : Hdr) (sh : BitVec 3) (d a : Opnd) (b : Src2),
    let fs := (0, d) :: (1, a) :: b.fs
    VCompletes (.lea h sh d a b) { h := h, fs := fs, srcs := opnds ((1, a) :: b.fs), d := d } (
      fun _ x l =>
      { d := leaW (x.srcI 64 a l) (x.src2U b l) sh })) ∧
  (∀ (h : Hdr) (d a b pin : Opnd) (pout : BitVec 4),
    let fs := [(0, d), (1, a), (2, b), (3, pin)]
    VCompletes (.iaddc h d a b pin pout) { h := h, fs := fs, srcs := [a, b, pin], d := d, pout := some pout } (
      fun _ x l =>
      let y := iaddcW (x.srcI 64 a l) (x.srcI 64 b l) (x.src pin l == 1)
      { d := y.1, pout := y.2 })) ∧
  (∀ (h : Hdr) (xs ys sat : Bool) (d a b c : Opnd),
    let fs := [(0, d), (1, a), (2, b), (3, c)]
    VCompletes (.idot4 h xs ys sat d a b c) { h := h, fs := fs, srcs := [a, b, c], d := d } (
      fun _ x l =>
      (idotW 4 xs ys sat (x.srcI 32 a l) (x.srcI 32 b l) (x.srcI 32 c l)).out)) ∧
  (∀ (h : Hdr) (xs ys sat : Bool) (d a b c : Opnd),
    let fs := [(0, d), (1, a), (2, b), (3, c)]
    VCompletes (.idot2 h xs ys sat d a b c) { h := h, fs := fs, srcs := [a, b, c], d := d } (
      fun _ x l =>
      (idotW 2 xs ys sat (x.srcI 32 a l) (x.srcI 32 b l) (x.srcI 32 c l)).out))

/-- Integer words that are not residue-checked: completion, effect and frame of each. -/
def Obligations.IntegerBitWords : Prop :=
  (∀ (h : Hdr) (tbl : BitVec 8) (d a : Opnd) (bc : Src3),
    let fs := (0, d) :: (1, a) :: bc.fs
    VCompletes (.blut h tbl d a bc) { h := h, fs := fs, srcs := opnds ((1, a) :: bc.fs), d := d, arith := false } (
      fun _ x l =>
      let y := x.src3U d bc l
      { d := blutW tbl (x.srcI 64 a l) y.1 y.2 })) ∧
  (∀ (h : Hdr) (d a : Opnd) (b : Src2),
    let fs := (0, d) :: (1, a) :: b.fs
    VCompletes (.rot h d a b) { h := h, fs := fs, srcs := opnds ((1, a) :: b.fs), d := d, arith := false } (
      fun _ x l =>
      { d := rotW (x.srcI 64 a l) (x.src2U b l) })) ∧
  (∀ (h : Hdr) (d a b c : Opnd),
    let fs := [(0, d), (1, a), (2, b), (3, c)]
    VCompletes (.funnel h d a b c) { h := h, fs := fs, srcs := [a, b, c], d := d, arith := false } (
      fun _ x l =>
      { d := funnelW (x.srcI 64 a l) (x.srcI 64 b l) (x.srcI 64 c l) })) ∧
  (∀ (h : Hdr) (d a : Opnd),
    let fs := [(0, d), (1, a)]
    VCompletes (.popc h d a) { h := h, fs := fs, srcs := [a], d := d, arith := false } (
      fun _ x l =>
      { d := popcW (x.srcI 64 a l) })) ∧
  (∀ (h : Hdr) (d a : Opnd),
    let fs := [(0, d), (1, a)]
    VCompletes (.clz h d a) { h := h, fs := fs, srcs := [a], d := d, arith := false } (
      fun _ x l =>
      { d := clzW (x.srcI 64 a l) })) ∧
  (∀ (h : Hdr) (d a : Opnd),
    let fs := [(0, d), (1, a)]
    VCompletes (.ctz h d a) { h := h, fs := fs, srcs := [a], d := d, arith := false } (
      fun _ x l =>
      { d := ctzW (x.srcI 64 a l) })) ∧
  (∀ (h : Hdr) (d a : Opnd),
    let fs := [(0, d), (1, a)]
    VCompletes (.brev h d a) { h := h, fs := fs, srcs := [a], d := d, arith := false } (
      fun _ x l =>
      { d := brevW (x.srcI 64 a l) })) ∧
  (∀ (h : Hdr) (sgn : Bool) (d a : Opnd) (b : Src2),
    let fs := (0, d) :: (1, a) :: b.fs
    VCompletes (.bfx h sgn d a b) { h := h, fs := fs, srcs := opnds ((1, a) :: b.fs), d := d, arith := false } (
      fun _ x l =>
      { d := bfxW sgn (x.srcI 64 a l) (x.src2U b l) })) ∧
  (∀ (h : Hdr) (d a : Opnd) (bc : Src3),
    let fs := (0, d) :: (1, a) :: bc.fs
    VCompletes (.bfi h d a bc) { h := h, fs := fs, srcs := opnds ((1, a) :: bc.fs), d := d, arith := false } (
      fun _ x l =>
      let y := x.src3U d bc l
      { d := bfiW (x.srcI 64 a l) y.1 y.2 })) ∧
  (∀ (h : Hdr) (d a b p : Opnd),
    let fs := [(0, d), (1, a), (2, b), (3, p)]
    VCompletes (.isel h d a b p) { h := h, fs := fs, srcs := [a, b, p], d := d, arith := false } (
      fun _ x l =>
      { d := if x.src p l = 1 then x.srcI 64 a l else x.srcI 64 b l })) ∧
  (∀ (h : Hdr) (tbl : BitVec 8) (pd pa pb pc : Opnd),
    let fs := [(0, pd), (1, pa), (2, pb), (3, pc)]
    VCompletes (.plut h tbl pd pa pb pc) { h := h, fs := fs, srcs := [pa, pb, pc], d := pd, arith := false } (
      fun _ x l =>
      { pb := tbl.getLsbD ((x.src pa l).toNat + 2 * (x.src pb l).toNat + 4 * (x.src pc l).toNat) }))

/-- Completion, effect and frame of the sixteen floating words. -/
def Obligations.FloatWords : Prop :=
  (∀ (h : Hdr) (ty : FTy) (m : FMod) (d a : Opnd) (b : Src2),
    let fs := (0, d) :: (1, a) :: b.fs
    VCompletes (.fadd h ty m d a b) { h := h, fs := fs, srcs := opnds ((1, a) :: b.fs), d := d } (
      fun _ x l =>
      (faddW ty m (x.md m.rnd) (x.srcF ty.ty a l) (x.src2F ty b l)).out)) ∧
  (∀ (h : Hdr) (ty : FTy) (m : FMod) (d a : Opnd) (b : Src2),
    let fs := (0, d) :: (1, a) :: b.fs
    VCompletes (.fmul h ty m d a b) { h := h, fs := fs, srcs := opnds ((1, a) :: b.fs), d := d } (
      fun _ x l =>
      (fmulW ty m (x.md m.rnd) (x.srcF ty.ty a l) (x.src2F ty b l)).out)) ∧
  (∀ (h : Hdr) (ty : FTy) (m : FMod) (d a : Opnd) (bc : Src3),
    let fs := (0, d) :: (1, a) :: bc.fs
    VCompletes (.ffma h ty m d a bc) { h := h, fs := fs, srcs := opnds ((1, a) :: bc.fs), d := d } (
      fun _ x l =>
      let y := x.src3F ty d bc l
      (ffmaW ty m (x.md m.rnd) (x.srcF ty.ty a l) y.1 y.2).out)) ∧
  (∀ (h : Hdr) (ty : FTy) (m : FMod) (d a b : Opnd),
    let fs := [(0, d), (1, a), (2, b)]
    VCompletes (.fmin h ty m d a b) { h := h, fs := fs, srcs := [a, b], d := d } (
      fun _ x l =>
      (fminmaxW ty m false false (x.srcF ty.ty a l) (x.srcF ty.ty b l)).out)) ∧
  (∀ (h : Hdr) (ty : FTy) (m : FMod) (d a b : Opnd),
    let fs := [(0, d), (1, a), (2, b)]
    VCompletes (.fmax h ty m d a b) { h := h, fs := fs, srcs := [a, b], d := d } (
      fun _ x l =>
      (fminmaxW ty m true false (x.srcF ty.ty a l) (x.srcF ty.ty b l)).out)) ∧
  (∀ (h : Hdr) (ty : FTy) (m : FMod) (d a b : Opnd),
    let fs := [(0, d), (1, a), (2, b)]
    VCompletes (.fminm h ty m d a b) { h := h, fs := fs, srcs := [a, b], d := d } (
      fun _ x l =>
      (fminmaxW ty m false true (x.srcF ty.ty a l) (x.srcF ty.ty b l)).out)) ∧
  (∀ (h : Hdr) (ty : FTy) (m : FMod) (d a b : Opnd),
    let fs := [(0, d), (1, a), (2, b)]
    VCompletes (.fmaxm h ty m d a b) { h := h, fs := fs, srcs := [a, b], d := d } (
      fun _ x l =>
      (fminmaxW ty m true true (x.srcF ty.ty a l) (x.srcF ty.ty b l)).out)) ∧
  (∀ (h : Hdr) (ty : FTy) (m : FMod) (cc : Cmp) (any : Bool) (d a b : Opnd),
    let fs := [(0, d), (1, a), (2, b)]
    VCompletes (.fcmp h ty m cc any d a b) { h := h, fs := fs, srcs := [a, b], d := d } (
      fun _ x l =>
      let r := fcmpElems ty m cc (x.srcF ty.ty a l) (x.srcF ty.ty b l)
      { d := maskElems ty.ty.bits r.1, pb := predElems any r.1, fl := r.2 })) ∧
  (∀ (h : Hdr) (ty : FTy) (any : Bool) (mask : BitVec 10) (d a : Opnd),
    let fs := [(0, d), (1, a)]
    VCompletes (.fclass h ty any mask d a) { h := h, fs := fs, srcs := [a], d := d, arith := false } (
      fun _ x l =>
      let r := fclassElems ty mask (x.srcF ty.ty a l)
      { d := maskElems ty.ty.bits r, pb := predElems any r })) ∧
  (∀ (h : Hdr) (bf : Bool) (m : FMod) (d a b c : Opnd),
    let fs := [(0, d), (1, a), (2, b), (3, c)]
    VCompletes (.fdot2 h bf m d a b c) { h := h, fs := fs, srcs := [a, b, c], d := d } (
      fun _ x l =>
      let t : FloatTy := if bf then .bf16 else .f16
      (fdotW t t 2 m (x.md m.rnd) (x.srcF t a l) (x.srcF t b l) (x.srcF .f32 c l)).out)) ∧
  (∀ (h : Hdr) (ta tb : Bool) (m : FMod) (d a b c : Opnd),
    let fs := [(0, d), (1, a), (2, b), (3, c)]
    VCompletes (.fdot4 h ta tb m d a b c) { h := h, fs := fs, srcs := [a, b, c], d := d } (
      fun _ x l =>
      let t (e5 : Bool) : FloatTy := if e5 then .e5m2 else .e4m3
      (fdotW (t ta) (t tb) 4 m (x.md m.rnd) (x.srcF (t ta) a l) (x.srcF (t tb) b l) (x.srcF .f32 c l)).out)) ∧
  (∀ (h : Hdr) (ty : FTy) (m : FMod) (d a : Opnd),
    let fs := [(0, d), (1, a)]
    VCompletes (.frnd h ty m d a) { h := h, fs := fs, srcs := [a], d := d } (
      fun _ x l =>
      (frndW ty m (x.md m.rnd) (x.srcF ty.ty a l)).out)) ∧
  (∀ (h : Hdr) (ty : FTy) (m : FMod) (d a b : Opnd),
    let fs := [(0, d), (1, a), (2, b)]
    VCompletes (.fscale h ty m d a b) { h := h, fs := fs, srcs := [a, b], d := d } (
      fun _ x l =>
      (fscaleW ty m (x.md m.rnd) (x.srcF ty.ty a l) (x.srcI ty.ty.bits b l)).out)) ∧
  (∀ (h : Hdr) (ty : FTy) (m : FMod) (d a : Opnd),
    let fs := [(0, d), (1, a)]
    VCompletes (.fgetexp h ty m d a) { h := h, fs := fs, srcs := [a], d := d } (
      fun _ x l =>
      (fgetexpW ty m (x.srcF ty.ty a l)).out)) ∧
  (∀ (h : Hdr) (ty : FTy) (m : FMod) (d a : Opnd),
    let fs := [(0, d), (1, a)]
    VCompletes (.fgetmant h ty m d a) { h := h, fs := fs, srcs := [a], d := d } (
      fun _ x l =>
      (fgetmantW ty m (x.srcF ty.ty a l)).out)) ∧
  (∀ (h : Hdr) (ty : FTy) (m : FMod) (mul : Bool) (d a b : Opnd),
    let fs := [(0, d), (1, a), (2, b)]
    VCompletes (.ferr h ty m mul d a b) { h := h, fs := fs, srcs := [a, b], d := d } (
      fun _ x l =>
      (ferrW ty m (x.md m.rnd) mul (x.srcF ty.ty a l) (x.srcF ty.ty b l)).out))

/-- Completion, effect and frame of the conversions and packing words. -/
def Obligations.ConvertWords : Prop :=
  (∀ (h : Hdr) (td ts : FloatTy) (m : FMod) (k : BitVec 4) (d a : Opnd),
    let fs := [(0, d), (1, a)]
    VCompletes (.cvtFf h td ts m k d a) { h := h, fs := fs, srcs := [a], d := d } (
      fun _ x l =>
      (cvtFfW td ts m (x.md m.rnd) k.toNat (x.srcF ts a l) (x.src d l)).out)) ∧
  (∀ (h : Hdr) (td : IntTy) (ts : FloatTy) (m : FMod) (k : BitVec 4) (d a : Opnd),
    let fs := [(0, d), (1, a)]
    VCompletes (.cvtFi h td ts m k d a) { h := h, fs := fs, srcs := [a], d := d } (
      fun _ x l =>
      (cvtFiW td ts m (x.md m.rnd) k.toNat (x.srcF ts a l) (x.src d l)).out)) ∧
  (∀ (h : Hdr) (td : FloatTy) (ts : IntTy) (m : FMod) (k : BitVec 4) (d a : Opnd),
    let fs := [(0, d), (1, a)]
    VCompletes (.cvtIf h td ts m k d a) { h := h, fs := fs, srcs := [a], d := d } (
      fun _ x l =>
      (cvtIfW td ts m (x.md m.rnd) k.toNat (x.srcI ts.w.bits a l) (x.src d l)).out)) ∧
  (∀ (h : Hdr) (td ts : IntTy) (m : FMod) (k : BitVec 4) (d a : Opnd),
    let fs := [(0, d), (1, a)]
    VCompletes (.cvtIi h td ts m k d a) { h := h, fs := fs, srcs := [a], d := d } (
      fun _ x l =>
      (cvtIiW td ts m k.toNat (x.srcI ts.w.bits a l) (x.src d l)).out)) ∧
  (∀ (h : Hdr) (td ts : FloatTy) (m : FMod) (k : BitVec 4) (d a b : Opnd),
    let fs := [(0, d), (1, a), (2, b)]
    VCompletes (.cvts h td ts m k d a b) { h := h, fs := fs, srcs := [a, b], d := d } (
      fun _ x l =>
      let sc := match b with
        | .g n => packElems ts.bits (List.replicate (64 / ts.bits) (x.g.rdG n.toNat).toNat)
        | o => x.srcF ts o l
      (cvtsW td ts m (x.md m.rnd) k.toNat (x.srcF ts a l) sc (x.src d l)).out)) ∧
  (∀ (h : Hdr) (td : FloatTy) (m : FMod) (k : BitVec 4) (scl : Bool) (d a b c : Opnd),
    let fs := (0, d) :: (1, a) :: (if scl then [(2, b), (3, c)] else [(3, c)])
    VCompletes (.cvtef h td m k scl d a b c) { h := h, fs := fs, srcs := if scl then [a, b] else [a], d := d, d2 := some c } (
      fun _ x l =>
      let r := cvtefW td m (x.md m.rnd) k.toNat (x.srcF .f32 a l) (if scl then some (x.srcF .f32 b l) else none) (x.src d l)
      { d := r.1.d, d2 := r.2.d, fl := r.1.fl ||| r.2.fl })) ∧
  (∀ (h : Hdr) (td ts : FloatTy) (m : FMod) (k : BitVec 4) (d a b : Opnd),
    let fs := [(0, d), (1, a), (2, b)]
    VCompletes (.cvtsr h td ts m k d a b) { h := h, fs := fs, srcs := [a, b], d := d } (
      fun _ x l =>
      (cvtsrW td ts m k.toNat (x.srcF ts a l) (x.srcI 32 b l) (x.src d l)).out)) ∧
  (∀ (h : Hdr) (k : BitVec 2) (d a b : Opnd),
    let fs := [(0, d), (1, a), (2, b)]
    VCompletes (.packB6 h k d a b) { h := h, fs := fs, srcs := [a, b], d := d, arith := false } (
      fun _ x l =>
      { d := packB6W k.toNat (x.srcI 64 a l) (x.srcI 64 b l) })) ∧
  (∀ (h : Hdr) (k : BitVec 2) (d a b : Opnd),
    let fs := [(0, d), (1, a), (2, b)]
    VCompletes (.unpkB6 h k d a b) { h := h, fs := fs, srcs := [a, b], d := d, arith := false } (
      fun _ x l =>
      { d := unpkB6W k.toNat (x.srcI 64 a l) (x.src b l) })) ∧
  (∀ (h : Hdr) (k : BitVec 2) (d a b : Opnd),
    let fs := [(0, d), (1, a), (2, b)]
    VCompletes (.packTri h k d a b) { h := h, fs := fs, srcs := [a, b], d := d, arith := false } (
      fun _ x l =>
      (packTriW k.toNat (x.srcI 8 a l) (x.srcI 8 b l) (x.src d l)).out)) ∧
  (∀ (h : Hdr) (k : BitVec 2) (d a : Opnd),
    let fs := [(0, d), (1, a)]
    VCompletes (.unpkTri h k d a) { h := h, fs := fs, srcs := [a], d := d, arith := false } (
      fun _ x l =>
      (unpkTriW k.toNat (x.srcI 64 a l)).out)) ∧
  (∀ (h : Hdr) (k : BitVec 4) (d a b : Opnd),
    let fs := [(0, d), (1, a), (2, b)]
    VCompletes (.bscl h k d a b) { h := h, fs := fs, srcs := [a, b], d := d } (
      fun _ x l =>
      (bsclW k.toNat (x.srcF .f32 a l) (x.srcF .f32 b l) (x.src d l)).out))

/-- Completion, effect and frame of the special functions and of the tandem word. -/
def Obligations.SpecialFunctionAndTandemWords : Prop :=
  (∀ (h : Hdr) (ty : FTy) (m : FMod) (d a : Opnd),
    let fs := [(0, d), (1, a)]
    VCompletes (.rcp h ty m d a) { h := h, fs := fs, srcs := [a], d := d } (
      fun _ x l =>
      (sfW .rcp ty m (x.md m.rnd) (x.srcF ty.ty a l)).out)) ∧
  (∀ (h : Hdr) (ty : FTy) (m : FMod) (d a : Opnd),
    let fs := [(0, d), (1, a)]
    VCompletes (.rsq h ty m d a) { h := h, fs := fs, srcs := [a], d := d } (
      fun _ x l =>
      (sfW .rsq ty m (x.md m.rnd) (x.srcF ty.ty a l)).out)) ∧
  (∀ (h : Hdr) (ty : FTy) (m : FMod) (d a : Opnd),
    let fs := [(0, d), (1, a)]
    VCompletes (.sqrt h ty m d a) { h := h, fs := fs, srcs := [a], d := d } (
      fun _ x l =>
      (sfW .sqrt ty m (x.md m.rnd) (x.srcF ty.ty a l)).out)) ∧
  (∀ (h : Hdr) (ty : FTy) (m : FMod) (d a : Opnd),
    let fs := [(0, d), (1, a)]
    VCompletes (.exp2 h ty m d a) { h := h, fs := fs, srcs := [a], d := d } (
      fun _ x l =>
      (sfW .exp2 ty m (x.md m.rnd) (x.srcF ty.ty a l)).out)) ∧
  (∀ (h : Hdr) (ty : FTy) (m : FMod) (d a : Opnd),
    let fs := [(0, d), (1, a)]
    VCompletes (.log2 h ty m d a) { h := h, fs := fs, srcs := [a], d := d } (
      fun _ x l =>
      (sfW .log2 ty m (x.md m.rnd) (x.srcF ty.ty a l)).out)) ∧
  (∀ (h : Hdr) (ty : FTy) (m : FMod) (d a : Opnd),
    let fs := [(0, d), (1, a)]
    VCompletes (.sin h ty m d a) { h := h, fs := fs, srcs := [a], d := d } (
      fun _ x l =>
      (sfW .sin ty m (x.md m.rnd) (x.srcF ty.ty a l)).out)) ∧
  (∀ (h : Hdr) (ty : FTy) (m : FMod) (d a : Opnd),
    let fs := [(0, d), (1, a)]
    VCompletes (.cos h ty m d a) { h := h, fs := fs, srcs := [a], d := d } (
      fun _ x l =>
      (sfW .cos ty m (x.md m.rnd) (x.srcF ty.ty a l)).out)) ∧
  (∀ (h : Hdr) (ty : FTy) (m : FMod) (d a : Opnd),
    let fs := [(0, d), (1, a)]
    VCompletes (.tanh h ty m d a) { h := h, fs := fs, srcs := [a], d := d } (
      fun _ x l =>
      (sfW .tanh ty m (x.md m.rnd) (x.srcF ty.ty a l)).out)) ∧
  (∀ (h : Hdr) (opa opb : BitVec 6) (ma mb : BitVec 3) (da aa ba ca db ab bb cb : BitVec 8),
    let fs := tandemFs (tandemA opa).2 da aa ba ca ++ tandemFs (tandemB opb).2 db ab bb cb
    VCompletes (.tandemWord h opa opb ma mb da aa ba ca db ab bb cb) { h := h, fs := fs, srcs := [], d := .v da, d2 := some (.v db) } (
      fun _ x l =>
      let r1 := tandemFnA opa ma x.md (x.g.rdV aa.toNat l) (x.g.rdV ba.toNat l) (x.g.rdV ca.toNat l)
      let r2 := tandemFnB opb mb x.md (x.g.rdV ab.toNat l) (x.g.rdV bb.toNat l) (x.g.rdV cb.toNat l)
        (x.g.rdV db.toNat l)
      { d := r1.d, d2 := r2.d, fl := r1.fl ||| r2.fl }))

/-- Completion, effect and frame of the move and lane words, and of the two reads of tile and port state. What LPR.SNAP reads in a handler,
which reaches no snapshot entry (R462), is a free value (log 102). -/
def Obligations.MoveAndLaneWords : Prop :=
  (∀ (h : Hdr) (d a : Opnd),
    VCompletes (.mov h d a) { h := h, fs := [(0, d), (1, a)], srcs := [a], d := d, arith := false } (
      fun _ x l => { d := x.src a l })) ∧
  (∀ (h : Hdr) (zx : Bool) (d : Opnd) (imm : BitVec 32),
    VCompletes (.movi h zx d imm) { h := h, fs := [(0, d)], srcs := [], d := d, arith := false } (
      fun _ _ _ =>
      { d := if zx then imm.setWidth 64 else imm.signExtend 64 })) ∧
  (∀ (h : Hdr) (d : Opnd) (imm : BitVec 32),
    VCompletes (.movih h d imm) { h := h, fs := [(0, d)], srcs := [], d := d, arith := false } (
      fun _ x l =>
      { d := imm ++ (x.src d l).setWidth 32 })) ∧
  (∀ (h : Hdr) (ew : EW) (lw : BitVec 3) (d a b p : Opnd),
    VCompletes (.lxchIdx h ew lw d a b p) (lxWord h d a b p) (
      fun _ x l => lxLane .idx ew.bits lw x a b l)) ∧
  (∀ (h : Hdr) (lw : BitVec 3) (d a b p : Opnd),
    VCompletes (.lxchUp h lw d a b p) (lxWord h d a b p) (
      fun _ x l => lxLane .up 64 lw x a b l)) ∧
  (∀ (h : Hdr) (lw : BitVec 3) (d a b p : Opnd),
    VCompletes (.lxchDown h lw d a b p) (lxWord h d a b p) (
      fun _ x l => lxLane .down 64 lw x a b l)) ∧
  (∀ (h : Hdr) (lw : BitVec 3) (d a b p : Opnd),
    VCompletes (.lxchXor h lw d a b p) (lxWord h d a b p) (
      fun _ x l => lxLane .xor 64 lw x a b l)) ∧
  (∀ (h : Hdr) (neg : Bool) (d a : Opnd),
    VCompletes (.pollAll h neg d a) { h := h, fs := [(0, d), (1, a)], srcs := [a], d := d, arith := false } (
      fun _ x _ =>
      { pb := pollTrue x neg a == x.act })) ∧
  (∀ (h : Hdr) (neg : Bool) (d a : Opnd),
    VCompletes (.pollAny h neg d a) { h := h, fs := [(0, d), (1, a)], srcs := [a], d := d, arith := false } (
      fun _ x _ =>
      { pb := pollTrue x neg a != 0 })) ∧
  (∀ (h : Hdr) (neg : Bool) (d a : Opnd),
    VCompletes (.pollMask h neg d a) { h := h, fs := [(0, d), (1, a)], srcs := [a], d := d, arith := false } (
      fun _ x _ =>
      { d := (pollTrue x neg a).setWidth 64 })) ∧
  (∀ (h : Hdr) (ty : FoldTy) (rnd : Rnd) (sat ftz : Bool) (d a : Opnd),
    VCompletes (.foldAdd h ty rnd sat ftz d a) { h := h, fs := [(0, d), (1, a)], srcs := [a], d := d } (
      fun _ x _ =>
      (perElem ty.bits fun i => foldAddE ty (x.md rnd) sat ftz (foldElems x ty.bits a i)).out)) ∧
  (∀ (h : Hdr) (ty : FoldTy) (isMax ftz : Bool) (d a : Opnd),
    VCompletes (.foldMinmax h ty isMax ftz d a) { h := h, fs := [(0, d), (1, a)], srcs := [a], d := d } (
      fun _ x _ =>
      (perElem ty.bits fun i => foldMinmaxE ty isMax ftz (foldElems x ty.bits a i)).out)) ∧
  (∀ (h : Hdr) (d a b : Opnd),
    VCompletes (.bcast h d a b) { h := h, fs := [(0, d), (1, a), (2, b)], srcs := [a, b], d := d, arith := false } (
      fun _ x l =>
      let q := (x.src b l).toNat % 32
      { d := if x.iss.set.has q then x.src a q else 0 })) ∧
  (∀ (h : Hdr) (ins : Bool) (ew : EW) (d a b : Opnd),
    VCompletes (.selem h ins ew d a b) { h := h, fs := [(0, d), (1, a), (2, b)], srcs := [a, b], d := d, arith := false } (
      fun _ x l =>
      let w := ew.bits
      let e := (x.src b l).toNat % (64 / w)
      { d := if ins then putBits (x.src d l) (w * e) w (elemN (x.src a l) w 0)
          else BitVec.ofNat 64 (elemN (x.src a l) w e) })) ∧
  (∀ (h : Hdr) (d a : Opnd),
    VCompletes (.srd h d a) { h := h, fs := [(0, d)], srcs := [], d := d, arith := false, super := sregSuper (Opnd.sregNum a) } (
      fun st x l => { d := st.sreg x (Opnd.sregNum a) l })) ∧
  (∀ (h : Hdr) (snap : Bool) (d : Opnd),
    VCompletes (.lpr h snap d) { h := h, fs := [(0, d)], srcs := [], d := d, arith := false } (
      fun st x l =>
      { d := if snap && x.g.handler then Config.snapWord (((st.cycle * 288 + x.c.core) * 4 + x.g.part) * 32 + l)
          else lpWord (if snap then sget Lp.none x.g.snap l else x.g.lpOf l) })) ∧
  (∀ (h : Hdr) (d t : Opnd),
    VCompletes (.tstate h d t) { h := h, fs := [(0, d), (1, t)], srcs := [], d := d, arith := false } (
      fun _ x _ => { d := x.c.tstate (tileNo t) })) ∧
  (∀ (h : Hdr) (d port : Opnd),
    VCompletes (.spget h d port) { h := h, fs := [(0, d)], srcs := [], d := d, arith := false } (
      fun _ x _ =>
      let p := x.g.port (portNo port)
      { d := BitVec.ofNat 64 (if p.count = 0 then 0 else p.count * 2 ^ 32 + p.pos) }))

/-- What R166 says of each element: the exact result, wrapped or clamped, and when SA is set. -/
def Obligations.IntegerElements : Prop :=
  ∀ (w : EW) (sgn : Bool) (f : Int → Int → Int → Int) (a b c : Word),
    let exact (i : Nat) : Int := f (elemI a w.bits sgn i) (elemI b w.bits sgn i) (elemI c w.bits sgn i)
    (∀ i, i < 64 / w.bits →
      (elemN (intArith w.bits sgn false f a b c).d w.bits i : Int) = exact i % 2 ^ w.bits) ∧
    (∀ i, i < 64 / w.bits →
      elemI (intArith w.bits sgn true f a b c).d w.bits sgn i =
        max (tmin w.bits sgn) (min (tmax w.bits sgn) (exact i))) ∧
    (intArith w.bits sgn false f a b c).fl = 0 ∧
    ((intArith w.bits sgn true f a b c).fl = Fl.sa ↔
      ∃ i, i < 64 / w.bits ∧ (exact i < tmin w.bits sgn ∨ tmax w.bits sgn < exact i))

/-- R167 for every width and count: the shifts of BitVec, which give 0 or the sign for a count of the width or more. -/
def Obligations.ShiftElements : Prop :=
  ∀ (w : EW) (a b : Word) (i : Nat), i < 64 / w.bits →
    let el (x : Word) : BitVec w.bits := BitVec.ofNat w.bits (elemN x w.bits i)
    let n := elemN b w.bits i
    el (shiftElems w.bits shlN a b).d = el a <<< n ∧
    el (shiftElems w.bits shrN a b).d = el a >>> n ∧
    el (shiftElems w.bits shraN a b).d = (el a).sshiftRight n ∧
    (shiftElems w.bits shlN a b).fl = 0 ∧ (shiftElems w.bits shrN a b).fl = 0 ∧
    (shiftElems w.bits shraN a b).fl = 0

/-- R172, and the bit functions of R171, said of each bit of the result. -/
def Obligations.BitFunctions : Prop :=
  ∀ (a b c : Word) (tbl : BitVec 8),
    let pos := (b.extractLsb' 0 6).toNat
    let len := min (b.extractLsb' 8 7).toNat (64 - pos)
    (∀ k, k < 64 → (blutW tbl a b c).getLsbD k =
      tbl.getLsbD ((a.getLsbD k).toNat + 2 * (b.getLsbD k).toNat + 4 * (c.getLsbD k).toNat)) ∧
    (∀ k, k < 64 → (rotW a b).getLsbD ((k + b.toNat) % 64) = a.getLsbD k) ∧
    funnelW a b c = ((b ++ a) >>> (c.toNat % 64)).setWidth 64 ∧
    (popcW a).toNat = ((List.range 64).map fun k => (a.getLsbD k).toNat).sum ∧
    (∀ k, k < 64 → (brevW a).getLsbD k = a.getLsbD (63 - k)) ∧
    clzW 0 = 64 ∧ ctzW 0 = 64 ∧
    (a ≠ 0 → (clzW a).toNat < 64 ∧ a.getLsbD (63 - (clzW a).toNat) = true ∧
      ∀ k, k < (clzW a).toNat → a.getLsbD (63 - k) = false) ∧
    (a ≠ 0 → (ctzW a).toNat < 64 ∧ a.getLsbD (ctzW a).toNat = true ∧ ∀ k, k < (ctzW a).toNat → a.getLsbD k = false) ∧
    (∀ k, k < 64 → (bfiW a b c).getLsbD k =
      if pos ≤ k ∧ k < pos + len then a.getLsbD (k - pos) else c.getLsbD k) ∧
    (∀ sgn k, k < 64 → (bfxW sgn a b).getLsbD k =
      if k < len then a.getLsbD (pos + k) else sgn && decide (0 < len) && a.getLsbD (pos + len - 1))

/-- R173: sum and carry make the exact sum, and a chain of two words adds 128-bit values. -/
def Obligations.CarryChain : Prop :=
  (∀ (a b : Word) (p : Bool),
    (iaddcW a b p).1.toNat + 2 ^ 64 * (iaddcW a b p).2.toNat = a.toNat + b.toNat + p.toNat) ∧
  (∀ (a0 a1 b0 b1 : Word),
    let lo := iaddcW a0 b0 false
    (iaddcW a1 b1 lo.2).1 ++ lo.1 = (a1 ++ a0) + (b1 ++ b0))

/-- R218 for the four sizes of one register. -/
def Obligations.LoadedValue : Prop :=
  ∀ (x : Word),
    loadValue 1 false x = (x.setWidth 8).setWidth 64 ∧ loadValue 2 false x = (x.setWidth 16).setWidth 64 ∧
    loadValue 4 false x = (x.setWidth 32).setWidth 64 ∧
    loadValue 1 true x = (x.setWidth 8).signExtend 64 ∧ loadValue 2 true x = (x.setWidth 16).signExtend 64 ∧
    loadValue 4 true x = (x.setWidth 32).signExtend 64 ∧ ∀ sx, loadValue 8 sx x = x

/-- R225 for 32- and 64-bit words. -/
def Obligations.AtomicValues : Prop :=
  ∀ (wide : Bool) (old b : BitVec (if wide then 64 else 32)),
    let w := if wide then 64 else 32
    let new (op : AOp) : BitVec w := BitVec.ofNat w (atomNew op w old.toNat b.toNat)
    new .add = old + b ∧ new .and = old &&& b ∧ new .or = old ||| b ∧ new .xor = old ^^^ b ∧
    new .mini = (if old.sle b then old else b) ∧ new .maxi = (if b.sle old then old else b) ∧
    new .minn = (if old.ule b then old else b) ∧ new .maxn = (if b.ule old then old else b) ∧
    new .xchg = b ∧ new .inc = (if b.ule old then 0 else old + 1) ∧
    new .dec = (if old = 0 ∨ b.ult old then b else old - 1)

/-- R157: no effect on data; the issue set goes on behind the word, and the hints S and Y act (R61 to R63). -/
def Obligations.PlainWords : Prop :=
  ∀ (i : Instr) (h : Hdr), (i = .nop h ∨ i = .join h ∨ i = .yield h) → ∀ s x, s.ctx? h = some x →
    ∃ t g', exec i s = .next t ∧ Performed s t x g' ∧ x.g.WentOn g' x.iss.set x.iss.len ∧ x.g.IssueRest g' ∧
      x.g.Hinted g' x.iss x.act h.s (h.y || i == .yield h)

/-- R154 and R156 with their frame, and the hints S and Y (R61 to R63). -/
def Obligations.BranchWords : Prop :=
  (∀ (h : Hdr) (ofs : BitVec 32) (s : State) (x : Ctx), s.ctx? h = some x →
    x.targetsOk (fun _ => relTarget x.iss.pc ofs) = true →
    ∃ t g', exec (.bra h ofs) s = .next t ∧ Performed s t x g' ∧ x.g.IssueRest g' ∧ x.g.Hinted g' x.iss x.act h.s h.y ∧
      Jumped x g' (fun _ => x.iss.pc.setWidth 64 + ofs.signExtend 64) 0) ∧
  (∀ (h : Hdr) (a : Opnd) (s : State) (x : Ctx), s.ctx? h = some x → x.holds [(1, a)] = true →
    x.targetsOk (x.src a) = true →
    ∃ t g', exec (.brx h a) s = .next t ∧ Performed s t x g' ∧ x.g.IssueRest g' ∧ x.g.Hinted g' x.iss x.act h.s h.y ∧
      Jumped x g' (x.src a) 0) ∧
  (∀ (h : Hdr) (a : Opnd) (s : State) (x : Ctx), s.ctx? h = some x → x.holds [(1, a)] = true →
    x.depthsOk 0 = true → x.targetsOk (x.src a) = true →
    ∃ t g', exec (.ret h a) s = .next t ∧ Performed s t x g' ∧ x.g.IssueRest g' ∧ x.g.Hinted g' x.iss x.act h.s h.y ∧
      Jumped x g' (x.src a) (-1))

/-- R155 with its frame, and the hints S and Y (R61 to R63). That the fall-through address written to D wraps at 2^48 is the model's
choice (log 87). -/
def Obligations.CallWords : Prop :=
  (∀ (h : Hdr) (d : BitVec 8) (ofs : BitVec 32) (s : State) (x : Ctx), s.ctx? h = some x → x.holds [(0, .v d)] = true →
    x.depthsOk 4095 = true → x.targetsOk (fun _ => relTarget x.iss.pc ofs) = true →
    ∃ t g', exec (.call h (.v d) ofs) s = .next t ∧ Performed s t x g' ∧ x.g.SameBut g' [.v d] ∧
      x.g.IssueRest { g' with v := x.g.v } ∧ x.g.Hinted g' x.iss x.act h.s h.y ∧
      (∀ l, l < 32 → x.act.has l = true → g'.rdV d.toNat l = (x.iss.pc + 12).setWidth 64) ∧
      (∀ l, l < 32 → x.act.has l = false → g'.rdV d.toNat l = x.g.rdV d.toNat l) ∧
      Jumped x g' (fun _ => x.iss.pc.setWidth 64 + ofs.signExtend 64) 1) ∧
  (∀ (h : Hdr) (d : BitVec 8) (a : Opnd) (s : State) (x : Ctx), s.ctx? h = some x →
    x.holds [(0, .v d), (1, a)] = true → x.depthsOk 4095 = true → x.targetsOk (x.src a) = true →
    ∃ t g', exec (.callx h (.v d) a) s = .next t ∧ Performed s t x g' ∧ x.g.SameBut g' [.v d] ∧
      x.g.IssueRest { g' with v := x.g.v } ∧ x.g.Hinted g' x.iss x.act h.s h.y ∧
      (∀ l, l < 32 → x.act.has l = true → g'.rdV d.toNat l = (x.iss.pc + 12).setWidth 64) ∧
      (∀ l, l < 32 → x.act.has l = false → g'.rdV d.toNat l = x.g.rdV d.toNat l) ∧
      Jumped x g' (x.src a) 1)

/-- R158, with R45 for the last lanes and R453 for those of a handler: EXIT's hints act on no active lane. R159 and R160 with the
frame; R220 for the held entries. That the PC wraps is log 87's choice; so it is for every word that goes on. -/
def Obligations.ExitAndRegionWords : Prop :=
  ((∀ (h : Hdr) (s : State) (x : Ctx), s.ctx? h = some x → x.g.remain &&& ~~~x.act ≠ 0 →
    ∃ t g', exec (.exit h) s = .next t ∧ Performed s t x g' ∧ x.g.SameRegs g' ∧ x.g.SameTrap g' ∧
      (∀ l, l < 32 → x.act.has l = true → (g'.lpOf l).st = .exited ∧ (g'.lpOf l).pc = (x.g.lpOf l).pc) ∧
      (∀ l, l < 32 → x.act.has l = false →
        (g'.lpOf l).pc = (x.g.lpOf l).pc + (if x.off.has l then BitVec.ofNat 48 x.iss.len else 0)) ∧
      (x.g.exitLanes x.act).Hinted g' x.iss 0 h.s h.y ∧
      ∀ l, l < 32 → (sget Lp.none g'.snap l).st =
        if x.act.has l && !x.g.handler then .exited else (sget Lp.none x.g.snap l).st) ∧
  (∀ (h : Hdr) (s : State) (x : Ctx), s.ctx? h = some x → x.g.handler = true → x.g.remain &&& ~~~x.act = 0 →
    (let named (l : Nat) : Bool := Mask.has (x.g.tlanes.setWidth 32) l
     let left := ∃ l, l < 32 ∧ named l = false ∧ (sget Lp.none x.g.trapLp l).st.remaining = true
     ∃ t g', exec (.exit h) s = .next t ∧ t.group? x.iss.who = some g' ∧ g'.handler = false ∧
       (∀ l, l < 32 → g'.lpOf l = if named l then
           { sget Lp.none x.g.trapLp l with st := .exited, pc := x.g.tpc.setWidth 48 }
         else sget Lp.none x.g.trapLp l) ∧
       (∀ l, l < 32 → (sget Lp.none g'.snap l).st = if named l then .exited else (sget Lp.none x.g.snap l).st) ∧
       (left → QuietFrame s t x.iss.who ∧
         Left x.g g' fun e => { e with st := .exited, pc := x.g.tpc.setWidth 48 }) ∧
       (¬left → g'.finished = true))) ∧
  (∀ (h : Hdr) (s : State) (x : Ctx), s.ctx? h = some x → x.g.handler = false → x.g.remain &&& ~~~x.act = 0 →
    ∃ t g', exec (.exit h) s = .next t ∧ t.group? x.iss.who = some g' ∧ g'.finished = true ∧
      ∀ l, l < 32 → x.act.has l = true → (g'.lpOf l).st = .exited)) ∧
  ((∀ (h : Hdr) (tag : BitVec 16) (s : State) (x : Ctx), s.ctx? h = some x → x.act ≠ 0 → x.g.hasHeld = false →
    ∃ t g', exec (.region h tag) s = .next t ∧ Performed s t x g' ∧ x.g.SameRegs g' ∧ x.g.SameTrap g' ∧
      x.g.WentOn g' x.iss.set x.iss.len ∧ Recorded x g' ∧ g'.regionTag = tag ∧ g'.ports = x.g.ports ∧ g'.sb = x.g.sb) ∧
  (∀ (h : Hdr) (tag : BitVec 16) (s : State) (x : Ctx), s.ctx? h = some x → x.act ≠ 0 → x.g.sb.length ≤ 256 →
    ∃ t g', exec (.region h tag) s = .next t ∧ IssueFrame s t x.iss.who ∧ t.group? x.iss.who = some g' ∧
      x.g.SameRegs g' ∧ g'.hasHeld = false ∧ g'.sb.length = x.g.sb.length ∧ g'.regionTag = tag ∧
      x.g.WentOn g' x.iss.set x.iss.len))

/-- R162, and R447 for the entry. -/
def Obligations.TrapWords : Prop :=
  (∀ (h : Hdr) (code : BitVec 16) (s : State) (x : Ctx), s.ctx? h = some x → x.act ≠ 0 → trapReady s x = true →
    ∃ t g', exec (.trap h code) s = .next t ∧ QuietFrame s t x.iss.who ∧ t.group? x.iss.who = some g' ∧
      Trapped (s.core x.c.core).trapbase (x.g.advance x.off x.iss.len) g'
        { cause := 0x0D, lanes := x.act, info := code.setWidth 64, pc := x.iss.pc }) ∧
  (∀ (h : Hdr) (code : BitVec 16) (s : State) (x : Ctx), s.ctx? h = some x → x.act = 0 →
    ∃ t g', exec (.trap h code) s = .next t ∧ Performed s t x g' ∧ x.g.WentOn g' x.iss.set x.iss.len ∧ x.g.IssueRest g') ∧
  (∀ (h : Hdr) (code : BitVec 16) (s : State) (x : Ctx), s.ctx? h = some x → x.act ≠ 0 → trapReady s x = true →
    ∃ t g', exec (.brk h code) s = .next t ∧ QuietFrame s t x.iss.who ∧ t.group? x.iss.who = some g' ∧
      Trapped (s.core x.c.core).trapbase (x.g.advance x.off x.iss.len) g'
        { cause := 0x0B, lanes := x.act, info := code.setWidth 64, pc := x.iss.pc }) ∧
  (∀ (h : Hdr) (code : BitVec 16) (s : State) (x : Ctx), s.ctx? h = some x → x.act = 0 →
    ∃ t g', exec (.brk h code) s = .next t ∧ Performed s t x g' ∧ x.g.WentOn g' x.iss.set x.iss.len ∧ x.g.IssueRest g')

/-- R453; and R451 for the barriers that the group, back from its handler, counts at again. That TRAPPC plus the length of RTT.SKIP wraps
at 2^48 is the model's choice (log 87). That RTT waits while the handler's own writes
of the registers that it exchanges are outstanding is the model's choice (log 131). -/
def Obligations.RttWord : Prop :=
  ∀ (h : Hdr) (skip : Bool) (s : State) (x : Ctx), s.ctx? h = some x → x.g.handler = true →
    (List.range 32).any (fun l => (sget Lp.none x.g.trapLp l).st.remaining) = true →
    x.g.shadowPending = false →
    ∃ t g' c', exec (.rtt h skip) s = .next t ∧ QuietFrame s t x.iss.who ∧ t.group? x.iss.who = some g' ∧
      t.crew? x.iss.who.crew = some c' ∧
      c' = { x.c with
        groups := c'.groups, bars := c'.bars, mskip := x.c.mskip || (skip && x.c.ownMat x.iss.who.grp) } ∧
      (∀ k, (let b := x.c.bar k
        let full := (List.range x.c.groups.length).all fun j =>
          let g := x.c.groups.getD j {}
          !b.mask.getLsbD j || (b.arr.getLsbD j && (!g.handler || j == x.iss.who.grp)) || g.finished
        c'.bar k = if b.arr.getLsbD x.iss.who.grp && full && b.mask != 0 then { b with phase := b.phase + 1, arr := 0 } else b)) ∧
      Left x.g g' fun e => { e with pc := x.g.tpc.setWidth 48 + (if skip then BitVec.ofNat 48 x.g.skipLen else 0) }

/-- R209 with its frame: LPW with a lane left over and with none, and LPW.SNAP. R208 with the write rules of the registers. -/
def Obligations.LpwAndSwrWords : Prop :=
  (∀ (h : Hdr) (a : Opnd) (s : State) (x : Ctx), s.ctx? h = some x → x.holds [(1, a)] = true →
    x.act.lanes.all (fun l => (fld (x.src a l) 60 4 == 0 || fld (x.src a l) 60 4 == 3) && fld (x.src a l) 0 2 == 0) = true →
    (let left := ∃ l, l < 32 ∧ (if x.act.has l then fld (x.src a l) 60 4 = 0 else (x.g.lpOf l).st.remaining = true)
     ∃ t g', exec (.lpw h false a) s = .next t ∧ t.group? x.iss.who = some g' ∧
       (left → Performed s t x g' ∧ x.g.SameRegs g' ∧ x.g.SameTrap g' ∧
         (∀ l, l < 32 → x.act.has l = true →
           (g'.lpOf l).pc = (x.src a l).setWidth 48 ∧ (g'.lpOf l).depth = (x.src a l).extractLsb' 48 12 ∧
           (g'.lpOf l).st = if fld (x.src a l) 60 4 = 3 then .exited else .live) ∧
         ∀ l, l < 32 → x.act.has l = false → (g'.lpOf l).depth = (x.g.lpOf l).depth ∧
           (g'.lpOf l).pc = (x.g.lpOf l).pc + (if x.off.has l then BitVec.ofNat 48 x.iss.len else 0)) ∧
       (¬left → g'.handler = false ∧ (x.g.handler = false → g'.finished = true ∧
         ∀ l, l < 32 → x.act.has l = true → (g'.lpOf l).st = .exited)))) ∧
  (∀ (h : Hdr) (a : Opnd) (s : State) (x : Ctx), s.ctx? h = some x → x.holds [(1, a)] = true →
    x.act.lanes.all (fun l => (fld (x.src a l) 60 4 == 0 || fld (x.src a l) 60 4 == 3) && fld (x.src a l) 0 2 == 0) = true →
    ∃ t g', exec (.lpw h true a) s = .next t ∧ Performed s t x g' ∧ x.g.SameRegs g' ∧ x.g.SameTrap g' ∧
      x.g.WentOn g' x.iss.set x.iss.len ∧ ∀ l, l < 32 → sget Lp.none g'.snap l =
        if x.act.has l && !x.g.handler then lpEntry (x.src a l) else sget Lp.none x.g.snap l) ∧
  (∀ (h : Hdr) (n : BitVec 6) (a : Opnd) (s : State) (x : Ctx), s.ctx? h = some x → x.holds [(1, a)] = true →
    (sregSuper n.toNat = true → supervisor (s.core x.c.core).trapbase x.c.vf x.g = true) →
    (x.act = 0 → ∃ t, exec (.swr h (.sreg n) a) s = .next t ∧ Passed s t x) ∧
    (x.act ≠ 0 → ∃ t g', exec (.swr h (.sreg n) a) s = .next t ∧ t.group? x.iss.who = some g' ∧
      IssueFrame s { t with leasecfg := s.leasecfg } x.iss.who ∧ (∀ k, k ≠ x.c.core → t.core k = s.core k) ∧
      x.g.WentOn g' x.iss.set x.iss.len ∧ x.g.SameTrap g' ∧ g'.v = x.g.v ∧ g'.g = x.g.g ∧ g'.p = x.g.p ∧
      (let v := x.src a (x.act.low.getD 0)
       let co := s.core x.c.core
       let co' := t.core x.c.core
       let pf := sget {} co.perf x.c.vf
       let pf' := sget {} co'.perf x.c.vf
       co' = { co with perf := co'.perf, lastWho := co'.lastWho, runLen := co'.runLen, lastCyc := co'.lastCyc
                       trapbase := co'.trapbase, watch := co'.watch } ∧
       (g'.fsr = if n = 0x10 then v.setWidth 7 else x.g.fsr) ∧
       (g'.fcr.extractLsb' 4 2 = if n = 0x11 then v.extractLsb' 4 2 else x.g.fcr.extractLsb' 4 2) ∧
       (g'.fcr.extractLsb' 0 3 = if n = 0x11 ∧ v.extractLsb' 0 3 ≤ 4 then v.extractLsb' 0 3 else x.g.fcr.extractLsb' 0 3) ∧
       (n ≠ 0x11 → g'.fcr = x.g.fcr) ∧
       (co'.trapbase = if n = 0x19 then v &&& 0x8F00_FFFF_FFFF_FFFC else co.trapbase) ∧
       (∀ k, k < 4 → sget 0 co'.watch k =
         if n.toNat = 0x28 + k then v &&& 0xFF07_FFFF_FFFF_FFFF else sget 0 co.watch k) ∧
       (pf'.sel = if n = 0x1C then perfselWrite pf.sel v else pf.sel) ∧
       (pf'.ctl &&& 0xFF00FF = (if n = 0x1D then v.setWidth 24 else pf.ctl) &&& 0xFF00FF) ∧
       (∀ k, k < 8 → n.toNat = 0x20 + k → pf.ctl.getLsbD k = false →
         sget 0 pf'.pmc k = if evFabric (elemN pf.sel 8 k) then 0 else v.toNat % 2 ^ 48) ∧
       t.leasecfg = if n = 0x2C then leaseWrite s.leasecfg v else s.leasecfg)))

/-- R325 for the three fields of LEASECFG. -/
def Obligations.LeaseLimits : Prop :=
  State.reset.leasecfg = 0x08010020 ∧ sregSuper 0x2C = true ∧
  (∀ old v : Word, fld (leaseWrite old v) 33 31 = 0) ∧
  (∀ (old v : Word) (lo : Nat), (lo = 0 ∨ lo = 11 ∨ lo = 22) →
    fld (leaseWrite old v) lo 11 = if 4 ≤ fld v lo 11 ∧ fld v lo 11 ≤ 1024 then fld v lo 11 else fld old lo 11) ∧
  (∀ (old v : Word) (lo : Nat), (lo = 0 ∨ lo = 11 ∨ lo = 22) → 4 ≤ fld old lo 11 → fld old lo 11 ≤ 1024 →
    4 ≤ fld (leaseWrite old v) lo 11 ∧ fld (leaseWrite old v) lo 11 ≤ 1024)

/-- R447 as one operation: taking an exception. The flags that an interrupted matrix instruction leaves go with FSR, as log 97 has it. -/
def Obligations.TrapEntry : Prop :=
  ∀ (s : State) (w : Who) (r : TrapRec) (c : Crew) (g : Group), s.crew? w.crew = some c → s.group? w = some g →
    g.handler = false → g.outs = [] → (s.reg 0x900).toNat % 2 = 0 →
    ∃ g' c', (s.takeTrap w r).group? w = some g' ∧ Trapped (s.core c.core).trapbase g g' r ∧ g'.skipLen = r.skipLen ∧
      g'.suppress = g.suppress ∧ g'.lastIssue = g.lastIssue ∧
      (s.takeTrap w r).crew? w.crew = some c' ∧ c' = { c with groups := c'.groups } ∧
      s.takeTrap w r = { s with crews := (s.takeTrap w r).crews } ∧
      (∀ id, id ≠ w.crew → (s.takeTrap w r).crew? id = s.crew? id) ∧
      (∀ j, j ≠ w.grp → (s.takeTrap w r).group? { crew := w.crew, grp := j } = s.group? { crew := w.crew, grp := j })

/-- R447 step 2 and R452; and R425 for the stop on any trap, which a double trap is. -/
def Obligations.TrapWaits : Prop :=
  (∀ (s : State) (w : Who) (r : TrapRec) (c : Crew) (g : Group), s.crew? w.crew = some c → s.group? w = some g →
    g.handler = false → g.outs ≠ [] →
    ∃ g', (s.takeTrap w r).group? w = some g' ∧ g'.wait = .trap r ∧ g.SameRegs g' ∧ g.SameTrap g' ∧ g'.lp = g.lp) ∧
  (∀ (s : State) (w : Who) (r : TrapRec) (c : Crew) (g : Group), s.crew? w.crew = some c → s.group? w = some g →
    g.handler = true → r.cause < 256 → s.stopArmed c.core g.part 2 = false →
    ∃ c' g', (s.takeTrap w r).crew? w.crew = some c' ∧ (s.takeTrap w r).group? w = some g' ∧
      (c.resident = true → c'.st = .stopping ∧ c'.stopTo = .frozen) ∧ (c.st = .saved ∨ c.st = .held → c'.st = .frozen) ∧
      g'.frozen = true ∧ g'.tcause.getLsbD 9 = true ∧ g'.tcause.setWidth 8 = BitVec.ofNat 8 r.cause ∧
      s.takeTrap w r = { s with crews := (s.takeTrap w r).crews, fltWait := (s.takeTrap w r).fltWait } ∧
      ∃ q, (s.takeTrap w r).fltWait = s.fltWait ++ [q] ∧ q.kind = 0x21 ∧ q.crew = some c.id) ∧
  (∀ (s : State) (w : Who) (r : TrapRec) (c : Crew) (g : Group), s.crew? w.crew = some c → s.group? w = some g →
    g.handler = true → s.stopArmed c.core g.part 2 = true →
    ∃ k g', (s.takeTrap w r).stop = some k ∧ k.core = c.core ∧ k.part = g.part ∧ k.trig = 2 ∧ k.pc = r.pc.toNat ∧
      k.cause = r.cause ∧ k.dumped = false ∧ (s.takeTrap w r).group? w = some g' ∧ g'.frozen = true)

/-- R126 steps 4 and 5, and R97, for every vector word. -/
def Obligations.WordChecks : Prop :=
  (∀ (w : VWord) (f : Ctx → Nat → LaneOut) (s : State) (x : Ctx) (p : Nat × Opnd), s.ctx? w.h = some x →
    trapReady s x = true → firstBeyond x.c.shape x.g.handler w.fs = some p →
    TrapsWith s (s.vexec w f) x { cause := 0x03, lanes := x.iss.set, info := info03 p, pc := x.iss.pc }) ∧
  (∀ (w : VWord) (f : Ctx → Nat → LaneOut) (s : State) (x : Ctx), s.ctx? w.h = some x → trapReady s x = true →
    x.holds w.fs = true → w.super = true → supervisor (s.core x.c.core).trapbase x.c.vf x.g = false →
    TrapsWith s (s.vexec w f) x { cause := 0x0E, lanes := x.iss.set, info := x.iss.hi.setWidth 64, pc := x.iss.pc }) ∧
  (∀ (w : VWord) (f : Ctx → Nat → LaneOut) (s : State) (x : Ctx), s.ctx? w.h = some x → trapReady s x = true →
    x.holds w.fs = true → w.super = false → portUses w.srcs [w.d] = [] → (s.core x.c.core).resid = [] →
    (Mask.ofFn fun l => x.act.has l && enabledFl x.g.fcr (f x l).fl) ≠ 0 →
    TrapsWith s (s.vexec w f) x {
      cause := 0x0A, lanes := Mask.ofFn fun l => x.act.has l && enabledFl x.g.fcr (f x l).fl
      info := (lanesFl x.act fun l => (f x l).fl).setWidth 64, pc := x.iss.pc })

/-- R455 steps 1 to 4. -/
def Obligations.AbortRequeue : Prop :=
  ∀ (s : State) (w : Who) (addr : Word) (acc : Nat) (pc : Pc) (c : Crew) (g : Group),
    s.crew? w.crew = some c → s.group? w = some g → g.handler = false →
    ∃ c' g' q, (s.abort w addr acc pc).crew? w.crew = some c' ∧ (s.abort w addr acc pc).group? w = some g' ∧
      (c.resident = true → c'.st = .stopping ∧ c'.stopTo = if c.st = .stopping then c.stopTo.stronger .held else .held) ∧
      (c.st = .saved → c'.st = .held) ∧ g'.sb = g.sb.filter (·.committed) ∧ g'.ports = g.portSnap ∧
      (∀ l, (g'.lpOf l).pc = (sget Lp.none g.snap l).pc ∧
        (g'.lpOf l).st = if (sget Lp.none g.snap l).st.remaining then .live else (sget Lp.none g.snap l).st) ∧
      (s.abort w addr acc pc).fltWait =
        s.fltWait.takeWhile (fun x => !x.after q) ++ q :: s.fltWait.dropWhile (fun x => !x.after q) ∧
      q.kind = 0x10 ∧ q.addr = addr ∧ q.acc = acc ∧ q.pc = pc ∧ q.crew = some c.id ∧ q.grp = w.grp ∧
      c'.abortAt = some s.cycle

/-- The scratchpad words: completion, effect and frame. That they act in their issue and their results return later is the model's
reading (log 43). -/
def Obligations.ScratchWords : Prop :=
  (∀ (h : Hdr) (w : MW) (sx : Bool) (d : Opnd) (ad : Addr) (s : State) (x : Ctx), s.ctx? h = some x →
    x.holdsRun d (valueRegs w.bytes) ((0, d) :: addrFields ad) = true →
    scratchReady s x true false 1 (x.accesses ad w.bytes .load) = true →
    (x.act = 0 → ∃ t, exec (.lds h w sx d ad) s = .next t ∧ Passed s t x) ∧
    (x.act ≠ 0 → ∃ t g' o, exec (.lds h w sx d ad) s = .next t ∧ Performed s t x g' ∧
      x.g.IssueRest { g' with outs := x.g.outs } ∧ x.g.Hinted g' x.iss x.act h.s h.y ∧
      x.g.WentOn g' x.iss.set x.iss.len ∧ g'.outs = x.g.outs ++ [o] ∧ o.id = s.fresh ∧ o.kind = .load w.bytes sx ∧
      o.dst = d ∧ o.lanes = x.act ∧ ∀ l, x.act.has l = true → ∃ m : LdRep, Instr.loadResultReturn m ∈ t.flight ∧
        m.req.origin = .group x.iss.who s.fresh l ∧ m.data = x.c.scratch.read (x.addr ad l) w.bytes ∧ m.poison = false)) ∧
  (∀ (h : Hdr) (w : MW) (d : Opnd) (ad : Addr) (s : State) (x : Ctx), s.ctx? h = some x →
    x.holdsRun d (valueRegs w.bytes) ((0, d) :: addrFields ad) = true →
    scratchReady s x false true 1 (x.accesses ad w.bytes .store) = true →
    ∃ t g' c', exec (.sts h w d ad) s = .next t ∧ QuietFrame s t x.iss.who ∧ t.crew? x.iss.who.crew = some c' ∧
      t.group? x.iss.who = some g' ∧ x.c.GroupsOnly c' ∧ x.g.IssueRest g' ∧ x.g.WentOn g' x.iss.set x.iss.len ∧
      x.g.Hinted g' x.iss x.act h.s h.y ∧
      (∀ b, (∀ l, x.act.has l = true → b < x.addr ad l ∨ x.addr ad l + w.bytes ≤ b) →
        c'.scratch.get b = x.c.scratch.get b) ∧
      ∀ l k, x.act.has l = true → k < w.bytes →
        (∀ m, l < m → x.act.has m = true →
          x.addr ad l + k < x.addr ad m ∨ x.addr ad m + w.bytes ≤ x.addr ad l + k) →
        c'.scratch.get (x.addr ad l + k) = (x.storeBytes w.bytes d l).getD k 0) ∧
  (∀ (h : Hdr) (wide : Bool) (op : AOp) (d a b : Opnd) (ofs : BitVec 28) (s : State) (x : Ctx), s.ctx? h = some x →
    x.holdsRun d 1 [(0, d), (1, a), (2, b)] = true →
    (let n := if wide then 8 else 4
     let va (l : Nat) : Nat := x.addr (.o a ofs) l
     let new (l old : Nat) : Nat := atomNew op (8 * n) old ((x.srcI (8 * n) b l).toNat % 2 ^ (8 * n)) % 2 ^ (8 * n)
     scratchReady s x true true n (x.accesses (.o a ofs) n .atomic) = true →
     (x.act = 0 → ∃ t, exec (.atoms h wide op d a ofs b) s = .next t ∧ Passed s t x) ∧
     (x.act ≠ 0 → ∃ t g' c' o, ∃ old : Nat → Nat, exec (.atoms h wide op d a ofs b) s = .next t ∧ QuietFrame s t x.iss.who ∧
       t.crew? x.iss.who.crew = some c' ∧ t.group? x.iss.who = some g' ∧ x.c.GroupsOnly c' ∧
       x.g.IssueRest { g' with outs := x.g.outs } ∧ x.g.Hinted g' x.iss x.act h.s h.y ∧
       x.g.WentOn g' x.iss.set x.iss.len ∧ g'.outs = x.g.outs ++ [o] ∧ o.id = s.fresh ∧ o.kind = .atom ∧
       o.dst = d ∧ o.lanes = x.act ∧
       (∀ l, x.act.has l = true → ∃ m : LdRep, Instr.loadResultReturn m ∈ t.flight ∧
         m.req.origin = .group x.iss.who s.fresh l ∧ m.data = bytesOf (old l) 8 ∧ m.poison = false) ∧
       (∀ l, x.act.has l = true → (∀ m, m < l → x.act.has m = true → va m ≠ va l) →
         old l = leNat (x.c.scratch.read (va l) n)) ∧
       (∀ m l, m < l → x.act.has m = true → x.act.has l = true → va m = va l →
         (∀ k, m < k → k < l → x.act.has k = true → va k ≠ va l) → old l = new m (old m)) ∧
       (∀ l, x.act.has l = true → (∀ m, l < m → x.act.has m = true → va m ≠ va l) →
         c'.scratch.read (va l) n = bytesOf (new l (old l)) n) ∧
       ∀ k, (∀ l, x.act.has l = true → k < va l ∨ va l + n ≤ k) → c'.scratch.get k = x.c.scratch.get k)))

/-- LDG and LDC that meet nothing and wait for nothing, on every kind of page: completion, effect and frame. That a load waits at issue
while an older access of its group to its words is unanswered, and that the parts of an access that orders are asked for one after
another, is the model's reading (log 103). One that acquires,
or touches an SO page, asks for each lane's first part, and its group waits for the answer. The last clause is of one whose bytes,
some of them, stand in the group's own stores. -/
def Obligations.LoadWords : Prop :=
  ∀ (i : Instr) (h : Hdr) (w : MW) (sx ldc : Bool) (ord : Ord) (sc : Scope) (cp : Cp) (d : Opnd) (ad : Addr),
    (i = .ldg h w sx ord sc cp d ad ∧ ldc = false ∨
      ∃ a ofs, i = .ldc h w sx cp d a ofs ∧ ad = .o a ofs ∧ ldc = true ∧ ord = .plain ∧ sc = .grp) →
    ∀ s x, s.ctx? h = some x → x.holdsRun d (valueRegs w.bytes) ((0, d) :: addrFields ad) = true →
    (x.act = 0 → ∃ t, exec i s = .next t ∧ Passed s t x) ∧
    (let as := x.accesses ad w.bytes .load
     let so := s.anySo x as
     let far := s.anyFar x as
     let acq := so || (ord == .acq && s.ordActs x as)
     let clk (c : Nat) : Nat := if so then Ctx.synced s x .dev else c
     let own (l k : Nat) : Option Byte := x.g.forward (x.addr ad l + k)
     let asked (t : State) (g' : Group) (a : Access) (p : Nat × Nat) : Prop :=
       ∃ r : LdReq, r.origin = .group x.iss.who s.fresh a.lane ∧ r.va = p.1 ∧ r.n = p.2 ∧ r.asid = x.c.asid ∧
         r.lclk = clk x.c.lclk ∧ r.ldc = ldc ∧
         (Instr.loadRequestAtHome r ∈ t.flying ∨ acq = true ∧ Instr.loadRequestAtHome r ∈ g'.later ∨
           ∃ m b, m.req = { r with own := true } ∧ Instr.loadResultReturn m ∈ t.flying ∧
             findBlk (s.core x.c.core).l1 x.c.asid p.1 = some b ∧ m.data = b.read p.1 p.2 ∧ m.wt = b.wt)
     x.act ≠ 0 → globalReady s x true false false true as = true → ((so || far) = true → x.g.hasHeld = false) →
     (so = true → x.g.fenceWaits .dev = false) →
     (ldc = true ∨ as.all (fun a => !s.awaits x.iss.who a.lane x.c.asid a.va a.n) = true) →
     ((∀ l k, x.act.has l = true → k < w.bytes → own l k = none) →
       ∃ t g' c' o, exec i s = .next t ∧ IssueFrame s t x.iss.who ∧ (∀ k, k ≠ x.c.core → t.core k = s.core k) ∧
         t.group? x.iss.who = some g' ∧ t.crew? x.iss.who.crew = some c' ∧
         c' = { x.c with groups := c'.groups, lclk := clk x.c.lclk, sclk := clk x.c.sclk } ∧ x.g.SameRegs g' ∧
         x.g.SameTrap g' ∧ x.g.WentOn g' x.iss.set x.iss.len ∧ x.g.Hinted g' x.iss x.act h.s h.y ∧ g'.sb = x.g.sb ∧
         (far = true → Recorded x g') ∧ (far = false → g'.snap = x.g.snap ∧ g'.portSnap = x.g.portSnap) ∧
         g'.wait = (if acq then .acq s.fresh (if so then Scope.wider .dev (if ord == .acq then sc else .dev) else sc)
           else .none) ∧
         g'.outs = x.g.outs ++ [o] ∧ o.id = s.fresh ∧ o.lanes = x.act ∧ o.dst = d ∧ o.kind = .load w.bytes sx ∧
         ∀ a ∈ as, ∀ p ∈ s.parts x a, asked t g' a p) ∧
     (so = false → far = false → acq = false → (∀ o ∈ x.g.outs, o.id ≠ s.fresh) → (∀ r, x.g.wait ≠ .trap r) →
       ∃ t g', exec i s = .next t ∧ IssueFrame s t x.iss.who ∧ (∀ k, k ≠ x.c.core → t.core k = s.core k) ∧
         t.group? x.iss.who = some g' ∧ x.g.SameBut g' (if w.bytes ≤ 8 then [d] else [d, d.next]) ∧ x.g.SameTrap g' ∧
         x.g.WentOn g' x.iss.set x.iss.len ∧ g'.sb = x.g.sb ∧ g'.wait = .none ∧
         (∀ n l, d = .v n → w.bytes ≤ 8 → l < 32 → g'.rdV n.toNat l =
           if x.act.has l && (List.range w.bytes).all (fun k => (own l k).isSome) then
             loadValue w.bytes sx (BitVec.ofNat 64 (leNat ((List.range w.bytes).map fun k => (own l k).getD 0)))
           else x.g.rdV n.toNat l) ∧
         ∀ a ∈ as, (∃ k, k < w.bytes ∧ own a.lane k = none) →
           (∃ o ∈ g'.outs, o.id = s.fresh ∧ o.lanes.has a.lane = true ∧ o.dst = d ∧ o.kind = .load w.bytes sx ∧
             ∀ k b, k < w.bytes → own a.lane k = some b →
               Memory.get o.got (24 * a.lane + k) = b ∧ (24 * a.lane + k) ∈ o.own) ∧
           ∀ p ∈ s.parts x a, (∃ k, k < p.2 ∧ x.g.forward (p.1 + k) = none) → asked t g' a p))

/-- STG that meets nothing, on every kind of page: completion, effect and frame. That the parts of an access that orders leave one after
another is the model's reading (log 103). One that releases, or touches an SO, peer or
multicast page, commits at once; one that releases or touches an SO page sends each lane's first part alone. -/
def Obligations.StoreWord : Prop :=
  ∀ (h : Hdr) (w : MW) (ord : Ord) (sc : Scope) (cp : Cp) (d : Opnd) (ad : Addr) (s : State) (x : Ctx),
    s.ctx? h = some x → x.holdsRun d (valueRegs w.bytes) ((0, d) :: addrFields ad) = true →
    (x.act = 0 → ∃ t, exec (.stg h w ord sc cp d ad) s = .next t ∧ Passed s t x) ∧
    (let as := x.accesses ad w.bytes .store
     let so := s.anySo x as
     let bnd := so || s.anyFar x as
     let rel := ord == .rel && s.ordActs x as
     let parts := (as.map fun a => (s.parts x a).map fun p =>
       (a.lane, p.1, ((x.storeBytes w.bytes d a.lane).drop (p.1 - a.va)).take p.2)).flatten
     x.act ≠ 0 → globalReady s x false true true true as = true →
     (bnd = false → rel = false → (x.g.sb.filter (!·.committed)).length < 64 →
       ∃ t g' e, exec (.stg h w ord sc cp d ad) s = .next t ∧ Performed s t x g' ∧ x.g.SameRegs g' ∧ x.g.SameTrap g' ∧
         x.g.WentOn g' x.iss.set x.iss.len ∧ g'.sb = x.g.sb ++ [e] ∧ e.id = s.fresh ∧ e.committed = false ∧ e.cp = cp ∧
         e.parts.map (fun p => (p.lane, p.va, p.bytes)) = parts) ∧
     ((bnd || rel) = true → x.g.sb = [] →
       (∀ z, relScope so rel sc = some z → x.g.fenceWaits z = false ∧ (z.far && x.g.failMark) = false) →
       (let clk (c : Nat) : Nat := ((relScope so rel sc).map (Ctx.synced s x)).getD c
        ∃ t g' c' e, exec (.stg h w ord sc cp d ad) s = .next t ∧ IssueFrame s t x.iss.who ∧
          t.group? x.iss.who = some g' ∧ t.crew? x.iss.who.crew = some c' ∧
          c' = { x.c with groups := c'.groups, lclk := clk x.c.lclk, sclk := clk x.c.sclk } ∧ x.g.SameRegs g' ∧
          x.g.SameTrap g' ∧ x.g.WentOn g' x.iss.set x.iss.len ∧ (bnd = true → Recorded x g') ∧
          (bnd = false → g'.snap = x.g.snap ∧ g'.portSnap = x.g.portSnap) ∧
          g'.wait = (if so then .acq s.fresh .dev else .none) ∧ g'.sb = [e] ∧ e.id = s.fresh ∧ e.committed = true ∧
          e.cp = cp ∧ e.parts.map (fun p => (p.lane, p.va, p.bytes)) = parts ∧
          ∀ k p, e.parts[k]? = some p → ∃ m, m.origin = .group x.iss.who s.fresh p.lane ∧ m.part = k ∧ m.va = p.va ∧
            m.bytes = p.bytes ∧ m.asid = x.c.asid ∧ m.sclk = clk x.c.sclk ∧
            (Instr.storePerformedAtHome m ∈ t.flying ∨ (so || rel) = true ∧
              (∃ j q, j < k ∧ e.parts[j]? = some q ∧ q.lane = p.lane) ∧ Instr.storePerformedAtHome m ∈ g'.later))))

/-- The four global atomic words that meet nothing: completion, effect and frame, whatever their ordering and their page. -/
def Obligations.AtomicWords : Prop :=
  ∀ (i : Instr) (h : Hdr) (ord : Ord) (sc : Scope) (n : Nat) (op : Ctx → Nat → AtomOp) (bv : Ctx → Nat → Word)
      (dst : Option Opnd) (a b : Opnd) (ofs : BitVec 28),
    ((∃ wide o cp d, i = .atom h wide o ord sc cp d a ofs b ∧ n = (if wide then 8 else 4) ∧ dst = some d ∧
        op = (fun _ _ => .int o) ∧ bv = fun x l => x.srcI (8 * n) b l) ∨
     (∃ wide cp d, i = .atomc h wide ord sc cp d a ofs b ∧ n = (if wide then 8 else 4) ∧ dst = some d ∧
        op = (fun x l => .cas (x.src d l)) ∧ bv = fun x l => x.srcI (8 * n) b l) ∨
     (∃ ty o nr cp d, i = .atomf h ty o nr ord sc cp d a ofs b ∧ n = (if ty = .f64 then 8 else 4) ∧
        dst = (if nr then none else some d) ∧ op = (fun _ _ => .flt ty o) ∧ bv = fun x l => x.srcF ty.ty b l) ∨
     (∃ wide o cp, i = .red h wide o ord sc cp a ofs b ∧ n = (if wide then 8 else 4) ∧ dst = none ∧
        op = (fun _ _ => .int o) ∧ bv = fun x l => x.srcI (8 * n) b l)) →
    ∀ s x, s.ctx? h = some x → x.holdsRun (dst.getD .absent) 1 [(0, dst.getD .absent), (1, a), (2, b)] = true →
    (x.act = 0 → ∃ t, exec i s = .next t ∧ Passed s t x) ∧
    (let as := x.accesses (.o a ofs) n .atomic
     let rel := ord == .rel && s.ordActs x as
     let so := s.anySo x as
     let acq := so || (ord == .acq && s.ordActs x as)
     let clk (c : Nat) : Nat := ((relScope so rel sc).map (Ctx.synced s x)).getD c
     x.act ≠ 0 → x.g.hasHeld = false → as.all (fun q => q.va % n == 0) = true →
     globalReady s x true true false false as = true →
     (∀ z, relScope so rel sc = some z → x.g.fenceWaits z = false ∧ (z.far && x.g.failMark) = false) →
     ∃ t g' c', exec i s = .next t ∧ QuietFrame s t x.iss.who ∧ t.crew? x.iss.who.crew = some c' ∧
       t.group? x.iss.who = some g' ∧ c' = { x.c with groups := c'.groups, lclk := c'.lclk, sclk := c'.sclk } ∧
       c'.lclk = clk x.c.lclk ∧ c'.sclk = clk x.c.sclk ∧
       x.g.SameRegs g' ∧ x.g.SameTrap g' ∧ x.g.WentOn g' x.iss.set x.iss.len ∧ Recorded x g' ∧
       g'.wait = (if acq then .acq s.fresh (if so then Scope.wider .dev (if ord == .acq then sc else .dev) else sc)
         else .none) ∧
       (match dst with
         | some d => ∃ o, g'.outs = x.g.outs ++ [o] ∧ o.id = s.fresh ∧ o.lanes = x.act ∧ o.dst = d ∧ o.kind = .atom
         | none => g'.outs = x.g.outs ∧ g'.reds = x.g.reds ++ [(s.fresh, x.act)]) ∧
       ∀ l, x.act.has l = true → ∃ m : AtMsg, Instr.atomicAtHome m ∈ t.flying ∧
         m.origin = .group x.iss.who s.fresh l ∧ m.va = x.addr (.o a ofs) l ∧ m.n = n ∧ m.op = op x l ∧ m.b = bv x l ∧
         m.asid = x.c.asid ∧ m.sclk = c'.sclk ∧ m.lclk = c'.lclk)

/-- FENCE: completion, effect and frame where nothing is awaited; and where its scope has accesses outstanding, or FENCE.ASYNC a
copy, it waits at the head, both clocks at their maximum, and changes nothing else. That it waits for outstanding accesses other than
committed stores is the model's reading (log 38), and that FENCE.ASYNC passes over a stopped copy its choice (log 130). -/
def Obligations.FenceWord : Prop :=
  ∀ (h : Hdr) (sc : Scope) (async : Bool) (s : State) (x : Ctx), s.ctx? h = some x →
    (x.act = 0 → ∃ t, exec (.fence h sc async) s = .next t ∧ Passed s t x) ∧
    (x.act ≠ 0 → x.g.hasHeld = false → x.g.fenceWaits sc = false → (sc.far && x.g.failMark) = false →
      (async = true → x.c.copies.all (fun k => k.grp != x.iss.who.grp || k.stopped) = true) →
      ∃ t g' c', exec (.fence h sc async) s = .next t ∧ QuietFrame s t x.iss.who ∧ t.group? x.iss.who = some g' ∧
        t.crew? x.iss.who.crew = some c' ∧ c' = { x.c with groups := c'.groups, lclk := c'.lclk, sclk := c'.sclk } ∧
        x.g.IssueRest g' ∧ x.g.WentOn g' x.iss.set x.iss.len ∧
        c'.lclk = max (Ctx.synced s x sc) (if async then x.g.copyWt else 0) ∧ c'.sclk = c'.lclk) ∧
    (x.act ≠ 0 → x.g.hasHeld = false → (sc.far && x.g.failMark) = false →
      (x.g.fenceWaits sc = true ∨
        async = true ∧ x.c.copies.any (fun k => k.grp == x.iss.who.grp && !k.stopped) = true) →
      ∃ t g' c', exec (.fence h sc async) s = .next t ∧ QuietFrame s t x.iss.who ∧ t.group? x.iss.who = some g' ∧
        t.crew? x.iss.who.crew = some c' ∧ c' = { x.c with groups := c'.groups, lclk := c'.lclk, sclk := c'.sclk } ∧
        g' = { x.g with wait := .retry s.cycle, phase := 1, head := some x.iss, lastIssue := g'.lastIssue } ∧
        (x.g.phase = 0 ∨ x.g.fenceWaits sc = false → c'.lclk = Ctx.synced s x sc ∧ c'.sclk = Ctx.synced s x sc) ∧
        (x.g.phase ≠ 0 → x.g.fenceWaits sc = true → c'.lclk = x.c.lclk ∧ c'.sclk = x.c.sclk))

/-- Range maintenance: completion, effect and frame of FLUSH, INVAL, PREF and RENEW. After FLUSH, and after INVAL of `.DIE` or wider,
the newer words are in memory, where no two home blocks stand for the same bytes. That a lane of length 0 is checked for nothing is the
model's choice (log 112), that the page of the lane's address alone is checked its reading (log 49), and that PREF is
dropped on a multicast page its choice between two rules (log 118). -/
def Obligations.RangeWords : Prop :=
  (∀ (i : Instr) (h : Hdr) (a b : Opnd) (ofs : BitVec 28) (s : State) (x : Ctx),
    (i = .flush h a ofs b ∨ ∃ sc, i = .inval h sc a ofs b) → s.ctx? h = some x → x.holds [(1, a), (2, b)] = true → x.act = 0 →
    ∃ t, exec i s = .next t ∧ Passed s t x) ∧
  (∀ (h : Hdr) (a b : Opnd) (ofs : BitVec 28) (s : State) (x : Ctx), s.ctx? h = some x → x.act ≠ 0 →
    x.holds [(1, a), (2, b)] = true → x.g.sb = [] → rangeReady s x a ofs b = true →
    ∃ t g', exec (.flush h a ofs b) s = .next t ∧ t.group? x.iss.who = some g' ∧ x.g.IssueRest g' ∧
      x.g.WentOn g' x.iss.set x.iss.len ∧
      IssueFrame s { t with slices := s.slices, hbm := s.hbm, host := s.host, hbmPoison := s.hbmPoison
                            hostPoison := s.hostPoison } x.iss.who ∧
      (∀ i, (t.slice i).loc = (s.slice i).loc ∧ (t.slice i).marks = (s.slice i).marks ∧
        (t.slice i).home.map (fun k => { k with dirty := 0 }) = (s.slice i).home.map fun k => { k with dirty := 0 }) ∧
      (∀ l, x.act.has l = true → ∀ e ∈ t.slices, ∀ k ∈ e.2.home, s.zdown = none ∨ k.ap ≠ .host →
        k.dirty &&& k.inRange x.c.asid (x.range a ofs b l).1 (x.range a ofs b l).2 = 0) ∧
      (let newer (k : Blk) (q : Nat) : Bool := x.act.lanes.any fun l =>
         (k.dirty &&& k.inRange x.c.asid (x.range a ofs b l).1 (x.range a ofs b l).2).has q
       (∀ y, (∀ e ∈ s.slices, ∀ k ∈ e.2.home, ∀ q, newer k q = true → y < k.pa + 16 * q ∨ k.pa + 16 * q + 16 ≤ y) →
         t.hbm.get y = s.hbm.get y ∧ t.host.get y = s.host.get y) ∧
       (s.HomesApart → ∀ e ∈ s.slices, ∀ k ∈ e.2.home, ∀ q, q < 32 → newer k q = true →
         (k.ap = .host → s.zdown = none) → t.backs k q))) ∧
  (∀ (h : Hdr) (sc : Scope) (a b : Opnd) (ofs : BitVec 28) (s : State) (x : Ctx), s.ctx? h = some x → x.act ≠ 0 →
    x.holds [(1, a), (2, b)] = true → x.g.sb = [] → rangeReady s x a ofs b = true →
    ∃ t g', exec (.inval h sc a ofs b) s = .next t ∧ t.group? x.iss.who = some g' ∧ x.g.IssueRest g' ∧
      x.g.WentOn g' x.iss.set x.iss.len ∧ (∀ id, id ≠ x.iss.who.crew → t.crew? id = s.crew? id) ∧ t.queues = s.queues ∧
      (∀ k, k ≠ x.c.core → t.core k = s.core k) ∧
      (∀ l, x.act.has l = true → ∀ k ∈ (t.core x.c.core).l1,
        k.inRange x.c.asid (x.range a ofs b l).1 (x.range a ofs b l).2 = 0) ∧
      (sc.code.toNat < 4 → t.slices = s.slices ∧ t.hbm = s.hbm ∧ t.host = s.host) ∧
      (4 ≤ sc.code.toNat → ∀ l, x.act.has l = true → ∀ e ∈ t.slices,
        (∀ k ∈ e.2.loc, k.inRange x.c.asid (x.range a ofs b l).1 (x.range a ofs b l).2 = 0) ∧
        ∀ k ∈ e.2.home, k.inRange x.c.asid (x.range a ofs b l).1 (x.range a ofs b l).2 ≠ 0 →
          s.zshut = true ∧ k.ap = .host ∧ k.dirty ≠ 0) ∧
      (4 ≤ sc.code.toNat → s.HomesApart → ∀ l, x.act.has l = true → ∀ e ∈ s.slices, ∀ k ∈ e.2.home,
        k.inRange x.c.asid (x.range a ofs b l).1 (x.range a ofs b l).2 ≠ 0 → (k.ap = .host → s.zshut = false) →
        ∀ q, q < 32 → k.dirty.has q = true → t.backs k q)) ∧
  (∀ (h : Hdr) (cp : Cp) (a b : Opnd) (ofs : BitVec 28) (s : State) (x : Ctx), s.ctx? h = some x →
    x.holds [(1, a), (2, b)] = true →
    (x.accesses (.o a ofs) 1 .load).all (fun q => lookAttr (s.core x.c.core) x.g x.c.asid .load q.va != .probe) = true →
    ∃ t, exec (.pref h cp a ofs b) s = .next t ∧ Passed s t x ∧
      (let near (va : Nat) : Bool := (s.peek x.c.asid va).any fun y =>
         y.attr.r && !y.beyond && (y.attr.ap == .hbm || y.attr.ap == .host) && !inWindow y.attr.ap y.pa
       ∀ l u, x.act.has l = true →
         lookAttr (s.core x.c.core) x.g x.c.asid .load (x.addr (.o a ofs) l) = .ok u → (u.ap = .hbm ∨ u.ap = .host) →
         s.windowAt x.c.asid (x.addr (.o a ofs) l) u = false →
         ((x.src b l).toNat % 2 ^ 32 = 0 → near (x.addr (.o a ofs) l) = true →
           ∃ r, Instr.loadRequestAtHome r ∈ t.flying ∧ r.pref = true ∧ r.origin = .none ∧ r.core = x.c.core ∧
             r.asid = x.c.asid ∧ r.va = x.addr (.o a ofs) l ∧ r.cp = cp) ∧
         ((x.src b l).toNat % 2 ^ 32 ≠ 0 →
           (let q := x.range a ofs b l
            ∀ va, q.1 ≤ va → va < q.2 → near (max q.1 (va / 512 * 512)) = true →
              ∃ r, Instr.loadRequestAtHome r ∈ t.flying ∧ r.pref = true ∧ r.origin = .none ∧ r.core = x.c.core ∧
                r.asid = x.c.asid ∧ r.cp = cp ∧ r.va / 512 = va / 512 ∧ r.first ≤ wordOf va ∧ wordOf va ≤ r.last))) ) ∧
  (∀ (h : Hdr) (a : Opnd) (ofs : BitVec 28) (s : State) (x : Ctx), s.ctx? h = some x → x.holds [(1, a)] = true →
    renewReady s x a ofs = true →
    ∃ t g', exec (.renew h a ofs) s = .next t ∧ Performed s t x g' ∧ x.g.SameRegs g' ∧ x.g.SameTrap g' ∧
      x.g.WentOn g' x.iss.set x.iss.len ∧ ∀ l, x.act.has l = true →
        (let u := x.attr s (x.addr (.o a ofs) l)
         u.ap ≠ .peer → u.ap ≠ .mcast → s.windowAt x.c.asid (x.addr (.o a ofs) l) u = false →
         (∃ m, (s.fresh, m) ∈ g'.reds ∧ m.has l = true) ∧
         ∃ r, Instr.loadRequestAtHome r ∈ t.flying ∧ r.renew = true ∧ r.origin = .group x.iss.who s.fresh l ∧
           r.asid = x.c.asid ∧ r.va = x.addr (.o a ofs) l ∧ r.lclk = x.c.lclk))

/-- R233 with its frame. -/
def Obligations.TsadvWord : Prop :=
  ∀ (h : Hdr) (l sc : Bool) (a : Opnd) (s : State) (x : Ctx), s.ctx? h = some x → x.holds [(1, a)] = true →
    ∃ t g' c', exec (.tsadv h l sc a) s = .next t ∧ QuietFrame s t x.iss.who ∧ t.group? x.iss.who = some g' ∧
      t.crew? x.iss.who.crew = some c' ∧ c' = { x.c with groups := c'.groups, lclk := c'.lclk, sclk := c'.sclk } ∧
      x.g.IssueRest g' ∧ x.g.WentOn g' x.iss.set x.iss.len ∧
      (let n := if x.act = 0 then 0 else (x.src a (x.act.low.getD 0)).toNat % 2 ^ 32
       c'.lclk = x.c.lclk + (if l then n else 0) ∧ c'.sclk = x.c.sclk + if sc then n else 0)

/-- R235 to R237: completion, effect and frame; and where the words trap or wait. That a TREL of an armed entry with a fill under way
waits is the model's reading (log 54). -/
def Obligations.TileWords : Prop :=
  (∀ (i : Instr) (h : Hdr) (fs : List (Nat × Opnd)) (s : State) (x : Ctx),
    ((∃ t b, i = .tstateArm h t b ∧ fs = [(1, t), (2, b)]) ∨ (∃ t, i = .trel h t ∧ fs = [(1, t)]) ∨
      ∃ p t b, i = .hand h p t b ∧ fs = [(0, p), (1, t), (2, b)]) →
    s.ctx? h = some x → x.holds fs = true → x.act = 0 → ∃ t, exec i s = .next t ∧ Passed s t x) ∧
  (∀ (h : Hdr) (n : BitVec 7) (b : Opnd) (s : State) (x : Ctx), s.ctx? h = some x → x.act ≠ 0 →
    x.holds [(1, .tile n), (2, b)] = true → (x.c.tile n.toNat).st = .empty → (x.c.tile n.toNat).handed = false →
    ∃ t g' c', exec (.tstateArm h (.tile n) b) s = .next t ∧ QuietFrame s t x.iss.who ∧ t.group? x.iss.who = some g' ∧
      t.crew? x.iss.who.crew = some c' ∧ x.g.IssueRest g' ∧ x.g.WentOn g' x.iss.set x.iss.len ∧
      c' = { x.c with groups := c'.groups, tiles := c'.tiles } ∧ (n.toNat < x.c.tiles.length →
        (c'.tile n.toNat).st = .filling ∧ (c'.tile n.toNat).armed = true ∧
        (c'.tile n.toNat).key = (x.src b (x.act.low.getD 0)).setWidth 16) ∧
      ∀ k, k ≠ n.toNat → c'.tile k = x.c.tile k) ∧
  (∀ (h : Hdr) (n : BitVec 7) (s : State) (x : Ctx), s.ctx? h = some x → x.act ≠ 0 → x.holds [(1, .tile n)] = true →
    ((x.c.tile n.toNat).handed = true ∨ (x.c.tile n.toNat).st = .ready ∨ (x.c.tile n.toNat).st = .empty ∨
      ((x.c.tile n.toNat).st = .filling ∧ (x.c.tile n.toNat).armed = true ∧ (x.c.tile n.toNat).fills = 0)) →
    ∃ t g' c', exec (.trel h (.tile n)) s = .next t ∧ QuietFrame s t x.iss.who ∧ t.group? x.iss.who = some g' ∧
      t.crew? x.iss.who.crew = some c' ∧ x.g.IssueRest g' ∧ x.g.WentOn g' x.iss.set x.iss.len ∧
      c' = { x.c with groups := c'.groups, tiles := c'.tiles } ∧ (c'.tile n.toNat).st = .empty ∧
      (c'.tile n.toNat).handed = false ∧ ∀ k, k ≠ n.toNat → c'.tile k = x.c.tile k) ∧
  (∀ (h : Hdr) (p : BitVec 4) (n : BitVec 7) (b : Opnd) (s : State) (x : Ctx), s.ctx? h = some x → x.act ≠ 0 →
    x.holds [(0, .p p), (1, .tile n), (2, b)] = true → (x.c.tile n.toNat).st = .ready →
    (x.c.tile n.toNat).handed = false →
    (let v := x.src b (x.act.low.getD 0)
     let arms := s.arms (clusterCore x.c.core (fld v 0 2)) x.c.vf (x.c.tile n.toNat).size (v.extractLsb' 16 16)
     (arms = [] →
       ∃ t g', exec (.hand h (.p p) (.tile n) b) s = .next t ∧ Performed s t x g' ∧ x.g.SameBut g' [.p p] ∧
         x.g.SameTrap g' ∧ x.g.WentOn g' x.iss.set x.iss.len ∧ (p ≠ 15 → g'.rdP p.toNat &&& x.act = 0)) ∧
     (arms ≠ [] → s.copiesOn x.c.core < 128 →
       ∃ t g' c' k r, exec (.hand h (.p p) (.tile n) b) s = .next t ∧ t.group? x.iss.who = some g' ∧
         t.crew? x.iss.who.crew = some c' ∧ x.g.SameBut g' [.p p] ∧ x.g.SameTrap g' ∧
         x.g.WentOn g' x.iss.set x.iss.len ∧ g'.rdP p.toNat &&& x.act = x.act ∧
         r ∈ arms ∧ (∀ y ∈ arms, r.order ≤ y.order) ∧ c'.copies = x.c.copies ++ [k] ∧ k.kind = .hand ∧ k.id = s.fresh ∧
         k.tile = n.toNat ∧ k.toCrew = r.crew ∧ k.toTile = r.tile ∧
         k.data = x.c.scratch.read (x.c.tileBase n.toNat) (x.c.tile n.toNat).size ∧
         (∀ id, id ≠ x.iss.who.crew → id ≠ r.crew → t.crew? id = s.crew? id) ∧
         Instr.handTransferComplete x.iss.who.crew s.fresh ∈ t.flight ∧
         t = { s with crews := t.crews, cores := t.cores, win := t.win, stop := t.stop, flight := t.flight, net := t.net
                      ptr := t.ptr, svcWait := t.svcWait, fresh := t.fresh } ∧
         (∀ o, obsReg o = false → t.reg o = s.reg o) ∧ (∀ i, Core.IssueOnly (s.core i) (t.core i)) ∧
         c' = { x.c with groups := c'.groups, tiles := c'.tiles, copies := c'.copies } ∧
         (n.toNat < x.c.tiles.length → (c'.tile n.toNat).st = .draining) ∧
         (r.crew = x.iss.who.crew → r.tile < x.c.tiles.length → r.tile ≠ n.toNat →
           c'.tile r.tile = { x.c.tile r.tile with fills := (x.c.tile r.tile).fills + 1 } ∧
           ∀ i, i ≠ n.toNat → i ≠ r.tile → c'.tile i = x.c.tile i) ∧
         (r.crew ≠ x.iss.who.crew → (∀ i, i ≠ n.toNat → c'.tile i = x.c.tile i) ∧
           ∀ y, s.crew? r.crew = some y → r.tile < y.tiles.length → ∃ y', t.crew? r.crew = some y' ∧
             y' = { y with tiles := y'.tiles } ∧
             y'.tile r.tile = { y.tile r.tile with fills := (y.tile r.tile).fills + 1 } ∧
             ∀ i, i ≠ r.tile → y'.tile i = y.tile i)))) ∧
  (∀ (h : Hdr) (n : BitVec 7) (b : Opnd) (s : State) (x : Ctx), s.ctx? h = some x → x.act ≠ 0 → trapReady s x = true →
    x.holds [(1, .tile n), (2, b)] = true → ((x.c.tile n.toNat).st ≠ .empty ∨ (x.c.tile n.toNat).handed = true) →
    ∃ t, exec (.tstateArm h (.tile n) b) s = .next t ∧ TrapsWith s t x
      { cause := 0x08, lanes := x.act, info := info08 0 n.toNat (x.c.tile n.toNat), pc := x.iss.pc }) ∧
  (∀ (h : Hdr) (p n : Opnd) (b : Opnd) (s : State) (x : Ctx), s.ctx? h = some x → x.act ≠ 0 → trapReady s x = true →
    x.holds [(0, p), (1, n), (2, b)] = true → (x.c.tile (tileNo n)).gone = true →
    ∃ t, exec (.hand h p n b) s = .next t ∧ TrapsWith s t x
      { cause := 0x08, lanes := x.act, info := info08 0 (tileNo n) (x.c.tile (tileNo n)), pc := x.iss.pc }) ∧
  (∀ (i : Instr) (h : Hdr) (n : BitVec 7) (fs : List (Nat × Opnd)) (s : State) (x : Ctx), s.ctx? h = some x → x.act ≠ 0 →
    x.holds fs = true → (x.c.tile n.toNat).handed = false →
    (i = .trel h (.tile n) ∧ fs = [(1, .tile n)] ∧ ((x.c.tile n.toNat).st = .draining ∨
        (x.c.tile n.toNat).st = .filling ∧ ((x.c.tile n.toNat).armed = false ∨ (x.c.tile n.toNat).fills ≠ 0)) ∨
      ∃ p b, i = .hand h p (.tile n) b ∧ fs = [(0, p), (1, .tile n), (2, b)] ∧
        ((x.c.tile n.toNat).st = .filling ∨ (x.c.tile n.toNat).st = .draining ∨
          (x.c.tile n.toNat).st = .ready ∧ 128 ≤ s.copiesOn x.c.core ∧
            s.arms (clusterCore x.c.core (fld (x.src b (x.act.low.getD 0)) 0 2)) x.c.vf (x.c.tile n.toNat).size
              ((x.src b (x.act.low.getD 0)).extractLsb' 16 16) ≠ [])) →
    ∃ t g', exec i s = .next t ∧ Performed s t x g' ∧ g' = { x.g with wait := .retry s.cycle })

/-- The six copy words: completion, effect and frame, of a copy of no bytes and of one that begins, with the rows of its operands, those
of no bytes left out; a row's end in a tile counts from the tile's place in the scratchpad. That the checks of a copy of no bytes still
run is the model's reading (log 52). -/
def Obligations.CopyWords : Prop :=
  ∀ (i : Instr) (h : Hdr) (fs : List (Nat × Opnd)) (cp : Cp) (plan : Ctx → Plan), CopyOf i h fs cp plan →
    ∀ s x, s.ctx? h = some x → x.holds fs = true → x.off = 0 →
    ((plan x).runs.all (fun r => r.n == 0) = true → (copyTile (plan x).kind (x.c.tile (plan x).tile)).1 = false →
      ∃ t, exec i s = .next t ∧ Passed s t x) ∧
    ((plan x).runs.all (fun r => r.n == 0) = false → x.g.hasHeld = false → copyReady s x (plan x) = true →
      ∃ t g' c' k, exec i s = .next t ∧ QuietFrame s t x.iss.who ∧ t.group? x.iss.who = some g' ∧
        t.crew? x.iss.who.crew = some c' ∧ x.g.SameRegs g' ∧ x.g.SameTrap g' ∧ x.g.WentOn g' x.iss.set x.iss.len ∧
        c' = { x.c with groups := c'.groups, tiles := c'.tiles, copies := c'.copies } ∧ c'.copies = x.c.copies ++ [k] ∧
        k.id = s.fresh ∧ k.kind = (plan x).kind ∧ k.grp = x.iss.who.grp ∧ k.cp = cp ∧ k.lclk = x.c.lclk ∧
        k.sclk = x.c.sclk ∧ k.word = (plan x).word ∧
        k.runs = ((plan x).runs.filter fun r => r.n != 0).map (fun r => match (plan x).kind with
          | .g2t => { r with dst := x.c.tileBase (plan x).tile + r.dst }
          | .t2g => { r with src := x.c.tileBase (plan x).tile + r.src }
          | _ => r) ∧
        Instr.copyChunkComplete x.iss.who.crew s.fresh ∈ t.flight ∧
        ((plan x).kind = .g2t → (plan x).tile < x.c.tiles.length → (c'.tile (plan x).tile).st = .filling) ∧
        ((plan x).kind = .t2g → (plan x).tile < x.c.tiles.length → (c'.tile (plan x).tile).st = .draining) ∧
        (∀ n, n ≠ (plan x).tile → c'.tile n = x.c.tile n) ∧ ((plan x).kind = .g2g → Recorded x g' ∧ c'.tiles = x.c.tiles))

/-- R245 and R247: completion, effect and frame. -/
def Obligations.StreamWords : Prop :=
  (∀ (i : Instr) (h : Hdr) (fs : List (Nat × Opnd)) (s : State) (x : Ctx),
    ((∃ wr st p t b c, i = .spset h wr st p t b c ∧ fs = [(1, t), (2, b), (3, c)]) ∨
      ∃ p b, i = .sprst h p b ∧ fs = [(2, b)]) →
    s.ctx? h = some x → x.holds fs = true → x.act = 0 → ∃ t, exec i s = .next t ∧ Passed s t x) ∧
  (∀ (h : Hdr) (wr : Bool) (stride : BitVec 12) (p : BitVec 3) (n : BitVec 7) (b c : Opnd) (s : State) (x : Ctx),
    s.ctx? h = some x → x.act ≠ 0 → x.holds [(1, .tile n), (2, b), (3, c)] = true →
    (let ofs := (x.src b (x.act.low.getD 0)).toNat % 2 ^ 32
     let count := (x.src c (x.act.low.getD 0)).toNat % 2 ^ 32
     (count = 0 ∨ ofs % 8 = 0 ∧ ofs + (count - 1) * 8 * stride.toNat + 256 ≤ (x.c.tile n.toNat).size) →
     ∃ t g', exec (.spset h wr stride (.sp p) (.tile n) b c) s = .next t ∧ Performed s t x g' ∧ x.g.SameRegs g' ∧
       x.g.SameTrap g' ∧ x.g.WentOn g' x.iss.set x.iss.len ∧ (∀ k, k ≠ p.toNat → g'.port k = x.g.port k) ∧
       (count = 0 → g'.port p.toNat = Port.none) ∧
       (count ≠ 0 → g'.port p.toNat =
         { tile := n.toNat, ofs := ofs, count := count, stride := stride.toNat, wr := wr, pos := 0 }))) ∧
  (∀ (h : Hdr) (p : BitVec 3) (b : Opnd) (s : State) (x : Ctx), s.ctx? h = some x → x.act ≠ 0 →
    x.holds [(2, b)] = true → (x.src b (x.act.low.getD 0)).toNat % 2 ^ 32 ≤ (x.g.port p.toNat).count →
    ∃ t g', exec (.sprst h (.sp p) b) s = .next t ∧ Performed s t x g' ∧ x.g.SameRegs g' ∧ x.g.SameTrap g' ∧
      x.g.WentOn g' x.iss.set x.iss.len ∧ (∀ k, k ≠ p.toNat → g'.port k = x.g.port k) ∧
      g'.port p.toNat = { x.g.port p.toNat with pos := (x.src b (x.act.low.getD 0)).toNat % 2 ^ 32 })

/-- The five enqueue words: with no active lane, as their queues are asked, one queue after another, and as the last answer has
come. -/
def Obligations.EnqueueWords : Prop :=
  ∀ (i : Instr) (e : EnqWord),
    ((∃ h p a q st, i = .enq h p a q st ∧ e = { h := h, p := p, a := a, q := q, st := st }) ∨
     (∃ h p a q st, i = .enqt h p a q st ∧ e = { h := h, p := p, a := a, q := q, st := st, scratch := true }) ∨
     (∃ h p a q st, i = .enqw h p a q st ∧ e = { h := h, p := p, a := a, q := q, st := st, waits := true }) ∨
     (∃ h p a q st, i = .enqwt h p a q st ∧
       e = { h := h, p := p, a := a, q := q, st := st, scratch := true, waits := true }) ∨
     (∃ h p a q, i = .spawn h p a q ∧ e = { h := h, p := p, a := a, q := q, spawn := true })) →
    ∀ s x (pn : BitVec 4), s.ctx? e.h = some x → x.holds e.fs = true → e.p = .p pn →
    (x.act = 0 → ∃ t, exec i s = .next t ∧ Passed s t x) ∧
    (let sc := e.scope s x
     x.act ≠ 0 → x.g.hasAnswers = false → x.g.hasHeld = false → enqReady s x e = true → x.g.fenceWaits sc = false →
     (sc.far && x.g.failMark) = false →
     ∃ t g' c' m, exec i s = .next t ∧ Asked s t x g' ∧ t.crew? x.iss.who.crew = some c' ∧
       c' = { x.c with groups := c'.groups, lclk := Ctx.synced s x sc, sclk := Ctx.synced s x sc } ∧
       Instr.queueAppendAtHome m ∈ t.flying ∧ Appends s x e x.act (Ctx.synced s x sc) m) ∧
    (let ans (l : Nat) : Nat := sget 0 x.g.answers l
     let left : Mask := Mask.ofFn fun l => x.act.has l && ans l == 0
     let acc : Mask := Mask.ofFn fun l => x.act.has l && ans l % 4 == 1
     (x.g.hasAnswers = true → left ≠ 0 → x.act.lanes.all (fun l => ans l % 4 != 3) = true →
       x.act.lanes.all (fun l => (e.queue? s x l).any fun q => decide (q.num < 4096)) = true →
       ∃ t g' m, exec i s = .next t ∧ Asked s t x g' ∧ Instr.queueAppendAtHome m ∈ t.flying ∧
         Appends s x e left x.c.sclk m) ∧
     (x.act ≠ 0 → x.act.lanes.all (fun l => ans l % 4 == 1 || ans l % 4 == 2) = true →
       ∃ t g', exec i s = .next t ∧ t.group? x.iss.who = some g' ∧
         (e.spawn = false → Recorded x g') ∧
         (e.spawn = false ∨ x.g.remain &&& ~~~acc ≠ 0 →
           Performed s t x g' ∧ x.g.SameBut g' [e.p, e.st] ∧ x.g.SameTrap g' ∧ g'.wait = .none ∧
           (x.g.handler = false → g'.portSnap = x.g.ports) ∧
           (∀ l, x.act.has l = true → pn ≠ 15 → (g'.rdP pn.toNat).has l = acc.has l) ∧
           (∀ n l, e.st.isV n = true → l < 32 → x.act.has l = true →
             g'.rdV n l = BitVec.ofNat 64 (if acc.has l then ans l / 4 else 2 ^ 63 + ans l / 4)) ∧
           (∀ n l, e.st.isV n = true → l < 32 → x.act.has l = false → g'.rdV n l = x.g.rdV n l) ∧
           ∀ l, l < 32 → if e.spawn && acc.has l then (g'.lpOf l).st = .exited
             else (g'.lpOf l).pc = (x.g.lpOf l).pc + (if x.iss.set.has l then BitVec.ofNat 48 x.iss.len else 0)) ∧
         (e.spawn = true → x.g.remain &&& ~~~acc = 0 → g'.handler = false ∧
           (x.g.handler = false → g'.finished = true ∧ ∀ l, l < 32 → acc.has l = true → (g'.lpOf l).st = .exited))))

/-- DEQ, QLEN and ARM: completion, effect and frame, on a queue and on a range, of an ARM, a disarm and a refusal. That DEQ of a range
stage records the boundary too is the model's choice between R257 and R260 (log 132); that QLEN asks the home where no summary has come
its choice as well (log 112), and that its register is written when its result returns its reading (log 43). -/
def Obligations.DequeueWords : Prop :=
  (∀ (i : Instr) (h : Hdr) (fs : List (Nat × Opnd)) (s : State) (x : Ctx),
    ((∃ vd vs p, i = .deq h vd vs p ∧ fs = [(0, vd)] ++ (if vs = .absent then [] else [(2, vs)]) ++ [(3, p)]) ∨
      (∃ e d q, i = .qlen h e d q ∧ fs = [(0, d), (1, q)]) ∨
      ∃ p q tag base lc ls, i = .arm h p q tag base lc ls ∧ fs = [(0, p), (1, q), (2, tag), (3, base)]) →
    s.ctx? h = some x → x.holds fs = true → x.act = 0 → ∃ t, exec i s = .next t ∧ Passed s t x) ∧
  (∀ (h : Hdr) (vd vs p : Opnd) (s : State) (x : Ctx), s.ctx? h = some x → x.act ≠ 0 → x.g.hasHeld = false →
    x.holds ([(0, vd)] ++ (if vs = .absent then [] else [(2, vs)]) ++ [(3, p)]) = true →
    ((∀ st q, s.stage? x.c.stage = some st → st.inp ≠ .queue q) →
      ∃ t g', exec (.deq h vd vs p) s = .next t ∧ Performed s t x g' ∧ x.g.SameBut g' [p] ∧ x.g.SameTrap g' ∧
        Recorded x g' ∧ x.g.WentOn g' x.iss.set x.iss.len ∧ ∀ n, p.isP n = true → n ≠ 15 → g'.rdP n &&& x.act = 0) ∧
    ((∃ st q, s.stage? x.c.stage = some st ∧ st.inp = .queue q) →
      ∃ t g' o, exec (.deq h vd vs p) s = .next t ∧ Performed s t x g' ∧ x.g.SameRegs g' ∧ x.g.SameTrap g' ∧
        Recorded x g' ∧ x.g.WentOn g' x.iss.set x.iss.len ∧ g'.outs = x.g.outs ++ [o] ∧ o.id = s.fresh ∧ o.kind = .deq ∧
        o.lanes = x.act ∧ o.dst = vd ∧ o.dst2 = vs ∧ (∀ n, p = .p n → o.pred = n) ∧
        Instr.claimAtHome { stage := x.c.stage, kind := .deq x.iss.who s.fresh x.act, sclk := x.c.sclk } ∈ t.flying)) ∧
  (∀ (h : Hdr) (exact : Bool) (d q : Opnd) (s : State) (x : Ctx), s.ctx? h = some x → x.act ≠ 0 →
    x.holds [(0, d), (1, q)] = true → x.act.lanes.all (fun l => (s.handle? x.c.graph x.c.vf (x.src q l)).isSome) = true →
    ∃ t g' o, exec (.qlen h exact d q) s = .next t ∧ Performed s t x g' ∧ x.g.SameRegs g' ∧ x.g.SameTrap g' ∧
      x.g.WentOn g' x.iss.set x.iss.len ∧ g'.outs = x.g.outs ++ [o] ∧ o.id = s.fresh ∧ o.kind = .qlen ∧ o.dst = d ∧
      o.lanes = x.act ∧ ∀ l r, x.act.has l = true → s.handle? x.c.graph x.c.vf (x.src q l) = some r →
        match s.qlenSum x.c.core exact r with
        | some n => ∃ m : LdRep, Instr.loadResultReturn m ∈ t.flying ∧ m.req.origin = .group x.iss.who s.fresh l ∧
            m.data = bytesOf (qlenWord r.lq n) 8
        | none => ∃ m : LdReq, Instr.loadRequestAtHome m ∈ t.flying ∧ m.origin = .group x.iss.who s.fresh l ∧
            m.qlen = some r.num) ∧
  (∀ (h : Hdr) (pn : BitVec 4) (q tag base : Opnd) (lcnt lslot : BitVec 4) (s : State) (x : Ctx) (l : Nat) (r : Queue),
    s.ctx? h = some x → x.holds [(0, .p pn), (1, q), (2, tag), (3, base)] = true → x.g.hasHeld = false →
    x.act.low = some l → x.act.lanes.all (fun l => (s.handle? x.c.graph x.c.vf (x.src q l)).isSome) = true →
    s.handle? x.c.graph x.c.vf (x.src q l) = some r →
    (x.scalar tag ≠ 0 → (x.scalar base).toNat % 4096 = 0 ∧
      (runPages (x.scalar base).toNat (2 ^ (lcnt.toNat + lslot.toNat + 6))).all (fun va =>
        match lookAttr (s.core x.c.core) x.g x.c.asid .queue va with
          | .ok _ => true
          | _ => false) = true) →
    (let taken := s.queues.any fun y => y.tag == (x.scalar tag).toNat && y.num != r.num
     let ok := x.scalar tag = 0 ∨ taken = false ∧ 32 ≤ r.size
     ∃ t g', exec (.arm h (.p pn) q tag base lcnt lslot) s = .next t ∧ QuietFrame s { t with queues := s.queues } x.iss.who ∧
       t.group? x.iss.who = some g' ∧ x.g.SameBut g' [.p pn] ∧ x.g.SameTrap g' ∧ x.g.WentOn g' x.iss.set x.iss.len ∧
       Recorded x g' ∧ (ok → pn ≠ 15 → g'.rdP pn.toNat &&& x.act = x.act) ∧
       (¬ok → t.queues = s.queues ∧ (pn ≠ 15 → g'.rdP pn.toNat &&& x.act = 0)) ∧
       (∀ n, n ≠ r.num → t.queue? n = s.queue? n) ∧
       (x.scalar tag = 0 → t.queue? r.num = some { r with tag := 0 }) ∧
       (ok → x.scalar tag ≠ 0 → t.queue? r.num = some { r with
         tag := (x.scalar tag).toNat, land := (x.scalar base).toNat, lcnt := lcnt.toNat, lslot := lslot.toNat, lnext := 0 })))

/-- R264: arrival and its phase, the waits, and what goes on once the phase has completed. That an arrival from outside MASK completes a
phase where every group of MASK is finished is the model's choice (log 115). -/
def Obligations.BarrierWords : Prop :=
  (∀ (i : Instr) (h : Hdr) (k : BitVec 4) (fs : List (Nat × Opnd)) (s : State) (x : Ctx),
    ((∃ set m, i = .bara h set (.bar k) m ∧ fs = (1, .bar k) :: (if set then [(2, m)] else [])) ∨
      (i = .barw h (.bar k) ∨ i = .baraw h (.bar k)) ∧ fs = [(1, .bar k)]) →
    s.ctx? h = some x → x.holds fs = true → x.act = 0 → ∃ t, exec i s = .next t ∧ Passed s t x) ∧
  (∀ (h : Hdr) (set : Bool) (k : BitVec 4) (m : Opnd) (s : State) (x : Ctx), s.ctx? h = some x → x.act ≠ 0 →
    x.holds ((1, .bar k) :: (if set then [(2, m)] else [])) = true → x.g.hasHeld = false → x.g.fenceWaits .crew = false →
    (x.c.bar k.toNat).arr.getLsbD x.iss.who.grp = false → (set = true → (x.c.bar k.toNat).arr = 0) →
    k.toNat < x.c.bars.length → x.iss.who.grp < 16 →
    ∃ t g', exec (.bara h set (.bar k) m) s = .next t ∧ x.g.IssueRest g' ∧ x.g.WentOn g' x.iss.set x.iss.len ∧
      BarDone s t x g' k.toNat (x.arrived k.toNat (if set then
        (x.scalar m).setWidth 16 &&& BitVec.ofNat 16 (2 ^ x.c.groups.length - 1) else (x.c.bar k.toNat).mask))) ∧
  (∀ (h : Hdr) (k : BitVec 4) (s : State) (x : Ctx), s.ctx? h = some x → x.act ≠ 0 → x.holds [(1, .bar k)] = true →
    (let b := x.c.bar k.toNat
     let tgt := sget 0 b.tgt x.iss.who.grp
     (b.phase ≠ tgt → k.toNat < x.c.bars.length →
       ∃ t g', exec (.barw h (.bar k)) s = .next t ∧ x.g.IssueRest g' ∧ x.g.WentOn g' x.iss.set x.iss.len ∧
         BarDone s t x g' k.toNat { b with tgt := sset 0 b.tgt x.iss.who.grp (tgt + 1) }) ∧
     (b.phase = tgt → ∃ t g', exec (.barw h (.bar k)) s = .next t ∧ Performed s t x g' ∧
       g' = { x.g with wait := .retry s.cycle, phase := 3, head := some x.iss }))) ∧
  (∀ (h : Hdr) (k : BitVec 4) (s : State) (x : Ctx), s.ctx? h = some x → x.act ≠ 0 → x.holds [(1, .bar k)] = true →
    x.g.phase = 4 →
    (let b := x.c.bar k.toNat
     let tgt := sget 0 b.tgt x.iss.who.grp
     (b.phase ≠ tgt → k.toNat < x.c.bars.length →
       ∃ t g', exec (.baraw h (.bar k)) s = .next t ∧ x.g.IssueRest g' ∧ x.g.WentOn g' x.iss.set x.iss.len ∧
         BarDone s t x g' k.toNat { b with tgt := sset 0 b.tgt x.iss.who.grp (tgt + 1) }) ∧
     (b.phase = tgt → ∃ t g', exec (.baraw h (.bar k)) s = .next t ∧ Performed s t x g' ∧
       g' = { x.g with wait := .retry s.cycle, phase := 4, head := some x.iss }))) ∧
  (∀ (h : Hdr) (k : BitVec 4) (s : State) (x : Ctx), s.ctx? h = some x → x.act ≠ 0 → x.holds [(1, .bar k)] = true →
    x.g.phase ≠ 4 → x.g.hasHeld = false → x.g.fenceWaits .crew = false →
    (x.c.bar k.toNat).arr.getLsbD x.iss.who.grp = false → k.toNat < x.c.bars.length → x.iss.who.grp < 16 →
    (let b := x.arrived k.toNat (x.c.bar k.toNat).mask
     (b.phase ≠ (x.c.bar k.toNat).phase →
       ∃ t g', exec (.baraw h (.bar k)) s = .next t ∧ x.g.IssueRest g' ∧ x.g.WentOn g' x.iss.set x.iss.len ∧
         BarDone s t x g' k.toNat { b with tgt := sset 0 b.tgt x.iss.who.grp ((x.c.bar k.toNat).phase + 1) }) ∧
     (b.phase = (x.c.bar k.toNat).phase →
       ∃ t g', exec (.baraw h (.bar k)) s = .next t ∧ g'.lp = x.g.lp ∧ x.g.IssueRest g' ∧ g'.phase = 4 ∧
         g'.head = some x.iss ∧ BarDone s t x g' k.toNat b)))

/-- The system words: completion, effect and frame, as they ask and as their answer has come. -/
def Obligations.SystemWords : Prop :=
  (∀ (h : Hdr) (a : Opnd) (s : State) (x : Ctx), s.ctx? h = some x → x.holds [(1, a)] = true →
    ∃ t g', exec (.sleep h a) s = .next t ∧ Performed s t x g' ∧ x.g.IssueRest g' ∧ x.g.WentOn g' x.iss.set x.iss.len ∧
      (let n := (x.src a (x.act.low.getD 0)).toNat % 2 ^ 16
       g'.wait = if x.act = 0 ∨ n = 0 then .none else .till (s.cycle + 64 * n))) ∧
  (∀ (i : Instr) (h : Hdr) (d : Opnd) (fs : List (Nat × Opnd)) (sysc : Bool) (s : State) (x : Ctx),
    ((∃ a b code, i = .sysc h d a b code ∧ fs = [(0, d), (1, a), (2, b)] ∧ sysc = true) ∨
      (∃ a b, i = .gload h d a b ∧ fs = [(0, d), (1, a), (2, b)] ∧ sysc = false) ∨
      ∃ ab a, i = .gstop h ab d a ∧ fs = [(0, d), (1, a)] ∧ sysc = false) →
    s.ctx? h = some x → x.holds fs = true →
    (sysc = true ∨ supervisor (s.core x.c.core).trapbase x.c.vf x.g = true) →
    (x.act = 0 → ∃ t, exec i s = .next t ∧ Passed s t x) ∧
    (x.act ≠ 0 → x.g.phase = 2 →
      ∃ t g', exec i s = .next t ∧ Performed s t x g' ∧ x.g.SameBut g' [d] ∧ x.g.SameTrap g' ∧
        x.g.WentOn g' x.iss.set x.iss.len ∧ (sysc = true → Recorded x g') ∧
        (∀ n l, d.isV n = true → l < 32 → g'.rdV n l = if x.act.has l then BitVec.ofNat 64 (sget 0 x.g.answers 0)
          else x.g.rdV n l) ∧
        (∀ n, d.isG n = true → g'.rdG n = BitVec.ofNat 64 (sget 0 x.g.answers 0)))) ∧
  (∀ (h : Hdr) (d a b : Opnd) (code : BitVec 16) (s : State) (x : Ctx), s.ctx? h = some x → x.act ≠ 0 →
    x.holds [(0, d), (1, a), (2, b)] = true → x.g.phase ≠ 2 → x.g.hasHeld = false →
    ∃ t g' r, exec (.sysc h d a b code) s = .next t ∧ Asked s { t with svcWait := s.svcWait, svcOpen := s.svcOpen } x g' ∧
      t.svcWait = s.svcWait ++ [r] ∧ r.vf = x.c.vf ∧ r.code = code.toNat ∧ r.pc = x.iss.pc.toNat ∧
      r.arga = x.src a (x.act.low.getD 0) ∧ r.argb = x.src b (x.act.low.getD 0) ∧
      t.svcOpen = s.svcOpen ++ [(x.c.vf, r.token, x.iss.who)]) ∧
  (∀ (h : Hdr) (d a b : Opnd) (s : State) (x : Ctx), s.ctx? h = some x → x.act ≠ 0 →
    x.holds [(0, d), (1, a), (2, b)] = true → supervisor (s.core x.c.core).trapbase x.c.vf x.g = true → x.g.phase ≠ 2 →
    ∃ t g', exec (.gload h d a b) s = .next t ∧ Asked s t x g' ∧
      Instr.admissionDecision x.iss.who (x.src a (x.act.low.getD 0)).toNat (x.src b (x.act.low.getD 0)).toNat ∈ t.flight) ∧
  (∀ (h : Hdr) (ab : Bool) (d a : Opnd) (s : State) (x : Ctx), s.ctx? h = some x → x.act ≠ 0 →
    x.holds [(0, d), (1, a)] = true → supervisor (s.core x.c.core).trapbase x.c.vf x.g = true → x.g.phase ≠ 2 →
    (let n := (x.src a (x.act.low.getD 0)).toNat
     ((s.graph? n = none ∨ ∃ y, s.graph? n = some y ∧ y.handle = x.c.graph) →
       ∃ t g', exec (.gstop h ab d a) s = .next t ∧ Performed s t x g' ∧ x.g.SameBut g' [d] ∧ x.g.SameTrap g' ∧
         x.g.WentOn g' x.iss.set x.iss.len ∧
         (let v : Word := BitVec.ofNat 64 (2 ^ 63 + if (s.graph? n).isNone then 1 else 2)
          (∀ n l, d.isV n = true → l < 32 → g'.rdV n l = if x.act.has l then v else x.g.rdV n l) ∧
          ∀ n, d.isG n = true → g'.rdG n = v)) ∧
     (∀ y, s.graph? n = some y → y.handle ≠ x.c.graph →
       ∃ t g', exec (.gstop h ab d a) s = .next t ∧ t.group? x.iss.who = some g' ∧
         g' = { x.g with wait := .answer, phase := 1, head := some x.iss, lastIssue := g'.lastIssue } ∧
         t.graph? n = some { y with
           draining := true, aborting := y.aborting || ab, waiters := y.waiters ++ [x.iss.who] } ∧
         (∀ q ∈ t.queues, q.num ∈ y.queues → q.stopped = true ∧ q.tag = 0) ∧
         (ab = true → (s.crews.map (·.id)).Nodup → ∀ c ∈ t.crews, c.graph = n →
           (c.resident = true ∨ c.st = .gone) ∧ (c.st = .running → Instr.preemption c.id ∈ t.todo)) ∧
         (ab = false → t.hbm = s.hbm ∧ t.host = s.host ∧ t.slices = s.slices ∧
           ∀ c, c ≠ x.iss.who.crew → t.crew? c = s.crew? c))))

/-- The eleven matrix words: what reaches the array, and the frame; the array accepts, steps and completes it in the events. -/
def Obligations.MatrixWords : Prop :=
  ∀ (i : Instr) (h : Hdr) (run : Opnd × Nat) (fs : List (Nat × Opnd)) (code : Nat) (bad : Ctx → Bool) (op : Nat → Ctx → MOp),
    MatrixOf i h run fs code bad op → ∀ s x, s.ctx? h = some x → x.holdsRun run.1 run.2 fs = true → bad x = false →
    x.off = 0 → matrixReady s x code (op s.fresh x) = true →
    ∃ t g' c' j, exec i s = .next t ∧ t.group? x.iss.who = some g' ∧ t.crew? x.iss.who.crew = some c' ∧
      c' = { x.c with groups := c'.groups } ∧
      g' = { x.g with wait := .answer, phase := 1, head := some x.iss, lastIssue := g'.lastIssue } ∧
      IssueFrame s { t with todo := s.todo } x.iss.who ∧
      (∀ k, Core.IssueOnly (s.core k) { t.core k with mq := (s.core k).mq }) ∧
      (∀ k, k ≠ x.c.core → (t.core k).mq = (s.core k).mq) ∧ (t.core x.c.core).mq = [j] ∧
      j.op = op s.fresh x ∧ j.iss = x.iss ∧ j.act = x.act ∧ j.code = code ∧ j.fs = fs ∧ j.accepted = false ∧
      j.cont = ((op s.fresh x).progress && x.c.continues x.iss.who.grp code x.iss.pc) ∧
      t.todo = s.todo ++ [.matrixAccept x.c.core]

/-- R321 and R298: the store at its home and the one that misses there, and the acknowledgement of a group's store and of a
copy's. The model's readings are that a later part of an ordered store takes no time below the parts before it (log 124), which L1 block
is kept at the acknowledgement (log 96), and which frame a home block stands for while its page is migrated (log 136). -/
def Obligations.StoreEvents : Prop :=
  (∀ (m : StMsg) (s u : State), s.ckHolds m.asid m.va m.sclk = false → m.wb = false → s.oldWb m.asid m.va = false →
    s.mayPerform (.storePerformedAtHome m) = true → u = s.followed m.asid m.va →
    (∀ b, s.homeBlk m.asid m.va = some b → (b.dirty ≠ 0 ∨ s.peek m.asid m.va = none ∨
      ∃ x, s.peek m.asid m.va = some x ∧ b.ap = x.attr.ap ∧ b.pa = x.pa - m.va % 512) → u = s) ∧
    (∀ b, u.homeBlk m.asid m.va = some b →
      (let wt := max (max m.sclk m.floor) (b.le + 1)
       ∃ t b', exec (.storePerformedAtHome m) s = .next t ∧
         Instr.storeAcknowledgement { msg := m, kind := .done wt, was := some (b.wt, b.first, b.last)
                                      clean := !b'.poison.has (wordOf m.va) } ∈ t.flying ∧
         t.homeBlk m.asid m.va = some b' ∧ b'.read m.va m.bytes.length = m.bytes ∧ b'.wt = wt ∧ b'.le = wt ∧
         b'.dirty = b.dirty ||| Mask.one (wordOf m.va) ∧
         (m.spoilt = true → b'.poison = b.poison ||| Mask.one (wordOf m.va)) ∧
         (m.spoilt = false → b.partly = [] → b'.poison = if m.bytes.length = 16 ∧ m.va % 16 = 0 then
           b.poison &&& ~~~Mask.one (wordOf m.va) else b.poison) ∧
         (∀ a, (a < m.va % 512 ∨ m.va % 512 + m.bytes.length ≤ a) → Memory.get b'.data a = Memory.get b.data a) ∧
         t.crews = s.crews ∧ (∀ k, Core.IssueOnly (s.core k) (t.core k)) ∧ t.queues = s.queues ∧ t.host = u.host ∧
         (u.setD m.asid m.va = u → t.hbm = u.hbm) ∧ ∀ i, i ≠ homeOf m.va → t.slice i = u.slice i)) ∧
    (∀ s1 x, s.homeBlk m.asid m.va = none →
      s.translateCount (ctrlOf (homeOf m.va)) m.asid m.va (·.w) true = (s1, .ok x) → x.near = true →
      ∃ t, exec (.storePerformedAtHome m) s = .next t ∧ Missed s t m.asid m.va (.storePerformedAtHome m))) ∧
  (∀ (m : StMsg) (s : State), s.ckHolds m.asid m.va m.sclk = true ∨ m.wb = true ∨ s.oldWb m.asid m.va = true →
    ∃ t h, exec (.storePerformedAtHome m) s = .next t ∧ t = { s with held := s.held ++ [h], fresh := s.fresh + 1 } ∧
      h.req = .storePerformedAtHome m ∧ h.since = s.now) ∧
  (∀ (a : StAck) (s : State) (w : Who) (id l : Nat) (c : Crew) (g : Group), a.msg.origin = .group w id l → s.stop = none →
    s.crew? w.crew = some c → s.group? w = some g →
    ∃ t c' g', exec (.storeAcknowledgement a) s = .next t ∧ t.crew? w.crew = some c' ∧ t.group? w = some g' ∧
      g'.sb = (g.sbAck id a.msg.part (a.kind == .dropped)).sb ∧ g.SameRegs g' ∧ g.SameTrap g' ∧ g'.lp = g.lp ∧
      (∀ wt, a.kind = .done wt → c'.sclk = max c.sclk wt ∧
        c'.lclk = (if g.phase = 1 ∧ g.wait ≠ .answer then max c.lclk wt else c.lclk)) ∧
      ((∀ wt, a.kind ≠ .done wt) → c'.sclk = c.sclk ∧ c'.lclk = c.lclk ∧ t.slices = s.slices) ∧
      (∀ i, (t.slice i).home = (s.slice i).home ∧ (t.slice i).marks = (s.slice i).marks ∧
        (t.slice i).loc.Sublist (s.slice i).loc) ∧ t.hbm = s.hbm ∧ t.host = s.host ∧ t.queues = s.queues) ∧
  (∀ (a : StAck) (s : State) (w : Who) (id l wt : Nat) (b : Blk), a.msg.origin = .group w id l → s.stop = none →
    a.kept = false → a.kind = .done wt → (s.core a.msg.core).l1base ≤ wt → wt < (s.core a.msg.core).l1base + 2 ^ 24 →
    findBlk (s.core a.msg.core).l1 a.msg.asid a.msg.va = some b → a.was = some (b.wt, b.first, b.last) →
    (s.core a.msg.core).l1base ≤ b.wt →
    ∃ t b', exec (.storeAcknowledgement a) s = .next t ∧ findBlk (t.core a.msg.core).l1 a.msg.asid a.msg.va = some b' ∧
      b'.read a.msg.va a.msg.bytes.length = a.msg.bytes ∧ b'.wt = wt ∧ b'.le = wt) ∧
  (∀ (a : StAck) (s : State) (crew id n wt : Nat) (k : Copy), a.msg.origin = .copy crew id n → a.kind = .done wt →
    s.copy? crew id = some k → k.fails = [] →
    ∃ t, exec (.storeAcknowledgement a) s = .next t ∧ t.copy? crew id = some { k with
      unacked := k.unacked - 1, wt := max k.wt wt
      posting := k.posting || (k.runs.isEmpty && k.unacked - 1 == 0) })

/-- R320, R312 and R298: the load at its home, at its local copy and at a queue, and the result of each, which is no register where the
load is not served (R460). Which words a renewal poisons
while the Zenvex Link is down is the model's choice (log 108). -/
def Obligations.LoadEvents : Prop :=
  (∀ (r : LdReq) (s : State), r.atLocal = false → r.qlen = none → s.strays r = false → s.mayPerform (.loadRequestAtHome r) = true →
    (∀ b j w f l, s.homeBlk r.asid r.va = some b → r.wt = some (w, f, l) → r.ldc = false →
      localSlice r.core (homeOf r.va) = some j →
      ∃ t b', exec (.loadRequestAtHome r) s = .next t ∧ t.homeBlk r.asid r.va = some b' ∧ r.lclk + r.len ≤ b'.le ∧
        b'.data = b.data ∧ t.crews = s.crews ∧
        (if r.cp ≠ .home ∧ b'.wt = w ∧ b'.first ≤ f ∧ l ≤ b'.last ∧ b'.poison &&& wordMask f l = 0 then
          ∃ m : FillMsg, Instr.homeFillReturn m ∈ t.flying ∧ m.slice = j ∧ m.asid = r.asid ∧ m.va = r.va ∧
            m.renewed = some { r with atLocal := true, wt := none } ∧
            m.copy = some (b'.fill r.asid f l (max b'.wt (r.lclk + r.len)))
        else ∃ m : LdRep, Instr.loadResultReturn m ∈ t.flying ∧ m.req = r ∧ m.data = b.read r.va r.n)) ∧
    (∀ b, s.homeBlk r.asid r.va = some b → r.wt = none →
      ∃ t b' m, exec (.loadRequestAtHome r) s = .next t ∧ Instr.loadResultReturn m ∈ t.flying ∧ m.req = r ∧
        m.data = b.read r.va r.n ∧ t.homeBlk r.asid r.va = some b' ∧ m.wt = b'.wt ∧
        m.poison = (b.poison.has (wordOf r.va) ||
          (s.zdown.isSome && b.ap == .host && !r.ldc && !b.dirty.has (wordOf r.va))) ∧
        b'.data = b.data ∧ b'.dirty = b.dirty ∧ (r.ldc = false → r.lclk + r.len ≤ b'.le) ∧ b.le ≤ b'.le ∧ b.wt ≤ b'.wt ∧
        (∀ f, m.fill = some f → r.ldc = false → b'.wt ≤ f.le ∧ r.lclk + r.len ≤ f.le) ∧
        t.crews = s.crews ∧ t.hbm = s.hbm ∧ t.host = s.host ∧ t.queues = s.queues ∧
        ∀ i, i ≠ homeOf r.va → t.slice i = s.slice i) ∧
    (∀ s1 x, s.homeBlk r.asid r.va = none →
      s.translateCount (ctrlOf (homeOf r.va)) r.asid r.va (if r.fetch then (·.x) else (·.r)) false = (s1, .ok x) → x.near = true →
      ∃ t f l, exec (.loadRequestAtHome r) s = .next t ∧
        Missed s t r.asid r.va (.loadRequestAtHome { r with first := f, last := l }) ∧ f ≤ wordOf r.va ∧ wordOf r.va ≤ l)) ∧
  (∀ (r : LdReq) (s : State) (j : Nat), r.atLocal = true → r.qlen = none → localSlice r.core (homeOf r.va) = some j →
    ∃ t, exec (.loadRequestAtHome r) s = .next t ∧ t.crews = s.crews ∧ t.hbm = s.hbm ∧ t.host = s.host ∧
      (∀ i, (t.slice i).home = (s.slice i).home ∧ (t.slice i).marks = (s.slice i).marks) ∧
      (∀ b, findBlk (s.slice j).loc r.asid r.va = some b → (r.ldc = true ∨ r.lclk ≤ b.le ∧ r.renew = false) →
        ∃ m, Instr.loadResultReturn m ∈ t.flying ∧ m.req = r ∧ m.data = b.read r.va r.n ∧ m.wt = b.wt ∧
          m.poison = b.poison.has (wordOf r.va)) ∧
      ((∀ b, findBlk (s.slice j).loc r.asid r.va = some b → r.ldc = false ∧ (b.le < r.lclk ∨ r.renew = true)) →
        ∃ f l w, Instr.loadRequestAtHome { r with atLocal := false, first := f, last := l, wt := w } ∈ t.flying ∧
          (r.first ≤ wordOf r.va → wordOf r.va ≤ r.last → f ≤ wordOf r.va ∧ wordOf r.va ≤ l) ∧
          (findBlk (s.slice j).loc r.asid r.va = none → w = r.wt))) ∧
  (∀ (r : LdReq) (s : State) (n : Nat) (q : Queue), r.qlen = some n → s.queue? n = some q →
    ∃ t, exec (.loadRequestAtHome r) s = .next t ∧ t = s.send (.loadResultReturn {
      req := r, data := bytesOf (qlenWord q.lq q.backlog) 8, poison := false, wt := 0, fill := none })) ∧
  (∀ (m : LdRep) (s : State) (w : Who) (id l : Nat) (c : Crew) (g : Group), m.req.origin = .group w id l → s.stop = none →
    l < 32 → m.fail = none → s.crew? w.crew = some c → s.group? w = some g →
    ∃ t c' g', exec (.loadResultReturn m) s = .next t ∧ t.crew? w.crew = some c' ∧ t.group? w = some g' ∧
      c'.lclk = (if m.req.ldc || m.req.pref then c.lclk else max c.lclk m.wt) ∧ c'.sclk = c.sclk ∧
      c'.scratch = c.scratch ∧ (m.req.renew = true → g.SameRegs g' ∧ g.SameTrap g' ∧ g'.reds = (g.redDone id l).reds) ∧
      t.slices = s.slices ∧ t.hbm = s.hbm ∧ t.host = s.host ∧ t.queues = s.queues) ∧
  (∀ (m : LdRep) (s : State) (w : Who) (id l n : Nat) (sx : Bool) (g : Group) (o : Out), m.req.origin = .group w id l →
    s.stop = none → l < 32 → m.fail = none → m.req.pref = false → m.req.renew = false → m.poison = false → s.group? w = some g →
    (∀ r, g.wait ≠ .trap r) → s.out? w id = some o → o.kind = .load n sx → n = m.data.length → o.lanes.has l = true →
    o.left = [(24 * l, m.req.va + 1)] → o.own = [] → o.got = [] →
    ∃ t g', exec (.loadResultReturn m) s = .next t ∧ t.group? w = some g' ∧ g.SameTrap g' ∧
      g.SameBut g' (if n ≤ 8 then [o.dst] else [o.dst, o.dst.next]) ∧
      (let lo := loadValue n sx (BitVec.ofNat 64 (leNat (m.data.take 8)))
       let hi : Word := BitVec.ofNat 64 (leNat (m.data.drop 8))
       (∀ k, o.dst = .v k → n ≤ 8 → g'.rdV k.toNat l = lo ∧ ∀ q, q < 32 → q ≠ l → g'.rdV k.toNat q = g.rdV k.toNat q) ∧
       (∀ k, o.dst = .v k → n = 16 → k.toNat < 255 →
         g'.rdV k.toNat l = BitVec.ofNat 64 (leNat (m.data.take 8)) ∧ g'.rdV (k.toNat + 1) l = hi) ∧
       (∀ k, o.dst = .g k → l = o.gl → n ≤ 8 → g'.rdG k.toNat = lo))) ∧
  (∀ (m : LdRep) (s : State) (w : Who) (id l j : Nat) (g : Group) (o : Out), m.req.origin = .group w id l → s.stop = none →
    l < 32 → m.fail ≠ none → m.req.pref = false → m.req.renew = false → s.group? w = some g → s.out? w id = some o →
    (∀ q, g.wait ≠ .trap q) → o.lanes.has l = true → j < 24 → o.left = [(24 * l + j, m.req.va + 1)] →
    ∃ t g', exec (.loadResultReturn m) s = .next t ∧ t.group? w = some g' ∧ g.SameRegs g' ∧ g.SameTrap g' ∧
      (∀ y ∈ g'.outs, y.id = id → y.lanes.has l = false) ∧ t.slices = s.slices ∧ t.hbm = s.hbm ∧ t.host = s.host)

/-- R322 and R298: the atomic at its home, on a host page, and the one that misses, and its reply. Which frame a home block stands for
while its page is migrated is the model's reading (log 136). -/
def Obligations.AtomicEvents : Prop :=
  (∀ (m : AtMsg) (s u : State), s.ckHolds m.asid m.va m.sclk = false → m.wb = false → s.oldWb m.asid m.va = false →
    s.mayPerform (.atomicAtHome m) = true → u = s.followed m.asid m.va →
    (∀ b, u.homeBlk m.asid m.va = some b → b.ap ≠ .host → b.poison.has (wordOf m.va) = false →
      (let old := leNat (b.read m.va m.n)
       let wt := max m.sclk (b.le + 1)
       (∀ new, AtomOp.apply m.op m.n old m.b.toNat = some new → ∃ t b', exec (.atomicAtHome m) s = .next t ∧
         Instr.atomicReply { msg := m, res := .done (BitVec.ofNat 64 old) (some wt) } ∈ t.flying ∧
         t.homeBlk m.asid m.va = some b' ∧ b'.read m.va m.n = bytesOf new m.n ∧ b'.wt = wt ∧ b'.le = wt ∧
         t.crews = s.crews ∧ (∀ k, Core.IssueOnly (s.core k) (t.core k)) ∧ t.queues = s.queues ∧ t.host = u.host) ∧
       (AtomOp.apply m.op m.n old m.b.toNat = none → ∃ t b', exec (.atomicAtHome m) s = .next t ∧
         Instr.atomicReply { msg := m, res := .raise b.wt (BitVec.ofNat 64 old) } ∈ t.flying ∧
         t.homeBlk m.asid m.va = some b' ∧ b'.data = b.data ∧ b'.dirty = b.dirty ∧
         b'.le = max b.le (m.lclk + m.len) ∧ t.crews = s.crews ∧ t.hbm = u.hbm ∧ t.host = u.host))) ∧
    (∀ b, u.homeBlk m.asid m.va = some b → b.ap ≠ .host → b.poison.has (wordOf m.va) = true →
      ∃ t, exec (.atomicAtHome m) s = .next t ∧
        t = (u.homeHit m.core m.vf m.missed).send (.atomicReply { msg := m, res := .poisoned })) ∧
    (∀ s1 x y, s.homeBlk m.asid m.va = none → s.peek m.asid m.va = some y →
      s.translateCount (ctrlOf (homeOf m.va)) m.asid m.va (fun a => a.r && a.w) true = (s1, .ok x) →
      (y.attr.ap ≠ .host → x.near = true →
        ∃ t, exec (.atomicAtHome m) s = .next t ∧ Missed s t m.asid m.va (.atomicAtHome m)) ∧
      (y.attr.ap = .host → s.zdown = none → s1.backPoison .host x.pa = false →
        (let old := leNat (s1.host.read x.pa m.n)
         let wt := max m.sclk ((s.slice (homeOf m.va)).mark m.va + 1)
         ∀ new, AtomOp.apply m.op m.n old m.b.toNat = some new → ∃ t, exec (.atomicAtHome m) s = .next t ∧
           Instr.atomicReply { msg := m, res := .done (BitVec.ofNat 64 old) (some wt) } ∈ t.flying ∧
           t.host.read x.pa m.n = bytesOf new m.n ∧ wt ≤ (t.slice (homeOf m.va)).mark m.va ∧ t.crews = s.crews)))) ∧
  (∀ (a : AtRep) (s : State) (w : Who) (id l : Nat) (c : Crew), a.msg.origin = .group w id l → s.stop = none →
    s.crew? w.crew = some c →
    ∃ t c', exec (.atomicReply a) s = .next t ∧ t.crew? w.crew = some c' ∧
      (∀ old wt, a.res = .done old (some wt) → c'.lclk = max c.lclk wt ∧ c'.sclk = max c.sclk wt) ∧
      (∀ old wt, a.res = .raise wt old → c'.lclk = max c.lclk wt ∧ c'.sclk = c.sclk) ∧
      c'.scratch = c.scratch ∧ t.slices = s.slices ∧ t.hbm = s.hbm ∧ t.host = s.host ∧ t.queues = s.queues) ∧
  (∀ (a : AtRep) (s : State) (w : Who) (id l z : Nat) (old : Word) (g : Group) (o : Out) (k : BitVec 8),
    a.msg.origin = .group w id l → s.stop = none → l < 32 →
    ((∃ wt, a.res = .done old wt) ∨ ∃ wt, a.res = .raise wt old) → s.group? w = some g → (∀ r, g.wait ≠ .trap r) →
    s.out? w id = some o → o.kind = .atom → o.dst = .v k → o.lanes.has l = true → o.left = [(24 * l, z)] → o.own = [] →
    o.got = [] →
    ∃ t g', exec (.atomicReply a) s = .next t ∧ t.group? w = some g' ∧ g.SameBut g' [o.dst] ∧ g.SameTrap g' ∧
      g'.rdV k.toNat l = BitVec.ofNat 64 (old.toNat % 2 ^ (8 * a.msg.n)))

/-- R212, R308 and R266: a probe and its answer, a fill that has room and waits for nothing, and the end of a sleep. A fill at the home
installs memory's bytes, and one of a local copy the home's, said of a set that holds nothing yet. -/
def Obligations.ProbeEvents : Prop :=
  (∀ (p : Probe) (s s1 : State) (r : XOut),
    s.translateCount (ctrlOf (homeOf p.va)) p.asid p.va p.acc.rights p.wr
      (fun a => p.acc != .atomic || a.ap != .peer || a.rap) = (s1, r) →
    (r = .noTrans → (s.reg 0x210).getLsbD 63 = false) →
    ∃ t, exec (.attributeProbe p) s = .next t ∧ t.crews = s.crews ∧ t.slices = s.slices ∧
      Instr.attributeProbeReply { probe := p, res := match r with
        | .ok x => .ok x.attr x.lvl
        | .noTrans => .noTrans
        | .perm => .perm } ∈ t.flying) ∧
  (∀ (p : Probe) (s s1 : State),
    s.translateCount (ctrlOf (homeOf p.va)) p.asid p.va p.acc.rights p.wr
      (fun a => p.acc != .atomic || a.ap != .peer || a.rap) = (s1, .noTrans) →
    (s.reg 0x210).getLsbD 63 = true →
    ∃ t h, exec (.attributeProbe p) s = .next t ∧ t.held = s.held ++ [h] ∧ h.req = .attributeProbe p ∧
      h.why = .noTrans ∧ t.crews = s.crews) ∧
  (∀ (m : ProbeRep) (s : State) (g : Group) (n : Nat), s.group? m.probe.who = some g → g.wait = .probe n →
    ∃ t g', exec (.attributeProbeReply m) s = .next t ∧ t.group? m.probe.who = some g' ∧
      g' = { g with wait := g'.wait, answers := g'.answers } ∧ (n ≤ 1 → g'.wait = .none) ∧
      (1 < n → g'.wait = .probe (n - 1)) ∧
      sget 0 g'.answers (probeKey m.probe.acc m.probe.va) = (match m.res with
        | .stale => 0
        | .ok _ _ => 4
        | .noTrans => 1
        | .perm => 2
        | .expired => 3) ∧
      (∀ a lvl, m.res = .ok a lvl → ∃ e ∈ (t.core m.probe.core).attrs, e.asid = m.probe.asid ∧ e.lvl = lvl ∧ e.attr = a ∧
        e.page * 2 ^ 15 = m.probe.va % 2 ^ 51 / pageSize lvl * pageSize lvl / 2 ^ 15 * 2 ^ 15) ∧
      t = { s with crews := t.crews, cores := t.cores }) ∧
  (∀ (m : FillMsg) (s : State), m.copy = none → m.serve ≠ 2 → s.homeFull m.asid m.va m.first m.last = false →
    s.portWaits (.homeFillReturn m) = false →
    (∀ i ∈ s.parked.map (·.2) ++ s.todo, ∀ base size, noCopy base size i = i) →
    ∃ t, exec (.homeFillReturn m) s = .next t ∧
      t.todo = (s.parked.filter fun p => p.1 == m.tag).map (·.2) ++
        (if m.serve = 1 then [.homeFillReturn { m with serve := 2 }] else []) ++ s.todo ∧
      t.parked = s.parked.filter (fun p => p.1 != m.tag) ∧ t.crews = s.crews ∧ t.cores = s.cores ∧ t.queues = s.queues ∧
      ((s.homeBlk m.asid m.va).isSome = true → t.slices = s.slices ∧ t.hbm = s.hbm ∧ t.host = s.host)) ∧
  (∀ (m : FillMsg) (s s1 : State) (x : Xl), m.copy = none → m.serve ≠ 2 → s.homeFull m.asid m.va m.first m.last = false →
    s.portWaits (.homeFillReturn m) = false → m.slice = homeOf m.va → s.homeBlk m.asid m.va = none →
    (∀ b ∈ (s.slice m.slice).home ++ (s.slice m.slice).loc, inL2Set m.va b = false) →
    s.translate (ctrlOf m.slice) m.asid m.va (fun _ => true) false = (s1, .ok x) →
    (x.attr.ap = .host → s.zdown = none) →
    ∃ t b, exec (.homeFillReturn m) s = .next t ∧ t.homeBlk m.asid m.va = some b ∧ b.dirty = 0 ∧ b.ap = x.attr.ap ∧
      b.pa = x.pa - m.va % 512 ∧ ∀ w, b.first ≤ w → w ≤ b.last →
        Memory.read b.data (16 * w) 16 = s1.backRead x.attr.ap (b.pa + 16 * w) 16) ∧
  (∀ (m : FillMsg) (s : State) (f : Fill), m.copy = some f → m.renewed = none →
    ∃ t, exec (.homeFillReturn m) s = .next t ∧ t = { s with
      slices := t.slices, hbm := t.hbm, host := t.host, hbmPoison := t.hbmPoison, hostPoison := t.hostPoison
      fresh := t.fresh, net := t.net } ∧ (∀ i, i ≠ m.slice → t.slice i = s.slice i) ∧
      (let sl := s.slice m.slice
       (∀ b ∈ sl.home ++ sl.loc, inL2Set (f.span * 512) b = false) → f.first ≤ f.last → f.last < 32 → m.first ≤ f.last →
       f.first ≤ m.last → f.wt < sl.base + 2 ^ 24 → sl.base ≤ f.le → f.le < sl.base + 2 ^ 24 →
       (t.slice m.slice).home = sl.home ∧ ∃ b ∈ (t.slice m.slice).loc, b.asid = f.asid ∧ b.span = f.span ∧
         b.first = f.first ∧ b.last = f.last ∧ b.wt = max f.wt sl.base ∧ b.le = f.le ∧
         (∀ w, f.first ≤ w → w ≤ f.last → b.poison.has w = f.poison.has w ∧
           Memory.read b.data (16 * w) 16 = Memory.read f.data (16 * w) 16))) ∧
  (∀ (w : Who) (s : State) (g : Group) (n : Nat), s.group? w = some g → g.wait = .till n →
    ∃ t, exec (.sleepEnd w) s = .next t ∧ t.group? w = some { g with wait := .none } ∧
      t = { s with crews := t.crews })

/-- R319 and R483: the tick of the clocks, and a request that was held too long. -/
def Obligations.ClockEvents : Prop :=
  (∀ (s : State), ∃ t, exec .clockTick s = .next t ∧ t = { s with cores := t.cores, crews := t.crews } ∧
    (∀ k, k < 288 → t.core k = { s.core k with lclk := (s.core k).lclk + 1, sclk := (s.core k).sclk + 1 }) ∧
    t.crews = s.crews.map fun c => if c.resident then { c with lclk := c.lclk + 1, sclk := c.sclk + 1 } else c) ∧
  (∀ (s : State) (h : Held), (s.held.find? fun y => y.id == h.id) = some h →
    ∃ t, exec (.miglimitExpiry h.id) s = .next t ∧ t.held = s.held.filter (fun y => y.id != h.id) ∧ t.hbm = s.hbm ∧
      t.host = s.host ∧ t.slices = s.slices ∧ t.queues = s.queues ∧
      (∀ m, h.req = .storePerformedAtHome m → Instr.storeAcknowledgement { msg := m, kind := .dropped } ∈ t.flying) ∧
      (∀ m, h.req = .atomicAtHome m → Instr.atomicReply { msg := m, res := .dropped } ∈ t.flying) ∧
      (∀ p, h.req = .attributeProbe p → Instr.attributeProbeReply { probe := p, res := .expired } ∈ t.flying) ∧
      (∀ r w id l, h.req = .loadRequestAtHome r → r.origin = .group w id l → Instr.loadResultReturn {
        req := r, data := [], poison := false, wt := 0, fill := none, fail := some (0x13, r.pc) } ∈ t.flying) ∧
      ∀ q, h.req = .peerRequestArrival q → t.outbox = s.outbox ++ [.peerAns q.tag q.port (.fault 0x13)])

/-- The queue events: an append of a group's records, of HENQ's and of those that wait, the answer, the claims, and the end of
a stopped graph. The bytes of a record that takes a slot of the window read back there: of one word's, and of a longer one where its
words stand dirty at their homes. That a claim counts the crew's number is the model's reading (log 81). An append that finds no room is tried again while no slot of the pannier is out of service: the model's reading of
R494 (log 62). -/
def Obligations.QueueEvents : Prop :=
  (∀ (s : State) (w : Who) (r : Rec) (k : Nat) (wait sp : Bool) (q : Queue) (p : Nat × State), s.queue? r.queue = some q →
    q.refusal true false 0 = none → q.pan = [] → q.slotFree q.next = true → s.queueShut q = false →
    s.homeWrite q.asid (q.slotVa q.next) r.bytes k = some p →
    ∃ t q', exec (.queueAppendAtHome { src := .group w wait sp k, recs := [r] }) s = .next t ∧
      Instr.queueAnswer { who := w, lanes := [(r.lane, .accepted q.next)], home := q.home } ∈ t.flying ∧
      t.queue? r.queue = some q' ∧ q' = { q with
        next := q.next + 1, backlog := q.backlog + 1, win := q.win ++ [{ seq := q.next, wt := p.1, at_ := s.cycle }]
        busy := q.busy ++ [q.next] } ∧ t.crews = s.crews ∧
      (let va := q.slotVa q.next
       (r.bytes ≠ [] → va % 16 + r.bytes.length ≤ 16 →
         ∃ b, t.homeBlk q.asid va = some b ∧ b.read va r.bytes.length = r.bytes ∧ b.wt = p.1) ∧
       (r.bytes.length ≤ 256 →
         (∀ c ∈ wordPieces va r.bytes.length, ∃ b, s.homeBlk q.asid c.1 = some b ∧ b.dirty ≠ 0) →
         ∀ c ∈ wordPieces va r.bytes.length, ∃ b, t.homeBlk q.asid c.1 = some b ∧
           b.read c.1 c.2 = (r.bytes.drop (c.1 - va)).take c.2))) ∧
  (∀ (s : State) (w : Who) (r : Rec) (k n : Nat) (sp : Bool) (q : Queue), s.queue? r.queue = some q →
    q.refusal true false 0 = some n → s.queueShut q = false →
    ∃ t, exec (.queueAppendAtHome { src := .group w false sp k, recs := [r] }) s = .next t ∧
      t = s.send (.queueAnswer { who := w, lanes := [(r.lane, .refused n)], home := q.home })) ∧
  (∀ (s : State) (w : Who) (rs : List Rec) (r : Rec) (k : Nat) (sp : Bool) (q : Queue), s.queue? r.queue = some q →
    q.refusal true true (rs.length + 1) = none → q.lq < q.backlog + (rs.length + 1) → s.queueShut q = false →
    ∃ t, exec (.queueAppendAtHome { src := .group w true sp k, recs := r :: rs }) s = .next t ∧
      t = { s with waitq := s.waitq ++ [{ src := .group w true sp k, recs := r :: rs }] }) ∧
  (∀ (s : State) (w : Who) (r : Rec) (rs : List Rec) (wait sp : Bool) (k : Nat) (i : Append),
    i = { src := .group w wait sp k, recs := r :: rs } → (∀ q, s.queue? r.queue = some q → s.queueShut q = false) →
    ∃ t, exec (.queueAppendAtHome i) s = .next t ∧ t.crews = s.crews ∧
      ((∃ a : EnqAns, Instr.queueAnswer a ∈ t.flying ∧ a.who = w ∧ a.lanes.map (·.1) = (r :: rs).map (·.lane)) ∨
        (wait = true ∧ t.waitq = s.waitq ++ [i]) ∨
        ((∀ q, s.queue? r.queue = some q → q.panBad = []) ∧ t = { s with flight := s.flight ++ [.queueAppendAtHome i] }))) ∧
  (∀ (s : State) (r : Rec) (rs : List Rec) (w : Who) (wait sp : Bool) (k : Nat) (q : Queue) (i : Append),
    i = { src := .group w wait sp k, recs := r :: rs } → s.queue? r.queue = some q →
    (s.queueMoves q = true → ∃ t, exec (.queueAppendAtHome i) s = .next t ∧
      t = { s with sliceWait := s.sliceWait ++ [.queueAppendAtHome i] }) ∧
    (s.queueMoves q = false → s.queueShut q = true → ∃ t, exec (.queueAppendAtHome i) s = .next t ∧
      t = { s with flight := s.flight ++ [.queueAppendAtHome i] })) ∧
  (∀ (s s1 : State) (vf n : Nat) (r : Rec) (res : EnqRes), (∀ q, s.queue? r.queue = some q → s.queueShut q = false) →
    s.appendOutside r.queue r.bytes true = (s1, res) →
    (res = .accepted n → ∃ t, exec (.queueAppendAtHome { src := .henq vf, recs := [r] }) s = .next t ∧
      t = s1.setReg (0x1_0048 + 0x100 * vf) (BitVec.ofNat 64 (n % 2 ^ 48))) ∧
    (res = .refused n → ∃ t, exec (.queueAppendAtHome { src := .henq vf, recs := [r] }) s = .next t ∧
      t = s1.setReg (0x1_0048 + 0x100 * vf) (BitVec.ofNat 64 (2 ^ 60 + n * 2 ^ 56)))) ∧
  (∀ (s : State) (m : EnqAns) (g : Group), s.group? m.who = some g → (m.lanes.map (·.1)).Nodup →
    ∃ t g', exec (.queueAnswer m) s = .next t ∧ t.group? m.who = some g' ∧
      g' = { g with wait := .none, answers := g'.answers } ∧ t = { s with crews := t.crews } ∧
      ∀ p ∈ m.lanes, sget 0 g'.answers p.1 = EnqRes.key p.2) ∧
  (∀ (s : State) (m : Claim) (st : Stage) (ex ey ez : Nat), s.stage? m.stage = some st → st.inp = .range ex ey ez →
    (st.ctr < ex * ey * ez → ∃ t wt, exec (.claimAtHome m) s = .next t ∧ wt = max m.sclk (st.le + 1) ∧
      t.stage? m.stage = some { st with ctr := st.ctr + 1, wt := wt, le := wt } ∧
      Instr.claimReply { claim := m, seqs := [], idx := some st.ctr, wt := wt } ∈ t.flying ∧
      t.crews = s.crews ∧ t.queues = s.queues) ∧
    (ex * ey * ez ≤ st.ctr → ∃ t, exec (.claimAtHome m) s = .next t ∧
      t = s.send (.claimReply { claim := m, seqs := [], idx := none, wt := st.wt }))) ∧
  (∀ (s : State) (m : Claim) (st : Stage) (n : Nat) (q : Queue), s.stage? m.stage = some st → st.inp = .queue n →
    s.queue? n = some q →
    (∀ w o lanes c, m.kind = .deq w o lanes → s.crew? w.crew = some c →
      (let take := q.win.take (min lanes.count (4096 - c.recs.length))
       ∃ t c', exec (.claimAtHome m) s = .next t ∧ t.queue? n = some { q with win := q.win.drop take.length } ∧
         t.crew? w.crew = some c' ∧ c' = { c with recs := c.recs ++ take.map fun r => { queue := n, seq := r.seq } } ∧
         Instr.claimReply { claim := m, seqs := take.map (·.seq), idx := none, wt := (take.map (·.wt)).foldl max 0 } ∈
           t.flying)) ∧
    (∀ core id, m.kind = .launch core id →
      (let take := q.win.take (32 * st.shape.groups)
       (min (q.win.length + q.pan.length) (32 * st.shape.groups) ≤ q.win.length →
         ∃ t, exec (.claimAtHome m) s = .next t ∧ t.queue? n = some { q with win := q.win.drop take.length } ∧
           (take ≠ [] → t.stage? m.stage = some { st with nextCrew := st.nextCrew + 1 }) ∧
           Instr.claimReply { claim := m, seqs := take.map (·.seq), idx := if take = [] then none else some st.nextCrew
                              wt := (take.map (·.wt)).foldl max 0 } ∈ t.flying ∧ t.crews = s.crews) ∧
       (q.win.length < min (q.win.length + q.pan.length) (32 * st.shape.groups) →
         ∃ t, exec (.claimAtHome m) s = .next t ∧ t = { s with claims := s.claims ++ [{ claim := m, queue := n }] })))) ∧
  (∀ (s : State) (n : Nat) (g : Graph), s.graph? n = some g →
    ∃ t, exec (.graphStopComplete n) s = .next t ∧ t.graph? n = none ∧
      t.stages = s.stages.filter (fun y => y.graph != n) ∧ t.queues = s.queues.filter (fun y => y.graph != n) ∧
      t.keepers = s.keepers.filter (fun y => y.graph != n) ∧
      ∀ w y, w ∈ g.waiters → s.group? w = some y → y.wait = .answer → ∃ y', t.group? w = some y' ∧ y'.wait = .none ∧
        y'.phase = 2 ∧ sget 0 y'.answers 0 = 0 ∧ y.SameRegs y')

/-- The host-link events: their effect where they succeed and the Zenvex Link does not retrain; and the writes of the registers of a VF,
taken or not, which leave REJ. That SLICE is held as written, 0 among it, where TS is 0 is the model's reading (log 92). -/
def Obligations.HostLinkEvents : Prop :=
  (∀ (s : State) (vf : Nat) (v : Word), (s.vfReg vf 0x48).getLsbD 63 = false → s.zdown = none →
    ∃ t, exec (.henq vf v) s = .next t ∧ (t.vfReg vf 0x48) = BitVec.ofNat 64 (2 ^ 63) ∧
      Instr.henqRecordRead vf v ∈ t.flight ∧ t.crews = s.crews ∧ t.queues = s.queues ∧ t.hbm = s.hbm ∧ t.host = s.host) ∧
  (∀ (s : State) (vf : Nat) (v : Word) (q : Queue), s.queue? (fld v 0 12) = some q → (q.vf ≠ vf ∨ q.host = false) →
    ∃ t, exec (.henqRecordRead vf v) s = .next t ∧ (t.reg (0x1_0048 + 0x100 * vf)) = BitVec.ofNat 64 (2 * 2 ^ 60) ∧
      t.queues = s.queues ∧ t.todo = s.todo ∧ t.crews = s.crews) ∧
  (∀ (s u : State) (v : Word) (q : Queue), s.queue? (fld v 0 12) = some q → q.host = true →
    (s.hostSlices (fld v 16 48 * 16) q.size).any s.sliceMoves = false →
    u = ({ s with henq := s.henq.filter fun p => p.1 != q.vf } : State).hostSync (fld v 16 48 * 16) q.size →
    (wordPieces (fld v 16 48 * 16) q.size).all (fun p => !u.backPoison .host p.1) = true →
    ∃ t, exec (.henqRecordRead q.vf v) s = .next t ∧ t = u.send (.queueAppendAtHome {
      src := .henq q.vf, recs := [{ lane := 0, queue := q.num, bytes := u.host.read (fld v 16 48 * 16) q.size }] })) ∧
  (∀ (s : State) (vf : Nat) (v : Word), (s.vfReg vf 0x70).toNat ≤ fld v 0 48 → fld v 0 48 ≤ (s.vfReg vf 0x68).toNat →
    ∃ t, exec (.svctail vf v) s = .next t ∧ t = { s with win := t.win } ∧ (t.vfReg vf 0x70).toNat = fld v 0 48 ∧
      (t.vfReg vf 0).getLsbD 1 = false ∧
      ∀ o, o ≠ 0x1_0070 + 0x100 * vf → o ≠ 0x1_0000 + 0x100 * vf → t.reg o = s.reg o) ∧
  (∀ (s : State) (vf : Nat) (v : Word) (w : Who) (g : Group),
    (s.svcOpen.find? fun o => o.1 == vf && o.2.1 == (s.vfReg vf 0x78).toNat) =
      some (vf, (s.vfReg vf 0x78).toNat, w) →
    s.svcWait.all (fun r => r.token != (s.vfReg vf 0x78).toNat) = true → s.group? w = some g → g.wait = .answer →
    ∃ t g', exec (.svcval vf v) s = .next t ∧ t.group? w = some g' ∧ g'.wait = .none ∧ g'.phase = 2 ∧
      sget 0 g'.answers 0 = v.toNat ∧ g.SameRegs g' ∧ t.svcOpen = s.svcOpen.filter fun p =>
        p != (vf, (s.vfReg vf 0x78).toNat, w)) ∧
  (∀ (s : State) (vf : Nat) (r : SvcReq), (s.svcWait.find? fun r => r.vf == vf) = some r → s.svcRoom vf = true →
    ∃ t, exec (.serviceRecordPost vf) s = .next t ∧ t.svcWait = s.svcWait.erase r ∧
      t.host = s.host.write (fld (s.vfReg vf 0x58) 12 40 * 2 ^ 12 + 32 * ((s.vfReg vf 0x68).toNat % s.svcSize vf)) r.bytes ∧
      t.hbm = s.hbm ∧ t.crews = s.crews) ∧
  (∀ (s : State) (vf ofs : Nat) (v val : Word),
    (ofs = 0x50 ∧ val = v &&& bitsMask 47 0 ∨
      ofs = 0x58 ∧ (s.vfReg vf 0x60).getLsbD 0 = false ∧ val = v &&& bitsMask 51 12 ∨
      ofs = 0x60 ∧ val = BitVec.ofNat 64 (fld v 0 1 + 2 * (if (s.vfReg vf 0x60).getLsbD 0 = true ∨ 10 < fld v 1 4 then
        fld (s.vfReg vf 0x60) 1 4 else fld v 1 4)) ∨
      ofs = 0x78 ∧ val = v) →
    ∃ t, exec (.vfRegisterWrite vf ofs v) s = .next t ∧
      t = { s with win := t.win } ∧ t.vfReg vf ofs = val ∧ (t.vfReg vf 0).getLsbD 1 = false ∧
      ∀ o, o ≠ 0x1_0000 + ofs + 0x100 * vf → o ≠ 0x1_0000 + 0x100 * vf → t.reg o = s.reg o) ∧
  (∀ (s : State) (vf : Nat) (v : Word),
    ((s.vfReg vf 0x60).getLsbD 0 = true → exec (.vfRegisterWrite vf 0x58 v) s = .next s) ∧
    ((s.vfReg vf 0x68).toNat < fld v 0 48 ∨ fld v 0 48 < (s.vfReg vf 0x70).toNat → exec (.svctail vf v) s = .next s) ∧
    ((s.svcOpen.any fun o => o.1 == vf && o.2.1 == (s.vfReg vf 0x78).toNat) = false → exec (.svcval vf v) s = .next s) ∧
    ((s.vfReg vf 0x48).getLsbD 63 = true ∨ s.zdown ≠ none → exec (.henq vf v) s = .next s)) ∧
  (∀ (s : State) (vf ofs : Nat) (v : Word), vf < 16 → ofs ≤ 0x38 → ofs % 8 = 0 →
    (let slice := if v.getLsbD 2 = true ∧ fld v 32 16 = 0 then fld (s.vfReg vf 0) 32 16 else fld v 32 16
     let wr (o : Nat) (w : Word) : Word := if o = ofs then w else s.vfReg vf o
     let new : VfRegs := {
       ctl := wr 0 (BitVec.ofNat 64 (fld v 0 1 + 4 * fld v 2 1 + slice * 2 ^ 32))
       asid := wr 8 (v &&& (bitsMask 27 16 ||| bitsMask 11 0))
       mask := (List.range 5).map fun k => wr (0x10 + 8 * k) (if k = 4 then v &&& bitsMask 31 0 else v)
       quota := wr 0x38 (v &&& (bitsMask 56 48 ||| bitsMask 46 40 ||| bitsMask 35 32 ||| bitsMask 26 16 ||| bitsMask 14 8 |||
         bitsMask 3 0)) }
     let good : Prop := s.graphs.all (fun g => g.vf != vf) = true ∧ (ofs = 0 → v.getLsbD 2 = true → slice ≠ 0) ∧
       (ofs = 0x38 → quotaOk new.quota = true) ∧
       s.quotasFit ((List.range 16).map fun w => if w = vf then new else s.vfRegs w) = true
     (good → ∃ t, exec (.vfRegisterWrite vf ofs v) s = .next t ∧
       t.vfRegs vf = { new with ctl := new.ctl &&& ~~~2 } ∧
       t = { s with win := t.win, cores := t.cores, mhz := t.mhz } ∧
       ∀ o, (o < 0x1_0000 + 0x100 * vf ∨ 0x1_0038 + 0x100 * vf < o) → t.reg o = s.reg o) ∧
     (¬good → ∃ t, exec (.vfRegisterWrite vf ofs v) s = .next t ∧ t = { s with win := t.win } ∧
       (t.vfReg vf 0).getLsbD 1 = true ∧ t.vfReg vf 0 &&& ~~~2 = s.vfReg vf 0 &&& ~~~2 ∧
       ∀ o, o ≠ 0x1_0000 + 0x100 * vf → t.reg o = s.reg o))) ∧
  (∀ (s s1 : State) (w : Who) (va vf : Nat) (c : Crew) (g : Group), s.crew? w.crew = some c → s.group? w = some g →
    g.wait = .answer → s.admitWaits c.asid g.answers va = false →
    (∀ n, s.admission c.asid g.answers va vf = (s1, .no n) →
      ∃ t g', exec (.admissionDecision w va vf) s = .next t ∧ t.group? w = some g' ∧ g'.wait = .none ∧ g'.phase = 2 ∧
        sget 0 g'.answers 0 = 2 ^ 63 + n ∧ t.graphs = s.graphs ∧ t.stages = s.stages ∧
        t.queues = s.queues ∧ t.keepers = s.keepers) ∧
    (∀ h s2, s.admission c.asid g.answers va vf = (s1, .yes h s2) →
      ∃ t g' y, exec (.admissionDecision w va vf) s = .next t ∧ t.group? w = some g' ∧ g'.wait = .none ∧ g'.phase = 2 ∧
        sget 0 g'.answers 0 = h ∧ t.graphs = s.graphs ++ [y] ∧ y.handle = h ∧ y.vf = vf))

/-- The scheduling events: their effect where they succeed. That a crew made while its slice switches or its core retires is stopped at
once is the model's choice (log 104), and that a core evaluates again after a launch its reading (log 10). -/
def Obligations.SchedulerEvents : Prop :=
  (∀ (s : State) (k : Nat) (m : Summary), s.names k m.num m.range = true →
    ∃ t e, exec (.spokeSummary k m) s = .next t ∧ t = { s with cores := t.cores } ∧
      (m.num, m.range, e) ∈ (t.core k).sums ∧ e.sum = m ∧ e.at_ = s.cycle ∧ e.stale = none ∧
      ∀ j, j ≠ k → t.core j = s.core j) ∧
  (∀ (s : State) (k n : Nat) (r : Bool), ∃ t, exec (.summaryStale k n r) s = .next t ∧ t = { s with cores := t.cores } ∧
    (∀ p ∈ (t.core k).sums, p.1 = n → p.2.1 = r → p.2.2.stale.isSome = true) ∧
    (t.core k).sums.length = (s.core k).sums.length) ∧
  (∀ (s u : State) (k : Nat), (s.core k).absent = false → s.coreGoing k = false →
    u = s.updCore k (fun co => { co with evalDue := false }) → s.keepers.all (fun y => y.core != k) = true →
    (u.pickStage k = none →
      ∃ t, exec (.derailleurEvaluation k) s = .next t ∧ t = { s with cores := t.cores } ∧ (t.core k).evalDue = false ∧
        (t.core k).skip = []) ∧
    (∀ y, u.pickStage k = some y → u.savedCrew y.num = none →
      ∃ t r, exec (.derailleurEvaluation k) s = .next t ∧ (t.core k).resv = (s.core k).resv ++ [r] ∧ r.stage = y.num ∧
        r.keeper = none ∧ r.p0 = u.basePart k ∧
        Instr.claimAtHome { stage := y.num, kind := .launch k r.id, sclk := (s.core k).sclk } ∈ t.flying ∧
        (t.core k).evalDue = true ∧ (t.core k).skip = [] ∧ t.crews = s.crews)) ∧
  (∀ (s : State) (m : ClaimRep) (k id : Nat) (r : Resv) (y : Stage), m.claim.kind = .launch k id →
    ((s.core k).resv.find? fun r => r.id == id) = some r → s.stage? r.stage = some y →
    (m.idx = none → ∃ t, exec (.claimReply m) s = .next t ∧ y.num ∈ (t.core k).skip ∧ (t.core k).evalDue = true ∧
      (t.core k).resv = (s.core k).resv.filter (fun r => r.id != id) ∧ t.crews = s.crews) ∧
    (∀ i gr, m.idx = some i → s.graph? y.graph = some gr → gr.aborting = false →
      ∃ t c, exec (.claimReply m) s = .next t ∧ t.crews = s.crews ++ [c] ∧
        c.st = (if ((s.core k).switching && s.vfTs y.vf) || s.coreGoing k then .stopping else .running) ∧ c.core = k ∧
        c.stage = y.num ∧ c.graph = y.graph ∧ c.vf = y.vf ∧ c.asid = y.asid ∧ c.keeper = r.keeper ∧ c.shape = y.shape ∧
        c.crewid = BitVec.ofNat 64 i ∧ c.seqbase = BitVec.ofNat 64 (m.seqs.headD 0) ∧
        c.reccount = BitVec.ofNat 64 m.seqs.length ∧ c.lclk = max (s.core k).lclk m.wt ∧
        c.sclk = max (s.core k).sclk m.wt ∧ c.groups.length = y.shape.groups ∧ c.bars.length = y.shape.barriers ∧
        (∀ b ∈ c.bars, b.phase = 0 ∧ b.arr = 0 ∧ b.mask = BitVec.ofNat 16 (2 ^ y.shape.groups - 1)) ∧
        (∀ g ∈ c.groups, g.handler = false ∧ g.outs = [] ∧ g.fcr = y.fcr ∧ g.lastIssue = s.cycle ∧ g.snap = g.lp) ∧
        (t.core k).resv = (s.core k).resv.filter (fun r => r.id != id))) ∧
  (∀ (s : State) (k : Nat) (c : Crew), s.crew? k = some c → c.closed = true →
    (s.core c.core).mq.any (fun j => j.iss.who.crew == k) = false →
    ∃ t, exec (.crewRetire k) s = .next t ∧ t.crew? k = none) ∧
  (∀ (s : State) (k : Nat) (c : Crew), s.crew? k = some c → c.st = .running →
    (s.stopKeeps c = false → ∃ t, exec (.preemption k) s = .next t ∧ t = { s with crews := t.crews } ∧
      t.crew? k = some { c with st := .stopping, stopTo := .saved }) ∧
    (s.stopKeeps c = true → ∃ t, exec (.preemption k) s = .next t ∧
      t = { s with stop := s.stop.map fun y => { y with deferred := y.deferred ++ [k] } })) ∧
  (∀ (s : State) (k : Nat) (c : Crew), s.crew? k = some c → s.maySave c = true → (s.graph? c.graph).any (·.aborting) = true →
    ∃ t c', exec (.preemption k) s = .next t ∧ t.crew? k = some c' ∧ c'.st = .gone) ∧
  (∀ (s : State) (k : Nat) (c : Crew), s.crew? k = some c → s.maySave c = true → c.stopTo ≠ .closing →
    (s.graph? c.graph).any (·.aborting) = false →
    ∃ t c', exec (.preemption k) s = .next t ∧ t.crew? k = some c' ∧
      c' = { c with st := c.stopTo, groups := c'.groups, savedAt := s.fresh } ∧ c'.groups.length = c.groups.length ∧
      (∀ (j : Nat) (g : Group), c.groups[j]? = some g → ∃ g', c'.groups[j]? = some g' ∧ g.SameRegs g' ∧ g.SameTrap g' ∧
        (∀ l, (g'.lpOf l).pc = (g.lpOf l).pc ∧ (g'.lpOf l).depth = (g.lpOf l).depth) ∧ g'.snap = g.snap ∧ g'.sb = g.sb ∧
        g'.ports = g.ports) ∧
      t = { s with crews := t.crews, cores := t.cores, waitq := t.waitq, fresh := t.fresh, svcWait := t.svcWait }) ∧
  (∀ (s : State) (k vf : Nat), (s.core k).tsvf = some vf →
    ∃ t, exec (.sliceEnd k) s = .next t ∧ (t.core k).switching = true ∧ t.crews = s.crews ∧
      ∀ c ∈ s.crews, c.core = k → c.vf = vf → c.st = .running → Instr.preemption c.id ∈ t.todo) ∧
  (∀ (s : State) (k vf : Nat), (s.core k).tsvf = some vf → s.vfStands k vf = false →
    ∃ t, exec (.sliceSwitchComplete k) s = .next t ∧ (t.core k).switching = false ∧ (t.core k).evalDue = true ∧
      t.crews = s.crews)

/-- The events of copies and HANDs. -/
def Obligations.CopyEvents : Prop :=
  (∀ (s s1 : State) (crew id : Nat) (c : Crew) (k : Copy) (bs : List Byte), s.crew? crew = some c →
    s.copy? crew id = some k → k.stopped = false → c.resident = true → k.kind = .g2t → k.msg = false → k.runs ≠ [] →
    s.copyRead c k (piecesFrom k.data.length ((k.chunk.map fun r => wordPieces r.src r.n).flatten)) = (s1, bs, none) →
    ∃ t c', exec (.copyChunkComplete crew id) s = .next t ∧ t.crew? crew = some c' ∧
      c'.scratch = (runSplit k.chunk (k.data ++ bs)).foldl (fun m p => m.write p.1 p.2) c.scratch ∧
      c'.groups = c.groups ∧ t.hbm = s1.hbm ∧ t.host = s1.host ∧ t.slices = s1.slices ∧
      (c.st = .running → (takeRuns 512 k.runs).2 ≠ [] → Instr.copyChunkComplete crew id ∈ t.flying)) ∧
  (∀ (s s1 : State) (crew id : Nat) (c : Crew) (k : Copy), s.crew? crew = some c → s.copy? crew id = some k →
    k.stopped = false → c.resident = true → k.kind = .t2g → k.msg = false → k.runs ≠ [] →
    s.chunkBad c ((runSplit k.chunk (c.chunkScratch k.chunk)).map fun r => runPages r.1 r.2.length).flatten = (s1, none) →
    (∀ va ∈ ((runSplit k.chunk (c.chunkScratch k.chunk)).map fun r => runPages r.1 r.2.length).flatten,
      ∀ x, s1.peek c.asid va = some x → s1.msgUnit c.asid va x.attr = none) →
    ∃ t c', exec (.copyChunkComplete crew id) s = .next t ∧ t.crew? crew = some c' ∧ c'.scratch = c.scratch ∧
      c'.groups = c.groups ∧ t.slices = s1.slices ∧
      ∀ p ∈ runSplit k.chunk (c.chunkScratch k.chunk), ∀ j b, p.2[j]? = some b →
        ∃ m : StMsg, Instr.storePerformedAtHome m ∈ t.flying ∧ m.origin = .copy crew id k.chunks ∧ m.asid = c.asid ∧
          m.sclk = k.sclk ∧ m.va ≤ p.1 + j ∧ m.bytes[p.1 + j - m.va]? = some b) ∧
  (∀ (s : State) (crew id : Nat) (c : Crew) (k : Copy), s.crew? crew = some c → s.copy? crew id = some k →
    k.kind = .g2g → k.stopped = false →
    ∃ t m, exec (.copyComplete crew id) s = .next t ∧ Instr.atomicAtHome m ∈ t.flying ∧ m.origin = .copy crew id 0 ∧
      m.va = k.word ∧ m.n = 8 ∧ m.op = .int .add ∧ m.b = 1 ∧ m.asid = c.asid ∧ m.sclk = max k.sclk k.wt ∧
      t.slices = s.slices) ∧
  (∀ (s : State) (crew id : Nat) (c : Crew) (k : Copy), s.crew? crew = some c → s.copy? crew id = some k →
    k.kind ≠ .g2g →
    ∃ t c', exec (.copyComplete crew id) s = .next t ∧ t = { s with crews := t.crews } ∧ t.crew? crew = some c' ∧
      c'.copies = c.copies.filter (fun k => k.id != id) ∧ c'.scratch = c.scratch ∧
      ∀ g, k.stopped = false → c.groups[k.grp]? = some g →
        c'.groups[k.grp]? = some { g with copyWt := max g.copyWt k.wt }) ∧
  (∀ (s : State) (crew id : Nat) (c r : Crew) (k : Copy), s.crew? crew = some c → s.copy? crew id = some k →
    s.crew? k.toCrew = some r → k.toCrew ≠ crew → k.tile < c.tiles.length → k.toTile < r.tiles.length →
    ∃ t c' r', exec (.handTransferComplete crew id) s = .next t ∧ t = { s with crews := t.crews } ∧
      t.crew? crew = some c' ∧ t.crew? k.toCrew = some r' ∧
      r'.scratch.read (r.tileBase k.toTile) k.data.length = k.data ∧ (r'.tile k.toTile).st = .ready ∧
      (r'.tile k.toTile).armed = false ∧ (c'.tile k.tile).st = .empty ∧ (c'.tile k.tile).handed = true ∧
      (c'.tile k.tile).owner = r.core ∧ c'.copies = c.copies.filter fun y => y.id != id) ∧
  (∀ (s : State) (crew id : Nat) (c : Crew) (k : Copy), s.crew? crew = some c → s.copy? crew id = some k →
    k.toCrew = crew → k.tile < c.tiles.length → k.toTile < c.tiles.length → k.tile ≠ k.toTile →
    ∃ t c', exec (.handTransferComplete crew id) s = .next t ∧ t = { s with crews := t.crews } ∧ t.crew? crew = some c' ∧
      c'.scratch.read (c.tileBase k.toTile) k.data.length = k.data ∧ (c'.tile k.toTile).st = .ready ∧
      (c'.tile k.toTile).armed = false ∧ (c'.tile k.tile).st = .empty ∧ (c'.tile k.tile).handed = true ∧
      (c'.tile k.tile).owner = c.core ∧ c'.groups = c.groups ∧ c'.copies = c.copies.filter fun y => y.id != id)

/-- The matrix events: acceptance and its trap, the rows, and the completion of each instruction with its effect. Which FSR takes the kept
flags of an interrupted instruction (log 97), and that STEP counts all rows at the last one (log 117), are the model's choices. -/
def Obligations.MatrixEvents : Prop :=
  (∀ (s : State) (k : Nat) (j : Job) (x : Ctx), (s.core k).job = some j → j.accepted = false → s.jobCtx j = some x →
    x.c.core = k →
    (∀ cause info, matBad x.c j = some (cause, info) → exec (.matrixAccept k) s =
      .next ((s.updCore k fun co => { co with mq := co.mq.tail }).takeTrap j.iss.who
        { cause := cause, lanes := j.act, info := info, pc := j.iss.pc, skipLen := j.iss.len })) ∧
    (matBad x.c j = none →
      let own := x.c.mprog.getLsbD 63 && decide (fld x.c.mprog 59 4 = j.iss.who.grp)
      let c0 := if own && !j.cont && !j.op.idle then x.c.matAbandon else x.c
      (∀ arg, j.op = .mlw arg → ∃ t g' c', exec (.matrixAccept k) s = .next t ∧ t.group? j.iss.who = some g' ∧
        x.g.WentOn g' j.iss.set j.iss.len ∧ (own = false → x.g.IssueRest g') ∧ t.crew? j.iss.who.crew = some c' ∧
        c' = { c0.setShadow arg with groups := c'.groups } ∧ (t.core k).mq = (s.core k).mq.tail ∧
        (∀ n f u, arg = some (n, f, u) → (t.core k).plShadow = some x.c.id ∧
          (t.core k).bgDone = some (s.cycle + ceilDiv (planeBytes f u) 128)) ∧
        t = { s with crews := t.crews, cores := t.cores, svcWait := t.svcWait }) ∧
      (∀ div zr n out row sum, j.op = .mrd div zr n out row sum → ∃ t g' o j', exec (.matrixAccept k) s = .next t ∧
        t.group? j.iss.who = some g' ∧ x.g.WentOn g' j.iss.set j.iss.len ∧ g'.outs = x.g.outs ++ [o] ∧ o.id = out ∧
        o.kind = .mrd n ∧ o.lanes = j.act ∧ o.dst = .v (BitVec.ofNat 8 (out % 256)) ∧
        (t.core k).mq = j' :: (s.core k).mq.tail ∧ j'.op = j.op ∧ j'.accepted = true ∧ j'.ready = s.cycle + 8 + n ∧
        t = { s with crews := t.crews, cores := t.cores, svcWait := t.svcWait }) ∧
      ((∀ arg, j.op ≠ .mlw arg) → (∀ div zr n out row sum, j.op ≠ .mrd div zr n out row sum) →
        ∃ t c' j', exec (.matrixAccept k) s = .next t ∧ t.crew? j.iss.who.crew = some c' ∧
          c' = { c0 with mprog := c'.mprog, mtile := c'.mtile, tiles := c'.tiles } ∧
          ((j.op.progress && !j.cont) = false → c' = c0) ∧
          ((j.op.progress && !j.cont) = true →
            c'.mprog = startProg c0.mprog j.iss.who.grp j.code j.iss.pc ∧ c'.mtile = j.op.tile ∧
            ∀ n wr, j.op.tile = some (n, wr) → n < c0.tiles.length →
              (c'.tile n).st = if wr then .filling else .draining) ∧
          (t.core k).mq = j' :: (s.core k).mq.tail ∧ j'.op = j.op ∧ j'.iss = j.iss ∧ j'.accepted = true ∧
          j'.step = (if j.cont then fld x.c.mprog 44 11 else 0) ∧ t = { s with crews := t.crews, cores := t.cores }))) ∧
  (∀ (s : State) (k : Nat) (j : Job) (x : Ctx), (s.core k).job = some j → s.jobCtx j = some x → j.accepted = true →
    j.step < j.op.rows → x.c.core = k →
    (let r := x.c.matRow j.op j.step
     let c0 : Crew := if j.step + 1 = j.op.rows then r.1.streamRead else r.1
     let c1 : Crew := { c0 with mprog := putBits c0.mprog 44 11 (j.step + 1) }
     ((s.matStrike k x.c.vf j.op).2 = false → (j.stopped = false ∧ x.c.st = .running ∨ j.step + 1 = j.op.rows) →
       ∃ t j', exec (.matrixRowComplete k) s = .next t ∧ t.crew? j.iss.who.crew = some c1 ∧
         (t.core k).mq = j' :: (s.core k).mq.tail ∧ j'.step = j.step + 1 ∧ j'.fl = j.fl ||| r.2 ∧ j'.op = j.op ∧
         t = { s with crews := t.crews, cores := t.cores, svcWait := t.svcWait }) ∧
     ((s.matStrike k x.c.vf j.op).2 = false → (j.stopped = true ∨ x.c.st ≠ .running) → x.c.st ≠ .closing →
       j.step + 1 < j.op.rows →
       ∃ t c', exec (.matrixRowComplete k) s = .next t ∧ t.crew? j.iss.who.crew = some c' ∧
         c' = { c1 with groups := c'.groups } ∧
         t.group? j.iss.who = some { x.g.headDone with mfl := x.g.mfl ||| (j.fl ||| r.2) } ∧
         (t.core k).mq = (s.core k).mq.tail ∧ t = { s with crews := t.crews, cores := t.cores, svcWait := t.svcWait }))) ∧
  (∀ (s : State) (k : Nat) (j : Job) (x : Ctx), Completing s k j x →
    (j.op.progress = true → ∃ t, exec (.matrixComplete k) s = .next t ∧ MatDone s t k j x x.c.matAbandon 0 x.g.rdV) ∧
    (j.op.idle = true → ∃ t, exec (.matrixComplete k) s = .next t ∧ MatDone s t k j x x.c 0 x.g.rdV) ∧
    (j.op = .mswap → ∃ t, exec (.matrixComplete k) s = .next t ∧ MatDone s t k j x x.c.swapPlanes 0 x.g.rdV ∧
      ∀ y : Nat, ((t.core k).plActive = some y ↔ if y = x.c.id then (s.core k).plShadow = some y else
          (s.core k).plActive = some y ∧ (s.core k).plShadow ≠ some x.c.id) ∧
        ((t.core k).plShadow = some y ↔ if y = x.c.id then (s.core k).plActive = some y else
          (s.core k).plShadow = some y ∧ (s.core k).plActive ≠ some x.c.id)) ∧
    (∀ f z row bytes scl p, j.op = .msts f z row bytes scl → x.c.active = some p →
      let r := x.c.streamRow p f (((matPair p.f f).map (·.1)).getD 0) row z scl.isSome (bytes.map (·.toNat))
        ((scl.getD []).map (·.toNat))
      ∃ t, exec (.matrixComplete k) s = .next t ∧ MatDone s t k j x r.1 r.2 x.g.rdV) ∧
    (∀ row n, j.op = .mzero row n → ∃ t c, exec (.matrixComplete k) s = .next t ∧ MatDone s t k j x c 0 x.g.rdV ∧
      c = { x.c with acc := c.acc, rmax := c.rmax, rsum := c.rsum } ∧ ∀ i,
        (∀ q, q < 64 → c.accAt i q = if row ≤ i ∧ i < row + n then 0 else x.c.accAt i q) ∧
        sget negInf c.rmax i = (if row ≤ i ∧ i < row + n then negInf else sget negInf x.c.rmax i) ∧
        sget 0 c.rsum i = if row ≤ i ∧ i < row + n then 0 else sget 0 x.c.rsum i) ∧
    (∀ sum n row vals, j.op = .mswr sum n row vals → n ≤ vals.length →
      ∃ t c, exec (.matrixComplete k) s = .next t ∧ MatDone s t k j x c 0 x.g.rdV ∧
        c = { x.c with rmax := c.rmax, rsum := c.rsum } ∧ ∀ i,
          sget 0 c.rsum i = (if sum = true ∧ row ≤ i ∧ i < row + n then vals.getD (i - row) 0 else sget 0 x.c.rsum i) ∧
          sget negInf c.rmax i =
            if sum = false ∧ row ≤ i ∧ i < row + n then vals.getD (i - row) 0 else sget negInf x.c.rmax i) ∧
    (∀ sum n d row, j.op = .msrd sum n d row → s.stop = none → x.g.wait = .answer →
      let at_ (i : Nat) : Nat := if i < n then
        (if sum then sget 0 x.c.rsum (row + i) else sget negInf x.c.rmax (row + i)).toNat else 0
      ∃ t, exec (.matrixComplete k) s = .next t ∧ MatDone s t k j x x.c 0 fun m l =>
        if m = d ∧ j.act.has l = true then packElems 32 [at_ (2 * l), at_ (2 * l + 1)] else x.g.rdV m l) ∧
    (∀ div zr n out row sum, j.op = .mrd div zr n out row sum → s.stop = none → (∀ r, x.g.wait ≠ .trap r) →
      let r := x.c.mrdRegs div n row sum j.act
      ∃ t g' c', exec (.matrixComplete k) s = .next t ∧ t.group? j.iss.who = some g' ∧ t.crew? j.iss.who.crew = some c' ∧
        c' = { x.c with groups := c'.groups, acc := c'.acc } ∧ (zr = false → c'.acc = x.c.acc) ∧
        (zr = true → ∀ i q, q < 64 → c'.accAt i q = if row ≤ i ∧ i < row + n then 0 else x.c.accAt i q) ∧
        (∀ i l, i < n → l < 32 → j.act.has l = true → g'.rdV (out % 256 + i) l = r.1 i l) ∧
        (∀ m l, l < 32 → (m < out % 256 ∨ out % 256 + n ≤ m ∨ j.act.has l = false) → g'.rdV m l = x.g.rdV m l) ∧
        g'.g = x.g.g ∧ g'.p = x.g.p ∧ g'.fcr = x.g.fcr ∧ g'.fsr = x.g.fsr ||| r.2 ||| (x.g.mfl ||| j.fl) ∧
        (∀ l, (g'.lpOf l).pc = (x.g.lpOf l).pc) ∧ (t.core k).mq = (s.core k).mq.tail ∧
        t = { s with crews := t.crews, cores := t.cores, svcWait := t.svcWait })) ∧
  (∀ (s : State) (k : Nat), ∃ t, exec (.mlwBackgroundLoadDone k) s = .next t ∧ t = { s with cores := t.cores } ∧
    t.core k = { s.core k with bgDone := none } ∧ ∀ j, j ≠ k → t.core j = s.core j)

/-- The translation events: their effect where they succeed, and the companion's accesses where they wait for the Zenvex Link. That an invalidation with PURGE waits for dirty host blocks which the Zenvex
Link cannot take follows R381 and R506. -/
def Obligations.TranslationEvents : Prop :=
  (∀ (s : State) (v : Word) (i : Instr) (sc : Nat),
    (i = .tlbinvRange v ∧ sc = 0 ∧ fld v 32 16 ≠ 0 ∨ i = .tlbinvAsid v ∧ sc = 1 ∨ i = .tlbinvAll v ∧ sc = 2) →
    ∃ t n, exec i s = .next t ∧ t.inv = some n ∧ n.scope = sc ∧ n.asid = fld v 20 12 ∧ n.units = fld v 32 16 ∧
      n.va = fld (s.reg 0x208) 15 36 * 2 ^ 15 ∧ n.purge = v.getLsbD 18 ∧ (t.reg 0x210).getLsbD 63 = true ∧
      t = { s with win := t.win, inv := t.inv }) ∧
  (∀ (s : State) (n : Inv), s.inv = some n → s.invDone n = true →
    ∃ t, exec .invalidationComplete s = .next t ∧ t.inv = none ∧ (t.reg 0x210).getLsbD 63 = false ∧
      (∀ e ∈ t.ctrls, ∀ y ∈ e.2.tlb, n.hits y.asid y.va (pageSize y.lvl) = false) ∧
      (∀ e ∈ t.cores, ∀ y ∈ e.2.attrs,
        n.hits (if y.attr.g then 0 else y.asid) (y.page * 2 ^ 15) (pageSize y.lvl) = false) ∧
      (n.purge = true →
        (∀ e ∈ t.slices, ∀ b ∈ e.2.home ++ e.2.loc, n.hitsBlk b = false) ∧ ∀ e ∈ t.cores, ∀ b ∈ e.2.l1, n.hitsBlk b = false)) ∧
  (∀ (s : State) (v : Word) (i : Instr) (f : Word → Word → Word),
    (i = .pteRead v ∧ f = (fun o _ => o) ∨ i = .pteWrite v ∧ f = (fun _ d => d) ∨
      i = .pteOr v ∧ f = (fun o d => o ||| d) ∨ i = .pteClear v ∧ f = fun o d => o &&& ~~~d) →
    (s.reg 0x228).toNat < hbmEnd → s.touchesPending (s.reg 0x228).toNat = false →
    ∃ t, exec i s = .next t ∧ t.hbm64 (s.reg 0x228).toNat =
        f (s.hbm64 (s.reg 0x228).toNat) (s.reg 0x230) ∧
      t.reg 0x230 = s.hbm64 (s.reg 0x228).toNat ∧ t.crews = s.crews ∧ t.host = s.host ∧
      ∀ a, a < (s.reg 0x228).toNat ∨ (s.reg 0x228).toNat + 8 ≤ a → t.hbm.get a = s.hbm.get a) ∧
  (∀ (s : State) (v : Word), s.ck = none → fld (s.reg 0x240) 62 2 ≠ 0 → fld (s.reg 0x240) 62 2 ≠ 3 →
    fld (s.reg 0x248) 4 11 ≠ 0 →
    ∃ t k, exec (.checkpointStart v) s = .next t ∧ t.ck = some k ∧ k.phase = .drain ∧ k.cut = s.topClock ∧
      t.reg 0x250 = BitVec.ofNat 64 s.topClock ∧ (t.reg 0x248).getLsbD 63 = true ∧ t.hbm = s.hbm ∧ t.host = s.host ∧
      ∀ c ∈ t.crews, c.resident = true → s.topClock < c.sclk) ∧
  (∀ (s : State) (k : Ck), s.ck = some k → k.phase = .drain → s.ckDrained k = true →
    (s.ckPages = none → ∃ t, exec .checkpointDrained s = .next t ∧ t.ck = none) ∧
    (∀ ps, s.ckPages = some ps → ∃ t, exec .checkpointDrained s = .next t ∧
      t.ck = some { k with phase := .copy, pend := ps } ∧ t.hbm = s.hbm ∧ t.crews = s.crews)) ∧
  (∀ (s : State) (k : Ck), s.ck = some k → k.phase = .copy → k.asked = false → k.logOut = 0 → k.wrote = false →
    s.zretrains = false →
    (k.pend = [] → fld (s.reg 0x248) 4 11 * 2 ^ 30 < k.pos + 64 →
      ∃ t, exec .checkpointPageWritten s = .next t ∧ t.ck = none ∧ fld (t.reg 0x248) 60 4 = 1 ∧ t.hbm = s.hbm) ∧
    (fld (s.reg 0x240) 62 2 = 2 → s.zdown = none →
      (k.pend = [] → k.pos + 64 ≤ fld (s.reg 0x248) 4 11 * 2 ^ 30 →
        ∃ t, exec .checkpointPageWritten s = .next t ∧ t.ck = none ∧ fld (t.reg 0x248) 60 4 = 0 ∧ t.hbm = s.hbm ∧
          t.host = s.host.write (fld (s.reg 0x240) 6 46 * 64 + k.pos) (ckRecord k.num k.cut 0xFF 0 0)) ∧
      (∀ asid va lvl rest p lvl' a, k.pend = (asid, va, lvl) :: rest → s.walk asid va = .leaf p lvl' a →
        (leafAttr p).wb = false → ((leafAttr p).ap = .hbm ∨ (leafAttr p).ap = .host) →
        k.pos + 64 + pageSize lvl ≤ fld (s.reg 0x248) 4 11 * 2 ^ 30 →
        ∃ t, exec .checkpointPageWritten s = .next t ∧
          t.ck = some { k with pend := rest, pos := k.pos + 64 + pageSize lvl, num := k.num + 1 } ∧
          t.hbm = s.hbm.write a (bytesOf (p &&& ~~~(BitVec.ofNat 64 (2 ^ 14))).toNat 8) ∧
          t.host = s.host.write (fld (s.reg 0x240) 6 46 * 64 + k.pos)
            (ckRecord k.num k.cut (3 - lvl) asid va ++ s.pageBytes asid va (pageSize lvl) (xlOf p lvl' va))))) ∧
  (∀ (s : State) (pa n : Nat) (d : DirEnt), inWindow .host pa = false → s.zshut = false → s.dir.find? (·.has pa) = some d →
    (s.regionDirty d.base d.size = false → ∃ t, exec (.companionRead pa n) s = .next t ∧ t = s) ∧
    (s.regionDirty d.base d.size = true → (s.hostSlices d.base d.size).any s.sliceMoves = false →
      ∃ t, exec (.companionRead pa n) s = .next t ∧ t.regionDirty d.base d.size = false ∧ t.hbm = s.hbm ∧ t.crews = s.crews)) ∧
  (∀ (s : State) (pa : Nat) (bs : List Byte), inWindow .host pa = false → s.zshut = false → (∀ i, s.sliceMoves i = false) →
    s.ckFrame .host pa = none → s.dir.any (·.has pa) = false →
    ∃ t, exec (.companionWrite pa bs) s = .next t ∧ t.host.read pa bs.length = bs ∧ t.crews = s.crews ∧
      ∀ d, d < 4 → s.dirMark < sget 0 t.floorF d) ∧
  (∀ (s : State) (pa : Nat) (bs : List Byte), inWindow .host pa = false → s.zshut = false → (∀ i, s.sliceMoves i = false) →
    s.ckFrame .host pa = none → s.dir.any (·.has pa) = true → bs ≠ [] → pa % 16 + bs.length ≤ 16 →
    (s.slices.any fun e => e.2.home.any fun b => b.ap == .host && b.wordsAt pa bs.length != 0) = false →
    ∃ t, exec (.companionWrite pa bs) s = .next t ∧ t.crews = s.crews ∧ ∀ a ∈ s.frameVas .host pa,
      (let old := (s.slice (homeOf a.2)).mark a.2
       old < (t.slice (homeOf a.2)).mark a.2 ∧ ∀ d, d < 4 → old < sget 0 t.floorF d)) ∧
  (∀ (s : State) (pa n : Nat) (bs : List Byte), inWindow .host pa = false → s.zshut = true →
    (∃ t, exec (.companionRead pa n) s = .next t ∧ t = { s with linkWait := s.linkWait ++ [.companionRead pa n] }) ∧
    ∃ t, exec (.companionWrite pa bs) s = .next t ∧ t = { s with linkWait := s.linkWait ++ [.companionWrite pa bs] }) ∧
  (∀ (s : State) (b : Nat) (d e : DirEnt), s.mayMerge b = some (d, e) →
    ∃ t y, exec (.regionMerge b) s = .next t ∧ t = { s with dir := t.dir } ∧ y ∈ t.dir ∧ y.base = b ∧
      y.size = 2 * d.size ∧ ∀ pa, y.has pa = (d.has pa || e.has pa))

/-- The requests that the fabric brings: their effect where they succeed. The model's choices are how a lost torus segment is told to its
source (log 121), the answer fault 0 while the fabric is off (log 80), and that what a multicast write has beyond HBM is discarded
(log 33). Its readings are that a multicast write goes to memory where no home block is (log 74), and that a message of the host link
takes ARRTIME from TIME of die 0 and its tag from HMSGT as HMSGA is written (log 76). -/
def Obligations.FabricRequestEvents : Prop :=
  (∀ (s : State) (v w : Word), w = v &&& (bitsMask 63 12 ||| 3) → (s.reg 0x300).getLsbD 1 = false →
    fld w 12 12 ≠ 0 → fld w 54 10 ≤ fld w 44 10 →
    (w.getLsbD 0 = true → (fld w 24 5 + 1) * (fld w 29 5 + 1) * (fld w 34 5 + 1) * (fld w 39 5 + 1) = fld w 44 10 + 1) →
    ∃ t, exec (.fabcfg v) s = .next t ∧ t = s.setReg 0x300 w) ∧
  (∀ (s : State) (p : Nat) (dead : Bool) (i : Instr),
    (i = .planeDeadSet p ∧ dead = true ∨ i = .planeDeadClear p ∧ dead = false) →
    s.planeTarget p = !dead →
    ∃ t, exec i s = .next t ∧ t = { s with planeSw := s.planeSw ++ [(p, dead)] }) ∧
  (∀ (s : State) (p : Nat) (dead : Bool), (s.planeSw.find? fun q => q.1 == p) = some (p, dead) → p < 8 →
    s.planeDrained (p, dead) = true → s.segs.all (·.sent) = true →
    ∃ t, exec (.planeSwitchDrained p) s = .next t ∧ t.planeSw = s.planeSw.erase (p, dead) ∧
      (t.reg 0x308).getLsbD p = dead ∧ (∀ q, q < 8 → q ≠ p → (t.reg 0x308).getLsbD q = (s.reg 0x308).getLsbD q) ∧
      t.segs = s.segs ∧ t.crews = s.crews) ∧
  (∀ (s s1 : State) (m : PeerReq) (va n : Nat) (x : Xl), (s.reg 0x300).getLsbD 1 = true → m.op = .load va n →
    m.counted = true → s.peerFree m = true → s.shutWords (fld (s.reg 0x300) 12 12) (peerWords m.op) = false →
    s.translate (ctrlOf (homeOf va)) (fld (s.reg 0x300) 12 12) va (fun a => a.r) false = (s1, .ok x) → x.attr.ap = .hbm →
    ∃ t r, exec (.peerRequestArrival m) s = .next t ∧ r = s1.homeBytes (fld (s.reg 0x300) 12 12) (wordPieces va n) ∧
      t.outbox = s.outbox ++ [.peerAns m.tag m.port (.data r.2.1 r.2.2)] ∧ t.crews = s.crews) ∧
  (∀ (s s1 s2 : State) (m : PeerReq) (va wt : Nat) (bs : List Byte) (x : Xl), (s.reg 0x300).getLsbD 1 = true →
    m.op = .store va bs → m.counted = true → s.peerFree m = true →
    s.ckHolds (fld (s.reg 0x300) 12 12) va (2 ^ 64) = false → s.shutWords (fld (s.reg 0x300) 12 12) (peerWords m.op) = false →
    s.translate (ctrlOf (homeOf va)) (fld (s.reg 0x300) 12 12) va (fun a => a.w) true =
      (s1, .ok x) → x.attr.ap = .hbm → x.attr.wb = false →
    s1.homeWrite (fld (s.reg 0x300) 12 12) va bs (sget 0 s1.floorF (homeOf va / 24)) = some (wt, s2) →
    ∃ t, exec (.peerRequestArrival m) s = .next t ∧ t = (s2.raiseFloor wt).peerAnswer m (.done 0)) ∧
  (∀ (s s1 s2 : State) (m : PeerReq) (va n : Nat) (op : AtomOp) (b old : Word) (x : Xl),
    (s.reg 0x300).getLsbD 1 = true → m.op = .atom va n op b → m.counted = true → s.peerFree m = true →
    s.ckHolds (fld (s.reg 0x300) 12 12) va (2 ^ 64) = false → s.shutWords (fld (s.reg 0x300) 12 12) (peerWords m.op) = false →
    s.translate (ctrlOf (homeOf va)) (fld (s.reg 0x300) 12 12) va (fun a => a.r && a.w) true =
      (s1, .ok x) → x.attr.ap = .hbm → x.attr.wb = false → va % n = 0 →
    s1.peerAtom (fld (s.reg 0x300) 12 12) va n op b x = .ok (old, s2) →
    ∃ t, exec (.peerRequestArrival m) s = .next t ∧ t = s2.peerAnswer m (.done old)) ∧
  (∀ (s : State) (m : PeerReq), (s.reg 0x300).getLsbD 1 = false →
    ∃ t, exec (.peerRequestArrival m) s = .next t ∧ t = s.peerAnswer m (.fault 0)) ∧
  (∀ (s : State) (m : PeerReq), (s.reg 0x300).getLsbD 1 = true → m.counted = true → s.peerFree m = true →
    (peerWords m.op).any (fun a => s.sliceMoves (homeOf a)) = true →
    ((peerNeeds m.op).2.2 = true → s.ckHolds (fld (s.reg 0x300) 12 12) (peerNeeds m.op).1 (2 ^ 64) = false) →
    ∃ t, exec (.peerRequestArrival m) s = .next t ∧ t = { s with sliceWait := s.sliceWait ++ [.peerRequestArrival m] }) ∧
  (∀ (s : State) (m : PeerReq), (s.reg 0x300).getLsbD 1 = true → m.counted = false →
    exec (.peerRequestArrival m) s = exec (.peerRequestArrival { m with counted := true, no := s.fresh }) {
      s.portCount m.port 1 (match m.op with
        | .store _ bs => bs.length
        | .atom _ n _ _ => n
        | _ => 0) with fresh := s.fresh + 1 }) ∧
  (∀ (s : State) (m : PeerReq) (h : Held), (s.reg 0x300).getLsbD 1 = true → m.counted = true → (peerNeeds m.op).2.2 = true →
    (s.held.find? fun h => peerBefore m h.req) = some h →
    ∃ t h', exec (.peerRequestArrival m) s = .next t ∧ t = { s with held := s.held ++ [h'], fresh := s.fresh + 1 } ∧
      h'.req = .peerRequestArrival m ∧ h'.why = h.why) ∧
  (∀ (s : State) (m : PeerReq) (r : PeerRes), ∃ t, s.peerAnswer m r = t ∧ t = { s with win := t.win, outbox := t.outbox } ∧
    t.outbox = s.outbox ++ [.peerAns m.tag m.port r] ∧
    fld (t.reg (0x1000 + 32 * m.port)) 0 48 = (fld (s.reg (0x1000 + 32 * m.port)) 0 48 + answerBytes m.op r) % 2 ^ 48) ∧
  (∀ (s : State) (m : PeerRep), (s.reg 0x300).getLsbD 1 = false → exec (.peerReply m) s = .next s) ∧
  (∀ (s : State) (m : PeerRep) (g : Seg), (s.reg 0x300).getLsbD 1 = true → m.res = .lost →
    (s.segs.find? fun g => g.tag == m.tag && g.sent) = some g → s.segs.all (·.sent) = true →
    (∀ a, g.use = .store a → ∃ t, exec (.peerReply m) s = .next t ∧ t.crews = s.crews ∧
      t.segs = s.segs.filter (fun x => x.tag != g.tag) ∧
      Instr.storeAcknowledgement { msg := a, kind := .failed } ∈ t.flying) ∧
    (∀ r, g.use = .load r → (∀ c i k, r.origin ≠ .copy c i k) → ∃ t, exec (.peerReply m) s = .next t ∧ t.crews = s.crews ∧
      t.segs = s.segs.filter (fun x => x.tag != g.tag) ∧ Instr.loadRequestAtHome r ∈ t.flying)) ∧
  (∀ (s u : State) (m : PeerRep) (g : Seg), (s.reg 0x300).getLsbD 1 = true →
    (s.segs.find? fun g => g.tag == m.tag && g.sent) = some g → u = s.dropSeg g.tag → (s.torus = false → u = { s with segs := s.segs.filter fun x => x.tag != g.tag }) ∧
    (∀ r bs bad, g.use = .load r → m.res = .data bs bad → ∃ t, exec (.peerReply m) s = .next t ∧
      t = (u.portCount g.port 1 bs.length).send
        (.loadResultReturn { req := r, data := bs, poison := !bad.isEmpty, bad := bad, wt := 0, fill := none })) ∧
    (∀ a old, g.use = .store a → m.res = .done old → ∃ t, exec (.peerReply m) s = .next t ∧
      t = u.send (.storeAcknowledgement { msg := a, kind := .peerDone })) ∧
    (∀ a old, g.use = .atom a → m.res = .done old → ∃ t, exec (.peerReply m) s = .next t ∧
      t = (u.portCount g.port 1 a.n).atReply a (.done old none))) ∧
  (∀ (s : State) (m : McWrite) (tab e : Word) (a : Nat), tab = s.reg 0x310 →
    a = fld tab 15 37 * 2 ^ 15 + 8 * (m.group % 65536) → e = s.hbm64 a → (s.reg 0x300).getLsbD 1 = true →
    tab.getLsbD 0 = true → a < hbmEnd → e.getLsbD 0 = true → s.slices = [] → (∀ i, s.sliceMoves i = false) →
    s.ckFrame .hbm (fld e 15 37 * 2 ^ 15 + m.ofs % 2 ^ 15) = none →
    ∃ t, exec (.multicastWriteArrival m) s = .next t ∧ t.outbox = s.outbox ++ [.mcastAns m.tag] ∧
      (fld e 15 37 * 2 ^ 15 + m.ofs % 2 ^ 15 + m.bytes.length ≤ hbmEnd →
        t.hbm.read (fld e 15 37 * 2 ^ 15 + m.ofs % 2 ^ 15) m.bytes.length = m.bytes) ∧
      (hbmEnd ≤ fld e 15 37 * 2 ^ 15 + m.ofs % 2 ^ 15 → t.hbm = s.hbm) ∧ t.crews = s.crews ∧ t.host = s.host) ∧
  (∀ (s : State) (m : McWrite) (tab e : Word) (a pa i : Nat) (sl : Slice) (b : Blk), tab = s.reg 0x310 →
    a = fld tab 15 37 * 2 ^ 15 + 8 * (m.group % 65536) → e = s.hbm64 a → (s.reg 0x300).getLsbD 1 = true →
    tab.getLsbD 0 = true → a < hbmEnd → e.getLsbD 0 = true → pa = fld e 15 37 * 2 ^ 15 + m.ofs % 2 ^ 15 →
    s.ckFrame .hbm pa = none → s.sliceMoves i = false → s.slices = [(i, sl)] → sl.home = [b] → b.holdsFrame pa = true →
    b.last < 32 → b.span < 2 ^ 42 → m.bytes ≠ [] → pa % 16 + m.bytes.length ≤ 16 → pa + m.bytes.length ≤ hbmEnd →
    ∃ t b', exec (.multicastWriteArrival m) s = .next t ∧ t.outbox = s.outbox ++ [.mcastAns m.tag] ∧
      (t.slice i).home = [b'] ∧ b'.read (pa - b.pa) m.bytes.length = m.bytes ∧
      b'.wt = max (b.le + 1) (sget 0 s.floorF (i / 24)) ∧ b'.dirty.has ((pa - b.pa) / 16) = true ∧ t.hbm = s.hbm ∧
      t.crews = s.crews ∧ ∀ d, d < 4 → b'.wt ≤ sget 0 t.floorF d) ∧
  (∀ (s : State) (m : McWrite) (tab e : Word) (a pa : Nat), tab = s.reg 0x310 →
    a = fld tab 15 37 * 2 ^ 15 + 8 * (m.group % 65536) → e = s.hbm64 a → (s.reg 0x300).getLsbD 1 = true →
    tab.getLsbD 0 = true → a < hbmEnd → e.getLsbD 0 = true → pa = fld e 15 37 * 2 ^ 15 + m.ofs % 2 ^ 15 →
    s.ckFrame .hbm pa = none → (∀ i, s.sliceMoves i = false) → s.HomesSound → m.bytes ≠ [] →
    pa % 16 + m.bytes.length ≤ 16 → pa + m.bytes.length ≤ hbmEnd →
    (s.slices.any fun y => y.2.home.any fun b => b.holdsFrame pa) = true →
    ∃ t, exec (.multicastWriteArrival m) s = .next t ∧ t.outbox = s.outbox ++ [.mcastAns m.tag] ∧ t.hbm = s.hbm ∧
      t.host = s.host ∧ t.crews = s.crews ∧
      ∀ y ∈ s.slices, ∀ b ∈ y.2.home, b.holdsFrame pa = true → ∃ b' ∈ (t.slice y.1).home, b'.asid = b.asid ∧ b'.span = b.span ∧
        b'.first = b.first ∧ b'.last = b.last ∧ b'.read (pa - b.pa) m.bytes.length = m.bytes ∧
        b'.dirty.has ((pa - b.pa) / 16) = true ∧ b.le < b'.wt ∧ ∀ d, d < 4 → b'.wt ≤ sget 0 t.floorF d) ∧
  (∀ (s : State) (m : McWrite), (s.reg 0x300).getLsbD 1 = true →
    ((s.reg 0x310).getLsbD 0 = false ∨ hbmEnd ≤ fld (s.reg 0x310) 15 37 * 2 ^ 15 + 8 * (m.group % 65536) ∨
      (s.hbm64 (fld (s.reg 0x310) 15 37 * 2 ^ 15 + 8 * (m.group % 65536))).getLsbD 0 = false) →
    ∃ t, exec (.multicastWriteArrival m) s = .next t ∧ t = { s with win := t.win, outbox := t.outbox } ∧
      t.outbox = s.outbox ++ [.mcastAns m.tag]) ∧
  (∀ (s : State) (m : McWrite), (s.reg 0x300).getLsbD 1 = false → exec (.multicastWriteArrival m) s =
    .next { s with outbox := s.outbox ++ [.peerAns m.tag m.port (.fault 0)] }) ∧
  (∀ (s : State) (m : TorusSeg) (p : Nat) (rest : List Nat), m.turns = p :: rest → s.torus = true →
    (s.reg 0x300).getLsbD 1 = true → s.portUp p = true →
    (s.segWaits 8 p = false → s.transit.all (fun x => x.turns.head? != some p) = true →
      ∃ t, exec (.torusForward m) s = .next t ∧ t.outbox = s.outbox ++ [.torus p { m with turns := rest }] ∧
        t.transit = s.transit ∧ t.crews = s.crews ∧ t.hbm = s.hbm ∧ t.host = s.host) ∧
    ((s.segWaits 8 p = true ∨ s.transit.any (fun x => x.turns.head? == some p) = true) →
      ∃ t, exec (.torusForward m) s = .next t ∧ t = { s with win := t.win, transit := s.transit ++ [m] })) ∧
  (∀ (s : State) (m : TorusSeg) (p : Nat) (rest : List Nat), m.turns = p :: rest → s.torus = true →
    (s.reg 0x300).getLsbD 1 = true → s.portUp p = false →
    ∃ t, exec (.torusForward m) s = .next t ∧ t = { s with win := t.win, outbox := s.outbox ++ [.torusLost m] }) ∧
  (∀ (s s2 s3 : State) (port src tag wt seq slot at_ : Nat) (payload : List Byte) (q q3 : Queue), tag ≠ 0 → tag < 2 ^ 26 →
    (s.queues.find? fun q => q.tag == tag) = some q → payload.length ≤ 2 ^ (q.lslot + 6) →
    at_ = q.land + slot * 2 ^ (q.lslot + 6) →
    (((List.range (2 ^ q.lcnt)).map fun k => (q.lnext + k) % 2 ^ q.lcnt).find? fun k => !(q.lused.any fun p =>
      decide (p.2.1 < q.land + k * 2 ^ (q.lslot + 6) + 2 ^ (q.lslot + 6)) &&
        decide (q.land + k * 2 ^ (q.lslot + 6) < p.2.1 + p.2.2))) = some slot →
    s.homeWrite q.asid at_ payload (sget 0 s.floorF (homeOf at_ / 24)) = some (wt, s2) →
    ((fun v : State => if port = 16 then v.escort (sliceNode (homeOf at_)) payload.length false else v) (s2.raiseFloor wt)).appendOutside
      q.num (armedRecord q.size at_ tag payload.length src port
        (sget 0 (s2.raiseFloor wt).time (if port < 16 then port / 4 else 0)).toNat) true = (s3, .accepted seq) →
    s3.queue? q.num = some q3 →
    (s.landMessage port src tag payload []).queue? q.num = some { q3 with
      lused := q3.lused ++ [(seq, at_, 2 ^ (q.lslot + 6))], lnext := (slot + 1) % 2 ^ q.lcnt }) ∧
  (∀ (s : State) (m : TagMsg), (s.reg 0x300).getLsbD 1 = true →
    s.lands m.ctag m.payload.length = true →
    ∃ t u, exec (.taggedMessageArrival m) s = .next t ∧
      u = (s.portCount m.port 1 m.payload.length).landMessage m.port m.srcdev m.ctag m.payload [] ∧
      t = { u with outbox := u.outbox ++ [.messageAns m.tag] }) ∧
  (∀ (s : State) (m : TagMsg), (s.reg 0x300).getLsbD 1 = true →
    (m.ctag = 0 ∨ 2 ^ 26 ≤ m.ctag ∨ s.queues.all (fun q => q.tag != m.ctag) = true) →
    ∃ t, exec (.taggedMessageArrival m) s = .next t ∧ t.outbox = s.outbox ++ [.messageAns m.tag] ∧
      fld (t.reg 0x318) 0 48 = min (fld (s.reg 0x318) 0 48 + 1) (2 ^ 48 - 1) ∧ t.queues = s.queues ∧ t.hbm = s.hbm) ∧
  (∀ (s : State) (v : Word), s.msg = none → s.zdown = none → fld v 0 16 ≠ 0 →
    ∃ t, exec (.hmsga v) s = .next t ∧
      t = { s with msg := some (s.reg 0x320).toNat, flight := s.flight ++ [.hostMessageDelivery v] }) ∧
  (∀ (s u : State) (v : Word) (tag : Nat), s.msg = some tag →
    s.lands tag (fld v 0 16 * 16) = true → (s.hostSlices (fld v 16 48 * 16) (fld v 0 16 * 16)).any s.sliceMoves = false →
    u = ({ s with msg := none } : State).hostSync (fld v 16 48 * 16) (fld v 0 16 * 16) →
    (List.range (fld v 0 16)).all (fun k => !u.backPoison .host (fld v 16 48 * 16 + 16 * k)) = true →
    ∃ t, exec (.hostMessageDelivery v) s = .next t ∧
      t = u.landMessage 16 0xFFFF tag (u.host.read (fld v 16 48 * 16) (fld v 0 16 * 16)) [])

/-- The events of split queues and of links: their effect where they succeed. The model's choices are when a record is forwarded again
(log 122), that a summary before SEGBIND is not kept (log 75), that a bound segment exposes from the queue's next number (log 82), that a
link error in the third attempt takes the link down (log 32), and DEAD after a write that takes a port down (log 121). -/
def Obligations.FabricLinkEvents : Prop :=
  (∀ (s : State) (v : Word) (q : Queue), s.queue? (fld v 0 12) = some q →
    (∃ t, exec (.segbindUnbind v) s = .next t ∧ t.queue? q.num = some { q with role := .unbound, psum := none } ∧
      fld (t.reg 0x330) 60 4 = 0 ∧ t.crews = s.crews) ∧
    (q.edge.isSome = true → ∃ t, exec (.segbindSend v) s = .next t ∧
      t.queue? q.num = some { q with role := .send, peer := fld v 12 10, peerq := fld v 22 12 } ∧
      fld (t.reg 0x330) 60 4 = 0 ∧ t.crews = s.crews) ∧
    (q.edge = none → ∃ t, exec (.segbindReceive v) s = .next t ∧
      t.queue? q.num = some { q with role := .receive, peer := fld v 12 10, peerq := fld v 22 12, expose := q.next } ∧
      fld (t.reg 0x330) 60 4 = 0 ∧ t.crews = s.crews)) ∧
  (∀ (s : State) (n : Nat) (q : Queue), s.queue? n = some q → q.role = .receive → (s.reg 0x300).getLsbD 1 = true →
    ∃ t, exec (.receivingSummary (.send n)) s = .next t ∧ t = { s with outbox := s.outbox ++ [.segSum (Config.peerMask q.peer q.peerq).toNat {
      queue := q.peerq, backlog := q.backlog, lq := q.lq, nextExp := q.expose
      w := ((q.cons.bind s.stage?).map (·.weight)).getD 0 }] }) ∧
  (∀ (s : State) (m : SegSum) (q : Queue), s.queue? m.queue = some q → q.role = .send →
    (s.reg 0x300).getLsbD 1 = true →
    ∃ t q', exec (.receivingSummary (.arrive m)) s = .next t ∧ t = { s with queues := t.queues } ∧
      t.queue? m.queue = some q' ∧ q' = { q with psum := some m, again := q'.again, inflight := q'.inflight, waited := q'.waited } ∧
      q'.inflight = q.inflight.filter (fun p => !q.waited.contains p.1) ∧ q'.waited = q'.inflight.map (·.1) ∧
      ∀ n, n ∈ q'.again ↔ n ∈ q.again ∨ (n ∈ q.waited ∧ ∃ p ∈ q.inflight, p.1 = n)) ∧
  (∀ (s : State) (e : SegSumEv) (n : Nat) (seqs : List Nat) (m : FwdRec), (s.reg 0x300).getLsbD 1 = false →
    exec (.receivingSummary e) s = .next s ∧ exec (.forwardAcknowledgement n seqs) s = .next s ∧
      exec (.forwardedRecordArrival m) s = .next s) ∧
  (∀ (s : State) (port : Nat) (q : Queue) (ns : List Nat) (sc : Int), (s.reg 0x300).getLsbD 1 = true →
    s.portUp port = true → (sget {} s.retrain port).attempts = 0 → s.downing.getLsbD port = false →
    q ∈ s.queues → s.queue? q.num = some q → s.queueShut q = false →
    s.queues.all (fun y => y == q || (y.burst port).isNone || s.queueShut y) = true →
    q.burst port = some (ns, sc) →
    ∃ t q' recs tag, exec (.portForwardBurst port) s = .next t ∧ s.fresh ≤ tag ∧ tag < t.fresh ∧
      t.outbox = s.outbox ++ [.burst tag port q.peer s.modNum (s.turnList q.peer 0 port) q.peerq recs] ∧
      recs.map (·.1) = ns ∧ t.queue? q.num = some q' ∧
      q'.inflight = q.inflight ++ ns.map (fun n => (n, port, tag)) ∧ q'.again = q.again.filter (fun n => !ns.contains n) ∧
      (∀ n ∈ ns, n < q'.fwd) ∧ q.fwd ≤ q'.fwd ∧ t.crews = s.crews) ∧
  (∀ (s s2 : State) (m : FwdRec) (q : Queue) (wt : Nat), s.queue? m.queue = some q → q.role = .receive →
    (s.reg 0x300).getLsbD 1 = true → q.early = [] → q.earlyPan = [] → q.pan = [] → m.seq = q.expose →
    q.slotFree m.seq = true → 0 < q.wincnt → s.queueMoves q = false → s.zshut = false →
    (s.portCount m.port 1 m.bytes.length).homeWrite q.asid (q.slotVa m.seq) m.bytes (sget 0 s.floorF (q.home / 24)) =
      some (wt, s2) → s2.queues = s.queues → s2.outbox = s.outbox →
    ∃ t q', exec (.forwardedRecordArrival m) s = .next t ∧
      t.outbox = s.outbox ++ [.burstAck m.port m.src q.peerq m.seq] ∧ t.queue? m.queue = some q' ∧
      q'.win = q.win ++ [{ seq := m.seq, wt := wt, at_ := s.cycle }] ∧ q'.expose = q.expose + 1 ∧ q'.next = q.expose + 1 ∧
      q'.backlog = q.backlog + 1 ∧ q'.busy = q.busy ++ [m.seq] ∧ q'.early = []) ∧
  (∀ (s : State) (m : FwdRec) (q : Queue), s.queue? m.queue = some q → q.role = .receive →
    (s.reg 0x300).getLsbD 1 = true → m.seq < q.expose → s.queueShut q = false →
    ∃ t, exec (.forwardedRecordArrival m) s = .next t ∧
      t.outbox = s.outbox ++ [.burstAck m.port m.src q.peerq m.seq] ∧ t.queues = s.queues) ∧
  (∀ (s : State) (n : Nat) (q : Queue) (seqs : List Nat), s.queue? n = some q → q.pan = [] → q.early = [] →
    q.earlyPan = [] → (s.reg 0x300).getLsbD 1 = true → s.sliceMoves q.home = false →
    ∃ t q' got, exec (.forwardAcknowledgement n seqs) s = .next t ∧
      got = (q.inflight.map (·.1) ++ q.again).filter (fun k => seqs.contains k) ∧ t.queue? n = some q' ∧
      q'.inflight = q.inflight.filter (fun p => !got.contains p.1) ∧ q'.again = q.again.filter (fun k => !got.contains k) ∧
      q'.win = q.win.filter (fun r => !got.contains r.seq) ∧
      q'.busy = q.busy.filter (fun k => !got.contains k) ∧ q'.backlog = q.backlog - got.length ∧ t.crews = s.crews) ∧
  (∀ (s : State) (l : Link), s.linkUp l = true → 3 ≤ (sget {} s.retrain (linkNo l)).attempts →
    ∃ t, exec (.linkError l) s = .next t ∧ t = s.post [linkDown l]) ∧
  (∀ (s : State) (l : Link), s.linkUp l = true → (sget {} s.retrain (linkNo l)).attempts < 3 →
    ∃ t, exec (.linkError l) s = .next t ∧
      (sget {} t.retrain (linkNo l)).attempts = (sget {} s.retrain (linkNo l)).attempts + 1 ∧ t.crews = s.crews ∧
      ∀ n, l = .port n → t.reg (0xA40 + 8 * n) = 0 ∧
        fld (t.reg (0x1010 + 32 * n)) 0 48 = (fld (s.reg (0x1010 + 32 * n)) 0 48 + 1) % 2 ^ 48) ∧
  (∀ (s : State) (l : Link), s.segs.all (·.sent) = true →
    ∃ t, exec (.retrainComplete l) s = .next t ∧ (sget {} t.retrain (linkNo l)).attempts = 0 ∧
      (l ≠ .zenvex → t.crews = s.crews ∧ t.linkWait = s.linkWait ∧ (s.transit = [] → t = { s with retrain := t.retrain })) ∧
      (l = .zenvex → t.linkWait = [] ∧ (∀ i ∈ s.linkWait, (∀ base size, noCopy base size i = i) → i ∈ t.todo) ∧
        ∀ w g, s.group? w = some g → t.group? w = some { g with sysWait := false })) ∧
  (∀ (s : State) (l : Link) (m : TorusSeg) (p : Nat) (rest : List Nat), s.segs = [] → s.transit = [m] → m.turns = p :: rest →
    s.portUp p = true → (l = .port p ∨ s.segWaits 8 p = false) → s.downing.getLsbD p = false →
    (s.planeSw.any fun y => y.1 == 8 || (!y.2 && y.1 == 9)) = false →
    ∃ t, exec (.retrainComplete l) s = .next t ∧ t.transit = [] ∧ OutMsg.torus p { m with turns := rest } ∈ t.outbox) ∧
  (∀ (s : State) (port : Nat), port < 16 → s.portUp port = true → s.segs = [] →
    ∃ t, exec (.portDown port) s = .next t ∧ t.portUp port = false ∧ t.reg (0xA40 + 8 * port) = 0 ∧ t.crews = s.crews ∧
      (∀ q ∈ t.queues, ∀ p ∈ q.inflight, p.2.1 ≠ port) ∧
      (s.torus = false → s.planeTarget (port % 8) = false → (port % 8, true) ∈ t.planeSw)) ∧
  (∀ (s : State) (port : Nat) (g : Seg) (m : StMsg), port < 16 → s.portUp port = true → s.segs = [g] → g.sent = true →
    g.port = port → g.use = .store m →
    ∃ t, exec (.portDown port) s = .next t ∧ t.segs = [] ∧ (sget {} t.retrain port).attempts = 0 ∧
      Instr.storeAcknowledgement { msg := m, kind := .failed } ∈ t.flying) ∧
  (∀ (s : State) (port : Nat), s.portUp port = false →
    ∃ t, exec (.portTrain port) s = .next t ∧ t = { s with training := t.training } ∧
      (port < 16 → t.training.getLsbD port = true)) ∧
  (∀ (s : State) (m : TorusSeg) (port : Nat) (rest : List Nat), port < 16 → s.portUp port = true → s.segs = [] →
    s.transit = [m] → m.turns = port :: rest →
    ∃ t, exec (.portDown port) s = .next t ∧ t.transit = [] ∧ OutMsg.torusLost m ∈ t.outbox) ∧
  (∀ (s : State) (tag : Nat), (s.reg 0x300).getLsbD 1 = true → s.segs.all (fun g => g.tag != tag || !g.sent) = true →
    (s.queues.any fun q => q.inflight.any fun p => p.2.2 == tag) = true →
    ∃ t, exec (.peerReply { tag := tag, res := .lost }) s = .next t ∧ t.crews = s.crews ∧
      ∀ q, s.queue? q.num = some q → ∃ q', t.queue? q.num = some q' ∧
        q'.inflight = q.inflight.filter (fun p => p.2.2 != tag) ∧
        (∀ n, n ∈ q'.again ↔ n ∈ q.again ∨ ∃ p ∈ q.inflight, p.2.2 = tag ∧ p.1 = n)) ∧
  (∀ (s : State) (port : Nat), port < 16 → s.portUp port = true → s.segs.all (·.sent) = true → s.portDrained port = true →
    ∃ t, exec (.portTakeDown port) s = .next t ∧ t.portUp port = false ∧ t.downing.getLsbD port = false ∧
      t.reg (0xA40 + 8 * port) = 0 ∧ (sget {} t.retrain port).attempts = 0 ∧ t.crews = s.crews ∧
      (s.torus = false → s.planeTarget (port % 8) = false → (port % 8, true) ∈ t.planeSw)) ∧
  (∀ (s : State) (port : Nat), port < 16 → s.portUp port = true → s.portDrained port = false →
    ∃ t, exec (.portTakeDown port) s = .next t ∧ t = { s with downing := t.downing } ∧ t.downing.getLsbD port = true) ∧
  (∀ (s : State) (port : Nat), port < 16 → s.training.getLsbD port = true → s.segs.all (·.sent) = true →
    ∃ t, exec (.portTrained port) s = .next t ∧ t.portUp port = true ∧ t.training.getLsbD port = false ∧
      t.crews = s.crews) ∧
  (∀ (s : State), s.zdown = none → ∃ t, exec .zenvexLinkDown s = .next t ∧ t.zdown = some s.now ∧
    (t.reg 0x338).getLsbD 16 = false ∧ t.linkWait = s.linkWait.filter (fun i => !windowAccess i) ∧
    ∀ w g, s.group? w = some g → t.group? w = some { g with failMark := g.failMark || g.sysWait, sysWait := false }) ∧
  (∀ (s : State) (since : Nat), s.zdown = some since → since + 1000000000 < s.now →
    ∃ t, exec .zenvexDownTimeout s = .next t ∧ t.fatal = true ∧ t.fltWait = s.fltWait ++ [{ kind := 0x24, addr := 0, at_ := s.cycle }]) ∧
  (∀ (s : State), ∃ t, exec .zenvexLinkUp s = .next t ∧ t.zdown = none ∧ (t.reg 0x338).getLsbD 16 = true ∧
    t.linkWait = [] ∧ (∀ i ∈ s.linkWait, (∀ base size, noCopy base size i = i) → i ∈ t.todo) ∧
    ∀ w g, s.group? w = some g → t.group? w = some { g with sysWait := false })

/-- The events of observation and power: their effect where they succeed. The model's choices are that an absent core answers nothing
(log 120), that a release waits for the dump (log 17) and that the plan takes the clock at the window's end for c_prev (log 25). -/
def Obligations.ObservationEvents : Prop :=
  (∀ (s : State) (ps : List Word), ∃ t, exec (.skewUpdate ps) s = .next t ∧
    t.reg 0xA00 = 0 ∧
    (∀ d, 0 < d → d < 4 → ∃ e, e < 5 ∧ t.reg (0xA00 + 8 * d) = sget 0 s.time d - sget 0 s.time 0 + BitVec.ofNat 64 e - 2) ∧
    (∀ n, n < 16 → t.reg (0xA40 + 8 * n) =
      if s.portUp n && (sget {} s.retrain n).attempts == 0 then ps.getD n 0 else 0) ∧
    t = { s with win := t.win }) ∧
  (∀ (s : State) (uj : Nat), ∃ t, exec (.energyUpdate uj) s = .next t ∧ t = { s with energy := t.energy } ∧
    t.energy.toNat = min (s.energy.toNat + uj) (2 ^ 64 - 1)) ∧
  (∀ (s : State), ∃ t, exec .budgetWindowBoundary s = .next t ∧ t.budget = fld (s.reg 0xD00) 0 32 ∧ t.winE = s.energy ∧
    t.mhz = planClock s.phi (fld (s.reg 0xD00) 0 32) s.mhz s.windowEnergy ∧ t.crews = s.crews ∧
    (s.budget ≠ 0 → s.budget * 1000 < s.windowEnergy →
      fld (t.reg 0xD08) 16 32 = min (fld (s.reg 0xD08) 16 32 + 1) (2 ^ 32 - 1)) ∧
    (s.windowEnergy ≤ s.budget * 1000 → t.reg 0xD08 = s.reg 0xD08)) ∧
  (∀ (s : State), s.budget ≠ 0 → s.budget * 1000 ≤ s.windowEnergy →
    ∃ t, exec .budgetReached s = .next t ∧ t = { s with mhz := s.phi }) ∧
  (∀ (s : State) (ctl : Word) (w : Who) (c : Crew) (g : Group) (head size slot : Nat), ctl = s.winRead 0x800 →
    slot = s.smpSlot % 48 → ctl.getLsbD 0 = true → s.groupAt (fld ctl 9 9) (slot / 12) (slot % 12) = some (w, c, g) →
    (ctl.getLsbD 22 = true ∨ c.vf = fld ctl 18 4) → size = 2 ^ (fld ctl 23 4 + 8) → head = fld (s.reg 0x810) 0 32 →
    (head + 2 ^ 32 - fld (s.reg 0x818) 0 32) % 2 ^ 32 ≠ size → (∀ i, s.sliceMoves i = false) →
    ∃ t, exec .pcSample s = .next t ∧ t.smpSlot = (slot + 1) % 48 ∧
      t.reg 0x810 = BitVec.ofNat 64 ((head + 1) % 2 ^ 32) ∧
      (fld (s.reg 0x808) 12 40 * 2 ^ 12 + 16 * (head % size) + 16 ≤ hbmEnd →
        t.hbm.read (fld (s.reg 0x808) 12 40 * 2 ^ 12 + 16 * (head % size)) 6 = bytesOf (s.samplePc c g).toNat 6) ∧
      t.crews = s.crews ∧ t.host = s.host) ∧
  (∀ (s : State) (core part : Nat), core = fld (s.reg 0x900) 6 9 → part = fld (s.reg 0x900) 4 2 →
    s.stopArmed core part 0 = true → (s.reg 0x908).toNat ≤ (sget 0 s.time (core / 72)).toNat →
    ((s.core core).absent = true → exec .stopTriggerTime s = .next s) ∧ ((s.core core).absent = false → ∃ t k, exec .stopTriggerTime s = .next t ∧ t.stop = some k ∧ k.core = core ∧ k.part = part ∧ k.trig = 0 ∧
      k.dumped = false ∧ (t.reg 0x900).getLsbD 0 = false ∧ (t.reg 0x918).getLsbD 63 = true ∧
      Instr.stopDumpComplete ∈ t.flight ∧ t.crews = s.crews)) ∧
  (∀ (s : State) (k : Stop), s.stop = some k → k.dumped = false → (∀ i, s.sliceMoves i = false) →
    ∃ t, exec .stopDumpComplete s = .next t ∧ t.stop = some { k with dumped := true } ∧ (t.reg 0x918).getLsbD 62 = true ∧
      (fld (s.reg 0x910) 12 40 * 2 ^ 12 + (s.stopDump k).length ≤ hbmEnd →
        t.hbm.read (fld (s.reg 0x910) 12 40 * 2 ^ 12) (s.stopDump k).length = s.stopDump k) ∧ t.crews = s.crews) ∧
  (∀ (s : State) (k : Stop), s.stop = some k → k.dumped = true → k.trapped = none →
    s.retiring.all (fun r => r.slice || r.unit != k.core) = true →
    (k.held = [] → ∃ t, exec .stopRelease s = .next t ∧ t.stop = none ∧ (t.reg 0x918).getLsbD 63 = false ∧ t.hbm = s.hbm ∧
      (k.deferred = [] → t.crews = s.crews) ∧
      ∀ id c, s.crew? id = some c → (s.crews.map (·.id)).Nodup → c.st = .running → k.deferred.contains id = true →
        t.crew? id = some { c with st := .stopping, stopTo := .saved }) ∧
    (∀ r, k.held = [.array r] → k.deferred = [] → (s.reg 0x900).getLsbD 0 = false → ∃ t, exec .stopRelease s = .next t ∧ t.stop = none ∧
      (t.reg 0x918).getLsbD 63 = false ∧ t.crews = (({ s with stop := none } : State).writeRegs r).crews)) ∧
  (∀ (s : State) (k : Stop), s.stop = some k → k.dumped = false →
    ∃ t, exec .stopRelease s = .next t ∧ t.stop = s.stop ∧ t.crews = s.crews ∧ Instr.stopRelease ∈ t.flying)

/-- The events of faults: their effect where they succeed. The model's choices are the records of a controller and of a queue's home
state (log 30) and which messages an error on the way spoils (log 125). -/
def Obligations.FaultEvents : Prop :=
  (∀ (s : State) (r : FltRec) (rest : List FltRec) (seq : Nat), s.fltWait = r :: rest → s.fltRoom = true →
    seq = fld (s.reg 0xC10) 0 48 →
    ∃ t, exec .faultRecordPost s = .next t ∧ t.fltWait = rest ∧ t.reg 0xC10 = BitVec.ofNat 64 ((seq + 1) % 2 ^ 48) ∧
      t.host.read (fld (s.reg 0xC00) 12 40 * 2 ^ 12 + 32 * (seq % s.fltSize)) 32 = r.bytes seq ∧
      (∀ a, (a < fld (s.reg 0xC00) 12 40 * 2 ^ 12 + 32 * (seq % s.fltSize) ∨
          fld (s.reg 0xC00) 12 40 * 2 ^ 12 + 32 * (seq % s.fltSize) + 32 ≤ a) → t.host.get a = s.host.get a) ∧
      (seq = fld (s.reg 0xC18) 0 48 → t.outbox = s.outbox ++ [.interrupt]) ∧
      (seq ≠ fld (s.reg 0xC18) 0 48 → t.outbox = s.outbox) ∧ t.hbm = s.hbm) ∧
  (∀ (s : State) (v : Word), fld v 0 48 ≤ fld (s.reg 0xC10) 0 48 → fld (s.reg 0xC18) 0 48 ≤ fld v 0 48 →
    ∃ t, exec (.flttail v) s = .next t ∧ t = s.setReg 0xC18 (BitVec.ofNat 64 (fld v 0 48))) ∧
  (∀ (s : State) (v : Word) (k q : Nat) (c : Crew), s.crew? k = some c → (s.crews.map (·.id)).Nodup →
    c.fltSeq = some q → q < fld v 0 48 → fld (s.reg 0xC20) 0 48 < fld v 0 48 →
    s.fltWait.all (fun r => r.kind != 0x10 || r.crew != some k) = true →
    (c.st = .held → ∃ t n, exec (.fltreplay v) s = .next t ∧
      t.crew? k = some { c with st := .saved, savedAt := n, fltSeq := none } ∧ fld (t.reg 0xC20) 0 48 = fld v 0 48 ∧
      t = { s with crews := t.crews, fresh := t.fresh, win := t.win, flight := t.flight, net := t.net }) ∧
    (c.st = .stopping → c.stopTo = .held → ∃ t, exec (.fltreplay v) s = .next t ∧
      t.crew? k = some { c with stopTo := .saved, fltSeq := none } ∧
      t = { s with crews := t.crews, fresh := t.fresh, win := t.win, flight := t.flight, net := t.net }) ∧
    (c.st = .gone → ∃ t, exec (.fltreplay v) s = .next t ∧ t.crew? k = some { c with fltSeq := none } ∧
      (∀ x ∈ c.copies, x.runs ≠ [] → x.stopped = false → s.chunkUnderWay k x.id = false →
        Instr.copyChunkComplete k x.id ∈ t.flying) ∧
      t = { s with crews := t.crews, fresh := t.fresh, win := t.win, flight := t.flight, net := t.net })) ∧
  (∀ (s : State) (v : Word) (k : Nat) (c : Crew), s.crew? k = some c → (s.crews.map (·.id)).Nodup →
    (c.st ≠ .held ∧ c.st ≠ .gone ∧ (c.st ≠ .stopping ∨ c.stopTo ≠ .held) ∨ (∀ q, c.fltSeq = some q → fld v 0 48 ≤ q) ∨
      s.fltWait.any (fun r => r.kind == 0x10 && r.crew == some k) = true) →
    ∃ t, exec (.fltreplay v) s = .next t ∧ t.crew? k = some c) ∧
  (∀ (s : State) (v : Word), fld v 0 48 ≤ fld (s.reg 0xC20) 0 48 → exec (.fltreplay v) s = .next s) ∧
  (∀ (s : State) (pa : Nat), ∃ t, exec (.dataErrorDetected (.hbm pa)) s = .next t ∧ t.backPoison .hbm pa = true ∧
    t.fltWait = s.fltWait ++
      [{ kind := 0x20, addr := BitVec.ofNat 64 (2 ^ 63 + pa / 16 * 16), die := hbmDie pa, at_ := s.cycle }] ∧
    t.hbm = s.hbm ∧ t.crews = s.crews) ∧
  (∀ (s : State) (pa : Nat), ∃ t, exec (.dataErrorDetected (.host pa)) s = .next t ∧ t.backPoison .host pa = true ∧
    t.fltWait = s.fltWait ++
      [{ kind := 0x20, addr := BitVec.ofNat 64 (2 ^ 63 + pa / 16 * 16), die := 0, at_ := s.cycle }] ∧
    t.host = s.host ∧ t.crews = s.crews) ∧
  (∀ (s : State) (i asid va : Nat) (own : Bool) (b : Blk), findBlk (s.slice i).home asid va = some b →
    ∃ t b', exec (.dataErrorDetected (.slice i asid va own false)) s = .next t ∧
      findBlk (t.slice i).home asid va = some b' ∧ b'.poison = b.poison ||| Mask.one (wordOf va) ∧ b'.data = b.data ∧
      (own = true → (t.slice i).uncorr = min ((s.slice i).uncorr + 1) 0xFFFFFF) ∧
      t.fltWait = s.fltWait ++
        [{ kind := 0x20, addr := BitVec.ofNat 64 (va / 16 * 16), asid := asid, die := i / 24, at_ := s.cycle }] ∧
      t.crews = s.crews) ∧
  (∀ (s : State) (i asid va : Nat) (b : Blk), findBlk (s.slice i).home asid va = some b →
    ∃ t b', exec (.dataErrorDetected (.sweep i asid va)) s = .next t ∧ findBlk (t.slice i).home asid va = some b' ∧
      b'.poison = b.poison ||| Mask.one (wordOf va) ∧ b'.data = b.data ∧
      (t.slice i).uncorr = min ((s.slice i).uncorr + 1) 0xFFFFFF ∧
      t.fltWait = s.fltWait ++
        [{ kind := 0x20, addr := BitVec.ofNat 64 (2 ^ 63 + b.pa + 16 * wordOf va), die := i / 24, at_ := s.cycle }] ∧
      t.crews = s.crews) ∧
  (∀ (s : State) (k asid va : Nat) (b : Blk), findBlk (s.core k).l1 asid va = some b →
    ∃ t b', exec (.dataErrorDetected (.l1 k asid va)) s = .next t ∧ findBlk (t.core k).l1 asid va = some b' ∧
      b'.poison = b.poison ||| Mask.one (wordOf va) ∧ b'.data = b.data ∧
      t.fltWait = s.fltWait ++ [{ kind := 0x20, addr := BitVec.ofNat 64 (va / 16 * 16), asid := asid, core := k, die := k / 72
                                  at_ := s.cycle }] ∧ t.crews = s.crews ∧ t.slices = s.slices) ∧
  (∀ (s : State) (z : Bool) (asid va : Nat), ∃ t, exec (.dataErrorDetected (.carried z asid va)) s = .next t ∧
    (∀ m, Instr.storePerformedAtHome m ∈ s.flying → m.asid = asid → m.va / 16 = va / 16 →
      Instr.storePerformedAtHome { m with spoilt := true } ∈ t.flying) ∧
    (∀ m, Instr.loadResultReturn m ∈ s.flying → ∃ m', Instr.loadResultReturn m' ∈ t.flying ∧ m'.req = m.req ∧
      m'.data = m.data ∧ m'.fail = m.fail ∧ m'.wt = m.wt ∧
      (∀ k, k < m.req.n → m.req.asid = asid → (m.req.va + k) / 16 = va / 16 →
        m'.poison = true ∧ ((m.poison = true → m.bad ≠ []) → k ∈ m'.bad)) ∧
      (∀ f, m.fill = some f → f.asid = asid → f.span = spanOf va →
        ∃ f', m'.fill = some f' ∧ f'.poison = f.poison ||| Mask.one (wordOf va) ∧ f'.data = f.data)) ∧
    (∀ m, Instr.homeFillReturn m ∈ s.flying → m.copy = none → m.asid = asid → spanOf m.va = spanOf va →
      Instr.homeFillReturn { m with bad := m.bad ||| Mask.one (wordOf va) } ∈ t.flying) ∧
    t.fltWait = s.fltWait ++
      [{ kind := 0x20, addr := BitVec.ofNat 64 (va / 16 * 16), asid := asid
         die := if z then 0 else homeOf va / 24, at_ := s.cycle }] ∧
    t.crews = s.crews ∧ t.slices = s.slices) ∧
  (∀ (s : State) (n : Nat), ∃ t, exec (.dataErrorDetected (.controller n)) s = .next t ∧ t.fatal = true ∧
    t.fltWait = s.fltWait ++ [{ kind := 0x24, addr := 0, die := n / 8, at_ := s.cycle }] ∧
    Instr.faultRecordPost ∈ t.todo) ∧
  (∀ (s : State) (n : Nat) (q : Queue), s.queue? n = some q → (s.crews.map (·.id)).Nodup →
    ∃ t, exec (.dataErrorDetected (.queueState n)) s = .next t ∧
      { kind := 0x23, addr := BitVec.ofNat 64 (2 ^ 62), die := q.home / 24, at_ := s.cycle } ∈ t.fltWait ∧
      ∀ gr, s.graph? q.graph = some gr →
        (∀ c ∈ t.crews, c.graph = gr.handle → (c.resident = true ∨ c.st = .gone) ∧ (c.st = .running → Instr.preemption c.id ∈ t.todo)) ∧
        ∀ x ∈ t.queues, gr.queues.contains x.num = true → x.win = [] ∧ x.pan = []) ∧
  (∀ (s : State) (k : Nat) (c : Crew), s.crew? k = some c →
    ∃ t r, exec (.contextError k) s = .next t ∧ t.crew? k = none ∧ r ∈ t.fltWait ∧ r.kind = 0x22 ∧ r.addr = c.seqbase ∧
      r.vf = c.vf ∧ r.core = c.core ∧ (∀ x ∈ t.fltWait, x.crew = some k → x.at_ ≠ s.cycle) ∧
      ∀ x ∈ s.fltWait, x.at_ ≠ s.cycle → x ∈ t.fltWait)

/-- The events of retirement and start-up: their effect where they succeed. What the key verifies is the model's choice (log 106), and so
is how a step keeps its alternate (log 14); the start is one with no alternate in use and no slice in the repair log. -/
def Obligations.RetireAndBootEvents : Prop :=
  (∀ (s : State) (v : Word) (reason : Nat), s.retiring = none → fld v 0 9 < 288 → (s.core (fld v 0 9)).absent = false →
    ∃ t r, exec (.coreRetire v reason) s = .next t ∧ t.retiring = some r ∧ r.slice = false ∧ r.unit = fld v 0 9 ∧
      r.reason = reason ∧ (t.reg 0xE00).getLsbD 63 = true ∧ fld (t.reg 0xE00) 0 12 = fld v 0 9 ∧ t.crews = s.crews ∧
      (s.stopsOn (fld v 0 9) = false → ∀ c ∈ s.crews, c.core = fld v 0 9 → c.st = .running →
        Instr.preemption c.id ∈ t.todo) ∧ (s.stopsOn (fld v 0 9) = true → t.todo = s.todo)) ∧
  (∀ (s : State) (r : Retire), s.retiring = some r → r.slice = false → s.coreClear r.unit = true →
    s.inNet r.unit = false → s.retWait = [] →
    ∃ t, exec .coreRetireDone s = .next t ∧ t.retiring = none ∧ t.crews = s.crews ∧
      { retireRec r.unit (r.unit / 72) with at_ := s.cycle } ∈ t.fltWait ∧
      ((t.core r.unit).phys = some (s.spareOf (r.unit / 4)) ∧ (t.core r.unit).absent = (s.core r.unit).absent ∧
          fld (t.reg 0xE00) 60 4 = 0 ∨
        (t.core r.unit).absent = true ∧ (∀ k ∈ t.keepers, k.core ≠ r.unit) ∧ fld (t.reg 0xE00) 60 4 = 1) ∧
      (t.core r.unit).trapbase = (s.core r.unit).trapbase ∧ (t.core r.unit).watch = (s.core r.unit).watch ∧
      (t.core r.unit).perf = (s.core r.unit).perf ∧ t.routes = s.routes.set r.unit (t.siteOf r.unit)) ∧
  (∀ (s : State) (v : Word) (reason n : Nat), s.retiring = none → fld v 0 9 < 96 → s.freeSlice (fld v 0 9 / 24) = some n →
    ∃ t r, exec (.sliceRetire v reason) s = .next t ∧ t.retiring = some r ∧ r.slice = true ∧ r.unit = fld v 0 9 ∧
      (t.reg 0xE00).getLsbD 63 = true ∧ fld (t.reg 0xE00) 0 12 = 2 ^ 11 + fld v 0 9 ∧ t.crews = s.crews) ∧
  (∀ (s : State) (r : Retire) (n : Nat), s.retiring = some r → r.slice = true → s.freeSlice (r.unit / 24) = some n →
    s.inNet (sliceNode r.unit) = false → s.retWait = [] →
    ∃ u : State, exec .sliceRetireDone s = .next (s.hbmWait.foldl (fun (v : State) p => v.hbmPut p.1 p.2) u).flowAll ∧
      u.retiring = none ∧ (u.slice r.unit).spare = some n ∧
      (u.slice r.unit).home = (s.slice r.unit).home ∧ (u.slice r.unit).loc = (s.slice r.unit).loc ∧
      (u.slice r.unit).marks = (s.slice r.unit).marks ∧ (∀ i, i ≠ r.unit → u.slice i = s.slice i) ∧
      { retireRec (2 ^ 63 + r.unit) (r.unit / 24) with at_ := s.cycle } ∈ u.fltWait ∧ fld (u.reg 0xE00) 60 4 = 0 ∧
      u.todo = s.todo ++ s.sliceWait ∧ u.sliceWait = [] ∧ u.hbmWait = [] ∧ u.queues = s.queues ∧ u.hbm = s.hbm ∧
      u.routes = s.routes.set (sliceNode r.unit) (u.siteOf (sliceNode r.unit))) ∧
  (∀ (s u : State) (env : BootEnv), u = s.takeImage env →
    u.store.boots = [] → u.store.alts = [] → (∀ e ∈ u.store.log, e.slice = false) → u.store.accepts false = true → u.store.accepts true = true → env.romOk = true → env.trimOk = true →
    env.hbmOk = true → env.badCores = [] → env.badSlices = [] → env.routeOk = true → env.zenvexOk = true →
    env.ports = BitVec.allOnes 16 →
    ∃ t, exec (.moduleReset env) s = .next t ∧ t.ready = true ∧ t.crews = [] ∧ t.routes = t.routeTables ∧
      fld (t.reg 0x338) 0 17 = 0x1FFFF ∧ (∀ c, c < 288 → (t.core c).trapbase = t.image.trapbase) ∧
      t.store.highest = t.image.seq) ∧
  (∀ (s : State) (ofs : Nat) (v : Word), s.zdown = none → s.zretrains = true →
    exec (.registerWrite ofs v) s = .next { s with linkWait := s.linkWait ++ [.registerWrite ofs v] }) ∧
  (∀ (s : State) (ofs : Nat) (v m : Word), s.zdown = none → s.zretrains = false → s.ready = true → s.fatal = false → winMask ofs = some m →
    ∃ t, exec (.registerWrite ofs v) s = .next t ∧ t = s.setReg ofs (v &&& m))

/-- The step around exec: the issue of a decoded word, and the events; that what follows at once runs before an input, and an input
before deliveries and issues, is the model's choice (log 1). -/
def Obligations.StepRunsDecodedWord : Prop :=
  (∀ (s : State) (r : Ready) (c : Crew) (g : Group) (bs : List Byte) (i : Instr), s.over = false → s.todo = [] →
    s.inbox = [] → s.ready = true → s.flight = [] → s.net = [] → s.convFaults = [] → s.arbitrate s.readyGroups = some r →
    s.crew? r.who.crew = some c → s.group? r.who = some g → g.head = none → g.asyncNext = none →
    s.fetchWord c g r.sel.pc = .ok bs → decodeBytes bs = .ok i →
    let raw := Raw.ofBytes bs
    let iss : Issue := {
      who := r.who, pc := r.sel.pc, set := r.sel.set, act := r.sel.set &&& g.guard raw.h, held := r.sel.held
      hi := BitVec.ofNat 32 (raw.pack.toNat / 2 ^ 64), len := opLen raw.op, raw := leNat bs }
    let u := ({ s with cur := some iss } : State).updGroup r.who fun g => g.latch raw.h i
    (r.sel.conv = false → step s = exec i u) ∧
    (r.sel.conv = true → step s = exec i (u.updGroup r.who fun g =>
      { g.mapLp (r.sel.set &&& g.lanesIn (· == .yielded)) (fun _ p => { p with st := .live }) with wset := [] }))) ∧
  (∀ (s : State) (e : Instr) (rest : List Instr), s.over = false → s.todo = e :: rest →
    step s = exec e { s with todo := rest, cur := none }) ∧
  (∀ (s : State) (e : Instr) (rest : List Instr), s.over = false → s.todo = [] → s.inbox = e :: rest →
    step s = exec e { s with inbox := rest, cur := none })

/-- Four worked words of the spec, decoded. -/
def Obligations.DecodedWords : Prop :=
  decodeTableWord 96 0x00C400000000_00FFFFFFE800 =
    some (.bra { pn := true, pg := 1, s := false, y := false, k := 0, e := 0 } (BitVec.ofInt 32 (-24))) ∧
  decodeTableWord 96 0xA8BC02800064_040040000040 =
    some (.atomf { pn := false, pg := 15, s := false, y := false, k := 0, e := 0 } .f32 .add false .plain .dev .dflt
      (.v 6) (.g 4) 0x40 (.v 4)) ∧
  decodeTableWord 96 0xD33C00000084_120004110017 =
    some (.mrd { pn := false, pg := 15, s := false, y := false, k := 0, e := 0 } (some .rn) false 7 (.v 8) (.g 18) (.g 17)) ∧
  decodeTableWord 96 0xC63C00004024_01C000000012 =
    some (.sysc { pn := false, pg := 15, s := false, y := false, k := 0, e := 0 } (.g 2) (.g 1) (.imm 0) 0x12)

/-- The reset values that the spec states: R325, R377 (MIGLIMIT), R432 (the clock floors) and R510 (RETPOL); the contents of memory are the
model choice of log entry 4, and that every core's TRAPBASE is 0 before its start that of log entry 5. -/
def Obligations.ResetValues : Prop :=
  State.reset.leasecfg = 0x08010020 ∧ State.reset.reg 0x218 = 1000 ∧
  (∀ v, v < 16 → State.reset.reg (0xD40 + 8 * v) = 1200) ∧ State.reset.reg 0xE10 = 0x8000000010000402 ∧
  (∀ o, o ≠ 0x218 → o ≠ 0xE10 → (∀ v, v < 16 → o ≠ 0xD40 + 8 * v) → State.reset.reg o = 0) ∧
  (∀ k, (State.reset.core k).trapbase = 0) ∧ State.reset.ready = false ∧ State.reset.crews = [] ∧ State.reset.stop = none ∧ State.reset.graphs = [] ∧
  State.reset.queues = [] ∧ State.reset.MemOk

/-- Decode and encode agree on every word of the opcode map. -/
def Obligations.EncodeDecode : Prop :=
  ∀ i : Instr, i.isWord = true → i.wf = true → decodeBytes (encBytes i) = .ok i

/-- The canonical form of the two memories is kept by every step, whatever it runs. -/
def Obligations.MemoryInvariant : Prop :=
  ∀ s t : State, s.MemOk → step s = .next t → t.MemOk
end

