-- ==== Sys2Proof/Laws/Sparse.lean ====
section
/-! SUPPORT. Sparse contents and byte memory: reading after writing, which needs no premise, and the canonical form that every
write keeps. -/

namespace Sys2Proof

variable {α : Type} {d : α}

/-! ## Reading after writing -/

theorem sget_sdel_same (m : SMap α) (k : Nat) : sget d (sdel m k) k = d := by
  induction m with
  | nil => rfl
  | cons p t ih =>
    unfold sdel at ih ⊢
    by_cases h : p.1 = k <;> simp [h, sget, ih]

theorem sget_sdel_ne {m : SMap α} {j k : Nat} (h : j ≠ k) : sget d (sdel m k) j = sget d m j := by
  induction m with
  | nil => rfl
  | cons p t ih =>
    unfold sdel at ih ⊢
    by_cases hk : p.1 = k
    · simp only [List.filter_cons, hk, bne_self_eq_false, Bool.false_eq_true, if_false, sget, ih]
      rw [if_neg (by omega)]
    · simp [hk, sget, ih]

theorem sget_sins_same (m : SMap α) (k : Nat) (v : α) (h : ∀ p ∈ m, p.1 ≠ k) : sget d (sins k v m) k = v := by
  induction m with
  | nil => simp [sins, sget]
  | cons p t ih =>
    simp only [sins]
    split
    · simp [sget]
    · simp only [sget]
      rw [if_neg (h p (by simp)), ih fun q hq => h q (by simp [hq])]

theorem sget_sins_ne {m : SMap α} {j k : Nat} (v : α) (h : j ≠ k) : sget d (sins k v m) j = sget d m j := by
  induction m with
  | nil => simp [sins, sget, Ne.symm h]
  | cons p t ih =>
    simp only [sins]
    split
    · simp [sget, Ne.symm h]
    · simp only [sget, ih]

variable [DecidableEq α]

/-- The entry that was set. -/
@[simp] theorem sget_sset_same (m : SMap α) (k : Nat) (v : α) : sget d (sset d m k v) k = v := by
  unfold sset
  split
  · subst v; exact sget_sdel_same m k
  · exact sget_sins_same _ k v (by simp [sdel])

/-- Other entries stay. -/
@[simp] theorem sget_sset_ne {m : SMap α} {j k : Nat} (v : α) (h : j ≠ k) : sget d (sset d m k v) j = sget d m j := by
  unfold sset
  split
  · exact sget_sdel_ne h
  · rw [sget_sins_ne v h, sget_sdel_ne h]

/-- Any entry after a write. -/
theorem sget_sset (m : SMap α) (j k : Nat) (v : α) : sget d (sset d m k v) j = if j = k then v else sget d m j := by
  split
  · subst j; simp
  · rename_i h; exact sget_sset_ne v h

theorem sget_ssetList_out (vs : List α) : ∀ {m : SMap α} {j k : Nat}, j < k ∨ k + vs.length ≤ j →
    sget d (ssetList d m k vs) j = sget d m j := by
  induction vs with
  | nil => intros; rfl
  | cons v vs ih =>
    intro m j k h
    simp only [List.length_cons] at h
    simp only [ssetList]
    rw [ih (by omega), sget_sset_ne v (by omega)]

theorem sget_ssetList_in (vs : List α) : ∀ {m : SMap α} {k i : Nat}, i < vs.length →
    sget d (ssetList d m k vs) (k + i) = vs.getD i d := by
  induction vs with
  | nil => intro m k i h; simp at h
  | cons v vs ih =>
    intro m k i h
    simp only [ssetList]
    cases i with
    | zero => rw [sget_ssetList_out vs (by omega), Nat.add_zero, sget_sset_same]; rfl
    | succ i =>
      have := ih (m := sset d m k v) (k := k + 1) (i := i) (by simpa using h)
      rw [show k + (i + 1) = k + 1 + i by omega, this]
      simp

/-- Bytes outside a write read as before. -/
theorem Memory.get_write_out {m : Memory} {a j : Nat} (bs : List Byte) (h : j < a ∨ a + bs.length ≤ j) :
    (m.write a bs).get j = m.get j := sget_ssetList_out bs h

/-- Bytes that were written read as they were written. -/
theorem Memory.get_write_in {m : Memory} {a i : Nat} (bs : List Byte) (h : i < bs.length) :
    (m.write a bs).get (a + i) = bs.getD i 0 := sget_ssetList_in bs h

/-- A read of the bytes just written gives them back. -/
theorem Memory.read_write (m : Memory) (a : Nat) (bs : List Byte) : (m.write a bs).read a bs.length = bs := by
  unfold Memory.read sgetList
  apply List.ext_getElem
  · simp
  · intro i h1 h2
    simp only [List.getElem_map, List.getElem_range]
    have := Memory.get_write_in (m := m) (a := a) (i := i) bs h2
    unfold Memory.get at this
    rw [this]
    simp [List.getD, h2]

/-! ## The canonical form -/

theorem swfFrom_mono {m : SMap α} {lo hi : Nat} (h : hi ≤ lo) (w : swfFrom d lo m = true) : swfFrom d hi m = true := by
  cases m with
  | nil => rfl
  | cons p t =>
    simp only [swfFrom, Bool.and_eq_true, decide_eq_true_eq] at w ⊢
    exact ⟨⟨by omega, w.1.2⟩, w.2⟩

theorem swfFrom_sdel {m : SMap α} : ∀ {lo : Nat} (k : Nat), swfFrom d lo m = true → swfFrom d lo (sdel m k) = true := by
  induction m with
  | nil => intros; rfl
  | cons p t ih =>
    intro lo k w
    simp only [swfFrom, Bool.and_eq_true, decide_eq_true_eq] at w
    unfold sdel at ih ⊢
    by_cases h : p.1 = k
    · simp only [List.filter_cons, h, bne_self_eq_false, Bool.false_eq_true, if_false]
      exact swfFrom_mono (by omega) (ih k w.2)
    · simp only [List.filter_cons, bne_iff_ne, ne_eq, h, not_false_eq_true, if_true, swfFrom, Bool.and_eq_true,
        decide_eq_true_eq]
      exact ⟨w.1, ih k w.2⟩

theorem swfFrom_sins {m : SMap α} : ∀ {lo k : Nat} (v : α), v ≠ d → (∀ p ∈ m, p.1 ≠ k) → lo ≤ k → swfFrom d lo m = true →
    swfFrom d lo (sins k v m) = true := by
  induction m with
  | nil => intro lo k v hv _ h _; simp [sins, swfFrom, hv, h]
  | cons p t ih =>
    intro lo k v hv hm h w
    have hp := hm p (by simp)
    simp only [swfFrom, Bool.and_eq_true, decide_eq_true_eq] at w
    simp only [sins]
    split
    · simp only [swfFrom, Bool.and_eq_true, decide_eq_true_eq]
      exact ⟨⟨h, hv⟩, ⟨by omega, w.1.2⟩, w.2⟩
    · simp only [swfFrom, Bool.and_eq_true, decide_eq_true_eq]
      exact ⟨w.1, ih v hv (fun q hq => hm q (by simp [hq])) (by omega) w.2⟩

/-- Setting an entry keeps the canonical form. -/
theorem swf_sset {m : SMap α} (k : Nat) (v : α) (w : swf d m = true) : swf d (sset d m k v) = true := by
  unfold swf sset at *
  split
  · exact swfFrom_sdel k w
  · rename_i h
    exact swfFrom_sins v h (by simp [sdel]) (Nat.zero_le k) (swfFrom_sdel k w)

theorem swf_ssetList (vs : List α) : ∀ {m : SMap α} (k : Nat), swf d m = true → swf d (ssetList d m k vs) = true := by
  induction vs with
  | nil => intro m k w; exact w
  | cons v vs ih => intro m k w; exact ih (k + 1) (swf_sset k v w)

/-- A write keeps the canonical form of memory. -/
theorem Memory.wf_write {m : Memory} (a : Nat) (bs : List Byte) (w : m.wf = true) : (m.write a bs).wf = true :=
  swf_ssetList bs a w

/-- Writing one byte keeps it too. -/
theorem Memory.wf_set {m : Memory} (a : Nat) (b : Byte) (w : m.wf = true) : (m.set a b).wf = true := swf_sset a b w

end Sys2Proof
end

