-- ==== Sys2Proof/Laws/State.lean ====
section
/-! SUPPORT. What each named update of the state leaves as it was, field by field, and what it makes of its own field. -/

namespace Sys2Proof.Machine

/-! ## updCrew -/

@[simp] theorem State.updCrew_cycle (s : State) (id : Nat) (f : Crew → Crew) : (s.updCrew id f).cycle = s.cycle := rfl
@[simp] theorem State.updCrew_cores (s : State) (id : Nat) (f : Crew → Crew) : (s.updCrew id f).cores = s.cores := rfl
@[simp] theorem State.updCrew_time (s : State) (id : Nat) (f : Crew → Crew) : (s.updCrew id f).time = s.time := rfl
@[simp] theorem State.updCrew_tfrac (s : State) (id : Nat) (f : Crew → Crew) : (s.updCrew id f).tfrac = s.tfrac := rfl
@[simp] theorem State.updCrew_mhz (s : State) (id : Nat) (f : Crew → Crew) : (s.updCrew id f).mhz = s.mhz := rfl
@[simp] theorem State.updCrew_energy (s : State) (id : Nat) (f : Crew → Crew) : (s.updCrew id f).energy = s.energy := rfl
@[simp] theorem State.updCrew_winE (s : State) (id : Nat) (f : Crew → Crew) : (s.updCrew id f).winE = s.winE := rfl
@[simp] theorem State.updCrew_budget (s : State) (id : Nat) (f : Crew → Crew) : (s.updCrew id f).budget = s.budget := rfl
@[simp] theorem State.updCrew_leasecfg (s : State) (id : Nat) (f : Crew → Crew) : (s.updCrew id f).leasecfg = s.leasecfg := rfl
@[simp] theorem State.updCrew_win (s : State) (id : Nat) (f : Crew → Crew) : (s.updCrew id f).win = s.win := rfl
@[simp] theorem State.updCrew_slices (s : State) (id : Nat) (f : Crew → Crew) : (s.updCrew id f).slices = s.slices := rfl
@[simp] theorem State.updCrew_ctrls (s : State) (id : Nat) (f : Crew → Crew) : (s.updCrew id f).ctrls = s.ctrls := rfl
@[simp] theorem State.updCrew_floorF (s : State) (id : Nat) (f : Crew → Crew) : (s.updCrew id f).floorF = s.floorF := rfl
@[simp] theorem State.updCrew_hbm (s : State) (id : Nat) (f : Crew → Crew) : (s.updCrew id f).hbm = s.hbm := rfl
@[simp] theorem State.updCrew_host (s : State) (id : Nat) (f : Crew → Crew) : (s.updCrew id f).host = s.host := rfl
@[simp] theorem State.updCrew_hbmPoison (s : State) (id : Nat) (f : Crew → Crew) : (s.updCrew id f).hbmPoison = s.hbmPoison := rfl
@[simp] theorem State.updCrew_hostPoison (s : State) (id : Nat) (f : Crew → Crew) : (s.updCrew id f).hostPoison = s.hostPoison := rfl
@[simp] theorem State.updCrew_graphs (s : State) (id : Nat) (f : Crew → Crew) : (s.updCrew id f).graphs = s.graphs := rfl
@[simp] theorem State.updCrew_stages (s : State) (id : Nat) (f : Crew → Crew) : (s.updCrew id f).stages = s.stages := rfl
@[simp] theorem State.updCrew_queues (s : State) (id : Nat) (f : Crew → Crew) : (s.updCrew id f).queues = s.queues := rfl
@[simp] theorem State.updCrew_keepers (s : State) (id : Nat) (f : Crew → Crew) : (s.updCrew id f).keepers = s.keepers := rfl
@[simp] theorem State.updCrew_claims (s : State) (id : Nat) (f : Crew → Crew) : (s.updCrew id f).claims = s.claims := rfl
@[simp] theorem State.updCrew_waitq (s : State) (id : Nat) (f : Crew → Crew) : (s.updCrew id f).waitq = s.waitq := rfl
@[simp] theorem State.updCrew_parked (s : State) (id : Nat) (f : Crew → Crew) : (s.updCrew id f).parked = s.parked := rfl
@[simp] theorem State.updCrew_held (s : State) (id : Nat) (f : Crew → Crew) : (s.updCrew id f).held = s.held := rfl
@[simp] theorem State.updCrew_segs (s : State) (id : Nat) (f : Crew → Crew) : (s.updCrew id f).segs = s.segs := rfl
@[simp] theorem State.updCrew_planeSw (s : State) (id : Nat) (f : Crew → Crew) : (s.updCrew id f).planeSw = s.planeSw := rfl
@[simp] theorem State.updCrew_retrain (s : State) (id : Nat) (f : Crew → Crew) : (s.updCrew id f).retrain = s.retrain := rfl
@[simp] theorem State.updCrew_zdown (s : State) (id : Nat) (f : Crew → Crew) : (s.updCrew id f).zdown = s.zdown := rfl
@[simp] theorem State.updCrew_routes (s : State) (id : Nat) (f : Crew → Crew) : (s.updCrew id f).routes = s.routes := rfl
@[simp] theorem State.updCrew_net (s : State) (id : Nat) (f : Crew → Crew) : (s.updCrew id f).net = s.net := rfl
@[simp] theorem State.updCrew_sliceWait (s : State) (id : Nat) (f : Crew → Crew) : (s.updCrew id f).sliceWait = s.sliceWait := rfl
@[simp] theorem State.updCrew_hbmWait (s : State) (id : Nat) (f : Crew → Crew) : (s.updCrew id f).hbmWait = s.hbmWait := rfl
@[simp] theorem State.updCrew_outbox (s : State) (id : Nat) (f : Crew → Crew) : (s.updCrew id f).outbox = s.outbox := rfl
@[simp] theorem State.updCrew_inv (s : State) (id : Nat) (f : Crew → Crew) : (s.updCrew id f).inv = s.inv := rfl
@[simp] theorem State.updCrew_ck (s : State) (id : Nat) (f : Crew → Crew) : (s.updCrew id f).ck = s.ck := rfl
@[simp] theorem State.updCrew_dir (s : State) (id : Nat) (f : Crew → Crew) : (s.updCrew id f).dir = s.dir := rfl
@[simp] theorem State.updCrew_dirMark (s : State) (id : Nat) (f : Crew → Crew) : (s.updCrew id f).dirMark = s.dirMark := rfl
@[simp] theorem State.updCrew_svcWait (s : State) (id : Nat) (f : Crew → Crew) : (s.updCrew id f).svcWait = s.svcWait := rfl
@[simp] theorem State.updCrew_svcOpen (s : State) (id : Nat) (f : Crew → Crew) : (s.updCrew id f).svcOpen = s.svcOpen := rfl
@[simp] theorem State.updCrew_henq (s : State) (id : Nat) (f : Crew → Crew) : (s.updCrew id f).henq = s.henq := rfl
@[simp] theorem State.updCrew_msg (s : State) (id : Nat) (f : Crew → Crew) : (s.updCrew id f).msg = s.msg := rfl
@[simp] theorem State.updCrew_training (s : State) (id : Nat) (f : Crew → Crew) : (s.updCrew id f).training = s.training := rfl
@[simp] theorem State.updCrew_downing (s : State) (id : Nat) (f : Crew → Crew) : (s.updCrew id f).downing = s.downing := rfl
@[simp] theorem State.updCrew_transit (s : State) (id : Nat) (f : Crew → Crew) : (s.updCrew id f).transit = s.transit := rfl
@[simp] theorem State.updCrew_linkWait (s : State) (id : Nat) (f : Crew → Crew) : (s.updCrew id f).linkWait = s.linkWait := rfl
@[simp] theorem State.updCrew_smpSlot (s : State) (id : Nat) (f : Crew → Crew) : (s.updCrew id f).smpSlot = s.smpSlot := rfl
@[simp] theorem State.updCrew_stop (s : State) (id : Nat) (f : Crew → Crew) : (s.updCrew id f).stop = s.stop := rfl
@[simp] theorem State.updCrew_retiring (s : State) (id : Nat) (f : Crew → Crew) : (s.updCrew id f).retiring = s.retiring := rfl
@[simp] theorem State.updCrew_retWait (s : State) (id : Nat) (f : Crew → Crew) : (s.updCrew id f).retWait = s.retWait := rfl
@[simp] theorem State.updCrew_deadCores (s : State) (id : Nat) (f : Crew → Crew) : (s.updCrew id f).deadCores = s.deadCores := rfl
@[simp] theorem State.updCrew_deadSpares (s : State) (id : Nat) (f : Crew → Crew) : (s.updCrew id f).deadSpares = s.deadSpares := rfl
@[simp] theorem State.updCrew_store (s : State) (id : Nat) (f : Crew → Crew) : (s.updCrew id f).store = s.store := rfl
@[simp] theorem State.updCrew_fatal (s : State) (id : Nat) (f : Crew → Crew) : (s.updCrew id f).fatal = s.fatal := rfl
@[simp] theorem State.updCrew_ended (s : State) (id : Nat) (f : Crew → Crew) : (s.updCrew id f).ended = s.ended := rfl
@[simp] theorem State.updCrew_mute (s : State) (id : Nat) (f : Crew → Crew) : (s.updCrew id f).mute = s.mute := rfl
@[simp] theorem State.updCrew_flight (s : State) (id : Nat) (f : Crew → Crew) : (s.updCrew id f).flight = s.flight := rfl
@[simp] theorem State.updCrew_todo (s : State) (id : Nat) (f : Crew → Crew) : (s.updCrew id f).todo = s.todo := rfl
@[simp] theorem State.updCrew_inbox (s : State) (id : Nat) (f : Crew → Crew) : (s.updCrew id f).inbox = s.inbox := rfl
@[simp] theorem State.updCrew_cur (s : State) (id : Nat) (f : Crew → Crew) : (s.updCrew id f).cur = s.cur := rfl
@[simp] theorem State.updCrew_ptr (s : State) (id : Nat) (f : Crew → Crew) : (s.updCrew id f).ptr = s.ptr := rfl
@[simp] theorem State.updCrew_fltWait (s : State) (id : Nat) (f : Crew → Crew) : (s.updCrew id f).fltWait = s.fltWait := rfl
@[simp] theorem State.updCrew_draw (s : State) (id : Nat) (f : Crew → Crew) : (s.updCrew id f).draw = s.draw := rfl
@[simp] theorem State.updCrew_fresh (s : State) (id : Nat) (f : Crew → Crew) : (s.updCrew id f).fresh = s.fresh := rfl

/-! ## updGroup -/

@[simp] theorem State.updGroup_cycle (s : State) (w : Who) (f : Group → Group) : (s.updGroup w f).cycle = s.cycle := rfl
@[simp] theorem State.updGroup_cores (s : State) (w : Who) (f : Group → Group) : (s.updGroup w f).cores = s.cores := rfl
@[simp] theorem State.updGroup_time (s : State) (w : Who) (f : Group → Group) : (s.updGroup w f).time = s.time := rfl
@[simp] theorem State.updGroup_tfrac (s : State) (w : Who) (f : Group → Group) : (s.updGroup w f).tfrac = s.tfrac := rfl
@[simp] theorem State.updGroup_mhz (s : State) (w : Who) (f : Group → Group) : (s.updGroup w f).mhz = s.mhz := rfl
@[simp] theorem State.updGroup_energy (s : State) (w : Who) (f : Group → Group) : (s.updGroup w f).energy = s.energy := rfl
@[simp] theorem State.updGroup_winE (s : State) (w : Who) (f : Group → Group) : (s.updGroup w f).winE = s.winE := rfl
@[simp] theorem State.updGroup_budget (s : State) (w : Who) (f : Group → Group) : (s.updGroup w f).budget = s.budget := rfl
@[simp] theorem State.updGroup_leasecfg (s : State) (w : Who) (f : Group → Group) : (s.updGroup w f).leasecfg = s.leasecfg := rfl
@[simp] theorem State.updGroup_win (s : State) (w : Who) (f : Group → Group) : (s.updGroup w f).win = s.win := rfl
@[simp] theorem State.updGroup_slices (s : State) (w : Who) (f : Group → Group) : (s.updGroup w f).slices = s.slices := rfl
@[simp] theorem State.updGroup_ctrls (s : State) (w : Who) (f : Group → Group) : (s.updGroup w f).ctrls = s.ctrls := rfl
@[simp] theorem State.updGroup_floorF (s : State) (w : Who) (f : Group → Group) : (s.updGroup w f).floorF = s.floorF := rfl
@[simp] theorem State.updGroup_hbm (s : State) (w : Who) (f : Group → Group) : (s.updGroup w f).hbm = s.hbm := rfl
@[simp] theorem State.updGroup_host (s : State) (w : Who) (f : Group → Group) : (s.updGroup w f).host = s.host := rfl
@[simp] theorem State.updGroup_hbmPoison (s : State) (w : Who) (f : Group → Group) : (s.updGroup w f).hbmPoison = s.hbmPoison := rfl
@[simp] theorem State.updGroup_hostPoison (s : State) (w : Who) (f : Group → Group) : (s.updGroup w f).hostPoison = s.hostPoison := rfl
@[simp] theorem State.updGroup_graphs (s : State) (w : Who) (f : Group → Group) : (s.updGroup w f).graphs = s.graphs := rfl
@[simp] theorem State.updGroup_stages (s : State) (w : Who) (f : Group → Group) : (s.updGroup w f).stages = s.stages := rfl
@[simp] theorem State.updGroup_queues (s : State) (w : Who) (f : Group → Group) : (s.updGroup w f).queues = s.queues := rfl
@[simp] theorem State.updGroup_keepers (s : State) (w : Who) (f : Group → Group) : (s.updGroup w f).keepers = s.keepers := rfl
@[simp] theorem State.updGroup_claims (s : State) (w : Who) (f : Group → Group) : (s.updGroup w f).claims = s.claims := rfl
@[simp] theorem State.updGroup_waitq (s : State) (w : Who) (f : Group → Group) : (s.updGroup w f).waitq = s.waitq := rfl
@[simp] theorem State.updGroup_parked (s : State) (w : Who) (f : Group → Group) : (s.updGroup w f).parked = s.parked := rfl
@[simp] theorem State.updGroup_held (s : State) (w : Who) (f : Group → Group) : (s.updGroup w f).held = s.held := rfl
@[simp] theorem State.updGroup_segs (s : State) (w : Who) (f : Group → Group) : (s.updGroup w f).segs = s.segs := rfl
@[simp] theorem State.updGroup_planeSw (s : State) (w : Who) (f : Group → Group) : (s.updGroup w f).planeSw = s.planeSw := rfl
@[simp] theorem State.updGroup_retrain (s : State) (w : Who) (f : Group → Group) : (s.updGroup w f).retrain = s.retrain := rfl
@[simp] theorem State.updGroup_zdown (s : State) (w : Who) (f : Group → Group) : (s.updGroup w f).zdown = s.zdown := rfl
@[simp] theorem State.updGroup_routes (s : State) (w : Who) (f : Group → Group) : (s.updGroup w f).routes = s.routes := rfl
@[simp] theorem State.updGroup_net (s : State) (w : Who) (f : Group → Group) : (s.updGroup w f).net = s.net := rfl
@[simp] theorem State.updGroup_sliceWait (s : State) (w : Who) (f : Group → Group) : (s.updGroup w f).sliceWait = s.sliceWait := rfl
@[simp] theorem State.updGroup_hbmWait (s : State) (w : Who) (f : Group → Group) : (s.updGroup w f).hbmWait = s.hbmWait := rfl
@[simp] theorem State.updGroup_outbox (s : State) (w : Who) (f : Group → Group) : (s.updGroup w f).outbox = s.outbox := rfl
@[simp] theorem State.updGroup_inv (s : State) (w : Who) (f : Group → Group) : (s.updGroup w f).inv = s.inv := rfl
@[simp] theorem State.updGroup_ck (s : State) (w : Who) (f : Group → Group) : (s.updGroup w f).ck = s.ck := rfl
@[simp] theorem State.updGroup_dir (s : State) (w : Who) (f : Group → Group) : (s.updGroup w f).dir = s.dir := rfl
@[simp] theorem State.updGroup_dirMark (s : State) (w : Who) (f : Group → Group) : (s.updGroup w f).dirMark = s.dirMark := rfl
@[simp] theorem State.updGroup_svcWait (s : State) (w : Who) (f : Group → Group) : (s.updGroup w f).svcWait = s.svcWait := rfl
@[simp] theorem State.updGroup_svcOpen (s : State) (w : Who) (f : Group → Group) : (s.updGroup w f).svcOpen = s.svcOpen := rfl
@[simp] theorem State.updGroup_henq (s : State) (w : Who) (f : Group → Group) : (s.updGroup w f).henq = s.henq := rfl
@[simp] theorem State.updGroup_msg (s : State) (w : Who) (f : Group → Group) : (s.updGroup w f).msg = s.msg := rfl
@[simp] theorem State.updGroup_training (s : State) (w : Who) (f : Group → Group) : (s.updGroup w f).training = s.training := rfl
@[simp] theorem State.updGroup_downing (s : State) (w : Who) (f : Group → Group) : (s.updGroup w f).downing = s.downing := rfl
@[simp] theorem State.updGroup_transit (s : State) (w : Who) (f : Group → Group) : (s.updGroup w f).transit = s.transit := rfl
@[simp] theorem State.updGroup_linkWait (s : State) (w : Who) (f : Group → Group) : (s.updGroup w f).linkWait = s.linkWait := rfl
@[simp] theorem State.updGroup_smpSlot (s : State) (w : Who) (f : Group → Group) : (s.updGroup w f).smpSlot = s.smpSlot := rfl
@[simp] theorem State.updGroup_stop (s : State) (w : Who) (f : Group → Group) : (s.updGroup w f).stop = s.stop := rfl
@[simp] theorem State.updGroup_retiring (s : State) (w : Who) (f : Group → Group) : (s.updGroup w f).retiring = s.retiring := rfl
@[simp] theorem State.updGroup_retWait (s : State) (w : Who) (f : Group → Group) : (s.updGroup w f).retWait = s.retWait := rfl
@[simp] theorem State.updGroup_deadCores (s : State) (w : Who) (f : Group → Group) : (s.updGroup w f).deadCores = s.deadCores := rfl
@[simp] theorem State.updGroup_deadSpares (s : State) (w : Who) (f : Group → Group) : (s.updGroup w f).deadSpares = s.deadSpares := rfl
@[simp] theorem State.updGroup_store (s : State) (w : Who) (f : Group → Group) : (s.updGroup w f).store = s.store := rfl
@[simp] theorem State.updGroup_fatal (s : State) (w : Who) (f : Group → Group) : (s.updGroup w f).fatal = s.fatal := rfl
@[simp] theorem State.updGroup_ended (s : State) (w : Who) (f : Group → Group) : (s.updGroup w f).ended = s.ended := rfl
@[simp] theorem State.updGroup_mute (s : State) (w : Who) (f : Group → Group) : (s.updGroup w f).mute = s.mute := rfl
@[simp] theorem State.updGroup_flight (s : State) (w : Who) (f : Group → Group) : (s.updGroup w f).flight = s.flight := rfl
@[simp] theorem State.updGroup_todo (s : State) (w : Who) (f : Group → Group) : (s.updGroup w f).todo = s.todo := rfl
@[simp] theorem State.updGroup_inbox (s : State) (w : Who) (f : Group → Group) : (s.updGroup w f).inbox = s.inbox := rfl
@[simp] theorem State.updGroup_cur (s : State) (w : Who) (f : Group → Group) : (s.updGroup w f).cur = s.cur := rfl
@[simp] theorem State.updGroup_ptr (s : State) (w : Who) (f : Group → Group) : (s.updGroup w f).ptr = s.ptr := rfl
@[simp] theorem State.updGroup_fltWait (s : State) (w : Who) (f : Group → Group) : (s.updGroup w f).fltWait = s.fltWait := rfl
@[simp] theorem State.updGroup_draw (s : State) (w : Who) (f : Group → Group) : (s.updGroup w f).draw = s.draw := rfl
@[simp] theorem State.updGroup_fresh (s : State) (w : Who) (f : Group → Group) : (s.updGroup w f).fresh = s.fresh := rfl

/-! ## updCore -/

@[simp] theorem State.updCore_cycle (s : State) (c : Nat) (f : Core → Core) : (s.updCore c f).cycle = s.cycle := rfl
@[simp] theorem State.updCore_crews (s : State) (c : Nat) (f : Core → Core) : (s.updCore c f).crews = s.crews := rfl
@[simp] theorem State.updCore_time (s : State) (c : Nat) (f : Core → Core) : (s.updCore c f).time = s.time := rfl
@[simp] theorem State.updCore_tfrac (s : State) (c : Nat) (f : Core → Core) : (s.updCore c f).tfrac = s.tfrac := rfl
@[simp] theorem State.updCore_mhz (s : State) (c : Nat) (f : Core → Core) : (s.updCore c f).mhz = s.mhz := rfl
@[simp] theorem State.updCore_energy (s : State) (c : Nat) (f : Core → Core) : (s.updCore c f).energy = s.energy := rfl
@[simp] theorem State.updCore_winE (s : State) (c : Nat) (f : Core → Core) : (s.updCore c f).winE = s.winE := rfl
@[simp] theorem State.updCore_budget (s : State) (c : Nat) (f : Core → Core) : (s.updCore c f).budget = s.budget := rfl
@[simp] theorem State.updCore_leasecfg (s : State) (c : Nat) (f : Core → Core) : (s.updCore c f).leasecfg = s.leasecfg := rfl
@[simp] theorem State.updCore_win (s : State) (c : Nat) (f : Core → Core) : (s.updCore c f).win = s.win := rfl
@[simp] theorem State.updCore_slices (s : State) (c : Nat) (f : Core → Core) : (s.updCore c f).slices = s.slices := rfl
@[simp] theorem State.updCore_ctrls (s : State) (c : Nat) (f : Core → Core) : (s.updCore c f).ctrls = s.ctrls := rfl
@[simp] theorem State.updCore_floorF (s : State) (c : Nat) (f : Core → Core) : (s.updCore c f).floorF = s.floorF := rfl
@[simp] theorem State.updCore_hbm (s : State) (c : Nat) (f : Core → Core) : (s.updCore c f).hbm = s.hbm := rfl
@[simp] theorem State.updCore_host (s : State) (c : Nat) (f : Core → Core) : (s.updCore c f).host = s.host := rfl
@[simp] theorem State.updCore_hbmPoison (s : State) (c : Nat) (f : Core → Core) : (s.updCore c f).hbmPoison = s.hbmPoison := rfl
@[simp] theorem State.updCore_hostPoison (s : State) (c : Nat) (f : Core → Core) : (s.updCore c f).hostPoison = s.hostPoison := rfl
@[simp] theorem State.updCore_graphs (s : State) (c : Nat) (f : Core → Core) : (s.updCore c f).graphs = s.graphs := rfl
@[simp] theorem State.updCore_stages (s : State) (c : Nat) (f : Core → Core) : (s.updCore c f).stages = s.stages := rfl
@[simp] theorem State.updCore_queues (s : State) (c : Nat) (f : Core → Core) : (s.updCore c f).queues = s.queues := rfl
@[simp] theorem State.updCore_keepers (s : State) (c : Nat) (f : Core → Core) : (s.updCore c f).keepers = s.keepers := rfl
@[simp] theorem State.updCore_claims (s : State) (c : Nat) (f : Core → Core) : (s.updCore c f).claims = s.claims := rfl
@[simp] theorem State.updCore_waitq (s : State) (c : Nat) (f : Core → Core) : (s.updCore c f).waitq = s.waitq := rfl
@[simp] theorem State.updCore_parked (s : State) (c : Nat) (f : Core → Core) : (s.updCore c f).parked = s.parked := rfl
@[simp] theorem State.updCore_held (s : State) (c : Nat) (f : Core → Core) : (s.updCore c f).held = s.held := rfl
@[simp] theorem State.updCore_segs (s : State) (c : Nat) (f : Core → Core) : (s.updCore c f).segs = s.segs := rfl
@[simp] theorem State.updCore_planeSw (s : State) (c : Nat) (f : Core → Core) : (s.updCore c f).planeSw = s.planeSw := rfl
@[simp] theorem State.updCore_retrain (s : State) (c : Nat) (f : Core → Core) : (s.updCore c f).retrain = s.retrain := rfl
@[simp] theorem State.updCore_zdown (s : State) (c : Nat) (f : Core → Core) : (s.updCore c f).zdown = s.zdown := rfl
@[simp] theorem State.updCore_routes (s : State) (c : Nat) (f : Core → Core) : (s.updCore c f).routes = s.routes := rfl
@[simp] theorem State.updCore_net (s : State) (c : Nat) (f : Core → Core) : (s.updCore c f).net = s.net := rfl
@[simp] theorem State.updCore_sliceWait (s : State) (c : Nat) (f : Core → Core) : (s.updCore c f).sliceWait = s.sliceWait := rfl
@[simp] theorem State.updCore_hbmWait (s : State) (c : Nat) (f : Core → Core) : (s.updCore c f).hbmWait = s.hbmWait := rfl
@[simp] theorem State.updCore_outbox (s : State) (c : Nat) (f : Core → Core) : (s.updCore c f).outbox = s.outbox := rfl
@[simp] theorem State.updCore_inv (s : State) (c : Nat) (f : Core → Core) : (s.updCore c f).inv = s.inv := rfl
@[simp] theorem State.updCore_ck (s : State) (c : Nat) (f : Core → Core) : (s.updCore c f).ck = s.ck := rfl
@[simp] theorem State.updCore_dir (s : State) (c : Nat) (f : Core → Core) : (s.updCore c f).dir = s.dir := rfl
@[simp] theorem State.updCore_dirMark (s : State) (c : Nat) (f : Core → Core) : (s.updCore c f).dirMark = s.dirMark := rfl
@[simp] theorem State.updCore_svcWait (s : State) (c : Nat) (f : Core → Core) : (s.updCore c f).svcWait = s.svcWait := rfl
@[simp] theorem State.updCore_svcOpen (s : State) (c : Nat) (f : Core → Core) : (s.updCore c f).svcOpen = s.svcOpen := rfl
@[simp] theorem State.updCore_henq (s : State) (c : Nat) (f : Core → Core) : (s.updCore c f).henq = s.henq := rfl
@[simp] theorem State.updCore_msg (s : State) (c : Nat) (f : Core → Core) : (s.updCore c f).msg = s.msg := rfl
@[simp] theorem State.updCore_training (s : State) (c : Nat) (f : Core → Core) : (s.updCore c f).training = s.training := rfl
@[simp] theorem State.updCore_downing (s : State) (c : Nat) (f : Core → Core) : (s.updCore c f).downing = s.downing := rfl
@[simp] theorem State.updCore_transit (s : State) (c : Nat) (f : Core → Core) : (s.updCore c f).transit = s.transit := rfl
@[simp] theorem State.updCore_linkWait (s : State) (c : Nat) (f : Core → Core) : (s.updCore c f).linkWait = s.linkWait := rfl
@[simp] theorem State.updCore_smpSlot (s : State) (c : Nat) (f : Core → Core) : (s.updCore c f).smpSlot = s.smpSlot := rfl
@[simp] theorem State.updCore_stop (s : State) (c : Nat) (f : Core → Core) : (s.updCore c f).stop = s.stop := rfl
@[simp] theorem State.updCore_retiring (s : State) (c : Nat) (f : Core → Core) : (s.updCore c f).retiring = s.retiring := rfl
@[simp] theorem State.updCore_retWait (s : State) (c : Nat) (f : Core → Core) : (s.updCore c f).retWait = s.retWait := rfl
@[simp] theorem State.updCore_deadCores (s : State) (c : Nat) (f : Core → Core) : (s.updCore c f).deadCores = s.deadCores := rfl
@[simp] theorem State.updCore_deadSpares (s : State) (c : Nat) (f : Core → Core) : (s.updCore c f).deadSpares = s.deadSpares := rfl
@[simp] theorem State.updCore_store (s : State) (c : Nat) (f : Core → Core) : (s.updCore c f).store = s.store := rfl
@[simp] theorem State.updCore_fatal (s : State) (c : Nat) (f : Core → Core) : (s.updCore c f).fatal = s.fatal := rfl
@[simp] theorem State.updCore_ended (s : State) (c : Nat) (f : Core → Core) : (s.updCore c f).ended = s.ended := rfl
@[simp] theorem State.updCore_mute (s : State) (c : Nat) (f : Core → Core) : (s.updCore c f).mute = s.mute := rfl
@[simp] theorem State.updCore_flight (s : State) (c : Nat) (f : Core → Core) : (s.updCore c f).flight = s.flight := rfl
@[simp] theorem State.updCore_todo (s : State) (c : Nat) (f : Core → Core) : (s.updCore c f).todo = s.todo := rfl
@[simp] theorem State.updCore_inbox (s : State) (c : Nat) (f : Core → Core) : (s.updCore c f).inbox = s.inbox := rfl
@[simp] theorem State.updCore_cur (s : State) (c : Nat) (f : Core → Core) : (s.updCore c f).cur = s.cur := rfl
@[simp] theorem State.updCore_ptr (s : State) (c : Nat) (f : Core → Core) : (s.updCore c f).ptr = s.ptr := rfl
@[simp] theorem State.updCore_fltWait (s : State) (c : Nat) (f : Core → Core) : (s.updCore c f).fltWait = s.fltWait := rfl
@[simp] theorem State.updCore_draw (s : State) (c : Nat) (f : Core → Core) : (s.updCore c f).draw = s.draw := rfl
@[simp] theorem State.updCore_fresh (s : State) (c : Nat) (f : Core → Core) : (s.updCore c f).fresh = s.fresh := rfl

/-! ## updSlice -/

@[simp] theorem State.updSlice_cycle (s : State) (i : Nat) (f : Slice → Slice) : (s.updSlice i f).cycle = s.cycle := rfl
@[simp] theorem State.updSlice_cores (s : State) (i : Nat) (f : Slice → Slice) : (s.updSlice i f).cores = s.cores := rfl
@[simp] theorem State.updSlice_crews (s : State) (i : Nat) (f : Slice → Slice) : (s.updSlice i f).crews = s.crews := rfl
@[simp] theorem State.updSlice_time (s : State) (i : Nat) (f : Slice → Slice) : (s.updSlice i f).time = s.time := rfl
@[simp] theorem State.updSlice_tfrac (s : State) (i : Nat) (f : Slice → Slice) : (s.updSlice i f).tfrac = s.tfrac := rfl
@[simp] theorem State.updSlice_mhz (s : State) (i : Nat) (f : Slice → Slice) : (s.updSlice i f).mhz = s.mhz := rfl
@[simp] theorem State.updSlice_energy (s : State) (i : Nat) (f : Slice → Slice) : (s.updSlice i f).energy = s.energy := rfl
@[simp] theorem State.updSlice_winE (s : State) (i : Nat) (f : Slice → Slice) : (s.updSlice i f).winE = s.winE := rfl
@[simp] theorem State.updSlice_budget (s : State) (i : Nat) (f : Slice → Slice) : (s.updSlice i f).budget = s.budget := rfl
@[simp] theorem State.updSlice_leasecfg (s : State) (i : Nat) (f : Slice → Slice) : (s.updSlice i f).leasecfg = s.leasecfg := rfl
@[simp] theorem State.updSlice_win (s : State) (i : Nat) (f : Slice → Slice) : (s.updSlice i f).win = s.win := rfl
@[simp] theorem State.updSlice_ctrls (s : State) (i : Nat) (f : Slice → Slice) : (s.updSlice i f).ctrls = s.ctrls := rfl
@[simp] theorem State.updSlice_floorF (s : State) (i : Nat) (f : Slice → Slice) : (s.updSlice i f).floorF = s.floorF := rfl
@[simp] theorem State.updSlice_hbm (s : State) (i : Nat) (f : Slice → Slice) : (s.updSlice i f).hbm = s.hbm := rfl
@[simp] theorem State.updSlice_host (s : State) (i : Nat) (f : Slice → Slice) : (s.updSlice i f).host = s.host := rfl
@[simp] theorem State.updSlice_hbmPoison (s : State) (i : Nat) (f : Slice → Slice) : (s.updSlice i f).hbmPoison = s.hbmPoison := rfl
@[simp] theorem State.updSlice_hostPoison (s : State) (i : Nat) (f : Slice → Slice) : (s.updSlice i f).hostPoison = s.hostPoison := rfl
@[simp] theorem State.updSlice_graphs (s : State) (i : Nat) (f : Slice → Slice) : (s.updSlice i f).graphs = s.graphs := rfl
@[simp] theorem State.updSlice_stages (s : State) (i : Nat) (f : Slice → Slice) : (s.updSlice i f).stages = s.stages := rfl
@[simp] theorem State.updSlice_queues (s : State) (i : Nat) (f : Slice → Slice) : (s.updSlice i f).queues = s.queues := rfl
@[simp] theorem State.updSlice_keepers (s : State) (i : Nat) (f : Slice → Slice) : (s.updSlice i f).keepers = s.keepers := rfl
@[simp] theorem State.updSlice_claims (s : State) (i : Nat) (f : Slice → Slice) : (s.updSlice i f).claims = s.claims := rfl
@[simp] theorem State.updSlice_waitq (s : State) (i : Nat) (f : Slice → Slice) : (s.updSlice i f).waitq = s.waitq := rfl
@[simp] theorem State.updSlice_parked (s : State) (i : Nat) (f : Slice → Slice) : (s.updSlice i f).parked = s.parked := rfl
@[simp] theorem State.updSlice_held (s : State) (i : Nat) (f : Slice → Slice) : (s.updSlice i f).held = s.held := rfl
@[simp] theorem State.updSlice_segs (s : State) (i : Nat) (f : Slice → Slice) : (s.updSlice i f).segs = s.segs := rfl
@[simp] theorem State.updSlice_planeSw (s : State) (i : Nat) (f : Slice → Slice) : (s.updSlice i f).planeSw = s.planeSw := rfl
@[simp] theorem State.updSlice_retrain (s : State) (i : Nat) (f : Slice → Slice) : (s.updSlice i f).retrain = s.retrain := rfl
@[simp] theorem State.updSlice_zdown (s : State) (i : Nat) (f : Slice → Slice) : (s.updSlice i f).zdown = s.zdown := rfl
@[simp] theorem State.updSlice_routes (s : State) (i : Nat) (f : Slice → Slice) : (s.updSlice i f).routes = s.routes := rfl
@[simp] theorem State.updSlice_net (s : State) (i : Nat) (f : Slice → Slice) : (s.updSlice i f).net = s.net := rfl
@[simp] theorem State.updSlice_sliceWait (s : State) (i : Nat) (f : Slice → Slice) : (s.updSlice i f).sliceWait = s.sliceWait := rfl
@[simp] theorem State.updSlice_hbmWait (s : State) (i : Nat) (f : Slice → Slice) : (s.updSlice i f).hbmWait = s.hbmWait := rfl
@[simp] theorem State.updSlice_outbox (s : State) (i : Nat) (f : Slice → Slice) : (s.updSlice i f).outbox = s.outbox := rfl
@[simp] theorem State.updSlice_inv (s : State) (i : Nat) (f : Slice → Slice) : (s.updSlice i f).inv = s.inv := rfl
@[simp] theorem State.updSlice_ck (s : State) (i : Nat) (f : Slice → Slice) : (s.updSlice i f).ck = s.ck := rfl
@[simp] theorem State.updSlice_dir (s : State) (i : Nat) (f : Slice → Slice) : (s.updSlice i f).dir = s.dir := rfl
@[simp] theorem State.updSlice_dirMark (s : State) (i : Nat) (f : Slice → Slice) : (s.updSlice i f).dirMark = s.dirMark := rfl
@[simp] theorem State.updSlice_svcWait (s : State) (i : Nat) (f : Slice → Slice) : (s.updSlice i f).svcWait = s.svcWait := rfl
@[simp] theorem State.updSlice_svcOpen (s : State) (i : Nat) (f : Slice → Slice) : (s.updSlice i f).svcOpen = s.svcOpen := rfl
@[simp] theorem State.updSlice_henq (s : State) (i : Nat) (f : Slice → Slice) : (s.updSlice i f).henq = s.henq := rfl
@[simp] theorem State.updSlice_msg (s : State) (i : Nat) (f : Slice → Slice) : (s.updSlice i f).msg = s.msg := rfl
@[simp] theorem State.updSlice_training (s : State) (i : Nat) (f : Slice → Slice) : (s.updSlice i f).training = s.training := rfl
@[simp] theorem State.updSlice_downing (s : State) (i : Nat) (f : Slice → Slice) : (s.updSlice i f).downing = s.downing := rfl
@[simp] theorem State.updSlice_transit (s : State) (i : Nat) (f : Slice → Slice) : (s.updSlice i f).transit = s.transit := rfl
@[simp] theorem State.updSlice_linkWait (s : State) (i : Nat) (f : Slice → Slice) : (s.updSlice i f).linkWait = s.linkWait := rfl
@[simp] theorem State.updSlice_smpSlot (s : State) (i : Nat) (f : Slice → Slice) : (s.updSlice i f).smpSlot = s.smpSlot := rfl
@[simp] theorem State.updSlice_stop (s : State) (i : Nat) (f : Slice → Slice) : (s.updSlice i f).stop = s.stop := rfl
@[simp] theorem State.updSlice_retiring (s : State) (i : Nat) (f : Slice → Slice) : (s.updSlice i f).retiring = s.retiring := rfl
@[simp] theorem State.updSlice_retWait (s : State) (i : Nat) (f : Slice → Slice) : (s.updSlice i f).retWait = s.retWait := rfl
@[simp] theorem State.updSlice_deadCores (s : State) (i : Nat) (f : Slice → Slice) : (s.updSlice i f).deadCores = s.deadCores := rfl
@[simp] theorem State.updSlice_deadSpares (s : State) (i : Nat) (f : Slice → Slice) : (s.updSlice i f).deadSpares = s.deadSpares := rfl
@[simp] theorem State.updSlice_store (s : State) (i : Nat) (f : Slice → Slice) : (s.updSlice i f).store = s.store := rfl
@[simp] theorem State.updSlice_fatal (s : State) (i : Nat) (f : Slice → Slice) : (s.updSlice i f).fatal = s.fatal := rfl
@[simp] theorem State.updSlice_ended (s : State) (i : Nat) (f : Slice → Slice) : (s.updSlice i f).ended = s.ended := rfl
@[simp] theorem State.updSlice_mute (s : State) (i : Nat) (f : Slice → Slice) : (s.updSlice i f).mute = s.mute := rfl
@[simp] theorem State.updSlice_flight (s : State) (i : Nat) (f : Slice → Slice) : (s.updSlice i f).flight = s.flight := rfl
@[simp] theorem State.updSlice_todo (s : State) (i : Nat) (f : Slice → Slice) : (s.updSlice i f).todo = s.todo := rfl
@[simp] theorem State.updSlice_inbox (s : State) (i : Nat) (f : Slice → Slice) : (s.updSlice i f).inbox = s.inbox := rfl
@[simp] theorem State.updSlice_cur (s : State) (i : Nat) (f : Slice → Slice) : (s.updSlice i f).cur = s.cur := rfl
@[simp] theorem State.updSlice_ptr (s : State) (i : Nat) (f : Slice → Slice) : (s.updSlice i f).ptr = s.ptr := rfl
@[simp] theorem State.updSlice_fltWait (s : State) (i : Nat) (f : Slice → Slice) : (s.updSlice i f).fltWait = s.fltWait := rfl
@[simp] theorem State.updSlice_draw (s : State) (i : Nat) (f : Slice → Slice) : (s.updSlice i f).draw = s.draw := rfl
@[simp] theorem State.updSlice_fresh (s : State) (i : Nat) (f : Slice → Slice) : (s.updSlice i f).fresh = s.fresh := rfl

/-! ## updCtrl -/

@[simp] theorem State.updCtrl_cycle (s : State) (i : Nat) (f : Ctrl → Ctrl) : (s.updCtrl i f).cycle = s.cycle := rfl
@[simp] theorem State.updCtrl_cores (s : State) (i : Nat) (f : Ctrl → Ctrl) : (s.updCtrl i f).cores = s.cores := rfl
@[simp] theorem State.updCtrl_crews (s : State) (i : Nat) (f : Ctrl → Ctrl) : (s.updCtrl i f).crews = s.crews := rfl
@[simp] theorem State.updCtrl_time (s : State) (i : Nat) (f : Ctrl → Ctrl) : (s.updCtrl i f).time = s.time := rfl
@[simp] theorem State.updCtrl_tfrac (s : State) (i : Nat) (f : Ctrl → Ctrl) : (s.updCtrl i f).tfrac = s.tfrac := rfl
@[simp] theorem State.updCtrl_mhz (s : State) (i : Nat) (f : Ctrl → Ctrl) : (s.updCtrl i f).mhz = s.mhz := rfl
@[simp] theorem State.updCtrl_energy (s : State) (i : Nat) (f : Ctrl → Ctrl) : (s.updCtrl i f).energy = s.energy := rfl
@[simp] theorem State.updCtrl_winE (s : State) (i : Nat) (f : Ctrl → Ctrl) : (s.updCtrl i f).winE = s.winE := rfl
@[simp] theorem State.updCtrl_budget (s : State) (i : Nat) (f : Ctrl → Ctrl) : (s.updCtrl i f).budget = s.budget := rfl
@[simp] theorem State.updCtrl_leasecfg (s : State) (i : Nat) (f : Ctrl → Ctrl) : (s.updCtrl i f).leasecfg = s.leasecfg := rfl
@[simp] theorem State.updCtrl_win (s : State) (i : Nat) (f : Ctrl → Ctrl) : (s.updCtrl i f).win = s.win := rfl
@[simp] theorem State.updCtrl_slices (s : State) (i : Nat) (f : Ctrl → Ctrl) : (s.updCtrl i f).slices = s.slices := rfl
@[simp] theorem State.updCtrl_floorF (s : State) (i : Nat) (f : Ctrl → Ctrl) : (s.updCtrl i f).floorF = s.floorF := rfl
@[simp] theorem State.updCtrl_hbm (s : State) (i : Nat) (f : Ctrl → Ctrl) : (s.updCtrl i f).hbm = s.hbm := rfl
@[simp] theorem State.updCtrl_host (s : State) (i : Nat) (f : Ctrl → Ctrl) : (s.updCtrl i f).host = s.host := rfl
@[simp] theorem State.updCtrl_hbmPoison (s : State) (i : Nat) (f : Ctrl → Ctrl) : (s.updCtrl i f).hbmPoison = s.hbmPoison := rfl
@[simp] theorem State.updCtrl_hostPoison (s : State) (i : Nat) (f : Ctrl → Ctrl) : (s.updCtrl i f).hostPoison = s.hostPoison := rfl
@[simp] theorem State.updCtrl_graphs (s : State) (i : Nat) (f : Ctrl → Ctrl) : (s.updCtrl i f).graphs = s.graphs := rfl
@[simp] theorem State.updCtrl_stages (s : State) (i : Nat) (f : Ctrl → Ctrl) : (s.updCtrl i f).stages = s.stages := rfl
@[simp] theorem State.updCtrl_queues (s : State) (i : Nat) (f : Ctrl → Ctrl) : (s.updCtrl i f).queues = s.queues := rfl
@[simp] theorem State.updCtrl_keepers (s : State) (i : Nat) (f : Ctrl → Ctrl) : (s.updCtrl i f).keepers = s.keepers := rfl
@[simp] theorem State.updCtrl_claims (s : State) (i : Nat) (f : Ctrl → Ctrl) : (s.updCtrl i f).claims = s.claims := rfl
@[simp] theorem State.updCtrl_waitq (s : State) (i : Nat) (f : Ctrl → Ctrl) : (s.updCtrl i f).waitq = s.waitq := rfl
@[simp] theorem State.updCtrl_parked (s : State) (i : Nat) (f : Ctrl → Ctrl) : (s.updCtrl i f).parked = s.parked := rfl
@[simp] theorem State.updCtrl_held (s : State) (i : Nat) (f : Ctrl → Ctrl) : (s.updCtrl i f).held = s.held := rfl
@[simp] theorem State.updCtrl_segs (s : State) (i : Nat) (f : Ctrl → Ctrl) : (s.updCtrl i f).segs = s.segs := rfl
@[simp] theorem State.updCtrl_planeSw (s : State) (i : Nat) (f : Ctrl → Ctrl) : (s.updCtrl i f).planeSw = s.planeSw := rfl
@[simp] theorem State.updCtrl_retrain (s : State) (i : Nat) (f : Ctrl → Ctrl) : (s.updCtrl i f).retrain = s.retrain := rfl
@[simp] theorem State.updCtrl_zdown (s : State) (i : Nat) (f : Ctrl → Ctrl) : (s.updCtrl i f).zdown = s.zdown := rfl
@[simp] theorem State.updCtrl_routes (s : State) (i : Nat) (f : Ctrl → Ctrl) : (s.updCtrl i f).routes = s.routes := rfl
@[simp] theorem State.updCtrl_net (s : State) (i : Nat) (f : Ctrl → Ctrl) : (s.updCtrl i f).net = s.net := rfl
@[simp] theorem State.updCtrl_sliceWait (s : State) (i : Nat) (f : Ctrl → Ctrl) : (s.updCtrl i f).sliceWait = s.sliceWait := rfl
@[simp] theorem State.updCtrl_hbmWait (s : State) (i : Nat) (f : Ctrl → Ctrl) : (s.updCtrl i f).hbmWait = s.hbmWait := rfl
@[simp] theorem State.updCtrl_outbox (s : State) (i : Nat) (f : Ctrl → Ctrl) : (s.updCtrl i f).outbox = s.outbox := rfl
@[simp] theorem State.updCtrl_inv (s : State) (i : Nat) (f : Ctrl → Ctrl) : (s.updCtrl i f).inv = s.inv := rfl
@[simp] theorem State.updCtrl_ck (s : State) (i : Nat) (f : Ctrl → Ctrl) : (s.updCtrl i f).ck = s.ck := rfl
@[simp] theorem State.updCtrl_dir (s : State) (i : Nat) (f : Ctrl → Ctrl) : (s.updCtrl i f).dir = s.dir := rfl
@[simp] theorem State.updCtrl_dirMark (s : State) (i : Nat) (f : Ctrl → Ctrl) : (s.updCtrl i f).dirMark = s.dirMark := rfl
@[simp] theorem State.updCtrl_svcWait (s : State) (i : Nat) (f : Ctrl → Ctrl) : (s.updCtrl i f).svcWait = s.svcWait := rfl
@[simp] theorem State.updCtrl_svcOpen (s : State) (i : Nat) (f : Ctrl → Ctrl) : (s.updCtrl i f).svcOpen = s.svcOpen := rfl
@[simp] theorem State.updCtrl_henq (s : State) (i : Nat) (f : Ctrl → Ctrl) : (s.updCtrl i f).henq = s.henq := rfl
@[simp] theorem State.updCtrl_msg (s : State) (i : Nat) (f : Ctrl → Ctrl) : (s.updCtrl i f).msg = s.msg := rfl
@[simp] theorem State.updCtrl_training (s : State) (i : Nat) (f : Ctrl → Ctrl) : (s.updCtrl i f).training = s.training := rfl
@[simp] theorem State.updCtrl_downing (s : State) (i : Nat) (f : Ctrl → Ctrl) : (s.updCtrl i f).downing = s.downing := rfl
@[simp] theorem State.updCtrl_transit (s : State) (i : Nat) (f : Ctrl → Ctrl) : (s.updCtrl i f).transit = s.transit := rfl
@[simp] theorem State.updCtrl_linkWait (s : State) (i : Nat) (f : Ctrl → Ctrl) : (s.updCtrl i f).linkWait = s.linkWait := rfl
@[simp] theorem State.updCtrl_smpSlot (s : State) (i : Nat) (f : Ctrl → Ctrl) : (s.updCtrl i f).smpSlot = s.smpSlot := rfl
@[simp] theorem State.updCtrl_stop (s : State) (i : Nat) (f : Ctrl → Ctrl) : (s.updCtrl i f).stop = s.stop := rfl
@[simp] theorem State.updCtrl_retiring (s : State) (i : Nat) (f : Ctrl → Ctrl) : (s.updCtrl i f).retiring = s.retiring := rfl
@[simp] theorem State.updCtrl_retWait (s : State) (i : Nat) (f : Ctrl → Ctrl) : (s.updCtrl i f).retWait = s.retWait := rfl
@[simp] theorem State.updCtrl_deadCores (s : State) (i : Nat) (f : Ctrl → Ctrl) : (s.updCtrl i f).deadCores = s.deadCores := rfl
@[simp] theorem State.updCtrl_deadSpares (s : State) (i : Nat) (f : Ctrl → Ctrl) : (s.updCtrl i f).deadSpares = s.deadSpares := rfl
@[simp] theorem State.updCtrl_store (s : State) (i : Nat) (f : Ctrl → Ctrl) : (s.updCtrl i f).store = s.store := rfl
@[simp] theorem State.updCtrl_fatal (s : State) (i : Nat) (f : Ctrl → Ctrl) : (s.updCtrl i f).fatal = s.fatal := rfl
@[simp] theorem State.updCtrl_ended (s : State) (i : Nat) (f : Ctrl → Ctrl) : (s.updCtrl i f).ended = s.ended := rfl
@[simp] theorem State.updCtrl_mute (s : State) (i : Nat) (f : Ctrl → Ctrl) : (s.updCtrl i f).mute = s.mute := rfl
@[simp] theorem State.updCtrl_flight (s : State) (i : Nat) (f : Ctrl → Ctrl) : (s.updCtrl i f).flight = s.flight := rfl
@[simp] theorem State.updCtrl_todo (s : State) (i : Nat) (f : Ctrl → Ctrl) : (s.updCtrl i f).todo = s.todo := rfl
@[simp] theorem State.updCtrl_inbox (s : State) (i : Nat) (f : Ctrl → Ctrl) : (s.updCtrl i f).inbox = s.inbox := rfl
@[simp] theorem State.updCtrl_cur (s : State) (i : Nat) (f : Ctrl → Ctrl) : (s.updCtrl i f).cur = s.cur := rfl
@[simp] theorem State.updCtrl_ptr (s : State) (i : Nat) (f : Ctrl → Ctrl) : (s.updCtrl i f).ptr = s.ptr := rfl
@[simp] theorem State.updCtrl_fltWait (s : State) (i : Nat) (f : Ctrl → Ctrl) : (s.updCtrl i f).fltWait = s.fltWait := rfl
@[simp] theorem State.updCtrl_draw (s : State) (i : Nat) (f : Ctrl → Ctrl) : (s.updCtrl i f).draw = s.draw := rfl
@[simp] theorem State.updCtrl_fresh (s : State) (i : Nat) (f : Ctrl → Ctrl) : (s.updCtrl i f).fresh = s.fresh := rfl

/-! ## setReg -/

@[simp] theorem State.setReg_cycle (s : State) (ofs : Nat) (v : Word) : (s.setReg ofs v).cycle = s.cycle := rfl
@[simp] theorem State.setReg_cores (s : State) (ofs : Nat) (v : Word) : (s.setReg ofs v).cores = s.cores := rfl
@[simp] theorem State.setReg_crews (s : State) (ofs : Nat) (v : Word) : (s.setReg ofs v).crews = s.crews := rfl
@[simp] theorem State.setReg_time (s : State) (ofs : Nat) (v : Word) : (s.setReg ofs v).time = s.time := rfl
@[simp] theorem State.setReg_tfrac (s : State) (ofs : Nat) (v : Word) : (s.setReg ofs v).tfrac = s.tfrac := rfl
@[simp] theorem State.setReg_mhz (s : State) (ofs : Nat) (v : Word) : (s.setReg ofs v).mhz = s.mhz := rfl
@[simp] theorem State.setReg_energy (s : State) (ofs : Nat) (v : Word) : (s.setReg ofs v).energy = s.energy := rfl
@[simp] theorem State.setReg_winE (s : State) (ofs : Nat) (v : Word) : (s.setReg ofs v).winE = s.winE := rfl
@[simp] theorem State.setReg_budget (s : State) (ofs : Nat) (v : Word) : (s.setReg ofs v).budget = s.budget := rfl
@[simp] theorem State.setReg_leasecfg (s : State) (ofs : Nat) (v : Word) : (s.setReg ofs v).leasecfg = s.leasecfg := rfl
@[simp] theorem State.setReg_slices (s : State) (ofs : Nat) (v : Word) : (s.setReg ofs v).slices = s.slices := rfl
@[simp] theorem State.setReg_ctrls (s : State) (ofs : Nat) (v : Word) : (s.setReg ofs v).ctrls = s.ctrls := rfl
@[simp] theorem State.setReg_floorF (s : State) (ofs : Nat) (v : Word) : (s.setReg ofs v).floorF = s.floorF := rfl
@[simp] theorem State.setReg_hbm (s : State) (ofs : Nat) (v : Word) : (s.setReg ofs v).hbm = s.hbm := rfl
@[simp] theorem State.setReg_host (s : State) (ofs : Nat) (v : Word) : (s.setReg ofs v).host = s.host := rfl
@[simp] theorem State.setReg_hbmPoison (s : State) (ofs : Nat) (v : Word) : (s.setReg ofs v).hbmPoison = s.hbmPoison := rfl
@[simp] theorem State.setReg_hostPoison (s : State) (ofs : Nat) (v : Word) : (s.setReg ofs v).hostPoison = s.hostPoison := rfl
@[simp] theorem State.setReg_graphs (s : State) (ofs : Nat) (v : Word) : (s.setReg ofs v).graphs = s.graphs := rfl
@[simp] theorem State.setReg_stages (s : State) (ofs : Nat) (v : Word) : (s.setReg ofs v).stages = s.stages := rfl
@[simp] theorem State.setReg_queues (s : State) (ofs : Nat) (v : Word) : (s.setReg ofs v).queues = s.queues := rfl
@[simp] theorem State.setReg_keepers (s : State) (ofs : Nat) (v : Word) : (s.setReg ofs v).keepers = s.keepers := rfl
@[simp] theorem State.setReg_claims (s : State) (ofs : Nat) (v : Word) : (s.setReg ofs v).claims = s.claims := rfl
@[simp] theorem State.setReg_waitq (s : State) (ofs : Nat) (v : Word) : (s.setReg ofs v).waitq = s.waitq := rfl
@[simp] theorem State.setReg_parked (s : State) (ofs : Nat) (v : Word) : (s.setReg ofs v).parked = s.parked := rfl
@[simp] theorem State.setReg_held (s : State) (ofs : Nat) (v : Word) : (s.setReg ofs v).held = s.held := rfl
@[simp] theorem State.setReg_segs (s : State) (ofs : Nat) (v : Word) : (s.setReg ofs v).segs = s.segs := rfl
@[simp] theorem State.setReg_planeSw (s : State) (ofs : Nat) (v : Word) : (s.setReg ofs v).planeSw = s.planeSw := rfl
@[simp] theorem State.setReg_retrain (s : State) (ofs : Nat) (v : Word) : (s.setReg ofs v).retrain = s.retrain := rfl
@[simp] theorem State.setReg_zdown (s : State) (ofs : Nat) (v : Word) : (s.setReg ofs v).zdown = s.zdown := rfl
@[simp] theorem State.setReg_routes (s : State) (ofs : Nat) (v : Word) : (s.setReg ofs v).routes = s.routes := rfl
@[simp] theorem State.setReg_net (s : State) (ofs : Nat) (v : Word) : (s.setReg ofs v).net = s.net := rfl
@[simp] theorem State.setReg_sliceWait (s : State) (ofs : Nat) (v : Word) : (s.setReg ofs v).sliceWait = s.sliceWait := rfl
@[simp] theorem State.setReg_hbmWait (s : State) (ofs : Nat) (v : Word) : (s.setReg ofs v).hbmWait = s.hbmWait := rfl
@[simp] theorem State.setReg_outbox (s : State) (ofs : Nat) (v : Word) : (s.setReg ofs v).outbox = s.outbox := rfl
@[simp] theorem State.setReg_inv (s : State) (ofs : Nat) (v : Word) : (s.setReg ofs v).inv = s.inv := rfl
@[simp] theorem State.setReg_ck (s : State) (ofs : Nat) (v : Word) : (s.setReg ofs v).ck = s.ck := rfl
@[simp] theorem State.setReg_dir (s : State) (ofs : Nat) (v : Word) : (s.setReg ofs v).dir = s.dir := rfl
@[simp] theorem State.setReg_dirMark (s : State) (ofs : Nat) (v : Word) : (s.setReg ofs v).dirMark = s.dirMark := rfl
@[simp] theorem State.setReg_svcWait (s : State) (ofs : Nat) (v : Word) : (s.setReg ofs v).svcWait = s.svcWait := rfl
@[simp] theorem State.setReg_svcOpen (s : State) (ofs : Nat) (v : Word) : (s.setReg ofs v).svcOpen = s.svcOpen := rfl
@[simp] theorem State.setReg_henq (s : State) (ofs : Nat) (v : Word) : (s.setReg ofs v).henq = s.henq := rfl
@[simp] theorem State.setReg_msg (s : State) (ofs : Nat) (v : Word) : (s.setReg ofs v).msg = s.msg := rfl
@[simp] theorem State.setReg_training (s : State) (ofs : Nat) (v : Word) : (s.setReg ofs v).training = s.training := rfl
@[simp] theorem State.setReg_downing (s : State) (ofs : Nat) (v : Word) : (s.setReg ofs v).downing = s.downing := rfl
@[simp] theorem State.setReg_transit (s : State) (ofs : Nat) (v : Word) : (s.setReg ofs v).transit = s.transit := rfl
@[simp] theorem State.setReg_linkWait (s : State) (ofs : Nat) (v : Word) : (s.setReg ofs v).linkWait = s.linkWait := rfl
@[simp] theorem State.setReg_smpSlot (s : State) (ofs : Nat) (v : Word) : (s.setReg ofs v).smpSlot = s.smpSlot := rfl
@[simp] theorem State.setReg_stop (s : State) (ofs : Nat) (v : Word) : (s.setReg ofs v).stop = s.stop := rfl
@[simp] theorem State.setReg_retiring (s : State) (ofs : Nat) (v : Word) : (s.setReg ofs v).retiring = s.retiring := rfl
@[simp] theorem State.setReg_retWait (s : State) (ofs : Nat) (v : Word) : (s.setReg ofs v).retWait = s.retWait := rfl
@[simp] theorem State.setReg_deadCores (s : State) (ofs : Nat) (v : Word) : (s.setReg ofs v).deadCores = s.deadCores := rfl
@[simp] theorem State.setReg_deadSpares (s : State) (ofs : Nat) (v : Word) : (s.setReg ofs v).deadSpares = s.deadSpares := rfl
@[simp] theorem State.setReg_store (s : State) (ofs : Nat) (v : Word) : (s.setReg ofs v).store = s.store := rfl
@[simp] theorem State.setReg_fatal (s : State) (ofs : Nat) (v : Word) : (s.setReg ofs v).fatal = s.fatal := rfl
@[simp] theorem State.setReg_ended (s : State) (ofs : Nat) (v : Word) : (s.setReg ofs v).ended = s.ended := rfl
@[simp] theorem State.setReg_mute (s : State) (ofs : Nat) (v : Word) : (s.setReg ofs v).mute = s.mute := rfl
@[simp] theorem State.setReg_flight (s : State) (ofs : Nat) (v : Word) : (s.setReg ofs v).flight = s.flight := rfl
@[simp] theorem State.setReg_todo (s : State) (ofs : Nat) (v : Word) : (s.setReg ofs v).todo = s.todo := rfl
@[simp] theorem State.setReg_inbox (s : State) (ofs : Nat) (v : Word) : (s.setReg ofs v).inbox = s.inbox := rfl
@[simp] theorem State.setReg_cur (s : State) (ofs : Nat) (v : Word) : (s.setReg ofs v).cur = s.cur := rfl
@[simp] theorem State.setReg_ptr (s : State) (ofs : Nat) (v : Word) : (s.setReg ofs v).ptr = s.ptr := rfl
@[simp] theorem State.setReg_fltWait (s : State) (ofs : Nat) (v : Word) : (s.setReg ofs v).fltWait = s.fltWait := rfl
@[simp] theorem State.setReg_draw (s : State) (ofs : Nat) (v : Word) : (s.setReg ofs v).draw = s.draw := rfl
@[simp] theorem State.setReg_fresh (s : State) (ofs : Nat) (v : Word) : (s.setReg ofs v).fresh = s.fresh := rfl

/-! ## setFld -/

@[simp] theorem State.setFld_cycle (s : State) (ofs lo n v : Nat) : (s.setFld ofs lo n v).cycle = s.cycle := rfl
@[simp] theorem State.setFld_cores (s : State) (ofs lo n v : Nat) : (s.setFld ofs lo n v).cores = s.cores := rfl
@[simp] theorem State.setFld_crews (s : State) (ofs lo n v : Nat) : (s.setFld ofs lo n v).crews = s.crews := rfl
@[simp] theorem State.setFld_time (s : State) (ofs lo n v : Nat) : (s.setFld ofs lo n v).time = s.time := rfl
@[simp] theorem State.setFld_tfrac (s : State) (ofs lo n v : Nat) : (s.setFld ofs lo n v).tfrac = s.tfrac := rfl
@[simp] theorem State.setFld_mhz (s : State) (ofs lo n v : Nat) : (s.setFld ofs lo n v).mhz = s.mhz := rfl
@[simp] theorem State.setFld_energy (s : State) (ofs lo n v : Nat) : (s.setFld ofs lo n v).energy = s.energy := rfl
@[simp] theorem State.setFld_winE (s : State) (ofs lo n v : Nat) : (s.setFld ofs lo n v).winE = s.winE := rfl
@[simp] theorem State.setFld_budget (s : State) (ofs lo n v : Nat) : (s.setFld ofs lo n v).budget = s.budget := rfl
@[simp] theorem State.setFld_leasecfg (s : State) (ofs lo n v : Nat) : (s.setFld ofs lo n v).leasecfg = s.leasecfg := rfl
@[simp] theorem State.setFld_slices (s : State) (ofs lo n v : Nat) : (s.setFld ofs lo n v).slices = s.slices := rfl
@[simp] theorem State.setFld_ctrls (s : State) (ofs lo n v : Nat) : (s.setFld ofs lo n v).ctrls = s.ctrls := rfl
@[simp] theorem State.setFld_floorF (s : State) (ofs lo n v : Nat) : (s.setFld ofs lo n v).floorF = s.floorF := rfl
@[simp] theorem State.setFld_hbm (s : State) (ofs lo n v : Nat) : (s.setFld ofs lo n v).hbm = s.hbm := rfl
@[simp] theorem State.setFld_host (s : State) (ofs lo n v : Nat) : (s.setFld ofs lo n v).host = s.host := rfl
@[simp] theorem State.setFld_hbmPoison (s : State) (ofs lo n v : Nat) : (s.setFld ofs lo n v).hbmPoison = s.hbmPoison := rfl
@[simp] theorem State.setFld_hostPoison (s : State) (ofs lo n v : Nat) : (s.setFld ofs lo n v).hostPoison = s.hostPoison := rfl
@[simp] theorem State.setFld_graphs (s : State) (ofs lo n v : Nat) : (s.setFld ofs lo n v).graphs = s.graphs := rfl
@[simp] theorem State.setFld_stages (s : State) (ofs lo n v : Nat) : (s.setFld ofs lo n v).stages = s.stages := rfl
@[simp] theorem State.setFld_queues (s : State) (ofs lo n v : Nat) : (s.setFld ofs lo n v).queues = s.queues := rfl
@[simp] theorem State.setFld_keepers (s : State) (ofs lo n v : Nat) : (s.setFld ofs lo n v).keepers = s.keepers := rfl
@[simp] theorem State.setFld_claims (s : State) (ofs lo n v : Nat) : (s.setFld ofs lo n v).claims = s.claims := rfl
@[simp] theorem State.setFld_waitq (s : State) (ofs lo n v : Nat) : (s.setFld ofs lo n v).waitq = s.waitq := rfl
@[simp] theorem State.setFld_parked (s : State) (ofs lo n v : Nat) : (s.setFld ofs lo n v).parked = s.parked := rfl
@[simp] theorem State.setFld_held (s : State) (ofs lo n v : Nat) : (s.setFld ofs lo n v).held = s.held := rfl
@[simp] theorem State.setFld_segs (s : State) (ofs lo n v : Nat) : (s.setFld ofs lo n v).segs = s.segs := rfl
@[simp] theorem State.setFld_planeSw (s : State) (ofs lo n v : Nat) : (s.setFld ofs lo n v).planeSw = s.planeSw := rfl
@[simp] theorem State.setFld_retrain (s : State) (ofs lo n v : Nat) : (s.setFld ofs lo n v).retrain = s.retrain := rfl
@[simp] theorem State.setFld_zdown (s : State) (ofs lo n v : Nat) : (s.setFld ofs lo n v).zdown = s.zdown := rfl
@[simp] theorem State.setFld_routes (s : State) (ofs lo n v : Nat) : (s.setFld ofs lo n v).routes = s.routes := rfl
@[simp] theorem State.setFld_net (s : State) (ofs lo n v : Nat) : (s.setFld ofs lo n v).net = s.net := rfl
@[simp] theorem State.setFld_sliceWait (s : State) (ofs lo n v : Nat) : (s.setFld ofs lo n v).sliceWait = s.sliceWait := rfl
@[simp] theorem State.setFld_hbmWait (s : State) (ofs lo n v : Nat) : (s.setFld ofs lo n v).hbmWait = s.hbmWait := rfl
@[simp] theorem State.setFld_outbox (s : State) (ofs lo n v : Nat) : (s.setFld ofs lo n v).outbox = s.outbox := rfl
@[simp] theorem State.setFld_inv (s : State) (ofs lo n v : Nat) : (s.setFld ofs lo n v).inv = s.inv := rfl
@[simp] theorem State.setFld_ck (s : State) (ofs lo n v : Nat) : (s.setFld ofs lo n v).ck = s.ck := rfl
@[simp] theorem State.setFld_dir (s : State) (ofs lo n v : Nat) : (s.setFld ofs lo n v).dir = s.dir := rfl
@[simp] theorem State.setFld_dirMark (s : State) (ofs lo n v : Nat) : (s.setFld ofs lo n v).dirMark = s.dirMark := rfl
@[simp] theorem State.setFld_svcWait (s : State) (ofs lo n v : Nat) : (s.setFld ofs lo n v).svcWait = s.svcWait := rfl
@[simp] theorem State.setFld_svcOpen (s : State) (ofs lo n v : Nat) : (s.setFld ofs lo n v).svcOpen = s.svcOpen := rfl
@[simp] theorem State.setFld_henq (s : State) (ofs lo n v : Nat) : (s.setFld ofs lo n v).henq = s.henq := rfl
@[simp] theorem State.setFld_msg (s : State) (ofs lo n v : Nat) : (s.setFld ofs lo n v).msg = s.msg := rfl
@[simp] theorem State.setFld_training (s : State) (ofs lo n v : Nat) : (s.setFld ofs lo n v).training = s.training := rfl
@[simp] theorem State.setFld_downing (s : State) (ofs lo n v : Nat) : (s.setFld ofs lo n v).downing = s.downing := rfl
@[simp] theorem State.setFld_transit (s : State) (ofs lo n v : Nat) : (s.setFld ofs lo n v).transit = s.transit := rfl
@[simp] theorem State.setFld_linkWait (s : State) (ofs lo n v : Nat) : (s.setFld ofs lo n v).linkWait = s.linkWait := rfl
@[simp] theorem State.setFld_smpSlot (s : State) (ofs lo n v : Nat) : (s.setFld ofs lo n v).smpSlot = s.smpSlot := rfl
@[simp] theorem State.setFld_stop (s : State) (ofs lo n v : Nat) : (s.setFld ofs lo n v).stop = s.stop := rfl
@[simp] theorem State.setFld_retiring (s : State) (ofs lo n v : Nat) : (s.setFld ofs lo n v).retiring = s.retiring := rfl
@[simp] theorem State.setFld_retWait (s : State) (ofs lo n v : Nat) : (s.setFld ofs lo n v).retWait = s.retWait := rfl
@[simp] theorem State.setFld_deadCores (s : State) (ofs lo n v : Nat) : (s.setFld ofs lo n v).deadCores = s.deadCores := rfl
@[simp] theorem State.setFld_deadSpares (s : State) (ofs lo n v : Nat) : (s.setFld ofs lo n v).deadSpares = s.deadSpares := rfl
@[simp] theorem State.setFld_store (s : State) (ofs lo n v : Nat) : (s.setFld ofs lo n v).store = s.store := rfl
@[simp] theorem State.setFld_fatal (s : State) (ofs lo n v : Nat) : (s.setFld ofs lo n v).fatal = s.fatal := rfl
@[simp] theorem State.setFld_ended (s : State) (ofs lo n v : Nat) : (s.setFld ofs lo n v).ended = s.ended := rfl
@[simp] theorem State.setFld_mute (s : State) (ofs lo n v : Nat) : (s.setFld ofs lo n v).mute = s.mute := rfl
@[simp] theorem State.setFld_flight (s : State) (ofs lo n v : Nat) : (s.setFld ofs lo n v).flight = s.flight := rfl
@[simp] theorem State.setFld_todo (s : State) (ofs lo n v : Nat) : (s.setFld ofs lo n v).todo = s.todo := rfl
@[simp] theorem State.setFld_inbox (s : State) (ofs lo n v : Nat) : (s.setFld ofs lo n v).inbox = s.inbox := rfl
@[simp] theorem State.setFld_cur (s : State) (ofs lo n v : Nat) : (s.setFld ofs lo n v).cur = s.cur := rfl
@[simp] theorem State.setFld_ptr (s : State) (ofs lo n v : Nat) : (s.setFld ofs lo n v).ptr = s.ptr := rfl
@[simp] theorem State.setFld_fltWait (s : State) (ofs lo n v : Nat) : (s.setFld ofs lo n v).fltWait = s.fltWait := rfl
@[simp] theorem State.setFld_draw (s : State) (ofs lo n v : Nat) : (s.setFld ofs lo n v).draw = s.draw := rfl
@[simp] theorem State.setFld_fresh (s : State) (ofs lo n v : Nat) : (s.setFld ofs lo n v).fresh = s.fresh := rfl

/-! ## post -/

@[simp] theorem State.post_cycle (s : State) (es : List Instr) : (s.post es).cycle = s.cycle := rfl
@[simp] theorem State.post_cores (s : State) (es : List Instr) : (s.post es).cores = s.cores := rfl
@[simp] theorem State.post_crews (s : State) (es : List Instr) : (s.post es).crews = s.crews := rfl
@[simp] theorem State.post_time (s : State) (es : List Instr) : (s.post es).time = s.time := rfl
@[simp] theorem State.post_tfrac (s : State) (es : List Instr) : (s.post es).tfrac = s.tfrac := rfl
@[simp] theorem State.post_mhz (s : State) (es : List Instr) : (s.post es).mhz = s.mhz := rfl
@[simp] theorem State.post_energy (s : State) (es : List Instr) : (s.post es).energy = s.energy := rfl
@[simp] theorem State.post_winE (s : State) (es : List Instr) : (s.post es).winE = s.winE := rfl
@[simp] theorem State.post_budget (s : State) (es : List Instr) : (s.post es).budget = s.budget := rfl
@[simp] theorem State.post_leasecfg (s : State) (es : List Instr) : (s.post es).leasecfg = s.leasecfg := rfl
@[simp] theorem State.post_win (s : State) (es : List Instr) : (s.post es).win = s.win := rfl
@[simp] theorem State.post_slices (s : State) (es : List Instr) : (s.post es).slices = s.slices := rfl
@[simp] theorem State.post_ctrls (s : State) (es : List Instr) : (s.post es).ctrls = s.ctrls := rfl
@[simp] theorem State.post_floorF (s : State) (es : List Instr) : (s.post es).floorF = s.floorF := rfl
@[simp] theorem State.post_hbm (s : State) (es : List Instr) : (s.post es).hbm = s.hbm := rfl
@[simp] theorem State.post_host (s : State) (es : List Instr) : (s.post es).host = s.host := rfl
@[simp] theorem State.post_hbmPoison (s : State) (es : List Instr) : (s.post es).hbmPoison = s.hbmPoison := rfl
@[simp] theorem State.post_hostPoison (s : State) (es : List Instr) : (s.post es).hostPoison = s.hostPoison := rfl
@[simp] theorem State.post_graphs (s : State) (es : List Instr) : (s.post es).graphs = s.graphs := rfl
@[simp] theorem State.post_stages (s : State) (es : List Instr) : (s.post es).stages = s.stages := rfl
@[simp] theorem State.post_queues (s : State) (es : List Instr) : (s.post es).queues = s.queues := rfl
@[simp] theorem State.post_keepers (s : State) (es : List Instr) : (s.post es).keepers = s.keepers := rfl
@[simp] theorem State.post_claims (s : State) (es : List Instr) : (s.post es).claims = s.claims := rfl
@[simp] theorem State.post_waitq (s : State) (es : List Instr) : (s.post es).waitq = s.waitq := rfl
@[simp] theorem State.post_parked (s : State) (es : List Instr) : (s.post es).parked = s.parked := rfl
@[simp] theorem State.post_held (s : State) (es : List Instr) : (s.post es).held = s.held := rfl
@[simp] theorem State.post_segs (s : State) (es : List Instr) : (s.post es).segs = s.segs := rfl
@[simp] theorem State.post_planeSw (s : State) (es : List Instr) : (s.post es).planeSw = s.planeSw := rfl
@[simp] theorem State.post_retrain (s : State) (es : List Instr) : (s.post es).retrain = s.retrain := rfl
@[simp] theorem State.post_zdown (s : State) (es : List Instr) : (s.post es).zdown = s.zdown := rfl
@[simp] theorem State.post_routes (s : State) (es : List Instr) : (s.post es).routes = s.routes := rfl
@[simp] theorem State.post_net (s : State) (es : List Instr) : (s.post es).net = s.net := rfl
@[simp] theorem State.post_sliceWait (s : State) (es : List Instr) : (s.post es).sliceWait = s.sliceWait := rfl
@[simp] theorem State.post_hbmWait (s : State) (es : List Instr) : (s.post es).hbmWait = s.hbmWait := rfl
@[simp] theorem State.post_outbox (s : State) (es : List Instr) : (s.post es).outbox = s.outbox := rfl
@[simp] theorem State.post_inv (s : State) (es : List Instr) : (s.post es).inv = s.inv := rfl
@[simp] theorem State.post_ck (s : State) (es : List Instr) : (s.post es).ck = s.ck := rfl
@[simp] theorem State.post_dir (s : State) (es : List Instr) : (s.post es).dir = s.dir := rfl
@[simp] theorem State.post_dirMark (s : State) (es : List Instr) : (s.post es).dirMark = s.dirMark := rfl
@[simp] theorem State.post_svcWait (s : State) (es : List Instr) : (s.post es).svcWait = s.svcWait := rfl
@[simp] theorem State.post_svcOpen (s : State) (es : List Instr) : (s.post es).svcOpen = s.svcOpen := rfl
@[simp] theorem State.post_henq (s : State) (es : List Instr) : (s.post es).henq = s.henq := rfl
@[simp] theorem State.post_msg (s : State) (es : List Instr) : (s.post es).msg = s.msg := rfl
@[simp] theorem State.post_training (s : State) (es : List Instr) : (s.post es).training = s.training := rfl
@[simp] theorem State.post_downing (s : State) (es : List Instr) : (s.post es).downing = s.downing := rfl
@[simp] theorem State.post_transit (s : State) (es : List Instr) : (s.post es).transit = s.transit := rfl
@[simp] theorem State.post_linkWait (s : State) (es : List Instr) : (s.post es).linkWait = s.linkWait := rfl
@[simp] theorem State.post_smpSlot (s : State) (es : List Instr) : (s.post es).smpSlot = s.smpSlot := rfl
@[simp] theorem State.post_stop (s : State) (es : List Instr) : (s.post es).stop = s.stop := rfl
@[simp] theorem State.post_retiring (s : State) (es : List Instr) : (s.post es).retiring = s.retiring := rfl
@[simp] theorem State.post_retWait (s : State) (es : List Instr) : (s.post es).retWait = s.retWait := rfl
@[simp] theorem State.post_deadCores (s : State) (es : List Instr) : (s.post es).deadCores = s.deadCores := rfl
@[simp] theorem State.post_deadSpares (s : State) (es : List Instr) : (s.post es).deadSpares = s.deadSpares := rfl
@[simp] theorem State.post_store (s : State) (es : List Instr) : (s.post es).store = s.store := rfl
@[simp] theorem State.post_fatal (s : State) (es : List Instr) : (s.post es).fatal = s.fatal := rfl
@[simp] theorem State.post_ended (s : State) (es : List Instr) : (s.post es).ended = s.ended := rfl
@[simp] theorem State.post_mute (s : State) (es : List Instr) : (s.post es).mute = s.mute := rfl
@[simp] theorem State.post_flight (s : State) (es : List Instr) : (s.post es).flight = s.flight := rfl
@[simp] theorem State.post_inbox (s : State) (es : List Instr) : (s.post es).inbox = s.inbox := rfl
@[simp] theorem State.post_cur (s : State) (es : List Instr) : (s.post es).cur = s.cur := rfl
@[simp] theorem State.post_ptr (s : State) (es : List Instr) : (s.post es).ptr = s.ptr := rfl
@[simp] theorem State.post_fltWait (s : State) (es : List Instr) : (s.post es).fltWait = s.fltWait := rfl
@[simp] theorem State.post_draw (s : State) (es : List Instr) : (s.post es).draw = s.draw := rfl
@[simp] theorem State.post_fresh (s : State) (es : List Instr) : (s.post es).fresh = s.fresh := rfl

/-! ## send -/

/-- A message that sets out changes nothing but the network and what its units hold. -/
theorem State.sendFrom_only (s : State) (n : Option Nat) (e : Instr) :
    ∃ f k, s.sendFrom n e = { s with flight := f, net := k } := by
  unfold State.sendFrom
  split
  · exact ⟨_, _, rfl⟩
  · simp only []
    split <;> exact ⟨_, _, rfl⟩

@[simp] theorem State.send_cycle (s : State) (e : Instr) : (s.send e).cycle = s.cycle := by
  obtain ⟨_, _, h⟩ := s.sendFrom_only none e
  rw [State.send, h]
@[simp] theorem State.send_cores (s : State) (e : Instr) : (s.send e).cores = s.cores := by
  obtain ⟨_, _, h⟩ := s.sendFrom_only none e
  rw [State.send, h]
@[simp] theorem State.send_crews (s : State) (e : Instr) : (s.send e).crews = s.crews := by
  obtain ⟨_, _, h⟩ := s.sendFrom_only none e
  rw [State.send, h]
@[simp] theorem State.send_time (s : State) (e : Instr) : (s.send e).time = s.time := by
  obtain ⟨_, _, h⟩ := s.sendFrom_only none e
  rw [State.send, h]
@[simp] theorem State.send_tfrac (s : State) (e : Instr) : (s.send e).tfrac = s.tfrac := by
  obtain ⟨_, _, h⟩ := s.sendFrom_only none e
  rw [State.send, h]
@[simp] theorem State.send_mhz (s : State) (e : Instr) : (s.send e).mhz = s.mhz := by
  obtain ⟨_, _, h⟩ := s.sendFrom_only none e
  rw [State.send, h]
@[simp] theorem State.send_energy (s : State) (e : Instr) : (s.send e).energy = s.energy := by
  obtain ⟨_, _, h⟩ := s.sendFrom_only none e
  rw [State.send, h]
@[simp] theorem State.send_winE (s : State) (e : Instr) : (s.send e).winE = s.winE := by
  obtain ⟨_, _, h⟩ := s.sendFrom_only none e
  rw [State.send, h]
@[simp] theorem State.send_budget (s : State) (e : Instr) : (s.send e).budget = s.budget := by
  obtain ⟨_, _, h⟩ := s.sendFrom_only none e
  rw [State.send, h]
@[simp] theorem State.send_leasecfg (s : State) (e : Instr) : (s.send e).leasecfg = s.leasecfg := by
  obtain ⟨_, _, h⟩ := s.sendFrom_only none e
  rw [State.send, h]
@[simp] theorem State.send_win (s : State) (e : Instr) : (s.send e).win = s.win := by
  obtain ⟨_, _, h⟩ := s.sendFrom_only none e
  rw [State.send, h]
@[simp] theorem State.send_slices (s : State) (e : Instr) : (s.send e).slices = s.slices := by
  obtain ⟨_, _, h⟩ := s.sendFrom_only none e
  rw [State.send, h]
@[simp] theorem State.send_ctrls (s : State) (e : Instr) : (s.send e).ctrls = s.ctrls := by
  obtain ⟨_, _, h⟩ := s.sendFrom_only none e
  rw [State.send, h]
@[simp] theorem State.send_floorF (s : State) (e : Instr) : (s.send e).floorF = s.floorF := by
  obtain ⟨_, _, h⟩ := s.sendFrom_only none e
  rw [State.send, h]
@[simp] theorem State.send_hbm (s : State) (e : Instr) : (s.send e).hbm = s.hbm := by
  obtain ⟨_, _, h⟩ := s.sendFrom_only none e
  rw [State.send, h]
@[simp] theorem State.send_host (s : State) (e : Instr) : (s.send e).host = s.host := by
  obtain ⟨_, _, h⟩ := s.sendFrom_only none e
  rw [State.send, h]
@[simp] theorem State.send_hbmPoison (s : State) (e : Instr) : (s.send e).hbmPoison = s.hbmPoison := by
  obtain ⟨_, _, h⟩ := s.sendFrom_only none e
  rw [State.send, h]
@[simp] theorem State.send_hostPoison (s : State) (e : Instr) : (s.send e).hostPoison = s.hostPoison := by
  obtain ⟨_, _, h⟩ := s.sendFrom_only none e
  rw [State.send, h]
@[simp] theorem State.send_graphs (s : State) (e : Instr) : (s.send e).graphs = s.graphs := by
  obtain ⟨_, _, h⟩ := s.sendFrom_only none e
  rw [State.send, h]
@[simp] theorem State.send_stages (s : State) (e : Instr) : (s.send e).stages = s.stages := by
  obtain ⟨_, _, h⟩ := s.sendFrom_only none e
  rw [State.send, h]
@[simp] theorem State.send_queues (s : State) (e : Instr) : (s.send e).queues = s.queues := by
  obtain ⟨_, _, h⟩ := s.sendFrom_only none e
  rw [State.send, h]
@[simp] theorem State.send_keepers (s : State) (e : Instr) : (s.send e).keepers = s.keepers := by
  obtain ⟨_, _, h⟩ := s.sendFrom_only none e
  rw [State.send, h]
@[simp] theorem State.send_claims (s : State) (e : Instr) : (s.send e).claims = s.claims := by
  obtain ⟨_, _, h⟩ := s.sendFrom_only none e
  rw [State.send, h]
@[simp] theorem State.send_waitq (s : State) (e : Instr) : (s.send e).waitq = s.waitq := by
  obtain ⟨_, _, h⟩ := s.sendFrom_only none e
  rw [State.send, h]
@[simp] theorem State.send_parked (s : State) (e : Instr) : (s.send e).parked = s.parked := by
  obtain ⟨_, _, h⟩ := s.sendFrom_only none e
  rw [State.send, h]
@[simp] theorem State.send_held (s : State) (e : Instr) : (s.send e).held = s.held := by
  obtain ⟨_, _, h⟩ := s.sendFrom_only none e
  rw [State.send, h]
@[simp] theorem State.send_segs (s : State) (e : Instr) : (s.send e).segs = s.segs := by
  obtain ⟨_, _, h⟩ := s.sendFrom_only none e
  rw [State.send, h]
@[simp] theorem State.send_planeSw (s : State) (e : Instr) : (s.send e).planeSw = s.planeSw := by
  obtain ⟨_, _, h⟩ := s.sendFrom_only none e
  rw [State.send, h]
@[simp] theorem State.send_retrain (s : State) (e : Instr) : (s.send e).retrain = s.retrain := by
  obtain ⟨_, _, h⟩ := s.sendFrom_only none e
  rw [State.send, h]
@[simp] theorem State.send_zdown (s : State) (e : Instr) : (s.send e).zdown = s.zdown := by
  obtain ⟨_, _, h⟩ := s.sendFrom_only none e
  rw [State.send, h]
@[simp] theorem State.send_routes (s : State) (e : Instr) : (s.send e).routes = s.routes := by
  obtain ⟨_, _, h⟩ := s.sendFrom_only none e
  rw [State.send, h]
@[simp] theorem State.send_sliceWait (s : State) (e : Instr) : (s.send e).sliceWait = s.sliceWait := by
  obtain ⟨_, _, h⟩ := s.sendFrom_only none e
  rw [State.send, h]
@[simp] theorem State.send_hbmWait (s : State) (e : Instr) : (s.send e).hbmWait = s.hbmWait := by
  obtain ⟨_, _, h⟩ := s.sendFrom_only none e
  rw [State.send, h]
@[simp] theorem State.send_outbox (s : State) (e : Instr) : (s.send e).outbox = s.outbox := by
  obtain ⟨_, _, h⟩ := s.sendFrom_only none e
  rw [State.send, h]
@[simp] theorem State.send_inv (s : State) (e : Instr) : (s.send e).inv = s.inv := by
  obtain ⟨_, _, h⟩ := s.sendFrom_only none e
  rw [State.send, h]
@[simp] theorem State.send_ck (s : State) (e : Instr) : (s.send e).ck = s.ck := by
  obtain ⟨_, _, h⟩ := s.sendFrom_only none e
  rw [State.send, h]
@[simp] theorem State.send_dir (s : State) (e : Instr) : (s.send e).dir = s.dir := by
  obtain ⟨_, _, h⟩ := s.sendFrom_only none e
  rw [State.send, h]
@[simp] theorem State.send_dirMark (s : State) (e : Instr) : (s.send e).dirMark = s.dirMark := by
  obtain ⟨_, _, h⟩ := s.sendFrom_only none e
  rw [State.send, h]
@[simp] theorem State.send_svcWait (s : State) (e : Instr) : (s.send e).svcWait = s.svcWait := by
  obtain ⟨_, _, h⟩ := s.sendFrom_only none e
  rw [State.send, h]
@[simp] theorem State.send_svcOpen (s : State) (e : Instr) : (s.send e).svcOpen = s.svcOpen := by
  obtain ⟨_, _, h⟩ := s.sendFrom_only none e
  rw [State.send, h]
@[simp] theorem State.send_henq (s : State) (e : Instr) : (s.send e).henq = s.henq := by
  obtain ⟨_, _, h⟩ := s.sendFrom_only none e
  rw [State.send, h]
@[simp] theorem State.send_msg (s : State) (e : Instr) : (s.send e).msg = s.msg := by
  obtain ⟨_, _, h⟩ := s.sendFrom_only none e
  rw [State.send, h]
@[simp] theorem State.send_training (s : State) (e : Instr) : (s.send e).training = s.training := by
  obtain ⟨_, _, h⟩ := s.sendFrom_only none e
  rw [State.send, h]
@[simp] theorem State.send_downing (s : State) (e : Instr) : (s.send e).downing = s.downing := by
  obtain ⟨_, _, h⟩ := s.sendFrom_only none e
  rw [State.send, h]
@[simp] theorem State.send_transit (s : State) (e : Instr) : (s.send e).transit = s.transit := by
  obtain ⟨_, _, h⟩ := s.sendFrom_only none e
  rw [State.send, h]
@[simp] theorem State.send_linkWait (s : State) (e : Instr) : (s.send e).linkWait = s.linkWait := by
  obtain ⟨_, _, h⟩ := s.sendFrom_only none e
  rw [State.send, h]
@[simp] theorem State.send_smpSlot (s : State) (e : Instr) : (s.send e).smpSlot = s.smpSlot := by
  obtain ⟨_, _, h⟩ := s.sendFrom_only none e
  rw [State.send, h]
@[simp] theorem State.send_stop (s : State) (e : Instr) : (s.send e).stop = s.stop := by
  obtain ⟨_, _, h⟩ := s.sendFrom_only none e
  rw [State.send, h]
@[simp] theorem State.send_retiring (s : State) (e : Instr) : (s.send e).retiring = s.retiring := by
  obtain ⟨_, _, h⟩ := s.sendFrom_only none e
  rw [State.send, h]
@[simp] theorem State.send_retWait (s : State) (e : Instr) : (s.send e).retWait = s.retWait := by
  obtain ⟨_, _, h⟩ := s.sendFrom_only none e
  rw [State.send, h]
@[simp] theorem State.send_deadCores (s : State) (e : Instr) : (s.send e).deadCores = s.deadCores := by
  obtain ⟨_, _, h⟩ := s.sendFrom_only none e
  rw [State.send, h]
@[simp] theorem State.send_deadSpares (s : State) (e : Instr) : (s.send e).deadSpares = s.deadSpares := by
  obtain ⟨_, _, h⟩ := s.sendFrom_only none e
  rw [State.send, h]
@[simp] theorem State.send_store (s : State) (e : Instr) : (s.send e).store = s.store := by
  obtain ⟨_, _, h⟩ := s.sendFrom_only none e
  rw [State.send, h]
@[simp] theorem State.send_fatal (s : State) (e : Instr) : (s.send e).fatal = s.fatal := by
  obtain ⟨_, _, h⟩ := s.sendFrom_only none e
  rw [State.send, h]
@[simp] theorem State.send_ended (s : State) (e : Instr) : (s.send e).ended = s.ended := by
  obtain ⟨_, _, h⟩ := s.sendFrom_only none e
  rw [State.send, h]
@[simp] theorem State.send_mute (s : State) (e : Instr) : (s.send e).mute = s.mute := by
  obtain ⟨_, _, h⟩ := s.sendFrom_only none e
  rw [State.send, h]
@[simp] theorem State.send_todo (s : State) (e : Instr) : (s.send e).todo = s.todo := by
  obtain ⟨_, _, h⟩ := s.sendFrom_only none e
  rw [State.send, h]
@[simp] theorem State.send_inbox (s : State) (e : Instr) : (s.send e).inbox = s.inbox := by
  obtain ⟨_, _, h⟩ := s.sendFrom_only none e
  rw [State.send, h]
@[simp] theorem State.send_cur (s : State) (e : Instr) : (s.send e).cur = s.cur := by
  obtain ⟨_, _, h⟩ := s.sendFrom_only none e
  rw [State.send, h]
@[simp] theorem State.send_ptr (s : State) (e : Instr) : (s.send e).ptr = s.ptr := by
  obtain ⟨_, _, h⟩ := s.sendFrom_only none e
  rw [State.send, h]
@[simp] theorem State.send_fltWait (s : State) (e : Instr) : (s.send e).fltWait = s.fltWait := by
  obtain ⟨_, _, h⟩ := s.sendFrom_only none e
  rw [State.send, h]
@[simp] theorem State.send_draw (s : State) (e : Instr) : (s.send e).draw = s.draw := by
  obtain ⟨_, _, h⟩ := s.sendFrom_only none e
  rw [State.send, h]
@[simp] theorem State.send_fresh (s : State) (e : Instr) : (s.send e).fresh = s.fresh := by
  obtain ⟨_, _, h⟩ := s.sendFrom_only none e
  rw [State.send, h]

/-! ## updQueue -/

@[simp] theorem State.updQueue_cycle (s : State) (n : Nat) (f : Queue → Queue) : (s.updQueue n f).cycle = s.cycle := rfl
@[simp] theorem State.updQueue_cores (s : State) (n : Nat) (f : Queue → Queue) : (s.updQueue n f).cores = s.cores := rfl
@[simp] theorem State.updQueue_crews (s : State) (n : Nat) (f : Queue → Queue) : (s.updQueue n f).crews = s.crews := rfl
@[simp] theorem State.updQueue_time (s : State) (n : Nat) (f : Queue → Queue) : (s.updQueue n f).time = s.time := rfl
@[simp] theorem State.updQueue_tfrac (s : State) (n : Nat) (f : Queue → Queue) : (s.updQueue n f).tfrac = s.tfrac := rfl
@[simp] theorem State.updQueue_mhz (s : State) (n : Nat) (f : Queue → Queue) : (s.updQueue n f).mhz = s.mhz := rfl
@[simp] theorem State.updQueue_energy (s : State) (n : Nat) (f : Queue → Queue) : (s.updQueue n f).energy = s.energy := rfl
@[simp] theorem State.updQueue_winE (s : State) (n : Nat) (f : Queue → Queue) : (s.updQueue n f).winE = s.winE := rfl
@[simp] theorem State.updQueue_budget (s : State) (n : Nat) (f : Queue → Queue) : (s.updQueue n f).budget = s.budget := rfl
@[simp] theorem State.updQueue_leasecfg (s : State) (n : Nat) (f : Queue → Queue) : (s.updQueue n f).leasecfg = s.leasecfg := rfl
@[simp] theorem State.updQueue_win (s : State) (n : Nat) (f : Queue → Queue) : (s.updQueue n f).win = s.win := rfl
@[simp] theorem State.updQueue_slices (s : State) (n : Nat) (f : Queue → Queue) : (s.updQueue n f).slices = s.slices := rfl
@[simp] theorem State.updQueue_ctrls (s : State) (n : Nat) (f : Queue → Queue) : (s.updQueue n f).ctrls = s.ctrls := rfl
@[simp] theorem State.updQueue_floorF (s : State) (n : Nat) (f : Queue → Queue) : (s.updQueue n f).floorF = s.floorF := rfl
@[simp] theorem State.updQueue_hbm (s : State) (n : Nat) (f : Queue → Queue) : (s.updQueue n f).hbm = s.hbm := rfl
@[simp] theorem State.updQueue_host (s : State) (n : Nat) (f : Queue → Queue) : (s.updQueue n f).host = s.host := rfl
@[simp] theorem State.updQueue_hbmPoison (s : State) (n : Nat) (f : Queue → Queue) : (s.updQueue n f).hbmPoison = s.hbmPoison := rfl
@[simp] theorem State.updQueue_hostPoison (s : State) (n : Nat) (f : Queue → Queue) : (s.updQueue n f).hostPoison = s.hostPoison := rfl
@[simp] theorem State.updQueue_graphs (s : State) (n : Nat) (f : Queue → Queue) : (s.updQueue n f).graphs = s.graphs := rfl
@[simp] theorem State.updQueue_stages (s : State) (n : Nat) (f : Queue → Queue) : (s.updQueue n f).stages = s.stages := rfl
@[simp] theorem State.updQueue_keepers (s : State) (n : Nat) (f : Queue → Queue) : (s.updQueue n f).keepers = s.keepers := rfl
@[simp] theorem State.updQueue_claims (s : State) (n : Nat) (f : Queue → Queue) : (s.updQueue n f).claims = s.claims := rfl
@[simp] theorem State.updQueue_waitq (s : State) (n : Nat) (f : Queue → Queue) : (s.updQueue n f).waitq = s.waitq := rfl
@[simp] theorem State.updQueue_parked (s : State) (n : Nat) (f : Queue → Queue) : (s.updQueue n f).parked = s.parked := rfl
@[simp] theorem State.updQueue_held (s : State) (n : Nat) (f : Queue → Queue) : (s.updQueue n f).held = s.held := rfl
@[simp] theorem State.updQueue_segs (s : State) (n : Nat) (f : Queue → Queue) : (s.updQueue n f).segs = s.segs := rfl
@[simp] theorem State.updQueue_planeSw (s : State) (n : Nat) (f : Queue → Queue) : (s.updQueue n f).planeSw = s.planeSw := rfl
@[simp] theorem State.updQueue_retrain (s : State) (n : Nat) (f : Queue → Queue) : (s.updQueue n f).retrain = s.retrain := rfl
@[simp] theorem State.updQueue_zdown (s : State) (n : Nat) (f : Queue → Queue) : (s.updQueue n f).zdown = s.zdown := rfl
@[simp] theorem State.updQueue_routes (s : State) (n : Nat) (f : Queue → Queue) : (s.updQueue n f).routes = s.routes := rfl
@[simp] theorem State.updQueue_net (s : State) (n : Nat) (f : Queue → Queue) : (s.updQueue n f).net = s.net := rfl
@[simp] theorem State.updQueue_sliceWait (s : State) (n : Nat) (f : Queue → Queue) : (s.updQueue n f).sliceWait = s.sliceWait := rfl
@[simp] theorem State.updQueue_hbmWait (s : State) (n : Nat) (f : Queue → Queue) : (s.updQueue n f).hbmWait = s.hbmWait := rfl
@[simp] theorem State.updQueue_outbox (s : State) (n : Nat) (f : Queue → Queue) : (s.updQueue n f).outbox = s.outbox := rfl
@[simp] theorem State.updQueue_inv (s : State) (n : Nat) (f : Queue → Queue) : (s.updQueue n f).inv = s.inv := rfl
@[simp] theorem State.updQueue_ck (s : State) (n : Nat) (f : Queue → Queue) : (s.updQueue n f).ck = s.ck := rfl
@[simp] theorem State.updQueue_dir (s : State) (n : Nat) (f : Queue → Queue) : (s.updQueue n f).dir = s.dir := rfl
@[simp] theorem State.updQueue_dirMark (s : State) (n : Nat) (f : Queue → Queue) : (s.updQueue n f).dirMark = s.dirMark := rfl
@[simp] theorem State.updQueue_svcWait (s : State) (n : Nat) (f : Queue → Queue) : (s.updQueue n f).svcWait = s.svcWait := rfl
@[simp] theorem State.updQueue_svcOpen (s : State) (n : Nat) (f : Queue → Queue) : (s.updQueue n f).svcOpen = s.svcOpen := rfl
@[simp] theorem State.updQueue_henq (s : State) (n : Nat) (f : Queue → Queue) : (s.updQueue n f).henq = s.henq := rfl
@[simp] theorem State.updQueue_msg (s : State) (n : Nat) (f : Queue → Queue) : (s.updQueue n f).msg = s.msg := rfl
@[simp] theorem State.updQueue_training (s : State) (n : Nat) (f : Queue → Queue) : (s.updQueue n f).training = s.training := rfl
@[simp] theorem State.updQueue_downing (s : State) (n : Nat) (f : Queue → Queue) : (s.updQueue n f).downing = s.downing := rfl
@[simp] theorem State.updQueue_transit (s : State) (n : Nat) (f : Queue → Queue) : (s.updQueue n f).transit = s.transit := rfl
@[simp] theorem State.updQueue_linkWait (s : State) (n : Nat) (f : Queue → Queue) : (s.updQueue n f).linkWait = s.linkWait := rfl
@[simp] theorem State.updQueue_smpSlot (s : State) (n : Nat) (f : Queue → Queue) : (s.updQueue n f).smpSlot = s.smpSlot := rfl
@[simp] theorem State.updQueue_stop (s : State) (n : Nat) (f : Queue → Queue) : (s.updQueue n f).stop = s.stop := rfl
@[simp] theorem State.updQueue_retiring (s : State) (n : Nat) (f : Queue → Queue) : (s.updQueue n f).retiring = s.retiring := rfl
@[simp] theorem State.updQueue_retWait (s : State) (n : Nat) (f : Queue → Queue) : (s.updQueue n f).retWait = s.retWait := rfl
@[simp] theorem State.updQueue_deadCores (s : State) (n : Nat) (f : Queue → Queue) : (s.updQueue n f).deadCores = s.deadCores := rfl
@[simp] theorem State.updQueue_deadSpares (s : State) (n : Nat) (f : Queue → Queue) : (s.updQueue n f).deadSpares = s.deadSpares := rfl
@[simp] theorem State.updQueue_store (s : State) (n : Nat) (f : Queue → Queue) : (s.updQueue n f).store = s.store := rfl
@[simp] theorem State.updQueue_fatal (s : State) (n : Nat) (f : Queue → Queue) : (s.updQueue n f).fatal = s.fatal := rfl
@[simp] theorem State.updQueue_ended (s : State) (n : Nat) (f : Queue → Queue) : (s.updQueue n f).ended = s.ended := rfl
@[simp] theorem State.updQueue_mute (s : State) (n : Nat) (f : Queue → Queue) : (s.updQueue n f).mute = s.mute := rfl
@[simp] theorem State.updQueue_flight (s : State) (n : Nat) (f : Queue → Queue) : (s.updQueue n f).flight = s.flight := rfl
@[simp] theorem State.updQueue_todo (s : State) (n : Nat) (f : Queue → Queue) : (s.updQueue n f).todo = s.todo := rfl
@[simp] theorem State.updQueue_inbox (s : State) (n : Nat) (f : Queue → Queue) : (s.updQueue n f).inbox = s.inbox := rfl
@[simp] theorem State.updQueue_cur (s : State) (n : Nat) (f : Queue → Queue) : (s.updQueue n f).cur = s.cur := rfl
@[simp] theorem State.updQueue_ptr (s : State) (n : Nat) (f : Queue → Queue) : (s.updQueue n f).ptr = s.ptr := rfl
@[simp] theorem State.updQueue_fltWait (s : State) (n : Nat) (f : Queue → Queue) : (s.updQueue n f).fltWait = s.fltWait := rfl
@[simp] theorem State.updQueue_draw (s : State) (n : Nat) (f : Queue → Queue) : (s.updQueue n f).draw = s.draw := rfl
@[simp] theorem State.updQueue_fresh (s : State) (n : Nat) (f : Queue → Queue) : (s.updQueue n f).fresh = s.fresh := rfl

/-! ## postFlt -/

@[simp] theorem State.postFlt_cycle (s : State) (r : FltRec) : (s.postFlt r).cycle = s.cycle := rfl
@[simp] theorem State.postFlt_cores (s : State) (r : FltRec) : (s.postFlt r).cores = s.cores := rfl
@[simp] theorem State.postFlt_crews (s : State) (r : FltRec) : (s.postFlt r).crews = s.crews := rfl
@[simp] theorem State.postFlt_time (s : State) (r : FltRec) : (s.postFlt r).time = s.time := rfl
@[simp] theorem State.postFlt_tfrac (s : State) (r : FltRec) : (s.postFlt r).tfrac = s.tfrac := rfl
@[simp] theorem State.postFlt_mhz (s : State) (r : FltRec) : (s.postFlt r).mhz = s.mhz := rfl
@[simp] theorem State.postFlt_energy (s : State) (r : FltRec) : (s.postFlt r).energy = s.energy := rfl
@[simp] theorem State.postFlt_winE (s : State) (r : FltRec) : (s.postFlt r).winE = s.winE := rfl
@[simp] theorem State.postFlt_budget (s : State) (r : FltRec) : (s.postFlt r).budget = s.budget := rfl
@[simp] theorem State.postFlt_leasecfg (s : State) (r : FltRec) : (s.postFlt r).leasecfg = s.leasecfg := rfl
@[simp] theorem State.postFlt_win (s : State) (r : FltRec) : (s.postFlt r).win = s.win := rfl
@[simp] theorem State.postFlt_slices (s : State) (r : FltRec) : (s.postFlt r).slices = s.slices := rfl
@[simp] theorem State.postFlt_ctrls (s : State) (r : FltRec) : (s.postFlt r).ctrls = s.ctrls := rfl
@[simp] theorem State.postFlt_floorF (s : State) (r : FltRec) : (s.postFlt r).floorF = s.floorF := rfl
@[simp] theorem State.postFlt_hbm (s : State) (r : FltRec) : (s.postFlt r).hbm = s.hbm := rfl
@[simp] theorem State.postFlt_host (s : State) (r : FltRec) : (s.postFlt r).host = s.host := rfl
@[simp] theorem State.postFlt_hbmPoison (s : State) (r : FltRec) : (s.postFlt r).hbmPoison = s.hbmPoison := rfl
@[simp] theorem State.postFlt_hostPoison (s : State) (r : FltRec) : (s.postFlt r).hostPoison = s.hostPoison := rfl
@[simp] theorem State.postFlt_graphs (s : State) (r : FltRec) : (s.postFlt r).graphs = s.graphs := rfl
@[simp] theorem State.postFlt_stages (s : State) (r : FltRec) : (s.postFlt r).stages = s.stages := rfl
@[simp] theorem State.postFlt_queues (s : State) (r : FltRec) : (s.postFlt r).queues = s.queues := rfl
@[simp] theorem State.postFlt_keepers (s : State) (r : FltRec) : (s.postFlt r).keepers = s.keepers := rfl
@[simp] theorem State.postFlt_claims (s : State) (r : FltRec) : (s.postFlt r).claims = s.claims := rfl
@[simp] theorem State.postFlt_waitq (s : State) (r : FltRec) : (s.postFlt r).waitq = s.waitq := rfl
@[simp] theorem State.postFlt_parked (s : State) (r : FltRec) : (s.postFlt r).parked = s.parked := rfl
@[simp] theorem State.postFlt_held (s : State) (r : FltRec) : (s.postFlt r).held = s.held := rfl
@[simp] theorem State.postFlt_segs (s : State) (r : FltRec) : (s.postFlt r).segs = s.segs := rfl
@[simp] theorem State.postFlt_planeSw (s : State) (r : FltRec) : (s.postFlt r).planeSw = s.planeSw := rfl
@[simp] theorem State.postFlt_retrain (s : State) (r : FltRec) : (s.postFlt r).retrain = s.retrain := rfl
@[simp] theorem State.postFlt_zdown (s : State) (r : FltRec) : (s.postFlt r).zdown = s.zdown := rfl
@[simp] theorem State.postFlt_routes (s : State) (r : FltRec) : (s.postFlt r).routes = s.routes := rfl
@[simp] theorem State.postFlt_net (s : State) (r : FltRec) : (s.postFlt r).net = s.net := rfl
@[simp] theorem State.postFlt_sliceWait (s : State) (r : FltRec) : (s.postFlt r).sliceWait = s.sliceWait := rfl
@[simp] theorem State.postFlt_hbmWait (s : State) (r : FltRec) : (s.postFlt r).hbmWait = s.hbmWait := rfl
@[simp] theorem State.postFlt_outbox (s : State) (r : FltRec) : (s.postFlt r).outbox = s.outbox := rfl
@[simp] theorem State.postFlt_inv (s : State) (r : FltRec) : (s.postFlt r).inv = s.inv := rfl
@[simp] theorem State.postFlt_ck (s : State) (r : FltRec) : (s.postFlt r).ck = s.ck := rfl
@[simp] theorem State.postFlt_dir (s : State) (r : FltRec) : (s.postFlt r).dir = s.dir := rfl
@[simp] theorem State.postFlt_dirMark (s : State) (r : FltRec) : (s.postFlt r).dirMark = s.dirMark := rfl
@[simp] theorem State.postFlt_svcWait (s : State) (r : FltRec) : (s.postFlt r).svcWait = s.svcWait := rfl
@[simp] theorem State.postFlt_svcOpen (s : State) (r : FltRec) : (s.postFlt r).svcOpen = s.svcOpen := rfl
@[simp] theorem State.postFlt_henq (s : State) (r : FltRec) : (s.postFlt r).henq = s.henq := rfl
@[simp] theorem State.postFlt_msg (s : State) (r : FltRec) : (s.postFlt r).msg = s.msg := rfl
@[simp] theorem State.postFlt_training (s : State) (r : FltRec) : (s.postFlt r).training = s.training := rfl
@[simp] theorem State.postFlt_downing (s : State) (r : FltRec) : (s.postFlt r).downing = s.downing := rfl
@[simp] theorem State.postFlt_transit (s : State) (r : FltRec) : (s.postFlt r).transit = s.transit := rfl
@[simp] theorem State.postFlt_linkWait (s : State) (r : FltRec) : (s.postFlt r).linkWait = s.linkWait := rfl
@[simp] theorem State.postFlt_smpSlot (s : State) (r : FltRec) : (s.postFlt r).smpSlot = s.smpSlot := rfl
@[simp] theorem State.postFlt_stop (s : State) (r : FltRec) : (s.postFlt r).stop = s.stop := rfl
@[simp] theorem State.postFlt_retiring (s : State) (r : FltRec) : (s.postFlt r).retiring = s.retiring := rfl
@[simp] theorem State.postFlt_retWait (s : State) (r : FltRec) : (s.postFlt r).retWait = s.retWait := rfl
@[simp] theorem State.postFlt_deadCores (s : State) (r : FltRec) : (s.postFlt r).deadCores = s.deadCores := rfl
@[simp] theorem State.postFlt_deadSpares (s : State) (r : FltRec) : (s.postFlt r).deadSpares = s.deadSpares := rfl
@[simp] theorem State.postFlt_store (s : State) (r : FltRec) : (s.postFlt r).store = s.store := rfl
@[simp] theorem State.postFlt_fatal (s : State) (r : FltRec) : (s.postFlt r).fatal = s.fatal := rfl
@[simp] theorem State.postFlt_ended (s : State) (r : FltRec) : (s.postFlt r).ended = s.ended := rfl
@[simp] theorem State.postFlt_mute (s : State) (r : FltRec) : (s.postFlt r).mute = s.mute := rfl
@[simp] theorem State.postFlt_flight (s : State) (r : FltRec) : (s.postFlt r).flight = s.flight := rfl
@[simp] theorem State.postFlt_todo (s : State) (r : FltRec) : (s.postFlt r).todo = s.todo := rfl
@[simp] theorem State.postFlt_inbox (s : State) (r : FltRec) : (s.postFlt r).inbox = s.inbox := rfl
@[simp] theorem State.postFlt_cur (s : State) (r : FltRec) : (s.postFlt r).cur = s.cur := rfl
@[simp] theorem State.postFlt_ptr (s : State) (r : FltRec) : (s.postFlt r).ptr = s.ptr := rfl
@[simp] theorem State.postFlt_draw (s : State) (r : FltRec) : (s.postFlt r).draw = s.draw := rfl
@[simp] theorem State.postFlt_fresh (s : State) (r : FltRec) : (s.postFlt r).fresh = s.fresh := rfl

/-! ## postAbort -/

@[simp] theorem State.postAbort_cycle (s : State) (r : FltRec) : (s.postAbort r).cycle = s.cycle := rfl
@[simp] theorem State.postAbort_cores (s : State) (r : FltRec) : (s.postAbort r).cores = s.cores := rfl
@[simp] theorem State.postAbort_crews (s : State) (r : FltRec) : (s.postAbort r).crews = s.crews := rfl
@[simp] theorem State.postAbort_time (s : State) (r : FltRec) : (s.postAbort r).time = s.time := rfl
@[simp] theorem State.postAbort_tfrac (s : State) (r : FltRec) : (s.postAbort r).tfrac = s.tfrac := rfl
@[simp] theorem State.postAbort_mhz (s : State) (r : FltRec) : (s.postAbort r).mhz = s.mhz := rfl
@[simp] theorem State.postAbort_energy (s : State) (r : FltRec) : (s.postAbort r).energy = s.energy := rfl
@[simp] theorem State.postAbort_winE (s : State) (r : FltRec) : (s.postAbort r).winE = s.winE := rfl
@[simp] theorem State.postAbort_budget (s : State) (r : FltRec) : (s.postAbort r).budget = s.budget := rfl
@[simp] theorem State.postAbort_leasecfg (s : State) (r : FltRec) : (s.postAbort r).leasecfg = s.leasecfg := rfl
@[simp] theorem State.postAbort_win (s : State) (r : FltRec) : (s.postAbort r).win = s.win := rfl
@[simp] theorem State.postAbort_slices (s : State) (r : FltRec) : (s.postAbort r).slices = s.slices := rfl
@[simp] theorem State.postAbort_ctrls (s : State) (r : FltRec) : (s.postAbort r).ctrls = s.ctrls := rfl
@[simp] theorem State.postAbort_floorF (s : State) (r : FltRec) : (s.postAbort r).floorF = s.floorF := rfl
@[simp] theorem State.postAbort_hbm (s : State) (r : FltRec) : (s.postAbort r).hbm = s.hbm := rfl
@[simp] theorem State.postAbort_host (s : State) (r : FltRec) : (s.postAbort r).host = s.host := rfl
@[simp] theorem State.postAbort_hbmPoison (s : State) (r : FltRec) : (s.postAbort r).hbmPoison = s.hbmPoison := rfl
@[simp] theorem State.postAbort_hostPoison (s : State) (r : FltRec) : (s.postAbort r).hostPoison = s.hostPoison := rfl
@[simp] theorem State.postAbort_graphs (s : State) (r : FltRec) : (s.postAbort r).graphs = s.graphs := rfl
@[simp] theorem State.postAbort_stages (s : State) (r : FltRec) : (s.postAbort r).stages = s.stages := rfl
@[simp] theorem State.postAbort_queues (s : State) (r : FltRec) : (s.postAbort r).queues = s.queues := rfl
@[simp] theorem State.postAbort_keepers (s : State) (r : FltRec) : (s.postAbort r).keepers = s.keepers := rfl
@[simp] theorem State.postAbort_claims (s : State) (r : FltRec) : (s.postAbort r).claims = s.claims := rfl
@[simp] theorem State.postAbort_waitq (s : State) (r : FltRec) : (s.postAbort r).waitq = s.waitq := rfl
@[simp] theorem State.postAbort_parked (s : State) (r : FltRec) : (s.postAbort r).parked = s.parked := rfl
@[simp] theorem State.postAbort_held (s : State) (r : FltRec) : (s.postAbort r).held = s.held := rfl
@[simp] theorem State.postAbort_segs (s : State) (r : FltRec) : (s.postAbort r).segs = s.segs := rfl
@[simp] theorem State.postAbort_planeSw (s : State) (r : FltRec) : (s.postAbort r).planeSw = s.planeSw := rfl
@[simp] theorem State.postAbort_retrain (s : State) (r : FltRec) : (s.postAbort r).retrain = s.retrain := rfl
@[simp] theorem State.postAbort_zdown (s : State) (r : FltRec) : (s.postAbort r).zdown = s.zdown := rfl
@[simp] theorem State.postAbort_routes (s : State) (r : FltRec) : (s.postAbort r).routes = s.routes := rfl
@[simp] theorem State.postAbort_net (s : State) (r : FltRec) : (s.postAbort r).net = s.net := rfl
@[simp] theorem State.postAbort_sliceWait (s : State) (r : FltRec) : (s.postAbort r).sliceWait = s.sliceWait := rfl
@[simp] theorem State.postAbort_hbmWait (s : State) (r : FltRec) : (s.postAbort r).hbmWait = s.hbmWait := rfl
@[simp] theorem State.postAbort_outbox (s : State) (r : FltRec) : (s.postAbort r).outbox = s.outbox := rfl
@[simp] theorem State.postAbort_inv (s : State) (r : FltRec) : (s.postAbort r).inv = s.inv := rfl
@[simp] theorem State.postAbort_ck (s : State) (r : FltRec) : (s.postAbort r).ck = s.ck := rfl
@[simp] theorem State.postAbort_dir (s : State) (r : FltRec) : (s.postAbort r).dir = s.dir := rfl
@[simp] theorem State.postAbort_dirMark (s : State) (r : FltRec) : (s.postAbort r).dirMark = s.dirMark := rfl
@[simp] theorem State.postAbort_svcWait (s : State) (r : FltRec) : (s.postAbort r).svcWait = s.svcWait := rfl
@[simp] theorem State.postAbort_svcOpen (s : State) (r : FltRec) : (s.postAbort r).svcOpen = s.svcOpen := rfl
@[simp] theorem State.postAbort_henq (s : State) (r : FltRec) : (s.postAbort r).henq = s.henq := rfl
@[simp] theorem State.postAbort_msg (s : State) (r : FltRec) : (s.postAbort r).msg = s.msg := rfl
@[simp] theorem State.postAbort_training (s : State) (r : FltRec) : (s.postAbort r).training = s.training := rfl
@[simp] theorem State.postAbort_downing (s : State) (r : FltRec) : (s.postAbort r).downing = s.downing := rfl
@[simp] theorem State.postAbort_transit (s : State) (r : FltRec) : (s.postAbort r).transit = s.transit := rfl
@[simp] theorem State.postAbort_linkWait (s : State) (r : FltRec) : (s.postAbort r).linkWait = s.linkWait := rfl
@[simp] theorem State.postAbort_smpSlot (s : State) (r : FltRec) : (s.postAbort r).smpSlot = s.smpSlot := rfl
@[simp] theorem State.postAbort_stop (s : State) (r : FltRec) : (s.postAbort r).stop = s.stop := rfl
@[simp] theorem State.postAbort_retiring (s : State) (r : FltRec) : (s.postAbort r).retiring = s.retiring := rfl
@[simp] theorem State.postAbort_retWait (s : State) (r : FltRec) : (s.postAbort r).retWait = s.retWait := rfl
@[simp] theorem State.postAbort_deadCores (s : State) (r : FltRec) : (s.postAbort r).deadCores = s.deadCores := rfl
@[simp] theorem State.postAbort_deadSpares (s : State) (r : FltRec) : (s.postAbort r).deadSpares = s.deadSpares := rfl
@[simp] theorem State.postAbort_store (s : State) (r : FltRec) : (s.postAbort r).store = s.store := rfl
@[simp] theorem State.postAbort_fatal (s : State) (r : FltRec) : (s.postAbort r).fatal = s.fatal := rfl
@[simp] theorem State.postAbort_ended (s : State) (r : FltRec) : (s.postAbort r).ended = s.ended := rfl
@[simp] theorem State.postAbort_mute (s : State) (r : FltRec) : (s.postAbort r).mute = s.mute := rfl
@[simp] theorem State.postAbort_flight (s : State) (r : FltRec) : (s.postAbort r).flight = s.flight := rfl
@[simp] theorem State.postAbort_todo (s : State) (r : FltRec) : (s.postAbort r).todo = s.todo := rfl
@[simp] theorem State.postAbort_inbox (s : State) (r : FltRec) : (s.postAbort r).inbox = s.inbox := rfl
@[simp] theorem State.postAbort_cur (s : State) (r : FltRec) : (s.postAbort r).cur = s.cur := rfl
@[simp] theorem State.postAbort_ptr (s : State) (r : FltRec) : (s.postAbort r).ptr = s.ptr := rfl
@[simp] theorem State.postAbort_draw (s : State) (r : FltRec) : (s.postAbort r).draw = s.draw := rfl
@[simp] theorem State.postAbort_fresh (s : State) (r : FltRec) : (s.postAbort r).fresh = s.fresh := rfl

/-! ## raiseFloor -/

@[simp] theorem State.raiseFloor_cycle (s : State) (wt : Nat) : (s.raiseFloor wt).cycle = s.cycle := rfl
@[simp] theorem State.raiseFloor_cores (s : State) (wt : Nat) : (s.raiseFloor wt).cores = s.cores := rfl
@[simp] theorem State.raiseFloor_crews (s : State) (wt : Nat) : (s.raiseFloor wt).crews = s.crews := rfl
@[simp] theorem State.raiseFloor_time (s : State) (wt : Nat) : (s.raiseFloor wt).time = s.time := rfl
@[simp] theorem State.raiseFloor_tfrac (s : State) (wt : Nat) : (s.raiseFloor wt).tfrac = s.tfrac := rfl
@[simp] theorem State.raiseFloor_mhz (s : State) (wt : Nat) : (s.raiseFloor wt).mhz = s.mhz := rfl
@[simp] theorem State.raiseFloor_energy (s : State) (wt : Nat) : (s.raiseFloor wt).energy = s.energy := rfl
@[simp] theorem State.raiseFloor_winE (s : State) (wt : Nat) : (s.raiseFloor wt).winE = s.winE := rfl
@[simp] theorem State.raiseFloor_budget (s : State) (wt : Nat) : (s.raiseFloor wt).budget = s.budget := rfl
@[simp] theorem State.raiseFloor_leasecfg (s : State) (wt : Nat) : (s.raiseFloor wt).leasecfg = s.leasecfg := rfl
@[simp] theorem State.raiseFloor_win (s : State) (wt : Nat) : (s.raiseFloor wt).win = s.win := rfl
@[simp] theorem State.raiseFloor_slices (s : State) (wt : Nat) : (s.raiseFloor wt).slices = s.slices := rfl
@[simp] theorem State.raiseFloor_ctrls (s : State) (wt : Nat) : (s.raiseFloor wt).ctrls = s.ctrls := rfl
@[simp] theorem State.raiseFloor_hbm (s : State) (wt : Nat) : (s.raiseFloor wt).hbm = s.hbm := rfl
@[simp] theorem State.raiseFloor_host (s : State) (wt : Nat) : (s.raiseFloor wt).host = s.host := rfl
@[simp] theorem State.raiseFloor_hbmPoison (s : State) (wt : Nat) : (s.raiseFloor wt).hbmPoison = s.hbmPoison := rfl
@[simp] theorem State.raiseFloor_hostPoison (s : State) (wt : Nat) : (s.raiseFloor wt).hostPoison = s.hostPoison := rfl
@[simp] theorem State.raiseFloor_graphs (s : State) (wt : Nat) : (s.raiseFloor wt).graphs = s.graphs := rfl
@[simp] theorem State.raiseFloor_stages (s : State) (wt : Nat) : (s.raiseFloor wt).stages = s.stages := rfl
@[simp] theorem State.raiseFloor_queues (s : State) (wt : Nat) : (s.raiseFloor wt).queues = s.queues := rfl
@[simp] theorem State.raiseFloor_keepers (s : State) (wt : Nat) : (s.raiseFloor wt).keepers = s.keepers := rfl
@[simp] theorem State.raiseFloor_claims (s : State) (wt : Nat) : (s.raiseFloor wt).claims = s.claims := rfl
@[simp] theorem State.raiseFloor_waitq (s : State) (wt : Nat) : (s.raiseFloor wt).waitq = s.waitq := rfl
@[simp] theorem State.raiseFloor_parked (s : State) (wt : Nat) : (s.raiseFloor wt).parked = s.parked := rfl
@[simp] theorem State.raiseFloor_held (s : State) (wt : Nat) : (s.raiseFloor wt).held = s.held := rfl
@[simp] theorem State.raiseFloor_segs (s : State) (wt : Nat) : (s.raiseFloor wt).segs = s.segs := rfl
@[simp] theorem State.raiseFloor_planeSw (s : State) (wt : Nat) : (s.raiseFloor wt).planeSw = s.planeSw := rfl
@[simp] theorem State.raiseFloor_retrain (s : State) (wt : Nat) : (s.raiseFloor wt).retrain = s.retrain := rfl
@[simp] theorem State.raiseFloor_zdown (s : State) (wt : Nat) : (s.raiseFloor wt).zdown = s.zdown := rfl
@[simp] theorem State.raiseFloor_routes (s : State) (wt : Nat) : (s.raiseFloor wt).routes = s.routes := rfl
@[simp] theorem State.raiseFloor_net (s : State) (wt : Nat) : (s.raiseFloor wt).net = s.net := rfl
@[simp] theorem State.raiseFloor_sliceWait (s : State) (wt : Nat) : (s.raiseFloor wt).sliceWait = s.sliceWait := rfl
@[simp] theorem State.raiseFloor_hbmWait (s : State) (wt : Nat) : (s.raiseFloor wt).hbmWait = s.hbmWait := rfl
@[simp] theorem State.raiseFloor_outbox (s : State) (wt : Nat) : (s.raiseFloor wt).outbox = s.outbox := rfl
@[simp] theorem State.raiseFloor_inv (s : State) (wt : Nat) : (s.raiseFloor wt).inv = s.inv := rfl
@[simp] theorem State.raiseFloor_ck (s : State) (wt : Nat) : (s.raiseFloor wt).ck = s.ck := rfl
@[simp] theorem State.raiseFloor_dir (s : State) (wt : Nat) : (s.raiseFloor wt).dir = s.dir := rfl
@[simp] theorem State.raiseFloor_dirMark (s : State) (wt : Nat) : (s.raiseFloor wt).dirMark = s.dirMark := rfl
@[simp] theorem State.raiseFloor_svcWait (s : State) (wt : Nat) : (s.raiseFloor wt).svcWait = s.svcWait := rfl
@[simp] theorem State.raiseFloor_svcOpen (s : State) (wt : Nat) : (s.raiseFloor wt).svcOpen = s.svcOpen := rfl
@[simp] theorem State.raiseFloor_henq (s : State) (wt : Nat) : (s.raiseFloor wt).henq = s.henq := rfl
@[simp] theorem State.raiseFloor_msg (s : State) (wt : Nat) : (s.raiseFloor wt).msg = s.msg := rfl
@[simp] theorem State.raiseFloor_training (s : State) (wt : Nat) : (s.raiseFloor wt).training = s.training := rfl
@[simp] theorem State.raiseFloor_downing (s : State) (wt : Nat) : (s.raiseFloor wt).downing = s.downing := rfl
@[simp] theorem State.raiseFloor_transit (s : State) (wt : Nat) : (s.raiseFloor wt).transit = s.transit := rfl
@[simp] theorem State.raiseFloor_linkWait (s : State) (wt : Nat) : (s.raiseFloor wt).linkWait = s.linkWait := rfl
@[simp] theorem State.raiseFloor_smpSlot (s : State) (wt : Nat) : (s.raiseFloor wt).smpSlot = s.smpSlot := rfl
@[simp] theorem State.raiseFloor_stop (s : State) (wt : Nat) : (s.raiseFloor wt).stop = s.stop := rfl
@[simp] theorem State.raiseFloor_retiring (s : State) (wt : Nat) : (s.raiseFloor wt).retiring = s.retiring := rfl
@[simp] theorem State.raiseFloor_retWait (s : State) (wt : Nat) : (s.raiseFloor wt).retWait = s.retWait := rfl
@[simp] theorem State.raiseFloor_deadCores (s : State) (wt : Nat) : (s.raiseFloor wt).deadCores = s.deadCores := rfl
@[simp] theorem State.raiseFloor_deadSpares (s : State) (wt : Nat) : (s.raiseFloor wt).deadSpares = s.deadSpares := rfl
@[simp] theorem State.raiseFloor_store (s : State) (wt : Nat) : (s.raiseFloor wt).store = s.store := rfl
@[simp] theorem State.raiseFloor_fatal (s : State) (wt : Nat) : (s.raiseFloor wt).fatal = s.fatal := rfl
@[simp] theorem State.raiseFloor_ended (s : State) (wt : Nat) : (s.raiseFloor wt).ended = s.ended := rfl
@[simp] theorem State.raiseFloor_mute (s : State) (wt : Nat) : (s.raiseFloor wt).mute = s.mute := rfl
@[simp] theorem State.raiseFloor_flight (s : State) (wt : Nat) : (s.raiseFloor wt).flight = s.flight := rfl
@[simp] theorem State.raiseFloor_todo (s : State) (wt : Nat) : (s.raiseFloor wt).todo = s.todo := rfl
@[simp] theorem State.raiseFloor_inbox (s : State) (wt : Nat) : (s.raiseFloor wt).inbox = s.inbox := rfl
@[simp] theorem State.raiseFloor_cur (s : State) (wt : Nat) : (s.raiseFloor wt).cur = s.cur := rfl
@[simp] theorem State.raiseFloor_ptr (s : State) (wt : Nat) : (s.raiseFloor wt).ptr = s.ptr := rfl
@[simp] theorem State.raiseFloor_fltWait (s : State) (wt : Nat) : (s.raiseFloor wt).fltWait = s.fltWait := rfl
@[simp] theorem State.raiseFloor_draw (s : State) (wt : Nat) : (s.raiseFloor wt).draw = s.draw := rfl
@[simp] theorem State.raiseFloor_fresh (s : State) (wt : Nat) : (s.raiseFloor wt).fresh = s.fresh := rfl

/-! ## setHbm64 -/

@[simp] theorem State.setHbm64_cycle (s : State) (pa : Nat) (v : Word) : (s.setHbm64 pa v).cycle = s.cycle := rfl
@[simp] theorem State.setHbm64_cores (s : State) (pa : Nat) (v : Word) : (s.setHbm64 pa v).cores = s.cores := rfl
@[simp] theorem State.setHbm64_crews (s : State) (pa : Nat) (v : Word) : (s.setHbm64 pa v).crews = s.crews := rfl
@[simp] theorem State.setHbm64_time (s : State) (pa : Nat) (v : Word) : (s.setHbm64 pa v).time = s.time := rfl
@[simp] theorem State.setHbm64_tfrac (s : State) (pa : Nat) (v : Word) : (s.setHbm64 pa v).tfrac = s.tfrac := rfl
@[simp] theorem State.setHbm64_mhz (s : State) (pa : Nat) (v : Word) : (s.setHbm64 pa v).mhz = s.mhz := rfl
@[simp] theorem State.setHbm64_energy (s : State) (pa : Nat) (v : Word) : (s.setHbm64 pa v).energy = s.energy := rfl
@[simp] theorem State.setHbm64_winE (s : State) (pa : Nat) (v : Word) : (s.setHbm64 pa v).winE = s.winE := rfl
@[simp] theorem State.setHbm64_budget (s : State) (pa : Nat) (v : Word) : (s.setHbm64 pa v).budget = s.budget := rfl
@[simp] theorem State.setHbm64_leasecfg (s : State) (pa : Nat) (v : Word) : (s.setHbm64 pa v).leasecfg = s.leasecfg := rfl
@[simp] theorem State.setHbm64_win (s : State) (pa : Nat) (v : Word) : (s.setHbm64 pa v).win = s.win := rfl
@[simp] theorem State.setHbm64_slices (s : State) (pa : Nat) (v : Word) : (s.setHbm64 pa v).slices = s.slices := rfl
@[simp] theorem State.setHbm64_ctrls (s : State) (pa : Nat) (v : Word) : (s.setHbm64 pa v).ctrls = s.ctrls := rfl
@[simp] theorem State.setHbm64_floorF (s : State) (pa : Nat) (v : Word) : (s.setHbm64 pa v).floorF = s.floorF := rfl
@[simp] theorem State.setHbm64_host (s : State) (pa : Nat) (v : Word) : (s.setHbm64 pa v).host = s.host := rfl
@[simp] theorem State.setHbm64_hbmPoison (s : State) (pa : Nat) (v : Word) : (s.setHbm64 pa v).hbmPoison = s.hbmPoison := rfl
@[simp] theorem State.setHbm64_hostPoison (s : State) (pa : Nat) (v : Word) : (s.setHbm64 pa v).hostPoison = s.hostPoison := rfl
@[simp] theorem State.setHbm64_graphs (s : State) (pa : Nat) (v : Word) : (s.setHbm64 pa v).graphs = s.graphs := rfl
@[simp] theorem State.setHbm64_stages (s : State) (pa : Nat) (v : Word) : (s.setHbm64 pa v).stages = s.stages := rfl
@[simp] theorem State.setHbm64_queues (s : State) (pa : Nat) (v : Word) : (s.setHbm64 pa v).queues = s.queues := rfl
@[simp] theorem State.setHbm64_keepers (s : State) (pa : Nat) (v : Word) : (s.setHbm64 pa v).keepers = s.keepers := rfl
@[simp] theorem State.setHbm64_claims (s : State) (pa : Nat) (v : Word) : (s.setHbm64 pa v).claims = s.claims := rfl
@[simp] theorem State.setHbm64_waitq (s : State) (pa : Nat) (v : Word) : (s.setHbm64 pa v).waitq = s.waitq := rfl
@[simp] theorem State.setHbm64_parked (s : State) (pa : Nat) (v : Word) : (s.setHbm64 pa v).parked = s.parked := rfl
@[simp] theorem State.setHbm64_held (s : State) (pa : Nat) (v : Word) : (s.setHbm64 pa v).held = s.held := rfl
@[simp] theorem State.setHbm64_segs (s : State) (pa : Nat) (v : Word) : (s.setHbm64 pa v).segs = s.segs := rfl
@[simp] theorem State.setHbm64_planeSw (s : State) (pa : Nat) (v : Word) : (s.setHbm64 pa v).planeSw = s.planeSw := rfl
@[simp] theorem State.setHbm64_retrain (s : State) (pa : Nat) (v : Word) : (s.setHbm64 pa v).retrain = s.retrain := rfl
@[simp] theorem State.setHbm64_zdown (s : State) (pa : Nat) (v : Word) : (s.setHbm64 pa v).zdown = s.zdown := rfl
@[simp] theorem State.setHbm64_routes (s : State) (pa : Nat) (v : Word) : (s.setHbm64 pa v).routes = s.routes := rfl
@[simp] theorem State.setHbm64_net (s : State) (pa : Nat) (v : Word) : (s.setHbm64 pa v).net = s.net := rfl
@[simp] theorem State.setHbm64_sliceWait (s : State) (pa : Nat) (v : Word) : (s.setHbm64 pa v).sliceWait = s.sliceWait := rfl
@[simp] theorem State.setHbm64_hbmWait (s : State) (pa : Nat) (v : Word) : (s.setHbm64 pa v).hbmWait = s.hbmWait := rfl
@[simp] theorem State.setHbm64_outbox (s : State) (pa : Nat) (v : Word) : (s.setHbm64 pa v).outbox = s.outbox := rfl
@[simp] theorem State.setHbm64_inv (s : State) (pa : Nat) (v : Word) : (s.setHbm64 pa v).inv = s.inv := rfl
@[simp] theorem State.setHbm64_ck (s : State) (pa : Nat) (v : Word) : (s.setHbm64 pa v).ck = s.ck := rfl
@[simp] theorem State.setHbm64_dir (s : State) (pa : Nat) (v : Word) : (s.setHbm64 pa v).dir = s.dir := rfl
@[simp] theorem State.setHbm64_dirMark (s : State) (pa : Nat) (v : Word) : (s.setHbm64 pa v).dirMark = s.dirMark := rfl
@[simp] theorem State.setHbm64_svcWait (s : State) (pa : Nat) (v : Word) : (s.setHbm64 pa v).svcWait = s.svcWait := rfl
@[simp] theorem State.setHbm64_svcOpen (s : State) (pa : Nat) (v : Word) : (s.setHbm64 pa v).svcOpen = s.svcOpen := rfl
@[simp] theorem State.setHbm64_henq (s : State) (pa : Nat) (v : Word) : (s.setHbm64 pa v).henq = s.henq := rfl
@[simp] theorem State.setHbm64_msg (s : State) (pa : Nat) (v : Word) : (s.setHbm64 pa v).msg = s.msg := rfl
@[simp] theorem State.setHbm64_training (s : State) (pa : Nat) (v : Word) : (s.setHbm64 pa v).training = s.training := rfl
@[simp] theorem State.setHbm64_downing (s : State) (pa : Nat) (v : Word) : (s.setHbm64 pa v).downing = s.downing := rfl
@[simp] theorem State.setHbm64_transit (s : State) (pa : Nat) (v : Word) : (s.setHbm64 pa v).transit = s.transit := rfl
@[simp] theorem State.setHbm64_linkWait (s : State) (pa : Nat) (v : Word) : (s.setHbm64 pa v).linkWait = s.linkWait := rfl
@[simp] theorem State.setHbm64_smpSlot (s : State) (pa : Nat) (v : Word) : (s.setHbm64 pa v).smpSlot = s.smpSlot := rfl
@[simp] theorem State.setHbm64_stop (s : State) (pa : Nat) (v : Word) : (s.setHbm64 pa v).stop = s.stop := rfl
@[simp] theorem State.setHbm64_retiring (s : State) (pa : Nat) (v : Word) : (s.setHbm64 pa v).retiring = s.retiring := rfl
@[simp] theorem State.setHbm64_retWait (s : State) (pa : Nat) (v : Word) : (s.setHbm64 pa v).retWait = s.retWait := rfl
@[simp] theorem State.setHbm64_deadCores (s : State) (pa : Nat) (v : Word) : (s.setHbm64 pa v).deadCores = s.deadCores := rfl
@[simp] theorem State.setHbm64_deadSpares (s : State) (pa : Nat) (v : Word) : (s.setHbm64 pa v).deadSpares = s.deadSpares := rfl
@[simp] theorem State.setHbm64_store (s : State) (pa : Nat) (v : Word) : (s.setHbm64 pa v).store = s.store := rfl
@[simp] theorem State.setHbm64_fatal (s : State) (pa : Nat) (v : Word) : (s.setHbm64 pa v).fatal = s.fatal := rfl
@[simp] theorem State.setHbm64_ended (s : State) (pa : Nat) (v : Word) : (s.setHbm64 pa v).ended = s.ended := rfl
@[simp] theorem State.setHbm64_mute (s : State) (pa : Nat) (v : Word) : (s.setHbm64 pa v).mute = s.mute := rfl
@[simp] theorem State.setHbm64_flight (s : State) (pa : Nat) (v : Word) : (s.setHbm64 pa v).flight = s.flight := rfl
@[simp] theorem State.setHbm64_todo (s : State) (pa : Nat) (v : Word) : (s.setHbm64 pa v).todo = s.todo := rfl
@[simp] theorem State.setHbm64_inbox (s : State) (pa : Nat) (v : Word) : (s.setHbm64 pa v).inbox = s.inbox := rfl
@[simp] theorem State.setHbm64_cur (s : State) (pa : Nat) (v : Word) : (s.setHbm64 pa v).cur = s.cur := rfl
@[simp] theorem State.setHbm64_ptr (s : State) (pa : Nat) (v : Word) : (s.setHbm64 pa v).ptr = s.ptr := rfl
@[simp] theorem State.setHbm64_fltWait (s : State) (pa : Nat) (v : Word) : (s.setHbm64 pa v).fltWait = s.fltWait := rfl
@[simp] theorem State.setHbm64_draw (s : State) (pa : Nat) (v : Word) : (s.setHbm64 pa v).draw = s.draw := rfl
@[simp] theorem State.setHbm64_fresh (s : State) (pa : Nat) (v : Word) : (s.setHbm64 pa v).fresh = s.fresh := rfl

/-! ## winCount -/

@[simp] theorem State.winCount_cycle (s : State) (ofs n : Nat) : (s.winCount ofs n).cycle = s.cycle := rfl
@[simp] theorem State.winCount_cores (s : State) (ofs n : Nat) : (s.winCount ofs n).cores = s.cores := rfl
@[simp] theorem State.winCount_crews (s : State) (ofs n : Nat) : (s.winCount ofs n).crews = s.crews := rfl
@[simp] theorem State.winCount_time (s : State) (ofs n : Nat) : (s.winCount ofs n).time = s.time := rfl
@[simp] theorem State.winCount_tfrac (s : State) (ofs n : Nat) : (s.winCount ofs n).tfrac = s.tfrac := rfl
@[simp] theorem State.winCount_mhz (s : State) (ofs n : Nat) : (s.winCount ofs n).mhz = s.mhz := rfl
@[simp] theorem State.winCount_energy (s : State) (ofs n : Nat) : (s.winCount ofs n).energy = s.energy := rfl
@[simp] theorem State.winCount_winE (s : State) (ofs n : Nat) : (s.winCount ofs n).winE = s.winE := rfl
@[simp] theorem State.winCount_budget (s : State) (ofs n : Nat) : (s.winCount ofs n).budget = s.budget := rfl
@[simp] theorem State.winCount_leasecfg (s : State) (ofs n : Nat) : (s.winCount ofs n).leasecfg = s.leasecfg := rfl
@[simp] theorem State.winCount_slices (s : State) (ofs n : Nat) : (s.winCount ofs n).slices = s.slices := rfl
@[simp] theorem State.winCount_ctrls (s : State) (ofs n : Nat) : (s.winCount ofs n).ctrls = s.ctrls := rfl
@[simp] theorem State.winCount_floorF (s : State) (ofs n : Nat) : (s.winCount ofs n).floorF = s.floorF := rfl
@[simp] theorem State.winCount_hbm (s : State) (ofs n : Nat) : (s.winCount ofs n).hbm = s.hbm := rfl
@[simp] theorem State.winCount_host (s : State) (ofs n : Nat) : (s.winCount ofs n).host = s.host := rfl
@[simp] theorem State.winCount_hbmPoison (s : State) (ofs n : Nat) : (s.winCount ofs n).hbmPoison = s.hbmPoison := rfl
@[simp] theorem State.winCount_hostPoison (s : State) (ofs n : Nat) : (s.winCount ofs n).hostPoison = s.hostPoison := rfl
@[simp] theorem State.winCount_graphs (s : State) (ofs n : Nat) : (s.winCount ofs n).graphs = s.graphs := rfl
@[simp] theorem State.winCount_stages (s : State) (ofs n : Nat) : (s.winCount ofs n).stages = s.stages := rfl
@[simp] theorem State.winCount_queues (s : State) (ofs n : Nat) : (s.winCount ofs n).queues = s.queues := rfl
@[simp] theorem State.winCount_keepers (s : State) (ofs n : Nat) : (s.winCount ofs n).keepers = s.keepers := rfl
@[simp] theorem State.winCount_claims (s : State) (ofs n : Nat) : (s.winCount ofs n).claims = s.claims := rfl
@[simp] theorem State.winCount_waitq (s : State) (ofs n : Nat) : (s.winCount ofs n).waitq = s.waitq := rfl
@[simp] theorem State.winCount_parked (s : State) (ofs n : Nat) : (s.winCount ofs n).parked = s.parked := rfl
@[simp] theorem State.winCount_held (s : State) (ofs n : Nat) : (s.winCount ofs n).held = s.held := rfl
@[simp] theorem State.winCount_segs (s : State) (ofs n : Nat) : (s.winCount ofs n).segs = s.segs := rfl
@[simp] theorem State.winCount_planeSw (s : State) (ofs n : Nat) : (s.winCount ofs n).planeSw = s.planeSw := rfl
@[simp] theorem State.winCount_retrain (s : State) (ofs n : Nat) : (s.winCount ofs n).retrain = s.retrain := rfl
@[simp] theorem State.winCount_zdown (s : State) (ofs n : Nat) : (s.winCount ofs n).zdown = s.zdown := rfl
@[simp] theorem State.winCount_routes (s : State) (ofs n : Nat) : (s.winCount ofs n).routes = s.routes := rfl
@[simp] theorem State.winCount_net (s : State) (ofs n : Nat) : (s.winCount ofs n).net = s.net := rfl
@[simp] theorem State.winCount_sliceWait (s : State) (ofs n : Nat) : (s.winCount ofs n).sliceWait = s.sliceWait := rfl
@[simp] theorem State.winCount_hbmWait (s : State) (ofs n : Nat) : (s.winCount ofs n).hbmWait = s.hbmWait := rfl
@[simp] theorem State.winCount_outbox (s : State) (ofs n : Nat) : (s.winCount ofs n).outbox = s.outbox := rfl
@[simp] theorem State.winCount_inv (s : State) (ofs n : Nat) : (s.winCount ofs n).inv = s.inv := rfl
@[simp] theorem State.winCount_ck (s : State) (ofs n : Nat) : (s.winCount ofs n).ck = s.ck := rfl
@[simp] theorem State.winCount_dir (s : State) (ofs n : Nat) : (s.winCount ofs n).dir = s.dir := rfl
@[simp] theorem State.winCount_dirMark (s : State) (ofs n : Nat) : (s.winCount ofs n).dirMark = s.dirMark := rfl
@[simp] theorem State.winCount_svcWait (s : State) (ofs n : Nat) : (s.winCount ofs n).svcWait = s.svcWait := rfl
@[simp] theorem State.winCount_svcOpen (s : State) (ofs n : Nat) : (s.winCount ofs n).svcOpen = s.svcOpen := rfl
@[simp] theorem State.winCount_henq (s : State) (ofs n : Nat) : (s.winCount ofs n).henq = s.henq := rfl
@[simp] theorem State.winCount_msg (s : State) (ofs n : Nat) : (s.winCount ofs n).msg = s.msg := rfl
@[simp] theorem State.winCount_training (s : State) (ofs n : Nat) : (s.winCount ofs n).training = s.training := rfl
@[simp] theorem State.winCount_downing (s : State) (ofs n : Nat) : (s.winCount ofs n).downing = s.downing := rfl
@[simp] theorem State.winCount_transit (s : State) (ofs n : Nat) : (s.winCount ofs n).transit = s.transit := rfl
@[simp] theorem State.winCount_linkWait (s : State) (ofs n : Nat) : (s.winCount ofs n).linkWait = s.linkWait := rfl
@[simp] theorem State.winCount_smpSlot (s : State) (ofs n : Nat) : (s.winCount ofs n).smpSlot = s.smpSlot := rfl
@[simp] theorem State.winCount_stop (s : State) (ofs n : Nat) : (s.winCount ofs n).stop = s.stop := rfl
@[simp] theorem State.winCount_retiring (s : State) (ofs n : Nat) : (s.winCount ofs n).retiring = s.retiring := rfl
@[simp] theorem State.winCount_retWait (s : State) (ofs n : Nat) : (s.winCount ofs n).retWait = s.retWait := rfl
@[simp] theorem State.winCount_deadCores (s : State) (ofs n : Nat) : (s.winCount ofs n).deadCores = s.deadCores := rfl
@[simp] theorem State.winCount_deadSpares (s : State) (ofs n : Nat) : (s.winCount ofs n).deadSpares = s.deadSpares := rfl
@[simp] theorem State.winCount_store (s : State) (ofs n : Nat) : (s.winCount ofs n).store = s.store := rfl
@[simp] theorem State.winCount_fatal (s : State) (ofs n : Nat) : (s.winCount ofs n).fatal = s.fatal := rfl
@[simp] theorem State.winCount_ended (s : State) (ofs n : Nat) : (s.winCount ofs n).ended = s.ended := rfl
@[simp] theorem State.winCount_mute (s : State) (ofs n : Nat) : (s.winCount ofs n).mute = s.mute := rfl
@[simp] theorem State.winCount_flight (s : State) (ofs n : Nat) : (s.winCount ofs n).flight = s.flight := rfl
@[simp] theorem State.winCount_todo (s : State) (ofs n : Nat) : (s.winCount ofs n).todo = s.todo := rfl
@[simp] theorem State.winCount_inbox (s : State) (ofs n : Nat) : (s.winCount ofs n).inbox = s.inbox := rfl
@[simp] theorem State.winCount_cur (s : State) (ofs n : Nat) : (s.winCount ofs n).cur = s.cur := rfl
@[simp] theorem State.winCount_ptr (s : State) (ofs n : Nat) : (s.winCount ofs n).ptr = s.ptr := rfl
@[simp] theorem State.winCount_fltWait (s : State) (ofs n : Nat) : (s.winCount ofs n).fltWait = s.fltWait := rfl
@[simp] theorem State.winCount_draw (s : State) (ofs n : Nat) : (s.winCount ofs n).draw = s.draw := rfl
@[simp] theorem State.winCount_fresh (s : State) (ofs n : Nat) : (s.winCount ofs n).fresh = s.fresh := rfl

/-! ## newTag -/

@[simp] theorem State.newTag_cycle (s : State) : s.newTag.2.cycle = s.cycle := rfl
@[simp] theorem State.newTag_cores (s : State) : s.newTag.2.cores = s.cores := rfl
@[simp] theorem State.newTag_crews (s : State) : s.newTag.2.crews = s.crews := rfl
@[simp] theorem State.newTag_time (s : State) : s.newTag.2.time = s.time := rfl
@[simp] theorem State.newTag_tfrac (s : State) : s.newTag.2.tfrac = s.tfrac := rfl
@[simp] theorem State.newTag_mhz (s : State) : s.newTag.2.mhz = s.mhz := rfl
@[simp] theorem State.newTag_energy (s : State) : s.newTag.2.energy = s.energy := rfl
@[simp] theorem State.newTag_winE (s : State) : s.newTag.2.winE = s.winE := rfl
@[simp] theorem State.newTag_budget (s : State) : s.newTag.2.budget = s.budget := rfl
@[simp] theorem State.newTag_leasecfg (s : State) : s.newTag.2.leasecfg = s.leasecfg := rfl
@[simp] theorem State.newTag_win (s : State) : s.newTag.2.win = s.win := rfl
@[simp] theorem State.newTag_slices (s : State) : s.newTag.2.slices = s.slices := rfl
@[simp] theorem State.newTag_ctrls (s : State) : s.newTag.2.ctrls = s.ctrls := rfl
@[simp] theorem State.newTag_floorF (s : State) : s.newTag.2.floorF = s.floorF := rfl
@[simp] theorem State.newTag_hbm (s : State) : s.newTag.2.hbm = s.hbm := rfl
@[simp] theorem State.newTag_host (s : State) : s.newTag.2.host = s.host := rfl
@[simp] theorem State.newTag_hbmPoison (s : State) : s.newTag.2.hbmPoison = s.hbmPoison := rfl
@[simp] theorem State.newTag_hostPoison (s : State) : s.newTag.2.hostPoison = s.hostPoison := rfl
@[simp] theorem State.newTag_graphs (s : State) : s.newTag.2.graphs = s.graphs := rfl
@[simp] theorem State.newTag_stages (s : State) : s.newTag.2.stages = s.stages := rfl
@[simp] theorem State.newTag_queues (s : State) : s.newTag.2.queues = s.queues := rfl
@[simp] theorem State.newTag_keepers (s : State) : s.newTag.2.keepers = s.keepers := rfl
@[simp] theorem State.newTag_claims (s : State) : s.newTag.2.claims = s.claims := rfl
@[simp] theorem State.newTag_waitq (s : State) : s.newTag.2.waitq = s.waitq := rfl
@[simp] theorem State.newTag_parked (s : State) : s.newTag.2.parked = s.parked := rfl
@[simp] theorem State.newTag_held (s : State) : s.newTag.2.held = s.held := rfl
@[simp] theorem State.newTag_segs (s : State) : s.newTag.2.segs = s.segs := rfl
@[simp] theorem State.newTag_planeSw (s : State) : s.newTag.2.planeSw = s.planeSw := rfl
@[simp] theorem State.newTag_retrain (s : State) : s.newTag.2.retrain = s.retrain := rfl
@[simp] theorem State.newTag_zdown (s : State) : s.newTag.2.zdown = s.zdown := rfl
@[simp] theorem State.newTag_routes (s : State) : s.newTag.2.routes = s.routes := rfl
@[simp] theorem State.newTag_net (s : State) : s.newTag.2.net = s.net := rfl
@[simp] theorem State.newTag_sliceWait (s : State) : s.newTag.2.sliceWait = s.sliceWait := rfl
@[simp] theorem State.newTag_hbmWait (s : State) : s.newTag.2.hbmWait = s.hbmWait := rfl
@[simp] theorem State.newTag_outbox (s : State) : s.newTag.2.outbox = s.outbox := rfl
@[simp] theorem State.newTag_inv (s : State) : s.newTag.2.inv = s.inv := rfl
@[simp] theorem State.newTag_ck (s : State) : s.newTag.2.ck = s.ck := rfl
@[simp] theorem State.newTag_dir (s : State) : s.newTag.2.dir = s.dir := rfl
@[simp] theorem State.newTag_dirMark (s : State) : s.newTag.2.dirMark = s.dirMark := rfl
@[simp] theorem State.newTag_svcWait (s : State) : s.newTag.2.svcWait = s.svcWait := rfl
@[simp] theorem State.newTag_svcOpen (s : State) : s.newTag.2.svcOpen = s.svcOpen := rfl
@[simp] theorem State.newTag_henq (s : State) : s.newTag.2.henq = s.henq := rfl
@[simp] theorem State.newTag_msg (s : State) : s.newTag.2.msg = s.msg := rfl
@[simp] theorem State.newTag_training (s : State) : s.newTag.2.training = s.training := rfl
@[simp] theorem State.newTag_downing (s : State) : s.newTag.2.downing = s.downing := rfl
@[simp] theorem State.newTag_transit (s : State) : s.newTag.2.transit = s.transit := rfl
@[simp] theorem State.newTag_linkWait (s : State) : s.newTag.2.linkWait = s.linkWait := rfl
@[simp] theorem State.newTag_smpSlot (s : State) : s.newTag.2.smpSlot = s.smpSlot := rfl
@[simp] theorem State.newTag_stop (s : State) : s.newTag.2.stop = s.stop := rfl
@[simp] theorem State.newTag_retiring (s : State) : s.newTag.2.retiring = s.retiring := rfl
@[simp] theorem State.newTag_retWait (s : State) : s.newTag.2.retWait = s.retWait := rfl
@[simp] theorem State.newTag_deadCores (s : State) : s.newTag.2.deadCores = s.deadCores := rfl
@[simp] theorem State.newTag_deadSpares (s : State) : s.newTag.2.deadSpares = s.deadSpares := rfl
@[simp] theorem State.newTag_store (s : State) : s.newTag.2.store = s.store := rfl
@[simp] theorem State.newTag_fatal (s : State) : s.newTag.2.fatal = s.fatal := rfl
@[simp] theorem State.newTag_ended (s : State) : s.newTag.2.ended = s.ended := rfl
@[simp] theorem State.newTag_mute (s : State) : s.newTag.2.mute = s.mute := rfl
@[simp] theorem State.newTag_flight (s : State) : s.newTag.2.flight = s.flight := rfl
@[simp] theorem State.newTag_todo (s : State) : s.newTag.2.todo = s.todo := rfl
@[simp] theorem State.newTag_inbox (s : State) : s.newTag.2.inbox = s.inbox := rfl
@[simp] theorem State.newTag_cur (s : State) : s.newTag.2.cur = s.cur := rfl
@[simp] theorem State.newTag_ptr (s : State) : s.newTag.2.ptr = s.ptr := rfl
@[simp] theorem State.newTag_fltWait (s : State) : s.newTag.2.fltWait = s.fltWait := rfl
@[simp] theorem State.newTag_draw (s : State) : s.newTag.2.draw = s.draw := rfl

/-! ## Own fields -/

@[simp] theorem State.updCrew_crews (s : State) (id : Nat) (f : Crew → Crew) :
    (s.updCrew id f).crews = lupdFirst (fun c => c.id == id) f s.crews := rfl
@[simp] theorem State.updCore_cores (s : State) (c : Nat) (f : Core → Core) :
    (s.updCore c f).cores = sset {} s.cores c (f (s.core c)) := rfl
@[simp] theorem State.setReg_win (s : State) (ofs : Nat) (v : Word) : (s.setReg ofs v).win = sset 0 s.win ofs v := rfl
@[simp] theorem State.post_todo (s : State) (es : List Instr) : (s.post es).todo = s.todo ++ es := rfl

/-- A message that sets out is under way. -/
theorem State.mem_send (s : State) (e : Instr) : e ∈ (s.send e).flying := by
  simp only [State.send, State.sendFrom, State.flying]
  split
  · simp
  · split <;> simp [State.inject]

/-- A message that sets out leaves under way what was. -/
theorem State.send_keeps (s : State) (e i : Instr) (h : i ∈ s.flying) : i ∈ (s.send e).flying := by
  simp only [State.send, State.sendFrom, State.flying, List.mem_append, List.mem_filterMap] at h ⊢
  split
  · aesop
  · split <;> simp only [State.inject, List.mem_append] <;> aesop

@[simp] theorem State.postFlt_fltWait (s : State) (r : FltRec) : (s.postFlt r).fltWait = s.fltWait ++ [{ r with at_ := s.cycle }] := rfl
@[simp] theorem State.updQueue_queues (s : State) (n : Nat) (f : Queue → Queue) :
    (s.updQueue n f).queues = lupdFirst (fun q => q.num == n) f s.queues := rfl

end Sys2Proof.Machine
end

