-- ==== Sys2Proof/Laws/Ops.lean ====
section
/-! SUPPORT. What the shared operations over crews, groups, cores, lanes and registers do: one lemma for each, which proofs
cite instead of unfolding the operation. -/

namespace Sys2Proof

/-! ## Lists -/

theorem find?_lupdFirst_same {α : Type} {p : α → Bool} {f : α → α} {x : α} (hf : ∀ y, p y = true → p (f y) = true) :
    ∀ {l : List α}, l.find? p = some x → (lupdFirst p f l).find? p = some (f x)
  | [], h => by simp at h
  | y :: t, h => by
    unfold lupdFirst
    by_cases hy : p y = true
    · simp only [List.find?_cons, hy, Option.some.injEq] at h
      subst h
      simp [hy, hf y hy]
    · simp only [List.find?_cons, hy] at h
      have hy : p y = false := by simpa using hy
      simp only [hy, Bool.false_eq_true, if_false, List.find?_cons]
      exact find?_lupdFirst_same hf h

theorem find?_lupdFirst_ne {α : Type} {p q : α → Bool} {f : α → α} (hq : ∀ y, p y = true → q y = false ∧ q (f y) = false) :
    ∀ {l : List α}, (lupdFirst p f l).find? q = l.find? q
  | [] => rfl
  | y :: t => by
    unfold lupdFirst
    by_cases hy : p y = true
    · simp [hy, hq y hy]
    · simp only [hy, if_false, Bool.false_eq_true, List.find?_cons, find?_lupdFirst_ne hq (l := t)]

theorem lupd_getElem? {α : Type} (f : α → α) : ∀ (l : List α) (i j : Nat),
    (lupd l i f)[j]? = if i = j then l[j]?.map f else l[j]?
  | [], i, j => by cases i <;> simp [lupd]
  | x :: t, 0, 0 => by simp [lupd]
  | x :: t, 0, j + 1 => by simp [lupd]
  | x :: t, i + 1, 0 => by simp [lupd]
  | x :: t, i + 1, j + 1 => by simp [lupd, lupd_getElem? f t i j]

/-! ## Masks -/

theorem Mask.mem_lanes {m : Mask} {l : Nat} : l ∈ m.lanes ↔ l < 32 ∧ m.has l = true := by
  simp [Mask.lanes, Mask.has]

theorem Mask.has_one {k l : Nat} (h : k < 32) : (Mask.one k).has l = decide (k = l) := by
  rw [Mask.has, Mask.one, BitVec.getLsbD_ofNat, Nat.testBit_two_pow]
  by_cases e : k = l
  · subst e
    simp [h]
  · simp [e]

end Sys2Proof

namespace Sys2Proof.Machine

/-! ## Crews, groups, cores, slices, registers -/

theorem State.crew?_updCrew {s : State} {id : Nat} {f : Crew → Crew} {c : Crew} (hf : ∀ c, (f c).id = c.id)
    (h : s.crew? id = some c) : (s.updCrew id f).crew? id = some (f c) :=
  find?_lupdFirst_same (by intro y hy; simpa [hf y] using hy) h

theorem State.crew?_updCrew_ne {s : State} {id j : Nat} {f : Crew → Crew} (hf : ∀ c, (f c).id = c.id) (h : j ≠ id) :
    (s.updCrew id f).crew? j = s.crew? j :=
  find?_lupdFirst_ne (by
    intro y hy
    have hy : y.id = id := by simpa using hy
    simp [hf y, hy, Ne.symm h])

theorem State.crew?_updGroup {s : State} {w : Who} {f : Group → Group} {c : Crew} (h : s.crew? w.crew = some c) :
    (s.updGroup w f).crew? w.crew = some (c.updGroup w.grp f) := State.crew?_updCrew (fun _ => rfl) h

theorem State.crew?_updGroup_ne {s : State} {w : Who} {f : Group → Group} {j : Nat} (h : j ≠ w.crew) :
    (s.updGroup w f).crew? j = s.crew? j := State.crew?_updCrew_ne (fun _ => rfl) h

theorem State.group?_some {s : State} {w : Who} {g : Group} (h : s.group? w = some g) :
    ∃ c, s.crew? w.crew = some c ∧ c.groups[w.grp]? = some g := by
  simpa [State.group?, Option.bind_eq_some_iff] using h

theorem State.group?_updGroup {s : State} {w : Who} {f : Group → Group} {g : Group} (h : s.group? w = some g) :
    (s.updGroup w f).group? w = some (f g) := by
  obtain ⟨c, hc, hg⟩ := State.group?_some h
  simp [State.group?, State.crew?_updGroup hc, Crew.updGroup, lupd_getElem?, hg]

theorem State.group?_updGroup_ne {s : State} {w v : Who} {f : Group → Group} (h : v ≠ w) :
    (s.updGroup w f).group? v = s.group? v := by
  by_cases hc : v.crew = w.crew
  · have hg : w.grp ≠ v.grp := by
      intro e
      exact h (by cases v; cases w; simp_all)
    unfold State.group?
    rw [hc]
    cases hs : s.crew? w.crew with
    | none =>
      have : (s.updGroup w f).crew? w.crew = none := by
        unfold State.crew? at hs ⊢
        rw [List.find?_eq_none] at hs ⊢
        intro x hx
        have key : ∀ l : List Crew, (∀ y ∈ l, ¬(y.id == w.crew) = true) →
            lupdFirst (fun c : Crew => c.id == w.crew) (fun c => c.updGroup w.grp f) l = l := by
          intro l
          induction l with
          | nil => intro _; rfl
          | cons y t ih =>
            intro hl
            have hy : (y.id == w.crew) = false := by simpa using hl y (by simp)
            simp only [lupdFirst, hy]
            rw [ih fun z hz => hl z (by simp [hz])]
            simp
        have hx' : x ∈ s.crews := by
          have := key s.crews hs
          simp only [State.updGroup, State.updCrew] at hx
          rwa [this] at hx
        exact hs x hx'
      simp [this]
    | some c => simp [State.crew?_updGroup hs, Crew.updGroup, lupd_getElem?, hg]
  · simp [State.group?, State.crew?_updGroup_ne hc]

@[simp] theorem State.core_updCore (s : State) (c : Nat) (f : Core → Core) : (s.updCore c f).core c = f (s.core c) := by
  simp [State.core, State.updCore]

theorem State.core_updCore_ne {s : State} {c k : Nat} {f : Core → Core} (h : k ≠ c) :
    (s.updCore c f).core k = s.core k := by
  simp [State.core, State.updCore, h]

@[simp] theorem State.slice_updSlice (s : State) (i : Nat) (f : Slice → Slice) : (s.updSlice i f).slice i = f (s.slice i) := by
  simp [State.slice, State.updSlice]

theorem State.slice_updSlice_ne {s : State} {i j : Nat} {f : Slice → Slice} (h : j ≠ i) :
    (s.updSlice i f).slice j = s.slice j := by
  simp [State.slice, State.updSlice, h]

@[simp] theorem State.reg_setReg (s : State) (ofs : Nat) (v : Word) : (s.setReg ofs v).reg ofs = v := by
  simp [State.reg, State.setReg]

theorem State.reg_setReg_ne {s : State} {ofs o : Nat} {v : Word} (h : o ≠ ofs) : (s.setReg ofs v).reg o = s.reg o := by
  simp [State.reg, State.setReg, h]

/-! ## Lanes and registers of a group -/

theorem foldl_sset_lanes {α : Type} [DecidableEq α] {d : α} (f : Nat → α → α) (j : Nat) :
    ∀ (ls : List Nat) (m : SMap α), ls.Nodup →
      sget d (ls.foldl (fun m l => sset d m l (f l (sget d m l))) m) j = if j ∈ ls then f j (sget d m j) else sget d m j
  | [], m, _ => by simp
  | l :: ls, m, h => by
    obtain ⟨hl, hn⟩ := List.nodup_cons.mp h
    rw [List.foldl_cons, foldl_sset_lanes f j ls _ hn]
    by_cases e : j = l
    · subst e; simp [hl]
    · simp [sget_sset_ne _ e, e]

theorem Mask.nodup_lanes (m : Mask) : m.lanes.Nodup := List.Nodup.filter _ List.nodup_range

/-- The lanes of a mask are changed, and no other. -/
theorem Group.lpOf_mapLp (g : Group) (m : Mask) (f : Nat → Lp → Lp) (l : Nat) :
    (g.mapLp m f).lpOf l = if l < 32 ∧ m.has l = true then f l (g.lpOf l) else g.lpOf l := by
  simp only [Group.lpOf, Group.mapLp]
  rw [foldl_sset_lanes f l _ _ (Mask.nodup_lanes m)]
  simp [Mask.mem_lanes]

/-- The lanes of a mask go on behind the word, and no other. -/
theorem Group.lpOf_advance (g : Group) (m : Mask) (len l : Nat) :
    (g.advance m len).lpOf l =
      if l < 32 ∧ m.has l = true then { g.lpOf l with pc := (g.lpOf l).pc + BitVec.ofNat 48 len } else g.lpOf l :=
  Group.lpOf_mapLp g m _ l

@[simp] theorem Group.advance_lpOf_st (g : Group) (m : Mask) (len l : Nat) :
    ((g.advance m len).lpOf l).st = (g.lpOf l).st := by
  rw [Group.lpOf_advance]; split <;> rfl

theorem foldl_sset_reg {d : Word} (n : Nat) (f : Nat → Word) (j : Nat) :
    ∀ (ls : List Nat) (m : SMap Word), sget d (ls.foldl (fun v l => sset d v (32 * n + l) (f l)) m) j =
      if ∃ l ∈ ls, j = 32 * n + l then f (j - 32 * n) else sget d m j
  | [], m => by simp
  | l :: ls, m => by
    rw [List.foldl_cons, foldl_sset_reg n f j ls]
    by_cases h : ∃ k ∈ ls, j = 32 * n + k
    · rw [if_pos h, if_pos]
      obtain ⟨k, hk, e⟩ := h
      exact ⟨k, by simp [hk], e⟩
    · rw [if_neg h]
      by_cases e : j = 32 * n + l
      · subst e
        rw [sget_sset_same, if_pos ⟨l, by simp, rfl⟩]
        congr 1; omega
      · rw [sget_sset_ne _ e, if_neg]
        rintro ⟨k, hk, e'⟩
        rcases List.mem_cons.mp hk with rfl | hk
        · exact e e'
        · exact h ⟨k, hk, e'⟩

/-- A lane of a V register after a write of another, or the same, register. -/
theorem Group.rdV_wrV (g : Group) (n : Nat) (m : Mask) (f : Nat → Word) (k l : Nat) (h : l < 32) :
    (g.wrV n m f).rdV k l = if k = n ∧ m.has l = true then f l else g.rdV k l := by
  simp only [Group.rdV, Group.wrV, Group.unlatch]
  rw [foldl_sset_reg n f]
  by_cases e : ∃ j ∈ m.lanes, 32 * k + l = 32 * n + j
  · obtain ⟨j, hj, e'⟩ := e
    have hm := Mask.mem_lanes.mp hj
    have hk : k = n := by omega
    have hl : l = j := by omega
    subst hk hl
    rw [if_pos ⟨l, hj, rfl⟩, if_pos ⟨rfl, hm.2⟩]
    congr 1; omega
  · rw [if_neg e, if_neg]
    rintro ⟨rfl, hl⟩
    exact e ⟨l, Mask.mem_lanes.mpr ⟨h, hl⟩, rfl⟩

@[simp] theorem Group.rdG_wrG (g : Group) (n : Nat) (x : Word) (k : Nat) :
    (g.wrG n x).rdG k = if k = n then x else g.rdG k := by
  simp [Group.rdG, Group.wrG, Group.unlatch, sget_sset]

@[simp] theorem Group.rdP_wrP (g : Group) (n : Nat) (m x : Mask) (k : Nat) :
    (g.wrP n m x).rdP k = if k = n ∧ n ≠ 15 then (g.rdP n &&& ~~~m) ||| (x &&& m) else g.rdP k := by
  unfold Group.wrP
  by_cases hn : n = 15
  · simp [hn]
  · by_cases hk : k = 15
    · subst hk; simp [hn, Group.rdP, Ne.symm hn]
    · simp [hn, Group.rdP, hk, sget_sset]

/-! ## The end of an issue -/

/-- Counting an event changes the counters of one core, and what overflows. -/
theorem State.perfAdd_frame (s : State) (core vf ev n : Nat) :
    s.perfAdd core vf ev n = { s with cores := (s.perfAdd core vf ev n).cores, svcWait := (s.perfAdd core vf ev n).svcWait } := by
  unfold State.perfAdd
  split
  · rfl
  rename_i h
  clear h
  dsimp only
  generalize (List.range 8).filter _ = ks
  induction ks generalizing s with
  | nil => rfl
  | cons k ks ih =>
    simp only [List.foldl_cons]
    rw [ih]
    split <;> rfl

theorem State.winOnly_trans {a b c : State} (h : ∃ w, b = { a with win := w }) (k : ∃ w, c = { b with win := w }) :
    ∃ w, c = { a with win := w } := by
  obtain ⟨w, rfl⟩ := h
  obtain ⟨v, rfl⟩ := k
  exact ⟨v, rfl⟩

theorem State.winCount_some (s : State) (ofs n : Nat) : ∃ w, s.winCount ofs n = { s with win := w } := ⟨_, rfl⟩

/-- The lane-cycle record changes count registers alone. -/
theorem State.lcrCount_some (s : State) (i : Issue) (g : Group) (core vf : Nat) :
    ∃ w, s.lcrCount i g core vf = { s with win := w } := by
  unfold State.lcrCount
  dsimp only
  split
  · exact ⟨_, rfl⟩
  · split
    · exact State.winCount_some ..
    · split
      · exact State.winCount_some ..
      · exact State.winOnly_trans (State.winOnly_trans (State.winOnly_trans (State.winCount_some ..)
          (State.winCount_some ..)) (State.winCount_some ..)) (State.winCount_some ..)

/-- Counting an event changes the counters of one core, and what overflows. -/
theorem State.perfAdd_some (s : State) (core vf ev n : Nat) :
    ∃ cores w, s.perfAdd core vf ev n = { s with cores := cores, svcWait := w } := ⟨_, _, s.perfAdd_frame core vf ev n⟩

/-- The counts of an issue change the counters of its core, and what overflows. -/
theorem State.issueCount_some (s : State) (i : Issue) (core vf : Nat) :
    ∃ cores w, s.issueCount i core vf = { s with cores := cores, svcWait := w } := by
  unfold State.issueCount
  split
  · exact ⟨_, _, rfl⟩
  · obtain ⟨_, _, h2⟩ := s.perfAdd_some core vf 0x02 1
    rw [h2]
    obtain ⟨_, _, h3⟩ := State.perfAdd_some { s with cores := _, svcWait := _ } core vf 0x03 (i.set &&& i.act).count
    rw [h3]
    dsimp only
    split
    · obtain ⟨_, _, h4⟩ := State.perfAdd_some { s with cores := _, svcWait := _ } core vf 0x04 1
      rw [h4]
      exact ⟨_, _, rfl⟩
    · exact ⟨_, _, rfl⟩

/-- What the end of an issue may change: counts, the history of the partition, a stop, the group, and the records of overflowing
counters. -/
theorem State.spent_some (s : State) (i : Issue) : ∃ crews cores win stop flight ptr svcWait, s.spent i = { s with
    crews := crews, cores := cores, win := win, stop := stop, flight := flight, ptr := ptr, svcWait := svcWait } := by
  unfold State.spent
  split
  · split
    · exact ⟨_, _, _, _, _, _, _, rfl⟩
    dsimp only
    obtain ⟨w, hw⟩ := State.lcrCount_some (State.updGroup (State.updCore s _ _) i.who _) i _ _ _
    rw [hw]
    obtain ⟨_, _, hi⟩ := State.issueCount_some { State.updGroup (State.updCore s _ _) i.who _ with win := w } i _ _
    rw [hi]
    split
    · exact ⟨_, _, _, _, _, _, _, rfl⟩
    · exact ⟨_, _, _, _, _, _, _, rfl⟩
  · exact ⟨_, _, _, _, _, _, _, rfl⟩

/-- Taking a trap at once changes the group alone. -/
theorem State.takeTrap_now {s : State} {w : Who} {t : TrapRec} {c : Crew} {g : Group} (hc : s.crew? w.crew = some c)
    (hg : s.group? w = some g) (hh : g.handler = false) (ho : g.outs = []) (hs : s.stopArmed c.core g.part 2 = false) :
    s.takeTrap w t = s.updGroup w fun g => g.enterTrap (s.core c.core).trapbase t := by
  simp [State.takeTrap, hc, hg, hh, ho, State.enter, hs]

/-- A trap of a group with an outstanding result waits. -/
theorem State.takeTrap_waits {s : State} {w : Who} {t : TrapRec} {c : Crew} {g : Group} (hc : s.crew? w.crew = some c)
    (hg : s.group? w = some g) (hh : g.handler = false) (ho : g.outs ≠ []) :
    s.takeTrap w t = s.updGroup w fun g => { g.headDone with wait := .trap t } := by
  simp [State.takeTrap, hc, hg, hh, ho]

/-- A trap of a group in a handler is a double trap. -/
theorem State.takeTrap_double {s : State} {w : Who} {t : TrapRec} {c : Crew} {g : Group} (hc : s.crew? w.crew = some c)
    (hg : s.group? w = some g) (hh : g.handler = true) : s.takeTrap w t = s.doubleTrap w t := by
  simp [State.takeTrap, hc, hg, hh]

/-- A word that no group issues changes nothing. -/
theorem State.withCtx_none {s : State} {h : Hdr} {k : Ctx → State} (e : s.ctx? h = none) : s.withCtx h k = s := by
  simp [State.withCtx, e]

/-- A word that a group issues runs on its context. -/
theorem State.withCtx_some {s : State} {h : Hdr} {k : Ctx → State} {x : Ctx} (e : s.ctx? h = some x) :
    s.withCtx h k = k x := by
  simp [State.withCtx, e]

/-- What a context says of the state: the issue, its crew and its group, and the split of the issue set. -/
theorem State.ctx?_some {s : State} {h : Hdr} {x : Ctx} (e : s.ctx? h = some x) :
    s.cur = some x.iss ∧ s.crew? x.iss.who.crew = some x.c ∧ s.group? x.iss.who = some x.g ∧
      x.act = x.iss.set &&& x.g.guard h ∧ x.off = x.iss.set &&& ~~~x.g.guard h := by
  simp only [State.ctx?, Option.bind_eq_some_iff, Option.map_eq_some_iff] at e
  obtain ⟨i, hi, c, hc, g, hg, rfl⟩ := e
  exact ⟨hi, hc, by simp [State.group?, hc, hg], rfl, rfl⟩

end Sys2Proof.Machine
end

