-- ==== Sys2Proof/Laws/Frames.lean ====
section
/-! SUPPORT. What the writes of whole frames of HBM may change (16 R404, 17 R424, R427), and what an answered segment leaves. -/

namespace Sys2Proof.Machine

/-- Nothing but home blocks, HBM, the ingress floors, the samples that wait and the numbers of accesses differs. -/
def FrameOnly (s t : State) : Prop :=
  ∃ sl hb hp fl hw fr, t = { s with slices := sl, hbm := hb, hbmPoison := hp, floorF := fl, hbmWait := hw, fresh := fr }

/-- A state differs from itself in nothing. -/
theorem FrameOnly.refl (s : State) : FrameOnly s s := ⟨_, _, _, _, _, _, rfl⟩

/-- Two such changes one after the other. -/
theorem FrameOnly.trans {a b c : State} (h : FrameOnly a b) (k : FrameOnly b c) : FrameOnly a c := by
  obtain ⟨_, _, _, _, _, _, rfl⟩ := h
  obtain ⟨_, _, _, _, _, _, rfl⟩ := k
  exact ⟨_, _, _, _, _, _, rfl⟩

/-- A list of such changes. -/
theorem FrameOnly.foldl {α : Type} {f : State → α → State} (h : ∀ s a, FrameOnly s (f s a)) (l : List α) (s : State) :
    FrameOnly s (l.foldl f s) := by
  induction l generalizing s with
  | nil => exact .refl s
  | cons a l ih => exact (h s a).trans (ih (f s a))

/-- Marking a word of HBM poisoned or not. -/
theorem FrameOnly.setPoison (s : State) (pa : Nat) (b : Bool) : FrameOnly s (s.setPoison .hbm pa b) := by
  rw [State.setPoison, if_neg (by decide)]
  exact ⟨_, _, _, _, _, _, rfl⟩

/-- Writing bytes of HBM. -/
theorem FrameOnly.write (s : State) (a : Nat) (bs : List Byte) : FrameOnly s { s with hbm := s.hbm.write a bs } := ⟨_, _, _, _, _, _, rfl⟩

/-- Raising the ingress floors. -/
theorem FrameOnly.raiseFloor (s : State) (wt : Nat) : FrameOnly s (s.raiseFloor wt) := ⟨_, _, _, _, _, _, rfl⟩

/-- Changing a slice. -/
theorem FrameOnly.updSlice (s : State) (i : Nat) (f : Slice → Slice) : FrameOnly s (s.updSlice i f) := ⟨_, _, _, _, _, _, rfl⟩

/-- A write from outside of a word without a home block. -/
theorem FrameOnly.markWrite (s : State) (va : Nat) : FrameOnly s (s.markWrite va) :=
  ((FrameOnly.updSlice s ..).trans (.updSlice ..)).trans (.raiseFloor ..)

/-- Taking a number. -/
theorem FrameOnly.newTag (s : State) : FrameOnly s s.newTag.2 := ⟨_, _, _, _, _, _, rfl⟩

/-- Everything that a write to a frame of HBM can change. -/
theorem State.frameWrite_only (s : State) (pa : Nat) (bs : List Byte) : FrameOnly s (s.frameWrite pa bs) := by
  unfold State.frameWrite
  refine (FrameOnly.newTag s).trans (FrameOnly.foldl (fun s p => ?_) _ _)
  dsimp only
  split
  · refine FrameOnly.trans ?_ (.foldl (fun s a => .markWrite s _) _ _)
    split
    · exact (FrameOnly.write s ..).trans (.setPoison ..)
    · exact FrameOnly.write s ..
  · exact .foldl (fun s e => ((FrameOnly.updSlice s ..).trans (.updSlice ..)).trans (.raiseFloor ..)) _ s

/-- Everything that a write of a dump can change. -/
theorem State.hbmPut_only (s : State) (pa : Nat) (bs : List Byte) : FrameOnly s (s.hbmPut pa bs) := by
  unfold State.hbmPut
  exact ((s.frameWrite_only pa _).trans (.write ..)).trans (.foldl (fun s k => .setPoison s _ _) _ _)

/-- Everything that a write of a sample can change. -/
theorem State.samplePut_only (s : State) (pa : Nat) (bs : List Byte) : FrameOnly s (s.samplePut pa bs) := by
  unfold State.samplePut
  split
  · exact ⟨_, _, _, _, _, _, rfl⟩
  · exact s.hbmPut_only pa bs

/-- In switched mode an answered segment leaves, and nothing else changes. -/
theorem State.dropSeg_switched (s : State) (tag : Nat) (h : s.torus = false) :
    s.dropSeg tag = { s with segs := s.segs.filter fun x => x.tag != tag } := by
  unfold State.dropSeg
  rw [if_neg]
  simpa [State.torus, State.reg] using h

end Sys2Proof.Machine
end

