-- ==== Sys2Proof/Laws/PerInstr.lean ====
section
/-! SUPPORT. A law of every instruction, one lemma for each constructor: which words have a parameter block. -/

namespace Sys2Proof.Laws.ParameterBlock

/-- The words behind which a parameter block stands (05 R123). -/
def block : Instr → Bool
  | .mst .. | .copytG2t .. | .copytT2g .. => true
  | _ => false

/-- The code of an instruction says that it has a parameter block exactly where it is MST or COPYT. -/
def Statement (i : Instr) : Prop := longOp (encRaw i).op = block i

theorem nop (h_ : Hdr) : Statement (.nop h_) := rfl
theorem bra (h_ : Hdr) (ofs_ : BitVec 32) : Statement (.bra h_ ofs_) := rfl
theorem brx (h_ : Hdr) (a_ : Opnd) : Statement (.brx h_ a_) := rfl
theorem call (h_ : Hdr) (d_ : Opnd) (ofs_ : BitVec 32) : Statement (.call h_ d_ ofs_) := rfl
theorem callx (h_ : Hdr) (d_ : Opnd) (a_ : Opnd) : Statement (.callx h_ d_ a_) := rfl
theorem ret (h_ : Hdr) (a_ : Opnd) : Statement (.ret h_ a_) := rfl
theorem join (h_ : Hdr) : Statement (.join h_) := rfl
theorem yield (h_ : Hdr) : Statement (.yield h_) := rfl
theorem exit (h_ : Hdr) : Statement (.exit h_) := rfl
theorem region (h_ : Hdr) (tag_ : BitVec 16) : Statement (.region h_ tag_) := rfl
theorem trap (h_ : Hdr) (code_ : BitVec 16) : Statement (.trap h_ code_) := rfl
theorem rtt (h_ : Hdr) (skip_ : Bool) : Statement (.rtt h_ skip_) := rfl
theorem brk (h_ : Hdr) (code_ : BitVec 16) : Statement (.brk h_ code_) := rfl
theorem iadd (h_ : Hdr) (w_ : EW) (sgn_ : Bool) (sat_ : Bool) (d_ : Opnd) (a_ : Opnd) (b_ : Src2) : Statement (.iadd h_ w_ sgn_ sat_ d_ a_ b_) := by
 cases w_ <;> cases b_ <;> exact rfl
theorem isub (h_ : Hdr) (w_ : EW) (sgn_ : Bool) (sat_ : Bool) (d_ : Opnd) (a_ : Opnd) (b_ : Opnd) : Statement (.isub h_ w_ sgn_ sat_ d_ a_ b_) := by
 cases w_ <;> exact rfl
theorem imul (h_ : Hdr) (w_ : EW) (sgn_ : Bool) (sat_ : Bool) (d_ : Opnd) (a_ : Opnd) (b_ : Src2) : Statement (.imul h_ w_ sgn_ sat_ d_ a_ b_) := by
 cases w_ <;> cases b_ <;> exact rfl
theorem imulh (h_ : Hdr) (w_ : EW) (sgn_ : Bool) (d_ : Opnd) (a_ : Opnd) (b_ : Opnd) : Statement (.imulh h_ w_ sgn_ d_ a_ b_) := by
 cases w_ <;> exact rfl
theorem imad (h_ : Hdr) (w_ : EW) (sgn_ : Bool) (sat_ : Bool) (d_ : Opnd) (a_ : Opnd) (bc_ : Src3) : Statement (.imad h_ w_ sgn_ sat_ d_ a_ bc_) := by
 cases w_ <;> cases bc_ <;> exact rfl
theorem imin (h_ : Hdr) (w_ : EW) (sgn_ : Bool) (d_ : Opnd) (a_ : Opnd) (b_ : Opnd) : Statement (.imin h_ w_ sgn_ d_ a_ b_) := by
 cases w_ <;> exact rfl
theorem imax (h_ : Hdr) (w_ : EW) (sgn_ : Bool) (d_ : Opnd) (a_ : Opnd) (b_ : Opnd) : Statement (.imax h_ w_ sgn_ d_ a_ b_) := by
 cases w_ <;> exact rfl
theorem iabs (h_ : Hdr) (w_ : EW) (sat_ : Bool) (d_ : Opnd) (a_ : Opnd) : Statement (.iabs h_ w_ sat_ d_ a_) := by
 cases w_ <;> exact rfl
theorem icmp (h_ : Hdr) (w_ : EW) (sgn_ : Bool) (cc_ : Cmp) (any_ : Bool) (d_ : Opnd) (a_ : Opnd) (b_ : Src2) : Statement (.icmp h_ w_ sgn_ cc_ any_ d_ a_ b_) := by
 cases w_ <;> cases b_ <;> exact rfl
theorem shl (h_ : Hdr) (w_ : EW) (sgn_ : Bool) (d_ : Opnd) (a_ : Opnd) (b_ : Src2) : Statement (.shl h_ w_ sgn_ d_ a_ b_) := by
 cases w_ <;> cases b_ <;> exact rfl
theorem shr (h_ : Hdr) (w_ : EW) (sgn_ : Bool) (d_ : Opnd) (a_ : Opnd) (b_ : Src2) : Statement (.shr h_ w_ sgn_ d_ a_ b_) := by
 cases w_ <;> cases b_ <;> exact rfl
theorem shra (h_ : Hdr) (w_ : EW) (sgn_ : Bool) (d_ : Opnd) (a_ : Opnd) (b_ : Src2) : Statement (.shra h_ w_ sgn_ d_ a_ b_) := by
 cases w_ <;> cases b_ <;> exact rfl
theorem isad (h_ : Hdr) (sgn_ : Bool) (d_ : Opnd) (a_ : Opnd) (b_ : Opnd) (c_ : Opnd) : Statement (.isad h_ sgn_ d_ a_ b_ c_) := rfl
theorem blut (h_ : Hdr) (tbl_ : BitVec 8) (d_ : Opnd) (a_ : Opnd) (bc_ : Src3) : Statement (.blut h_ tbl_ d_ a_ bc_) := by
 cases bc_ <;> exact rfl
theorem rot (h_ : Hdr) (d_ : Opnd) (a_ : Opnd) (b_ : Src2) : Statement (.rot h_ d_ a_ b_) := by
 cases b_ <;> exact rfl
theorem funnel (h_ : Hdr) (d_ : Opnd) (a_ : Opnd) (b_ : Opnd) (c_ : Opnd) : Statement (.funnel h_ d_ a_ b_ c_) := rfl
theorem popc (h_ : Hdr) (d_ : Opnd) (a_ : Opnd) : Statement (.popc h_ d_ a_) := rfl
theorem clz (h_ : Hdr) (d_ : Opnd) (a_ : Opnd) : Statement (.clz h_ d_ a_) := rfl
theorem ctz (h_ : Hdr) (d_ : Opnd) (a_ : Opnd) : Statement (.ctz h_ d_ a_) := rfl
theorem brev (h_ : Hdr) (d_ : Opnd) (a_ : Opnd) : Statement (.brev h_ d_ a_) := rfl
theorem bfx (h_ : Hdr) (sgn_ : Bool) (d_ : Opnd) (a_ : Opnd) (b_ : Src2) : Statement (.bfx h_ sgn_ d_ a_ b_) := by
 cases b_ <;> exact rfl
theorem bfi (h_ : Hdr) (d_ : Opnd) (a_ : Opnd) (bc_ : Src3) : Statement (.bfi h_ d_ a_ bc_) := by
 cases bc_ <;> exact rfl
theorem isel (h_ : Hdr) (d_ : Opnd) (a_ : Opnd) (b_ : Opnd) (p_ : Opnd) : Statement (.isel h_ d_ a_ b_ p_) := rfl
theorem lea (h_ : Hdr) (sh_ : BitVec 3) (d_ : Opnd) (a_ : Opnd) (b_ : Src2) : Statement (.lea h_ sh_ d_ a_ b_) := by
 cases b_ <;> exact rfl
theorem iaddc (h_ : Hdr) (d_ : Opnd) (a_ : Opnd) (b_ : Opnd) (pin_ : Opnd) (pout_ : BitVec 4) : Statement (.iaddc h_ d_ a_ b_ pin_ pout_) := rfl
theorem plut (h_ : Hdr) (tbl_ : BitVec 8) (pd_ : Opnd) (pa_ : Opnd) (pb_ : Opnd) (pc_ : Opnd) : Statement (.plut h_ tbl_ pd_ pa_ pb_ pc_) := rfl
theorem idot4 (h_ : Hdr) (xs_ : Bool) (ys_ : Bool) (sat_ : Bool) (d_ : Opnd) (a_ : Opnd) (b_ : Opnd) (c_ : Opnd) : Statement (.idot4 h_ xs_ ys_ sat_ d_ a_ b_ c_) := by
 cases xs_ <;> cases ys_ <;> exact rfl
theorem idot2 (h_ : Hdr) (xs_ : Bool) (ys_ : Bool) (sat_ : Bool) (d_ : Opnd) (a_ : Opnd) (b_ : Opnd) (c_ : Opnd) : Statement (.idot2 h_ xs_ ys_ sat_ d_ a_ b_ c_) := by
 cases xs_ <;> cases ys_ <;> exact rfl
theorem fadd (h_ : Hdr) (ty_ : FTy) (m_ : FMod) (d_ : Opnd) (a_ : Opnd) (b_ : Src2) : Statement (.fadd h_ ty_ m_ d_ a_ b_) := by
 cases ty_ <;> cases b_ <;> exact rfl
theorem fmul (h_ : Hdr) (ty_ : FTy) (m_ : FMod) (d_ : Opnd) (a_ : Opnd) (b_ : Src2) : Statement (.fmul h_ ty_ m_ d_ a_ b_) := by
 cases ty_ <;> cases b_ <;> exact rfl
theorem ffma (h_ : Hdr) (ty_ : FTy) (m_ : FMod) (d_ : Opnd) (a_ : Opnd) (bc_ : Src3) : Statement (.ffma h_ ty_ m_ d_ a_ bc_) := by
 cases ty_ <;> cases bc_ <;> exact rfl
theorem fmin (h_ : Hdr) (ty_ : FTy) (m_ : FMod) (d_ : Opnd) (a_ : Opnd) (b_ : Opnd) : Statement (.fmin h_ ty_ m_ d_ a_ b_) := by
 cases ty_ <;> exact rfl
theorem fmax (h_ : Hdr) (ty_ : FTy) (m_ : FMod) (d_ : Opnd) (a_ : Opnd) (b_ : Opnd) : Statement (.fmax h_ ty_ m_ d_ a_ b_) := by
 cases ty_ <;> exact rfl
theorem fminm (h_ : Hdr) (ty_ : FTy) (m_ : FMod) (d_ : Opnd) (a_ : Opnd) (b_ : Opnd) : Statement (.fminm h_ ty_ m_ d_ a_ b_) := by
 cases ty_ <;> exact rfl
theorem fmaxm (h_ : Hdr) (ty_ : FTy) (m_ : FMod) (d_ : Opnd) (a_ : Opnd) (b_ : Opnd) : Statement (.fmaxm h_ ty_ m_ d_ a_ b_) := by
 cases ty_ <;> exact rfl
theorem fcmp (h_ : Hdr) (ty_ : FTy) (m_ : FMod) (cc_ : Cmp) (any_ : Bool) (d_ : Opnd) (a_ : Opnd) (b_ : Opnd) : Statement (.fcmp h_ ty_ m_ cc_ any_ d_ a_ b_) := by
 cases ty_ <;> exact rfl
theorem fclass (h_ : Hdr) (ty_ : FTy) (any_ : Bool) (mask_ : BitVec 10) (d_ : Opnd) (a_ : Opnd) : Statement (.fclass h_ ty_ any_ mask_ d_ a_) := rfl
theorem fdot2 (h_ : Hdr) (bf_ : Bool) (m_ : FMod) (d_ : Opnd) (a_ : Opnd) (b_ : Opnd) (c_ : Opnd) : Statement (.fdot2 h_ bf_ m_ d_ a_ b_ c_) := rfl
theorem fdot4 (h_ : Hdr) (ta_ : Bool) (tb_ : Bool) (m_ : FMod) (d_ : Opnd) (a_ : Opnd) (b_ : Opnd) (c_ : Opnd) : Statement (.fdot4 h_ ta_ tb_ m_ d_ a_ b_ c_) := rfl
theorem frnd (h_ : Hdr) (ty_ : FTy) (m_ : FMod) (d_ : Opnd) (a_ : Opnd) : Statement (.frnd h_ ty_ m_ d_ a_) := rfl
theorem fscale (h_ : Hdr) (ty_ : FTy) (m_ : FMod) (d_ : Opnd) (a_ : Opnd) (b_ : Opnd) : Statement (.fscale h_ ty_ m_ d_ a_ b_) := rfl
theorem fgetexp (h_ : Hdr) (ty_ : FTy) (m_ : FMod) (d_ : Opnd) (a_ : Opnd) : Statement (.fgetexp h_ ty_ m_ d_ a_) := rfl
theorem fgetmant (h_ : Hdr) (ty_ : FTy) (m_ : FMod) (d_ : Opnd) (a_ : Opnd) : Statement (.fgetmant h_ ty_ m_ d_ a_) := rfl
theorem ferr (h_ : Hdr) (ty_ : FTy) (m_ : FMod) (mul_ : Bool) (d_ : Opnd) (a_ : Opnd) (b_ : Opnd) : Statement (.ferr h_ ty_ m_ mul_ d_ a_ b_) := rfl
theorem cvtFf (h_ : Hdr) (td_ : FloatTy) (ts_ : FloatTy) (m_ : FMod) (k_ : BitVec 4) (d_ : Opnd) (a_ : Opnd) : Statement (.cvtFf h_ td_ ts_ m_ k_ d_ a_) := rfl
theorem cvtFi (h_ : Hdr) (td_ : IntTy) (ts_ : FloatTy) (m_ : FMod) (k_ : BitVec 4) (d_ : Opnd) (a_ : Opnd) : Statement (.cvtFi h_ td_ ts_ m_ k_ d_ a_) := rfl
theorem cvtIf (h_ : Hdr) (td_ : FloatTy) (ts_ : IntTy) (m_ : FMod) (k_ : BitVec 4) (d_ : Opnd) (a_ : Opnd) : Statement (.cvtIf h_ td_ ts_ m_ k_ d_ a_) := rfl
theorem cvtIi (h_ : Hdr) (td_ : IntTy) (ts_ : IntTy) (m_ : FMod) (k_ : BitVec 4) (d_ : Opnd) (a_ : Opnd) : Statement (.cvtIi h_ td_ ts_ m_ k_ d_ a_) := rfl
theorem cvts (h_ : Hdr) (td_ : FloatTy) (ts_ : FloatTy) (m_ : FMod) (k_ : BitVec 4) (d_ : Opnd) (a_ : Opnd) (b_ : Opnd) : Statement (.cvts h_ td_ ts_ m_ k_ d_ a_ b_) := rfl
theorem cvtef (h_ : Hdr) (td_ : FloatTy) (m_ : FMod) (k_ : BitVec 4) (scl_ : Bool) (d_ : Opnd) (a_ : Opnd) (b_ : Opnd) (c_ : Opnd) : Statement (.cvtef h_ td_ m_ k_ scl_ d_ a_ b_ c_) := rfl
theorem cvtsr (h_ : Hdr) (td_ : FloatTy) (ts_ : FloatTy) (m_ : FMod) (k_ : BitVec 4) (d_ : Opnd) (a_ : Opnd) (b_ : Opnd) : Statement (.cvtsr h_ td_ ts_ m_ k_ d_ a_ b_) := rfl
theorem packB6 (h_ : Hdr) (k_ : BitVec 2) (d_ : Opnd) (a_ : Opnd) (b_ : Opnd) : Statement (.packB6 h_ k_ d_ a_ b_) := rfl
theorem unpkB6 (h_ : Hdr) (k_ : BitVec 2) (d_ : Opnd) (a_ : Opnd) (b_ : Opnd) : Statement (.unpkB6 h_ k_ d_ a_ b_) := rfl
theorem packTri (h_ : Hdr) (k_ : BitVec 2) (d_ : Opnd) (a_ : Opnd) (b_ : Opnd) : Statement (.packTri h_ k_ d_ a_ b_) := rfl
theorem unpkTri (h_ : Hdr) (k_ : BitVec 2) (d_ : Opnd) (a_ : Opnd) : Statement (.unpkTri h_ k_ d_ a_) := rfl
theorem bscl (h_ : Hdr) (k_ : BitVec 4) (d_ : Opnd) (a_ : Opnd) (b_ : Opnd) : Statement (.bscl h_ k_ d_ a_ b_) := rfl
theorem rcp (h_ : Hdr) (ty_ : FTy) (m_ : FMod) (d_ : Opnd) (a_ : Opnd) : Statement (.rcp h_ ty_ m_ d_ a_) := by
 cases ty_ <;> exact rfl
theorem rsq (h_ : Hdr) (ty_ : FTy) (m_ : FMod) (d_ : Opnd) (a_ : Opnd) : Statement (.rsq h_ ty_ m_ d_ a_) := by
 cases ty_ <;> exact rfl
theorem sqrt (h_ : Hdr) (ty_ : FTy) (m_ : FMod) (d_ : Opnd) (a_ : Opnd) : Statement (.sqrt h_ ty_ m_ d_ a_) := by
 cases ty_ <;> exact rfl
theorem exp2 (h_ : Hdr) (ty_ : FTy) (m_ : FMod) (d_ : Opnd) (a_ : Opnd) : Statement (.exp2 h_ ty_ m_ d_ a_) := by
 cases ty_ <;> exact rfl
theorem log2 (h_ : Hdr) (ty_ : FTy) (m_ : FMod) (d_ : Opnd) (a_ : Opnd) : Statement (.log2 h_ ty_ m_ d_ a_) := by
 cases ty_ <;> exact rfl
theorem sin (h_ : Hdr) (ty_ : FTy) (m_ : FMod) (d_ : Opnd) (a_ : Opnd) : Statement (.sin h_ ty_ m_ d_ a_) := by
 cases ty_ <;> exact rfl
theorem cos (h_ : Hdr) (ty_ : FTy) (m_ : FMod) (d_ : Opnd) (a_ : Opnd) : Statement (.cos h_ ty_ m_ d_ a_) := by
 cases ty_ <;> exact rfl
theorem tanh (h_ : Hdr) (ty_ : FTy) (m_ : FMod) (d_ : Opnd) (a_ : Opnd) : Statement (.tanh h_ ty_ m_ d_ a_) := by
 cases ty_ <;> exact rfl
theorem mov (h_ : Hdr) (d_ : Opnd) (a_ : Opnd) : Statement (.mov h_ d_ a_) := rfl
theorem movi (h_ : Hdr) (zx_ : Bool) (d_ : Opnd) (imm_ : BitVec 32) : Statement (.movi h_ zx_ d_ imm_) := rfl
theorem movih (h_ : Hdr) (d_ : Opnd) (imm_ : BitVec 32) : Statement (.movih h_ d_ imm_) := rfl
theorem lxchIdx (h_ : Hdr) (ew_ : EW) (lw_ : BitVec 3) (d_ : Opnd) (a_ : Opnd) (b_ : Opnd) (p_ : Opnd) : Statement (.lxchIdx h_ ew_ lw_ d_ a_ b_ p_) := rfl
theorem lxchUp (h_ : Hdr) (lw_ : BitVec 3) (d_ : Opnd) (a_ : Opnd) (b_ : Opnd) (p_ : Opnd) : Statement (.lxchUp h_ lw_ d_ a_ b_ p_) := rfl
theorem lxchDown (h_ : Hdr) (lw_ : BitVec 3) (d_ : Opnd) (a_ : Opnd) (b_ : Opnd) (p_ : Opnd) : Statement (.lxchDown h_ lw_ d_ a_ b_ p_) := rfl
theorem lxchXor (h_ : Hdr) (lw_ : BitVec 3) (d_ : Opnd) (a_ : Opnd) (b_ : Opnd) (p_ : Opnd) : Statement (.lxchXor h_ lw_ d_ a_ b_ p_) := rfl
theorem pollAll (h_ : Hdr) (neg_ : Bool) (d_ : Opnd) (a_ : Opnd) : Statement (.pollAll h_ neg_ d_ a_) := rfl
theorem pollAny (h_ : Hdr) (neg_ : Bool) (d_ : Opnd) (a_ : Opnd) : Statement (.pollAny h_ neg_ d_ a_) := rfl
theorem pollMask (h_ : Hdr) (neg_ : Bool) (d_ : Opnd) (a_ : Opnd) : Statement (.pollMask h_ neg_ d_ a_) := rfl
theorem foldAdd (h_ : Hdr) (ty_ : FoldTy) (rnd_ : Rnd) (sat_ : Bool) (ftz_ : Bool) (d_ : Opnd) (a_ : Opnd) : Statement (.foldAdd h_ ty_ rnd_ sat_ ftz_ d_ a_) := rfl
theorem foldMinmax (h_ : Hdr) (ty_ : FoldTy) (isMax_ : Bool) (ftz_ : Bool) (d_ : Opnd) (a_ : Opnd) : Statement (.foldMinmax h_ ty_ isMax_ ftz_ d_ a_) := rfl
theorem bcast (h_ : Hdr) (d_ : Opnd) (a_ : Opnd) (b_ : Opnd) : Statement (.bcast h_ d_ a_ b_) := rfl
theorem selem (h_ : Hdr) (ins_ : Bool) (ew_ : EW) (d_ : Opnd) (a_ : Opnd) (b_ : Opnd) : Statement (.selem h_ ins_ ew_ d_ a_ b_) := rfl
theorem srd (h_ : Hdr) (d_ : Opnd) (a_ : Opnd) : Statement (.srd h_ d_ a_) := rfl
theorem swr (h_ : Hdr) (d_ : Opnd) (a_ : Opnd) : Statement (.swr h_ d_ a_) := rfl
theorem lpr (h_ : Hdr) (snap_ : Bool) (d_ : Opnd) : Statement (.lpr h_ snap_ d_) := rfl
theorem lpw (h_ : Hdr) (snap_ : Bool) (a_ : Opnd) : Statement (.lpw h_ snap_ a_) := rfl
theorem ldg (h_ : Hdr) (w_ : MW) (sx_ : Bool) (ord_ : Ord) (scope_ : Scope) (cp_ : Cp) (d_ : Opnd) (addr_ : Addr) : Statement (.ldg h_ w_ sx_ ord_ scope_ cp_ d_ addr_) := by
 cases w_ <;> cases addr_ <;> exact rfl
theorem stg (h_ : Hdr) (w_ : MW) (ord_ : Ord) (scope_ : Scope) (cp_ : Cp) (d_ : Opnd) (addr_ : Addr) : Statement (.stg h_ w_ ord_ scope_ cp_ d_ addr_) := by
 cases w_ <;> cases addr_ <;> exact rfl
theorem lds (h_ : Hdr) (w_ : MW) (sx_ : Bool) (d_ : Opnd) (addr_ : Addr) : Statement (.lds h_ w_ sx_ d_ addr_) := by
 cases w_ <;> cases addr_ <;> exact rfl
theorem sts (h_ : Hdr) (w_ : MW) (d_ : Opnd) (addr_ : Addr) : Statement (.sts h_ w_ d_ addr_) := by
 cases w_ <;> cases addr_ <;> exact rfl
theorem ldc (h_ : Hdr) (w_ : MW) (sx_ : Bool) (cp_ : Cp) (d_ : Opnd) (a_ : Opnd) (ofs_ : BitVec 28) : Statement (.ldc h_ w_ sx_ cp_ d_ a_ ofs_) := by
 cases w_ <;> exact rfl
theorem atom (h_ : Hdr) (w64_ : Bool) (op_ : AOp) (ord_ : Ord) (scope_ : Scope) (cp_ : Cp) (d_ : Opnd) (a_ : Opnd) (ofs_ : BitVec 28) (b_ : Opnd) : Statement (.atom h_ w64_ op_ ord_ scope_ cp_ d_ a_ ofs_ b_) := by
 cases w64_ <;> exact rfl
theorem atomc (h_ : Hdr) (w64_ : Bool) (ord_ : Ord) (scope_ : Scope) (cp_ : Cp) (d_ : Opnd) (a_ : Opnd) (ofs_ : BitVec 28) (b_ : Opnd) : Statement (.atomc h_ w64_ ord_ scope_ cp_ d_ a_ ofs_ b_) := by
 cases w64_ <;> exact rfl
theorem atomf (h_ : Hdr) (ty_ : AFTy) (op_ : AFOp) (nr_ : Bool) (ord_ : Ord) (scope_ : Scope) (cp_ : Cp) (d_ : Opnd) (a_ : Opnd) (ofs_ : BitVec 28) (b_ : Opnd) : Statement (.atomf h_ ty_ op_ nr_ ord_ scope_ cp_ d_ a_ ofs_ b_) := by
 cases ty_ <;> exact rfl
theorem atoms (h_ : Hdr) (w64_ : Bool) (op_ : AOp) (d_ : Opnd) (a_ : Opnd) (ofs_ : BitVec 28) (b_ : Opnd) : Statement (.atoms h_ w64_ op_ d_ a_ ofs_ b_) := by
 cases w64_ <;> exact rfl
theorem red (h_ : Hdr) (w64_ : Bool) (op_ : AOp) (ord_ : Ord) (scope_ : Scope) (cp_ : Cp) (a_ : Opnd) (ofs_ : BitVec 28) (b_ : Opnd) : Statement (.red h_ w64_ op_ ord_ scope_ cp_ a_ ofs_ b_) := by
 cases w64_ <;> exact rfl
theorem fence (h_ : Hdr) (scope_ : Scope) (async_ : Bool) : Statement (.fence h_ scope_ async_) := rfl
theorem flush (h_ : Hdr) (a_ : Opnd) (ofs_ : BitVec 28) (b_ : Opnd) : Statement (.flush h_ a_ ofs_ b_) := rfl
theorem inval (h_ : Hdr) (scope_ : Scope) (a_ : Opnd) (ofs_ : BitVec 28) (b_ : Opnd) : Statement (.inval h_ scope_ a_ ofs_ b_) := rfl
theorem pref (h_ : Hdr) (cp_ : Cp) (a_ : Opnd) (ofs_ : BitVec 28) (b_ : Opnd) : Statement (.pref h_ cp_ a_ ofs_ b_) := rfl
theorem renew (h_ : Hdr) (a_ : Opnd) (ofs_ : BitVec 28) : Statement (.renew h_ a_ ofs_) := rfl
theorem tsadv (h_ : Hdr) (l_ : Bool) (s_ : Bool) (a_ : Opnd) : Statement (.tsadv h_ l_ s_ a_) := rfl
theorem tstate (h_ : Hdr) (d_ : Opnd) (t_ : Opnd) : Statement (.tstate h_ d_ t_) := rfl
theorem tstateArm (h_ : Hdr) (t_ : Opnd) (b_ : Opnd) : Statement (.tstateArm h_ t_ b_) := rfl
theorem copyG2t (h_ : Hdr) (cp_ : Cp) (t_ : Opnd) (a_ : Opnd) (b_ : Opnd) (c_ : Opnd) : Statement (.copyG2t h_ cp_ t_ a_ b_ c_) := rfl
theorem copyT2g (h_ : Hdr) (cp_ : Cp) (t_ : Opnd) (a_ : Opnd) (b_ : Opnd) (c_ : Opnd) : Statement (.copyT2g h_ cp_ t_ a_ b_ c_) := rfl
theorem copyG2g (h_ : Hdr) (cp_ : Cp) (d_ : Opnd) (a_ : Opnd) (b_ : Opnd) (c_ : Opnd) : Statement (.copyG2g h_ cp_ d_ a_ b_ c_) := rfl
theorem copytG2t (h_ : Hdr) (cp_ : Cp) (t_ : Opnd) (a_ : Opnd) (b_ : Opnd) (pb_ : Params) : Statement (.copytG2t h_ cp_ t_ a_ b_ pb_) := rfl
theorem copytT2g (h_ : Hdr) (cp_ : Cp) (t_ : Opnd) (a_ : Opnd) (b_ : Opnd) (pb_ : Params) : Statement (.copytT2g h_ cp_ t_ a_ b_ pb_) := rfl
theorem copys (h_ : Hdr) (cp_ : Cp) (t_ : Opnd) (a_ : Opnd) (b_ : Opnd) (c_ : Opnd) (rb_ : BitVec 13) : Statement (.copys h_ cp_ t_ a_ b_ c_ rb_) := rfl
theorem trel (h_ : Hdr) (t_ : Opnd) : Statement (.trel h_ t_) := rfl
theorem hand (h_ : Hdr) (p_ : Opnd) (t_ : Opnd) (b_ : Opnd) : Statement (.hand h_ p_ t_ b_) := rfl
theorem spset (h_ : Hdr) (wr_ : Bool) (stride_ : BitVec 12) (port_ : Opnd) (t_ : Opnd) (b_ : Opnd) (c_ : Opnd) : Statement (.spset h_ wr_ stride_ port_ t_ b_ c_) := rfl
theorem spget (h_ : Hdr) (d_ : Opnd) (port_ : Opnd) : Statement (.spget h_ d_ port_) := rfl
theorem sprst (h_ : Hdr) (port_ : Opnd) (b_ : Opnd) : Statement (.sprst h_ port_ b_) := rfl
theorem enq (h_ : Hdr) (p_ : Opnd) (va_ : Opnd) (q_ : Opnd) (st_ : Opnd) : Statement (.enq h_ p_ va_ q_ st_) := rfl
theorem enqt (h_ : Hdr) (p_ : Opnd) (a_ : Opnd) (q_ : Opnd) (st_ : Opnd) : Statement (.enqt h_ p_ a_ q_ st_) := rfl
theorem enqw (h_ : Hdr) (p_ : Opnd) (va_ : Opnd) (q_ : Opnd) (st_ : Opnd) : Statement (.enqw h_ p_ va_ q_ st_) := rfl
theorem enqwt (h_ : Hdr) (p_ : Opnd) (a_ : Opnd) (q_ : Opnd) (st_ : Opnd) : Statement (.enqwt h_ p_ a_ q_ st_) := rfl
theorem deq (h_ : Hdr) (vd_ : Opnd) (vs_ : Opnd) (p_ : Opnd) : Statement (.deq h_ vd_ vs_ p_) := rfl
theorem qlen (h_ : Hdr) (exact_ : Bool) (d_ : Opnd) (q_ : Opnd) : Statement (.qlen h_ exact_ d_ q_) := rfl
theorem spawn (h_ : Hdr) (p_ : Opnd) (va_ : Opnd) (q_ : Opnd) : Statement (.spawn h_ p_ va_ q_) := rfl
theorem arm (h_ : Hdr) (p_ : Opnd) (q_ : Opnd) (tag_ : Opnd) (base_ : Opnd) (lcnt_ : BitVec 4) (lslot_ : BitVec 4) : Statement (.arm h_ p_ q_ tag_ base_ lcnt_ lslot_) := rfl
theorem bara (h_ : Hdr) (set_ : Bool) (b_ : Opnd) (m_ : Opnd) : Statement (.bara h_ set_ b_ m_) := rfl
theorem barw (h_ : Hdr) (b_ : Opnd) : Statement (.barw h_ b_) := rfl
theorem baraw (h_ : Hdr) (b_ : Opnd) : Statement (.baraw h_ b_) := rfl
theorem sleep (h_ : Hdr) (a_ : Opnd) : Statement (.sleep h_ a_) := rfl
theorem sysc (h_ : Hdr) (d_ : Opnd) (a_ : Opnd) (b_ : Opnd) (code_ : BitVec 16) : Statement (.sysc h_ d_ a_ b_ code_) := rfl
theorem gload (h_ : Hdr) (d_ : Opnd) (a_ : Opnd) (b_ : Opnd) : Statement (.gload h_ d_ a_ b_) := rfl
theorem gstop (h_ : Hdr) (abort_ : Bool) (d_ : Opnd) (a_ : Opnd) : Statement (.gstop h_ abort_ d_ a_) := rfl
theorem mlw (h_ : Hdr) (arg_ : MlwArg) : Statement (.mlw h_ arg_) := by
 cases arg_ <;> exact rfl
theorem mswap (h_ : Hdr) : Statement (.mswap h_) := rfl
theorem mst (h_ : Hdr) (f_ : MFmt) (t_ : Opnd) (a_ : Opnd) (b_ : Opnd) (pb_ : Params) : Statement (.mst h_ f_ t_ a_ b_ pb_) := rfl
theorem mstz (h_ : Hdr) (f_ : MFmt) (t_ : Opnd) (a_ : Opnd) (b_ : Opnd) (c_ : Opnd) : Statement (.mstz h_ f_ t_ a_ b_ c_) := rfl
theorem msts (h_ : Hdr) (f_ : MFmt) (z_ : Bool) (nsa_ : Bool) (a_ : Opnd) (b_ : Opnd) (c_ : Opnd) : Statement (.msts h_ f_ z_ nsa_ a_ b_ c_) := rfl
theorem msoft (h_ : Hdr) (f_ : MFmt) (t_ : Opnd) (a_ : Opnd) (b_ : Opnd) (c_ : Opnd) : Statement (.msoft h_ f_ t_ a_ b_ c_) := rfl
theorem mrd (h_ : Hdr) (div_ : Option Rnd) (zr_ : Bool) (n_ : BitVec 4) (d_ : Opnd) (a_ : Opnd) (c_ : Opnd) : Statement (.mrd h_ div_ zr_ n_ d_ a_ c_) := rfl
theorem mrdt (h_ : Hdr) (rnd_ : Rnd) (sat_ : Bool) (f_ : MFmt) (t_ : Opnd) (a_ : Opnd) (b_ : Opnd) (c_ : Opnd) : Statement (.mrdt h_ rnd_ sat_ f_ t_ a_ b_ c_) := rfl
theorem mzero (h_ : Hdr) (a_ : Opnd) (b_ : Opnd) : Statement (.mzero h_ a_ b_) := rfl
theorem msrd (h_ : Hdr) (sum_ : Bool) (n_ : BitVec 6) (d_ : Opnd) (a_ : Opnd) : Statement (.msrd h_ sum_ n_ d_ a_) := rfl
theorem mswr (h_ : Hdr) (sum_ : Bool) (n_ : BitVec 6) (a_ : Opnd) (b_ : Opnd) : Statement (.mswr h_ sum_ n_ a_ b_) := rfl
theorem tandemWord (h_ : Hdr) (opa_ : BitVec 6) (opb_ : BitVec 6) (moda_ : BitVec 3) (modb_ : BitVec 3) (da_ : BitVec 8) (aa_ : BitVec 8) (ba_ : BitVec 8) (ca_ : BitVec 8) (db_ : BitVec 8) (ab_ : BitVec 8) (bb_ : BitVec 8) (cb_ : BitVec 8) : Statement (.tandemWord h_ opa_ opb_ moda_ modb_ da_ aa_ ba_ ca_ db_ ab_ bb_ cb_) := by
 change longOp (7#3 ++ opa_) = false
 revert opa_
 decide
theorem storePerformedAtHome (m_ : StMsg) : Statement (.storePerformedAtHome m_) := rfl
theorem storeAcknowledgement (m_ : StAck) : Statement (.storeAcknowledgement m_) := rfl
theorem loadRequestAtHome (m_ : LdReq) : Statement (.loadRequestAtHome m_) := rfl
theorem loadResultReturn (m_ : LdRep) : Statement (.loadResultReturn m_) := rfl
theorem atomicAtHome (m_ : AtMsg) : Statement (.atomicAtHome m_) := rfl
theorem atomicReply (m_ : AtRep) : Statement (.atomicReply m_) := rfl
theorem attributeProbe (m_ : Probe) : Statement (.attributeProbe m_) := rfl
theorem attributeProbeReply (m_ : ProbeRep) : Statement (.attributeProbeReply m_) := rfl
theorem homeFillReturn (m_ : FillMsg) : Statement (.homeFillReturn m_) := rfl
theorem sleepEnd (w_ : Who) : Statement (.sleepEnd w_) := rfl
theorem derailleurEvaluation (core_ : Nat) : Statement (.derailleurEvaluation core_) := rfl
theorem claimAtHome (m_ : Claim) : Statement (.claimAtHome m_) := rfl
theorem claimReply (m_ : ClaimRep) : Statement (.claimReply m_) := rfl
theorem crewRetire (crew_ : Nat) : Statement (.crewRetire crew_) := rfl
theorem preemption (crew_ : Nat) : Statement (.preemption crew_) := rfl
theorem sliceEnd (core_ : Nat) : Statement (.sliceEnd core_) := rfl
theorem sliceSwitchComplete (core_ : Nat) : Statement (.sliceSwitchComplete core_) := rfl
theorem queueAppendAtHome (m_ : Append) : Statement (.queueAppendAtHome m_) := rfl
theorem queueAnswer (m_ : EnqAns) : Statement (.queueAnswer m_) := rfl
theorem spokeSummary (core_ : Nat) (sum_ : Summary) : Statement (.spokeSummary core_ sum_) := rfl
theorem summaryStale (core_ : Nat) (num_ : Nat) (range_ : Bool) : Statement (.summaryStale core_ num_ range_) := rfl
theorem admissionDecision (w_ : Who) (va_ : Nat) (vf_ : Nat) : Statement (.admissionDecision w_ va_ vf_) := rfl
theorem graphStopComplete (graph_ : Nat) : Statement (.graphStopComplete graph_) := rfl
theorem copyChunkComplete (crew_ : Nat) (copy_ : Nat) : Statement (.copyChunkComplete crew_ copy_) := rfl
theorem copyComplete (crew_ : Nat) (copy_ : Nat) : Statement (.copyComplete crew_ copy_) := rfl
theorem handTransferComplete (crew_ : Nat) (copy_ : Nat) : Statement (.handTransferComplete crew_ copy_) := rfl
theorem matrixAccept (core_ : Nat) : Statement (.matrixAccept core_) := rfl
theorem matrixComplete (core_ : Nat) : Statement (.matrixComplete core_) := rfl
theorem mlwBackgroundLoadDone (core_ : Nat) : Statement (.mlwBackgroundLoadDone core_) := rfl
theorem miglimitExpiry (held_ : Nat) : Statement (.miglimitExpiry held_) := rfl
theorem henq (vf_ : Nat) (val_ : Word) : Statement (.henq vf_ val_) := rfl
theorem henqRecordRead (vf_ : Nat) (val_ : Word) : Statement (.henqRecordRead vf_ val_) := rfl
theorem svcval (vf_ : Nat) (val_ : Word) : Statement (.svcval vf_ val_) := rfl
theorem svctail (vf_ : Nat) (val_ : Word) : Statement (.svctail vf_ val_) := rfl
theorem serviceRecordPost (vf_ : Nat) : Statement (.serviceRecordPost vf_) := rfl
theorem vfRegisterWrite (vf_ : Nat) (ofs_ : Nat) (val_ : Word) : Statement (.vfRegisterWrite vf_ ofs_ val_) := rfl
theorem tlbinvRange (val_ : Word) : Statement (.tlbinvRange val_) := rfl
theorem tlbinvAsid (val_ : Word) : Statement (.tlbinvAsid val_) := rfl
theorem tlbinvAll (val_ : Word) : Statement (.tlbinvAll val_) := rfl
theorem pteRead (val_ : Word) : Statement (.pteRead val_) := rfl
theorem pteWrite (val_ : Word) : Statement (.pteWrite val_) := rfl
theorem pteOr (val_ : Word) : Statement (.pteOr val_) := rfl
theorem pteClear (val_ : Word) : Statement (.pteClear val_) := rfl
theorem checkpointStart (val_ : Word) : Statement (.checkpointStart val_) := rfl
theorem companionRead (pa_ : Nat) (n_ : Nat) : Statement (.companionRead pa_ n_) := rfl
theorem companionWrite (pa_ : Nat) (bytes_ : List Byte) : Statement (.companionWrite pa_ bytes_) := rfl
theorem regionMerge (base_ : Nat) : Statement (.regionMerge base_) := rfl
theorem fabcfg (val_ : Word) : Statement (.fabcfg val_) := rfl
theorem planeDeadSet (plane_ : Nat) : Statement (.planeDeadSet plane_) := rfl
theorem planeDeadClear (plane_ : Nat) : Statement (.planeDeadClear plane_) := rfl
theorem planeSwitchDrained (plane_ : Nat) : Statement (.planeSwitchDrained plane_) := rfl
theorem peerRequestArrival (m_ : PeerReq) : Statement (.peerRequestArrival m_) := rfl
theorem peerReply (m_ : PeerRep) : Statement (.peerReply m_) := rfl
theorem multicastWriteArrival (m_ : McWrite) : Statement (.multicastWriteArrival m_) := rfl
theorem torusForward (m_ : TorusSeg) : Statement (.torusForward m_) := rfl
theorem taggedMessageArrival (m_ : TagMsg) : Statement (.taggedMessageArrival m_) := rfl
theorem hmsga (val_ : Word) : Statement (.hmsga val_) := rfl
theorem hostMessageDelivery (val_ : Word) : Statement (.hostMessageDelivery val_) := rfl
theorem segbindUnbind (val_ : Word) : Statement (.segbindUnbind val_) := rfl
theorem segbindSend (val_ : Word) : Statement (.segbindSend val_) := rfl
theorem segbindReceive (val_ : Word) : Statement (.segbindReceive val_) := rfl
theorem receivingSummary (m_ : SegSumEv) : Statement (.receivingSummary m_) := rfl
theorem portForwardBurst (port_ : Nat) : Statement (.portForwardBurst port_) := rfl
theorem forwardedRecordArrival (m_ : FwdRec) : Statement (.forwardedRecordArrival m_) := rfl
theorem forwardAcknowledgement (queue_ : Nat) (seqs_ : List Nat) : Statement (.forwardAcknowledgement queue_ seqs_) := rfl
theorem linkError (l_ : Link) : Statement (.linkError l_) := rfl
theorem retrainComplete (l_ : Link) : Statement (.retrainComplete l_) := rfl
theorem portDown (port_ : Nat) : Statement (.portDown port_) := rfl
theorem portTrain (port_ : Nat) : Statement (.portTrain port_) := rfl
theorem portTakeDown (port_ : Nat) : Statement (.portTakeDown port_) := rfl
theorem portTrained (port_ : Nat) : Statement (.portTrained port_) := rfl
theorem skewUpdate (ps_ : List Word) : Statement (.skewUpdate ps_) := rfl
theorem energyUpdate (uj_ : Nat) : Statement (.energyUpdate uj_) := rfl
theorem flttail (val_ : Word) : Statement (.flttail val_) := rfl
theorem fltreplay (val_ : Word) : Statement (.fltreplay val_) := rfl
theorem dataErrorDetected (at__ : ErrAt) : Statement (.dataErrorDetected at__) := rfl
theorem contextError (crew_ : Nat) : Statement (.contextError crew_) := rfl
theorem coreRetire (val_ : Word) (reason_ : Nat) : Statement (.coreRetire val_ reason_) := rfl
theorem sliceRetire (val_ : Word) (reason_ : Nat) : Statement (.sliceRetire val_ reason_) := rfl
theorem moduleReset (env_ : BootEnv) : Statement (.moduleReset env_) := rfl
theorem registerWrite (ofs_ : Nat) (val_ : Word) : Statement (.registerWrite ofs_ val_) := rfl
theorem matrixRowComplete (core_ : Nat) : Statement (.matrixRowComplete core_) := rfl
theorem clockTick : Statement (.clockTick ) := rfl
theorem invalidationComplete : Statement (.invalidationComplete ) := rfl
theorem checkpointDrained : Statement (.checkpointDrained ) := rfl
theorem checkpointPageWritten : Statement (.checkpointPageWritten ) := rfl
theorem zenvexLinkDown : Statement (.zenvexLinkDown ) := rfl
theorem zenvexDownTimeout : Statement (.zenvexDownTimeout ) := rfl
theorem zenvexLinkUp : Statement (.zenvexLinkUp ) := rfl
theorem budgetWindowBoundary : Statement (.budgetWindowBoundary ) := rfl
theorem budgetReached : Statement (.budgetReached ) := rfl
theorem pcSample : Statement (.pcSample ) := rfl
theorem stopTriggerTime : Statement (.stopTriggerTime ) := rfl
theorem stopDumpComplete : Statement (.stopDumpComplete ) := rfl
theorem stopRelease : Statement (.stopRelease ) := rfl
theorem faultRecordPost : Statement (.faultRecordPost ) := rfl
theorem coreRetireDone : Statement (.coreRetireDone ) := rfl
theorem sliceRetireDone : Statement (.sliceRetireDone ) := rfl

end Sys2Proof.Laws.ParameterBlock
end

