-- ==== Sys2Proof/Laws/Travel.lean ====
section
/-! SUPPORT. What the shared operations over messages and requests that wait do: sending one, turning one away, answering a peer. -/

namespace Sys2Proof.Machine

/-- A packet but the last of a transaction carries no event. -/
theorem filterMap_ev_replicate (n : Nat) (p : Packet) (h : p.ev = none) : (List.replicate n p).filterMap (·.ev) = [] := by
  induction n with
  | zero => rfl
  | succ n ih => simp [List.replicate_succ, h, ih]

/-- What is under way after a message has set out: it, and all that was. -/
theorem State.mem_flying_sendFrom (s : State) (o : Option Nat) (e i : Instr) :
    i ∈ (s.sendFrom o e).flying ↔ i ∈ s.flying ∨ i = e := by
  unfold State.sendFrom State.inject State.flying
  have h := filterMap_ev_replicate
  split
  · simp only [List.mem_append, List.mem_singleton]; tauto
  · dsimp only
    split
    any_goals (simp only [List.mem_append, List.mem_singleton]; tauto)
    · dsimp only
      rw [List.filterMap_append, List.filterMap_append, h _ _ rfl]
      simp only [List.mem_append, List.append_nil, List.filterMap_cons, List.filterMap_nil, List.mem_singleton]
      tauto

theorem State.mem_flying_send (s : State) (e i : Instr) : i ∈ (s.send e).flying ↔ i ∈ s.flying ∨ i = e :=
  s.mem_flying_sendFrom none e i

/-- A request that reaches no slice that moves goes on. -/
theorem State.unlessMoves_go {s : State} {l : List Nat} {e : Instr} {k : State} (h : l.any s.sliceMoves = false) :
    s.unlessMoves l e k = k := by simp [State.unlessMoves, h]

/-- One that does waits there. -/
theorem State.unlessMoves_wait {s : State} {l : List Nat} {e : Instr} {k : State} (h : l.any s.sliceMoves = true) :
    s.unlessMoves l e k = { s with sliceWait := s.sliceWait ++ [e] } := by simp [State.unlessMoves, h]

/-- A request whose turn it is at its home is performed. -/
theorem State.homeTurn_go {s : State} {asid va : Nat} {e : Instr} {k : Unit → State}
    (h : s.held.find? (fun x => reqBefore x.req e) = none) (m : s.mustWait e = false) (p : s.portWaits e = false) :
    s.homeTurn asid va e k = k () := by
  have h' : s.held.find? (fun x => reqBefore x.req e && !atomLoad x.req e) = none := by
    simp only [List.find?_eq_none, Bool.and_eq_true, not_and] at h ⊢
    exact fun x hx r => absurd r (h x hx)
  simp [State.homeTurn, h', m, p]

/-- A request that is held changes the list of held requests and the number of the next. -/
theorem State.hold_frame (s : State) (why : HoldWhy) (asid va : Nat) (e : Instr) :
    ∃ h, s.hold why asid va e = { s with held := s.held ++ [h], fresh := s.fresh + 1 } ∧ h.req = e ∧ h.why = why ∧ h.asid = asid ∧
      h.va = va ∧ h.since = s.now := ⟨_, rfl, rfl, rfl, rfl, rfl, rfl⟩

/-- A request that had missed counts no hit. -/
@[simp] theorem State.homeHit_missed (s : State) (core vf : Nat) : s.homeHit core vf true = s := rfl

/-- A hit changes the counters of its core, and what overflows. -/
theorem State.homeHit_frame (s : State) (core vf : Nat) (b : Bool) :
    ∃ cores w, s.homeHit core vf b = { s with cores := cores, svcWait := w } := by
  cases b
  · exact s.perfAdd_some core vf 0x09 1
  · exact ⟨_, _, rfl⟩

/-- A count of a port changes the control window alone. -/
theorem State.portCount_frame (s : State) (port which n : Nat) : ∃ w, s.portCount port which n = { s with win := w } := ⟨_, rfl⟩

/-- An answer to a peer is handed out by the port that its request came by, and counted there. -/
theorem State.peerAnswer_frame (s : State) (m : PeerReq) (r : PeerRes) :
    ∃ w, s.peerAnswer m r = { s with win := w, outbox := s.outbox ++ [.peerAns m.tag m.port r] } := ⟨_, rfl⟩

end Sys2Proof.Machine
end

