-- ==== Sys2Proof/Tests/Slice0.lean ====
section
/-! SUPPORT. Tests: words written from the encoding tables of the spec (05 to 11) and what they decode to, ill-formed
terms, one witness for each statement that has hypotheses, and single steps. Every expected result is from the spec. -/

namespace Sys2Proof.Tests
open Sys2Proof Sys2Proof.Machine

set_option Elab.async false

/-! ## Words from the spec's fields

Operand fields by 05 R107: V n is n, G n is 0x400 + n, P n is 0x800 + n, SP n is 0x810 + n, T n is 0x820 + n, B n is
0x8A0 + n, an immediate n is 0xC00 + n mod 1024. -/

/-- An unguarded R-format word (05 R110, R115). -/
def rw (op mod d a b c mod2 : Nat) : Nat :=
  op * 2 ^ 87 + 15 * 2 ^ 82 + mod * 2 ^ 64 + d * 2 ^ 52 + a * 2 ^ 40 + b * 2 ^ 28 + c * 2 ^ 16 + mod2

/-- An I-format word: IMM32 in [39:8]. -/
def iw (op mod d a imm lo : Nat) : Nat :=
  op * 2 ^ 87 + 15 * 2 ^ 82 + mod * 2 ^ 64 + d * 2 ^ 52 + a * 2 ^ 40 + imm * 2 ^ 8 + lo

/-- An M-format word: OFS28 in [27:0]. -/
def mw (op mod d a b ofs : Nat) : Nat :=
  op * 2 ^ 87 + 15 * 2 ^ 82 + mod * 2 ^ 64 + d * 2 ^ 52 + a * 2 ^ 40 + b * 2 ^ 28 + ofs

/-- An unguarded header without hints. -/
def u : Hdr := { pn := false, pg := 15, s := false, y := false, k := 0, e := 0 }

/-- MOD of a floating word with nothing set. -/
def f0 : FMod := { rnd := .rn, sat := false, ftz := false, negA := false, negB := false, negC := false, absA := false, absB := false }

/-- Does every word decode to the instruction beside it? -/
def reads (l : List (Nat × Instr)) : Bool := l.all fun p => decodeTableWord 96 p.1 == some p.2

/-- Does every word fail decoding with the cause? -/
def fails (c : DErr) (l : List Nat) : Bool := l.all fun w => decodeBytes (bytesOf w 28) == .error c

/-- Control (07 R153). -/
theorem test_words_control : reads [
  (rw 0x000 0 0 0 0 0 0, .nop u),
  (iw 0x001 0 0 0 0xFFFFFFE8 0, .bra u 0xFFFFFFE8),
  (rw 0x002 0 0 0x407 0 0 0, .brx u (.g 7)),
  (iw 0x003 0 0x002 0 0x120 0, .call u (.v 2) 0x120),
  (rw 0x004 0 0x002 0x005 0 0 0, .callx u (.v 2) (.v 5)),
  (rw 0x005 0 0 0x002 0 0 0, .ret u (.v 2)),
  (rw 0x006 0 0 0 0 0 0, .join u),
  (rw 0x007 0 0 0 0 0 0, .yield u),
  (rw 0x008 0 0 0 0 0 0, .exit u),
  (iw 0x009 0 0 0 0xBEEF 0, .region u 0xBEEF),
  (iw 0x00A 0 0 0 0x1234 0, .trap u 0x1234),
  (rw 0x00B 1 0 0 0 0 0, .rtt u true),
  (iw 0x00C 0 0 0 0x7 0, .brk u 7)] = true := by decide

/-- Integer words (06 R138, 07 R164 to R174); the second IADD is the spec's own example. -/
theorem test_words_integer : reads [
  (rw 0x021 0xC00 0x007 0x002 0xFFD 0 0, .iadd u .w32 true true (.v 7) (.v 2) (.r (.imm 0x3FD))),
  (0x10BC0C00007002FFD0000000, .iadd u .w32 true true (.v 7) (.v 2) (.r (.imm 0x3FD))),
  (iw 0x050 0x803 0x007 0x402 0xFF 0, .iadd u .w8 true false (.v 7) (.g 2) (.i 0xFF)),
  (rw 0x026 0x000 0x813 0x002 0x003 0 0, .isub u .w16 false false (.sp 3) (.v 2) (.v 3)),
  (rw 0x028 0x800 0x001 0x002 0x003 0 0, .imul u .w64 true false (.v 1) (.v 2) (.r (.v 3))),
  (rw 0x02F 0x000 0x001 0x002 0x003 0 0, .imulh u .w8 false (.v 1) (.v 2) (.v 3)),
  (rw 0x031 0xC00 0x001 0x002 0x003 0x004 0, .imad u .w32 true true (.v 1) (.v 2) (.r (.v 3) (.v 4))),
  (iw 0x052 0x002 0x001 0x002 0x7FFF 0, .imad u .w16 false false (.v 1) (.v 2) (.i 0x7FFF)),
  (rw 0x035 0x800 0x001 0x002 0x003 0 0, .imin u .w32 true (.v 1) (.v 2) (.v 3)),
  (rw 0x038 0x000 0x001 0x002 0x003 0 0, .imax u .w64 false (.v 1) (.v 2) (.v 3)),
  (rw 0x03D 0xC00 0x001 0x002 0 0 0, .iabs u .w32 true (.v 1) (.v 2)),
  (rw 0x041 0x960 0x805 0x002 0x003 0 0, .icmp u .w32 true .ge true (.p 5) (.v 2) (.r (.v 3))),
  (iw 0x053 0x081 0x001 0x002 9 0, .icmp u .w32 false .lt false (.v 1) (.v 2) (.i 9)),
  (rw 0x045 0x000 0x001 0x002 0x003 0 0, .shl u .w32 false (.v 1) (.v 2) (.r (.v 3))),
  (rw 0x04A 0x000 0x001 0x002 0x003 0 0, .shr u .w16 false (.v 1) (.v 2) (.r (.v 3))),
  (rw 0x04F 0x800 0x001 0x002 0x003 0 0, .shra u .w8 true (.v 1) (.v 2) (.r (.v 3)))] = true := by decide

/-- Untyped integer words. -/
theorem test_words_untyped : reads [
  (rw 0x05C 0x800 0x001 0x002 0x003 0x004 0, .isad u true (.v 1) (.v 2) (.v 3) (.v 4)),
  (rw 0x05D 0 0x001 0x002 0x003 0x004 0xF8, .blut u 0xF8 (.v 1) (.v 2) (.r (.v 3) (.v 4))),
  (iw 0x057 0 0x001 0x002 0xFF 0x88, .blut u 0x88 (.v 1) (.v 2) (.i 0xFF)),
  (rw 0x05E 0 0x001 0x002 0xC05 0 0, .rot u (.v 1) (.v 2) (.r (.imm 5))),
  (rw 0x05F 0 0x001 0x002 0x003 0x004 0, .funnel u (.v 1) (.v 2) (.v 3) (.v 4)),
  (rw 0x060 0 0x001 0x002 0 0 0, .popc u (.v 1) (.v 2)),
  (rw 0x061 0 0x001 0x002 0 0 0, .clz u (.v 1) (.v 2)),
  (rw 0x062 0 0x001 0x002 0 0 0, .ctz u (.v 1) (.v 2)),
  (rw 0x063 0 0x001 0x002 0 0 0, .brev u (.v 1) (.v 2)),
  (rw 0x064 0x800 0x001 0x002 0x403 0 0, .bfx u true (.v 1) (.v 2) (.r (.g 3))),
  (iw 0x05A 0 0x001 0x002 0x804 0, .bfi u (.v 1) (.v 2) (.i 0x804)),
  (rw 0x066 0 0x001 0x002 0x003 0x80F 0, .isel u (.v 1) (.v 2) (.v 3) (.p 15)),
  (rw 0x067 0 0x001 0x002 0x003 0 3, .lea u 3 (.v 1) (.v 2) (.r (.v 3))),
  (rw 0x068 0 0x001 0x002 0x003 0x80F 4, .iaddc u (.v 1) (.v 2) (.v 3) (.p 15) 4),
  (rw 0x069 0 0x801 0x802 0x803 0x804 0x96, .plut u 0x96 (.p 1) (.p 2) (.p 3) (.p 4)),
  (rw 0x06B 0x400 0x001 0x002 0x003 0x004 0, .idot4 u true false true (.v 1) (.v 2) (.v 3) (.v 4)),
  (rw 0x070 0 0x001 0x002 0x003 0x004 0, .idot2 u false true false (.v 1) (.v 2) (.v 3) (.v 4))] = true := by decide

/-- Floating words (06 R139, 08 R179 to R188). -/
theorem test_words_floating : reads [
  (rw 0x081 0x580 0x001 0x002 0x003 0 0, .fadd u .f32 { f0 with rnd := .rp, sat := true, ftz := true } (.v 1) (.v 2) (.r (.v 3))),
  (iw 0x0A1 0x040 0x001 0x002 0x3F800000 0, .fadd u .f32 { f0 with negA := true } (.v 1) (.v 2) (.i 0x3F800000)),
  (rw 0x086 0x024 0x001 0x002 0x003 0 0, .fmul u .f16 { f0 with negB := true, absB := true } (.v 1) (.v 2) (.r (.v 3))),
  (rw 0x088 0xA10 0x001 0x002 0x003 0x004 0, .ffma u .f64 { f0 with rnd := .dyn, negC := true } (.v 1) (.v 2) (.r (.v 3) (.v 4))),
  (rw 0x08F 0x008 0x001 0x002 0x003 0 0, .fmin u .bf16 { f0 with absA := true } (.v 1) (.v 2) (.v 3)),
  (rw 0x090 0 0x001 0x002 0x003 0 0, .fmax u .f64 f0 (.v 1) (.v 2) (.v 3)),
  (rw 0x095 0 0x001 0x002 0x003 0 0, .fminm u .f32 f0 (.v 1) (.v 2) (.v 3)),
  (rw 0x09A 0 0x001 0x002 0x003 0 0, .fmaxm u .f16 f0 (.v 1) (.v 2) (.v 3)),
  (rw 0x09D 0x080 0x803 0x002 0x003 0 0x12, .fcmp u .f32 { f0 with ftz := true } .lt true (.p 3) (.v 2) (.v 3)),
  (rw 0x0A6 0 0x803 0x002 0 0 0x4403, .fclass u .f32 true 3 (.p 3) (.v 2)),
  (rw 0x0A7 0 0x001 0x002 0x003 0x004 0x4000, .fdot2 u true f0 (.v 1) (.v 2) (.v 3) (.v 4)),
  (rw 0x0A8 0 0x001 0x002 0x003 0x004 0x8000, .fdot4 u true false f0 (.v 1) (.v 2) (.v 3) (.v 4)),
  (rw 0x0A9 0x200 0x001 0x002 0 0 0x8000, .frnd u .f16 { f0 with rnd := .rz } (.v 1) (.v 2)),
  (rw 0x0AA 0 0x001 0x002 0xFFF 0 0xC000, .fscale u .bf16 f0 (.v 1) (.v 2) (.imm 0x3FF)),
  (rw 0x0AB 0 0x001 0x002 0 0 0, .fgetexp u .f64 f0 (.v 1) (.v 2)),
  (rw 0x0AC 0 0x001 0x002 0 0 0x4000, .fgetmant u .f32 f0 (.v 1) (.v 2)),
  (rw 0x0AD 0 0x001 0x002 0x003 0 0x4001, .ferr u .f32 f0 true (.v 1) (.v 2) (.v 3))] = true := by decide

/-- Conversions and special functions (06 R140, 08 R189 to R198); the second CVT.FF is the spec's own example. -/
theorem test_words_convert : reads [
  (rw 0x0E0 0 0x003 0x004 0 0 0x5110, .cvtFf u .e4m3 .f32 f0 1 (.v 3) (.v 4)),
  (0x703C00000030040000005110, .cvtFf u .e4m3 .f32 f0 1 (.v 3) (.v 4)),
  (rw 0x0E1 0x200 0x003 0x004 0 0 0x1100, .cvtFi u { w := .w32, signed := true } .f32 { f0 with rnd := .rz } 0 (.v 3) (.v 4)),
  (rw 0x0E2 0 0x003 0x004 0 0 0x1720, .cvtIf u .f32 { w := .w8, signed := false } f0 2 (.v 3) (.v 4)),
  (rw 0x0E3 0x100 0x003 0x004 0 0 0x7130, .cvtIi u { w := .w8, signed := false } { w := .w32, signed := true } { f0 with sat := true } 3 (.v 3) (.v 4)),
  (rw 0x0E4 0 0x003 0x004 0x005 0 0x5110, .cvts u .e4m3 .f32 f0 1 (.v 3) (.v 4) (.v 5)),
  (rw 0x0E5 0 0x003 0x004 0x006 0x005 0x5111, .cvtef u .e4m3 f0 1 true (.v 3) (.v 4) (.v 6) (.v 5)),
  (rw 0x0E6 0 0x003 0x004 0x005 0 0x3100, .cvtsr u .bf16 .f32 f0 0 (.v 3) (.v 4) (.v 5)),
  (rw 0x0E7 0 0x003 0x004 0x005 0 0x0020, .packB6 u 2 (.v 3) (.v 4) (.v 5)),
  (rw 0x0E8 0 0x003 0x004 0x005 0 0x0030, .unpkB6 u 3 (.v 3) (.v 4) (.v 5)),
  (rw 0x0E7 0 0x003 0x004 0x005 0 0x0011, .packTri u 1 (.v 3) (.v 4) (.v 5)),
  (rw 0x0E8 0 0x003 0x004 0 0 0x0031, .unpkTri u 3 (.v 3) (.v 4)),
  (rw 0x0E9 0 0x003 0x004 0x005 0 0x0030, .bscl u 3 (.v 3) (.v 4) (.v 5)),
  (rw 0x0EA 0x200 0x003 0x004 0 0 0, .rcp u .f64 { f0 with rnd := .rz } (.v 3) (.v 4)),
  (rw 0x0EE 0 0x003 0x004 0 0 0, .rsq u .f32 f0 (.v 3) (.v 4)),
  (rw 0x0F2 0 0x003 0x004 0 0 0, .sqrt u .f16 f0 (.v 3) (.v 4)),
  (rw 0x0F3 0 0x003 0x004 0 0 0, .exp2 u .f32 f0 (.v 3) (.v 4)),
  (rw 0x0F6 0 0x003 0x004 0 0 0, .log2 u .f16 f0 (.v 3) (.v 4)),
  (rw 0x0F7 0x040 0x003 0x004 0 0 0, .sin u .f32 { f0 with negA := true } (.v 3) (.v 4)),
  (rw 0x0FA 0 0x003 0x004 0 0 0, .cos u .f16 f0 (.v 3) (.v 4)),
  (rw 0x0FB 0 0x003 0x004 0 0 0, .tanh u .f32 f0 (.v 3) (.v 4))] = true := by decide

/-- Move and lane words (06 R141, 08 R201). -/
theorem test_words_move : reads [
  (rw 0x100 0 0x811 0x0FF 0 0 0, .mov u (.sp 1) (.v 255)),
  (iw 0x101 0 0x401 0 0x80000000 1, .movi u true (.g 1) 0x80000000),
  (iw 0x102 0 0x001 0 0x12345678 0, .movih u (.v 1) 0x12345678),
  (rw 0x103 0 0x001 0x002 0x003 0x804 0x35, .lxchIdx u .w8 5 (.v 1) (.v 2) (.v 3) (.p 4)),
  (rw 0x104 0 0x001 0x002 0xC01 0x80F 1, .lxchUp u 1 (.v 1) (.v 2) (.imm 1) (.p 15)),
  (rw 0x105 0 0x001 0x002 0xC01 0x80F 2, .lxchDown u 2 (.v 1) (.v 2) (.imm 1) (.p 15)),
  (rw 0x106 0 0x001 0x002 0xC01 0x80F 3, .lxchXor u 3 (.v 1) (.v 2) (.imm 1) (.p 15)),
  (rw 0x107 0 0x801 0x802 0 0 1, .pollAll u true (.p 1) (.p 2)),
  (rw 0x108 0 0x801 0x802 0 0 0, .pollAny u false (.p 1) (.p 2)),
  (rw 0x109 0 0x401 0x802 0 0 0, .pollMask u false (.g 1) (.p 2)),
  (rw 0x10A 0x800 0x001 0x002 0 0 0x11, .foldAdd u (.flt .f32) .ro false false (.v 1) (.v 2)),
  (rw 0x10B 0 0x001 0x002 0 0 0x25, .foldMinmax u (.int { w := .w32, signed := false }) true false (.v 1) (.v 2)),
  (rw 0x10C 0 0x001 0x002 0xC1F 0 0, .bcast u (.v 1) (.v 2) (.imm 31)),
  (rw 0x10D 0 0x001 0x002 0xC03 0 6, .selem u true .w16 (.v 1) (.v 2) (.imm 3)),
  (rw 0x10E 0 0x001 0x910 0 0 0, .srd u (.v 1) (.sreg 0x10)),
  (rw 0x10F 0 0x92C 0x001 0 0 0, .swr u (.sreg 0x2C) (.v 1)),
  (rw 0x110 0 0x001 0 0 0 1, .lpr u true (.v 1)),
  (rw 0x111 0 0 0x001 0 0 0, .lpw u false (.v 1))] = true := by decide

set_option maxRecDepth 4000 in
/-- Loads and stores (06 R142, 09 R215 to R219). -/
theorem test_words_memory : reads [
  (0x93BC00400084040030000003, .ldg u .b64 false .plain .grp .na (.v 8) (.x (.g 4) (.v 3) 3)),
  (mw 0x124 0x690 0x008 0x404 0 0xFFFFFFC, .ldg u .b32 true .acq .dev .dflt (.v 8) (.o (.g 4) 0xFFFFFFC)),
  (mw 0x132 0xAE0 0x008 0x404 0 0x10, .stg u .b128 .rel .dev .home (.v 8) (.o (.g 4) 0x10)),
  (mw 0x134 0x010 0x008 0x404 0 0x10, .lds u .b8 true (.v 8) (.o (.g 4) 0x10)),
  (mw 0x145 0 0xC05 0x004 0x005 2, .sts u .b64 (.imm 5) (.x (.v 4) (.v 5) 2)),
  (mw 0x14C 0x020 0x008 0x404 0 0x20, .ldc u .b128 false .ef (.v 8) (.g 4) 0x20)] = true := by decide

/-- Atomics (09 R224 to R227). -/
theorem test_words_atomic : reads [
  (mw 0x14E 0x689 0x008 0x404 0xC01 0x8, .atom u true .inc .acq .dev .dflt (.v 8) (.g 4) 8 (.imm 1)),
  (mw 0x14F 0xB60 0x008 0x404 0x005 0x8, .atomc u false .rel .dom .home (.v 8) (.g 4) 8 (.v 5)),
  (mw 0x153 0x292 0 0x404 0x005 0x8, .atomf u .bf16x2 .max true .plain .dev .dflt (.v 0) (.g 4) 8 (.v 5)),
  (mw 0x154 0x008 0x008 0x404 0x005 0x8, .atoms u false .xchg (.v 8) (.g 4) 8 (.v 5)),
  (mw 0x157 0x287 0 0x404 0x005 0x8, .red u true .maxn .plain .dev .dflt (.g 4) 8 (.v 5))] = true := by decide

/-- Fences, ranges and clocks (09 R229 to R233). -/
theorem test_words_range : reads [
  (rw 0x158 0x390 0 0 0 0 0, .fence u .sys true),
  (mw 0x159 0 0 0x404 0xC40 0x100, .flush u (.g 4) 0x100 (.imm 0x40)),
  (mw 0x15A 0x200 0 0x404 0xC40 0x100, .inval u .die (.g 4) 0x100 (.imm 0x40)),
  (mw 0x15B 0x040 0 0x404 0xC40 0x100, .pref u .na (.g 4) 0x100 (.imm 0x40)),
  (mw 0x15C 0 0 0x404 0 0x100, .renew u (.g 4) 0x100),
  (rw 0x15D 0 0 0xC10 0 0 3, .tsadv u true true (.imm 16))] = true := by decide

/-- Tile, copy and stream words (06 R143, 09 R235 to R247); a block of zeros follows COPYT. -/
theorem test_words_copy : reads [
  (rw 0x160 0 0x001 0x825 0 0 0, .tstate u (.v 1) (.tile 5)),
  (rw 0x160 0 0 0x825 0x402 0 1, .tstateArm u (.tile 5) (.g 2)),
  (rw 0x161 0x020 0x825 0x401 0x402 0xC00 0, .copyG2t u .ef (.tile 5) (.g 1) (.g 2) (.imm 0)),
  (rw 0x162 0x040 0x825 0x401 0x402 0xC00 0, .copyT2g u .na (.tile 5) (.g 1) (.g 2) (.imm 0)),
  (rw 0x163 0x060 0x403 0x401 0x402 0x404 0, .copyG2g u .home (.g 3) (.g 1) (.g 2) (.g 4)),
  (rw 0x164 0 0x825 0x401 0x402 0 0, .copytG2t u .dflt (.tile 5) (.g 1) (.g 2) { w0 := .val 0, w1 := .val 0, w2 := .val 0, w3 := .val 0 }),
  (rw 0x165 0 0x825 0x401 0xC02 0 0, .copytT2g u .dflt (.tile 5) (.g 1) (.imm 2) { w0 := .val 0, w1 := .val 0, w2 := .val 0, w3 := .val 0 })] = true := by decide

/-- The other tile and stream words. -/
theorem test_words_tile : reads [
  (rw 0x166 0 0x825 0x401 0x002 0xC00 0x1000, .copys u .dflt (.tile 5) (.g 1) (.v 2) (.imm 0) 4096),
  (rw 0x167 0 0 0x89F 0 0 0, .trel u (.tile 127)),
  (rw 0x168 0 0x803 0x825 0x402 0 0, .hand u (.p 3) (.tile 5) (.g 2)),
  (rw 0x169 0 0x817 0x825 0xC00 0xC04 0x8FFF, .spset u true 0xFFF (.sp 7) (.tile 5) (.imm 0) (.imm 4)),
  (rw 0x16A 0 0x001 0x812 0 0 0, .spget u (.v 1) (.sp 2)),
  (rw 0x16B 0 0x812 0 0xC03 0 0, .sprst u (.sp 2) (.imm 3))] = true := by decide

/-- Queue, synchronisation and system words (06 R144, 10 R250); the first ENQ is the spec's own example. -/
theorem test_words_queue : reads [
  (rw 0x180 0 0x802 0x008 0xC03 0x014 0, .enq u (.p 2) (.v 8) (.imm 3) (.v 20)),
  (rw 0x181 0 0x80F 0x408 0x003 0 0, .enqt u (.p 15) (.g 8) (.v 3) (.v 0)),
  (rw 0x182 0 0x802 0x008 0x403 0x014 0, .enqw u (.p 2) (.v 8) (.g 3) (.v 20)),
  (rw 0x183 0 0x802 0x008 0xC03 0x014 0, .enqwt u (.p 2) (.v 8) (.imm 3) (.v 20)),
  (rw 0x184 0 0x006 0 0x007 0x801 0, .deq u (.v 6) (.v 7) (.p 1)),
  (rw 0x185 0 0x401 0xC03 0 0 1, .qlen u true (.g 1) (.imm 3)),
  (rw 0x186 0 0x802 0x008 0xC03 0 0, .spawn u (.p 2) (.v 8) (.imm 3)),
  (rw 0x187 0 0x802 0xC03 0x405 0x406 0xC0A, .arm u (.p 2) (.imm 3) (.g 5) (.g 6) 12 10),
  (rw 0x188 0 0 0x8AF 0x402 0 1, .bara u true (.bar 15) (.g 2)),
  (rw 0x189 0 0 0x8A3 0 0 0, .barw u (.bar 3)),
  (rw 0x18A 0 0 0x8A3 0 0 0, .baraw u (.bar 3)),
  (rw 0x18B 0 0 0xC20 0 0 0, .sleep u (.imm 32)),
  (rw 0x18C 0 0x401 0x402 0xC00 0 0xABCD, .sysc u (.g 1) (.g 2) (.imm 0) 0xABCD),
  (rw 0x18D 0 0x401 0x402 0xC01 0 0, .gload u (.g 1) (.g 2) (.imm 1)),
  (rw 0x18E 0 0x401 0x402 0 0 1, .gstop u true (.g 1) (.g 2))] = true := by decide

/-- Matrix words (06 R145, 11 R271, R285), and a parameter block behind MST (05 R123). -/
theorem test_words_matrix : reads [
  (rw 0x1A0 0x300 0x825 0 0 0 1, .mlw u (.load (.tile 5) .e2m3 true)),
  (rw 0x1A0 0 0 0 0 0 2, .mlw u .drop),
  (rw 0x1A1 0 0 0 0 0 0, .mswap u),
  (rw 0x1A2 0 0x825 0 0xC00 0 0 + (3 + 16 * 2 ^ 32 + (2 ^ 31 + 9) * 2 ^ 64 + 0x1005 * 2 ^ 96) * 2 ^ 96,
    .mst u .e4m3 (.tile 5) (.v 0) (.imm 0) { w0 := .val 3, w1 := .val 16, w2 := .g 9, w3 := .val 0x1005 }),
  (rw 0x1A3 0x500 0x825 0x401 0 0x402 0, .mstz u .bf16 (.tile 5) (.g 1) (.v 0) (.g 2)),
  (rw 0x1A4 0x100 0 0x008 0x009 0xC03 1, .msts u .e5m2 true false (.v 8) (.v 9) (.imm 3)),
  (rw 0x1A5 0x600 0x825 0 0x401 0x402 0, .msoft u .fp16 (.tile 5) (.v 0) (.g 1) (.g 2)),
  (rw 0x1A6 0 0x008 0xC00 0 0 0x2F, .mrd u none true 15 (.v 8) (.imm 0) (.v 0)),
  (rw 0x1A7 0xB00 0x825 0 0x401 0xC00 1, .mrdt u .dyn true .e5m2 (.tile 5) (.v 0) (.g 1) (.imm 0)),
  (rw 0x1A8 0 0 0xC00 0xC40 0 0, .mzero u (.imm 0) (.imm 64)),
  (rw 0x1A9 0 0x001 0xC00 0 0 0x7F, .msrd u true 63 (.v 1) (.imm 0)),
  (rw 0x1AA 0 0 0x001 0xC00 0 2, .mswr u false 1 (.v 1) (.imm 0))] = true := by decide

/-- Guards and hints (05 R110), the spec's own words, and the tandem word of 05 R122's example. -/
theorem test_words_examples : reads [
  (0x448F00000040050060040000, .ffma { u with pg := 3, s := true, y := true } .f32 f0 (.v 4) (.v 5) (.r (.v 6) (.v 4))),
  (0xE4BC00420405060408090A00, .tandemWord u 9 1 0 2 4 5 6 4 8 9 10 0),
  (rw 0x000 0 0 0 0 0 0 + 2 ^ 78, .nop { u with k := 1 })] = true := by decide

/-- Words that fail decoding, from the table under 05 and 06: cause 0x01. -/
theorem test_words_illegal : fails .illegal [
  0x573C0 * 2 ^ 76, 0xF9BC0 * 2 ^ 76, rw 0x00D 0 0 0 0 0 0, rw 0x1AB 0 0 0 0 0 0,
  rw 0x002 0 0 0xC01 0 0 0, rw 0x10F 0 0x001 0x001 0 0 0] = true := by decide

/-- Cause 0x02: an extent hint on NOP, a negated P15, an unused field, a reserved bit, a reserved rounding, a reserved
special index. -/
theorem test_words_reserved : fails .reserved [
  0x003C1 * 2 ^ 76, 0x007C0 * 2 ^ 76, rw 0x000 0 1 0 0 0 0, rw 0x060 0x800 0x001 0x002 0 0 0,
  rw 0x081 0xC00 0x001 0x002 0x003 0 0, rw 0x10E 0 0x001 0x91E 0 0 0] = true := by decide

/-- Cause 0x04: V13 for CA in the example of 05 R122; V9 there stays legal. -/
theorem test_words_tandem : fails .tandem [0xE4BC00420405060D08090A00] = true ∧
    reads [(0xE4BC00420405060908090A00, .tandemWord u 9 1 0 2 4 5 6 9 8 9 10 0)] = true := by decide

/-! ## Ill-formed terms, one for each check -/

/-- Headers, operand classes and modifiers of control, integer and floating words. -/
theorem test_wf_scalar : [
  Instr.nop { u with pn := true },                                            -- negated P15 (05 R111)
  .nop { u with e := 1 },                                                     -- E outside the memory family (05 R113)
  .brx u (.imm 1), .ret u (.g 1),                                             -- operand classes (05 R108)
  .srd u (.v 1) (.sreg 0x1E),                                                 -- an unlisted special register (05 R125)
  .imad u .w32 true false (.sp 1) (.v 1) (.i 1),                              -- D of an I form that reads it (07 R170)
  .icmp u .w32 true .un false (.v 1) (.v 2) (.r (.v 3)),                      -- a floating comparison (07 R164)
  .icmp u .w32 true .eq true (.v 1) (.v 2) (.r (.v 3)),                       -- ANY without a predicate (07 R168)
  .fadd u .f16 f0 (.v 1) (.v 2) (.i 0),                                       -- no immediate form of F16 (08 R188)
  .fadd u .f32 { f0 with negC := true } (.v 1) (.v 2) (.r (.v 3)),            -- modifiers not marked (08 R179)
  .frnd u .f32 { f0 with sat := true } (.v 1) (.v 2),
  .fmin u .f32 { f0 with rnd := .rz } (.v 1) (.v 2) (.v 3),
  .cvtFf u .ue4m3 .f32 f0 0 (.v 1) (.v 2),                                    -- UE4M3 is a source only (08 R189)
  .cvtFf u .e4m3 .f32 f0 4 (.v 1) (.v 2),                                     -- part 4 of 4 (08 R190)
  .cvtFf u .e4m3 .f32 f0 0 (.sp 1) (.v 2),                                    -- a part kept in a stream port (08 R190)
  .cvts u .f32 .f16 f0 0 (.v 1) (.v 2) (.v 3),                                -- Td wider than Ts (08 R192)
  .cvtef u .e4m3 f0 0 false (.v 1) (.v 2) (.v 0) (.v 1),                      -- D and C the same register (08 R193)
  .cvtef u .e4m3 f0 0 false (.v 1) (.v 2) (.v 3) (.v 4),                      -- B without SCL (08 R193)
  .cvtsr u .f32 .f32 f0 0 (.v 1) (.v 2) (.v 3),                               -- not narrower (08 R194)
  .packB6 u 3 (.v 1) (.v 2) (.v 3), .packTri u 2 (.v 1) (.v 2) (.v 3),        -- k out of range (08 R196, R197)
  .bscl u 4 (.v 1) (.v 2) (.v 3),                                             -- k out of range (08 R195)
  .rcp u .bf16 f0 (.v 1) (.v 2), .sin u .f64 f0 (.v 1) (.v 2),                -- types without the function (08 R198)
  .lxchUp u 0 (.v 1) (.v 2) (.imm 1) (.p 15), .lxchXor u 6 (.v 1) (.v 2) (.imm 1) (.p 15)] -- LW (08 R201)
    |>.all (fun i => !i.wf) := by decide

/-- Memory, tile, queue, matrix and tandem words. -/
theorem test_wf_memory : [
  Instr.ldg u .b32 false .rel .dev .dflt (.v 1) (.o (.v 2) 0),                -- a release load (09 R215)
  .ldg u .b32 false .plain .dev .dflt (.v 1) (.o (.v 2) 0),                   -- a scope without an ordering
  .ldg u .b64 true .plain .grp .dflt (.v 1) (.o (.v 2) 0),                    -- SX of a full lane
  .ldg u .b32 false .plain .grp .dflt (.v 1) (.x (.v 2) (.imm 1) 0),          -- an immediate index (05 R117)
  .ldc u .b32 false .home (.v 1) (.v 2) 0,                                    -- CP of LDC
  .atom u false .add .plain .dev .ef (.v 1) (.v 2) 0 (.v 3),                  -- CP of an atomic
  .red u false .xchg .plain .dev .dflt (.v 2) 0 (.v 3),                       -- XCHG in RED (09 R225)
  .atomf u .f32 .add true .plain .dev .dflt (.v 1) (.v 2) 0 (.v 3),           -- D with NR (09 R227)
  .pref u .ef (.v 2) 0 (.v 3), .tsadv u false false (.imm 1),                 -- CP of PREF, no clock (09 R231, R233)
  .copys u .dflt (.tile 0) (.g 1) (.v 1) (.imm 0) 4097,                       -- row bytes (09 R242)
  .spset u false 0 (.sp 1) (.tile 0) (.imm 0) (.imm 0),                       -- a stride of 0 (09 R245)
  .arm u (.p 1) (.imm 0) (.g 1) (.g 2) 13 0, .arm u (.p 1) (.imm 0) (.g 1) (.g 2) 12 11, -- LCNT, LSLOT (10 R262)
  .bara u false (.bar 0) (.imm 1),                                            -- a mask without SET (10 R250)
  .mlw u (.load (.tile 0) .f32 false), .mlw u (.load (.tile 0) .bf16 true),   -- formats, NSW unscaled (11 R285)
  .mst u .i8 (.tile 0) (.v 0) (.imm 0) { w0 := .val 1, w1 := .val 1, w2 := .val 0, w3 := .val 0 },
  .msts u .bf16 false false (.v 1) (.v 2) (.imm 0),                           -- scales of an unscaled format
  .msoft u .i8 (.tile 0) (.v 0) (.g 1) (.imm 0), .mrd u none false 0 (.v 1) (.imm 0) (.imm 0),
  .mrdt u .rn false .bf16 (.tile 0) (.v 0) (.g 1) (.imm 0),                   -- C with an unscaled output
  .tandemWord u 0x30 1 0 2 4 5 6 4 8 9 10 0,                                  -- an unlisted entry (05 R120)
  .tandemWord u 9 1 6 2 4 5 6 4 8 9 10 0,                                     -- a reserved modifier (05 R119)
  .tandemWord u 9 1 0 2 4 5 6 4 8 9 10 1,                                     -- an unused field (05 R119)
  .tandemWord u 9 1 0 2 4 5 6 4 4 9 10 0,                                     -- DA = DB (05 R122)
  .tandemWord u 9 1 0 2 4 5 6 13 8 9 10 0]                                    -- three sources of one bank (05 R122)
    |>.all (fun i => !i.wf) := by decide

/-- Seven sources, at most two in a bank: rule 3 alone refuses them (05 R122). -/
theorem test_tandem_rule3 : tandemRules 0 1 [4, 8, 5, 9, 6, 10, 7] = false ∧ tandemRules 0 1 [4, 8, 5, 9, 6, 10] = true := by
  decide

/-! ## A small machine -/

/-- A group whose 32 lanes are live at 0x100 and depth 1. -/
def gw : Group where
  lp := (List.range 32).map fun l => (l, { st := .live, depth := 1, pc := 0x100 })
  snap := (List.range 32).map fun l => (l, { st := .live, depth := 1, pc := 0x100 })

/-- A crew of one group, with a READY and an EMPTY tile. -/
def cw (g : Group) : Crew where
  id := 0
  asid := 1
  stage := 1
  graph := 1
  shape := { groups := 1, vregs := 256, gregs := 1024, barriers := 16, tiles := [1024, 512], acc := 64 }
  groups := [g]
  tiles := [{ st := .ready, size := 1024 }, { size := 512 }]
  bars := List.replicate 16 { mask := 1 }

/-- The issue of a word at 0x100 by all 32 lanes. -/
def iss : Issue where
  who := { crew := 0, grp := 0 }
  pc := 0x100
  set := 0xFFFFFFFF
  act := 0xFFFFFFFF
  held := 0
  hi := 0
  len := 12

/-- A page that may be read, written and run: V, R, W, X, RC, local HBM, A, D, frame 0 (15 R370). -/
def leaf : Word := 0xC01F

/-- The module in which the crew issues, with the page of address 0 in the core's attribute cache and in its controller's TLB. -/
def sw (c : Crew) : State := { State.reset with
  crews := [c]
  cur := some iss
  cores := [(0, { attrs := [{ asid := 1, page := 0, attr := leafAttr leaf }] })]
  ctrls := [(ctrlOf (homeOf 0), { tlb := [{ asid := 1, lvl := 3, va := 0, leaf := leaf }] })] }

def s0 : State := sw (cw gw)

/-- No lane is active under P0, which is false. -/
def off : Hdr := { u with pg := 0 }

/-- The state issues a word, and its context is as the test says. -/
def meets (s : State) (h : Hdr) (p : Ctx → Bool) : Bool := (s.ctx? h).any p

/-- Does exec answer a next state that the test accepts? -/
def after (o : Host.Outcome State Fault Refusal) (p : State → Bool) : Bool :=
  match o with
  | .next t => p t
  | _ => false

/-- The group of the small machine. -/
def the (s : State) : Group := (s.group? { crew := 0, grp := 0 }).getD {}

/-! ## Witnesses of the words' premises -/

/-- V255, an immediate and no stream port; then a stream port as source and as destination, its last vector; no lane. -/
theorem wit_IntegerArithmeticWords :
    meets s0 u (fun x => vReady s0 x { h := u, fs := [(0, .v 255), (1, .v 0), (2, .imm 0x3FD)], srcs := [.v 0, .imm 0x3FD], d := .v 255 }
      (fun l => (intArith 32 true true (fun a b _ => a + b) (x.srcI 32 (.v 0) l) (x.srcI 32 (.imm 0x3FD) l) 0).out)) = true ∧
    meets s0 off (fun x => vReady s0 x { h := off, fs := [(0, .sp 7), (1, .v 0)], srcs := [.v 0], d := .sp 7 }
      (fun _ => { d := 0 })) = true := by decide +kernel

theorem wit_IntegerBitWords :
    (let g := { gw with ports := [(7, { tile := 0, ofs := 0, count := 1, stride := 1, wr := true, pos := 0 }),
        (0, { tile := 0, ofs := 768, count := 2, stride := 1, wr := false, pos := 1 })] }
     let s := sw (cw g)
     meets s u (fun x => vReady s x { h := u, fs := [(0, .sp 7), (1, .sp 0)], srcs := [.sp 0], d := .sp 7, arith := false }
       (fun l => { d := popcW (x.srcI 64 (.sp 0) l) }))) = true := by decide +kernel

theorem wit_FloatWords :
    meets s0 u (fun x => vReady s0 x { h := u, fs := [(0, .p 15), (1, .g 1023), (2, .imm 1)], srcs := [.g 1023, .imm 1], d := .p 15 }
      (fun l => let r := fcmpElems .f32 f0 .lt (x.srcF .f32 (.g 1023) l) (x.srcF .f32 (.imm 1) l)
        { d := maskElems 32 r.1, pb := predElems true r.1, fl := r.2 })) = true := by decide +kernel

theorem wit_ConvertWords :
    meets s0 u (fun x => vReady s0 x { h := u, fs := [(0, .v 3), (1, .v 4)], srcs := [.v 4], d := .v 3 }
      (fun l => (cvtFfW .e4m3 .f32 f0 (x.md .rn) 1 (x.srcF .f32 (.v 4) l) (x.src (.v 3) l)).out)) = true := by decide +kernel

theorem wit_SpecialFunctionAndTandemWords :
    meets s0 u (fun x => vReady s0 x { h := u, fs := tandemFs 3 4 5 6 4 ++ tandemFs 2 8 9 10 0, srcs := [], d := .v 4, d2 := some (.v 8) }
      (fun l => { d := (tandemFnA 9 0 x.md (x.g.rdV 5 l) (x.g.rdV 6 l) (x.g.rdV 4 l)).d })) = true := by decide +kernel

theorem wit_MoveAndLaneWords :
    meets s0 u (fun x => vReady s0 x (lxWord u (.v 1) (.v 2) (.imm 1) (.p 15)) (lxLane .up 64 1 x (.v 2) (.imm 1))) = true ∧
    meets s0 u (fun x => vReady s0 x { h := u, fs := [(0, .v 0)], srcs := [], d := .v 0, arith := false, super := sregSuper 0x10 }
      (fun l => { d := s0.sreg x 0x10 l })) = true := by decide +kernel

theorem wit_ShiftElements : (7 : Nat) < 64 / EW.w8.bits ∧ 0 < 64 / EW.w64.bits := by decide

theorem wit_PlainWords : (s0.ctx? u).isSome = true := by decide

/-- A target in the last word of the code space, depth 1 for RET. -/
theorem wit_BranchWords :
    meets s0 u (fun x => x.targetsOk (fun _ => relTarget x.iss.pc 0xFFFFFFFC)) = true ∧
    (let s := sw (cw { gw with g := [(1, 0xFFFF_FFFF_FFFC)] })
     meets s u (fun x => x.holds [(1, .g 1)] && x.targetsOk (x.src (.g 1)) && x.depthsOk 0)) = true := by decide +kernel

theorem wit_CallWords :
    meets s0 u (fun x => x.holds [(0, .v 255)] && x.depthsOk 4095 && x.targetsOk (fun _ => relTarget x.iss.pc 0x10)) = true ∧
    meets s0 u (fun x => x.holds [(0, .v 0), (1, .v 1)] && x.depthsOk 4095 && x.targetsOk (x.src (.v 1))) = true := by
  decide +kernel

/-- A lane left over and none; no held entry and the 256th entry. -/
theorem wit_ExitAndRegionWords :
    (let s := { s0 with cur := some { iss with set := 1, act := 1 } }
     meets s u (fun x => x.g.remain &&& ~~~x.act != 0)) = true ∧
    meets s0 u (fun x => !x.g.handler && x.g.remain &&& ~~~x.act == 0) = true ∧
    meets s0 u (fun x => x.act != 0 && !x.g.hasHeld) = true ∧
    (let s := sw (cw { gw with sb := List.replicate 256 { id := 0, pc := 0, committed := false, cp := .dflt, parts := [] } })
     meets s u (fun x => x.act != 0 && decide (x.g.sb.length ≤ 256))) = true := by decide +kernel

/-- An EXIT of a handler's last lanes, with a lane of the trap LP left beside the named one, and with none. -/
theorem wit_ExitAndRegionWords_handler :
    (let g := { gw with
       handler := true, tlanes := 1, tpc := 0x40, trapLp := [(0, { st := .live, depth := 0, pc := 0x40 }), (31, { st := .yielded, depth := 0, pc := 0x44 })]
       snap := [(0, { st := .live, depth := 0, pc := 0 }), (31, { st := .live, depth := 0, pc := 0 })] }
     let left (s : State) := after (exec (.exit u) s) fun t => !(the t).handler && ((the t).lpOf 0).st == .exited && ((the t).lpOf 0).pc == 0x40 &&
       ((the t).lpOf 31).st == .yielded && ((the t).lpOf 31).pc == 0x44 && (sget Lp.none (the t).snap 0).st == .exited &&
       (sget Lp.none (the t).snap 31).st == .live && !(the t).finished
     meets (sw (cw g)) u (fun x => x.g.handler && x.g.remain &&& ~~~x.act == 0) && left (sw (cw g))) = true ∧
    (let s := sw (cw { gw with handler := true, tlanes := 1, trapLp := [(0, { st := .live, depth := 0, pc := 0x40 })] })
     meets s u (fun x => x.g.handler && x.g.remain &&& ~~~x.act == 0) && after (exec (.exit u) s) fun t =>
       ((t.crew? 0).bind fun c => c.groups[0]?).any fun g => g.finished) = true := by decide +kernel

theorem wit_TrapWords : meets s0 u (fun x => x.act != 0 && trapReady s0 x) = true ∧ meets s0 off (fun x => x.act == 0) = true := by
  decide +kernel

theorem wit_RttWord :
    (let s := sw (cw { gw with handler := true, trapLp := [(31, { st := .yielded, depth := 0, pc := 0x40 })] })
     meets s u (fun x => x.g.handler && !x.g.shadowPending && (List.range 32).any (fun l => (sget Lp.none x.g.trapLp l).st.remaining))) = true := by
  decide +kernel

/-- LPW that leaves a lane and one that leaves none; SWR without a lane and with one, of a supervisor's register too. -/
theorem wit_LpwAndSwrWords :
    (let s := sw (cw { gw with g := [(1, 0x3000_0000_0000_0100), (2, 0x0FFF_0000_0000_0104)] })
     let ok (x : Ctx) (a : Opnd) := x.holds [(1, a)] &&
       x.act.lanes.all fun l => (fld (x.src a l) 60 4 == 0 || fld (x.src a l) 60 4 == 3) && fld (x.src a l) 0 2 == 0
     meets s u (fun x => ok x (.g 1)) && meets s u (fun x => ok x (.g 2))) = true ∧
    meets s0 off (fun x => x.holds [(1, .imm 0)] && !sregSuper 0x11 && x.act == 0) = true ∧
    (let s := sw (cw { gw with handler := true })
     let s := s.updCore 0 fun co => { co with trapbase := 0x8000_0000_0000_0000 }
     meets s u (fun x => sregSuper 0x2C && supervisor (s.core x.c.core).trapbase x.c.vf x.g && x.act != 0)) = true := by
  decide +kernel

/-- The three fields of LEASECFG, and the ends of their range. -/
theorem wit_LeaseLimits : fld State.reset.leasecfg 0 11 = 32 ∧ fld State.reset.leasecfg 11 11 = 32 ∧
    fld State.reset.leasecfg 22 11 = 32 ∧ fld (leaseWrite 0x08010020 (4 + 1024 * 2 ^ 11)) 0 11 = 4 ∧
    fld (leaseWrite 0x08010020 (4 + 1024 * 2 ^ 11)) 11 11 = 1024 ∧ fld (leaseWrite 0x08010020 3) 0 11 = 32 := by decide

theorem wit_TrapEntry : (s0.crew? 0).isSome = true ∧
    (s0.group? { crew := 0, grp := 0 }).any (fun g => !g.handler && g.outs.isEmpty) = true ∧ (s0.reg 0x900).toNat % 2 = 0 := by
  decide +kernel

/-- One outstanding result. -/
def out1 : Out where
  id := 5
  pc := 0
  kind := .load 4 false
  dst := .v 3
  dst2 := .absent
  pred := 15
  lanes := 1
  gl := 0
  left := [(0, 0x41)]
  got := []
  cancel := 0

theorem wit_TrapWaits :
    ((sw (cw { gw with outs := [out1] })).group? { crew := 0, grp := 0 }).any (fun g => !g.handler && !g.outs.isEmpty) = true ∧
    (let s := sw (cw { gw with handler := true })
     (s.group? { crew := 0, grp := 0 }).any (·.handler) && (s.crew? 0).any (·.resident) && !s.stopArmed 0 0 2) = true ∧
    (let s := (sw (cw { gw with handler := true })).setReg 0x900 0x9
     (s.group? { crew := 0, grp := 0 }).any (·.handler) && s.stopArmed 0 0 2) = true ∧
    (let s := sw { cw { gw with handler := true } with st := .saved }
     (s.crew? 0).any fun c => c.st == .saved) = true := by decide +kernel

theorem wit_WordChecks :
    (let s := sw { cw gw with shape := { vregs := 8 } }
     meets s u (fun x => trapReady s x && firstBeyond x.c.shape x.g.handler [(0, .v 7), (1, .v 8)] == some (1, .v 8))) = true ∧
    meets s0 u (fun x => trapReady s0 x && x.holds [(0, .v 0)] && !supervisor (s0.core x.c.core).trapbase x.c.vf x.g) = true ∧
    (let s := sw (cw { gw with fcr := 0x10 })
     meets s u (fun x => trapReady s x && x.holds [(0, .v 0), (1, .v 1)] && (portUses [.v 1] [.v 0]).isEmpty &&
       (s.core x.c.core).resid.isEmpty && (Mask.ofFn fun l => x.act.has l && enabledFl x.g.fcr Fl.nv) != 0)) = true := by
  decide +kernel

/-- A running crew and one that is already stopping, and a saved one. -/
theorem wit_AbortRequeue :
    (s0.crew? 0).any (fun c => c.resident && c.st == .running) = true ∧
    ((sw { cw gw with st := .stopping }).crew? 0).any (fun c => c.resident && c.st == .stopping) = true ∧
    ((sw { cw gw with st := .saved }).group? { crew := 0, grp := 0 }).any (fun g => !g.handler) = true := by decide +kernel

/-- An LDS of the last bytes of a tile; an STS and an aligned ATOMS there; no lane. -/
theorem wit_ScratchWords :
    meets s0 u (fun x => x.act != 0 && x.holdsRun (.v 254) (valueRegs 16) ((0, .v 254) :: addrFields (.o (.g 0) 1008)) &&
      scratchReady s0 x true false 1 (x.accesses (.o (.g 0) 1008) 16 .load)) = true ∧
    meets s0 off (fun x => x.act == 0 && scratchReady s0 x true false 1 (x.accesses (.o (.g 0) 5000) 1 .load) &&
      scratchReady s0 x true true 8 (x.accesses (.o (.g 0) 5000) 8 .atomic)) = true ∧
    meets s0 u (fun x => scratchReady s0 x false true 1 (x.accesses (.o (.g 0) 1023) 1 .store)) = true ∧
    meets s0 u (fun x => x.act != 0 && x.holdsRun (.g 1023) 1 [(0, .g 1023), (1, .g 0), (2, .imm 1)] &&
      scratchReady s0 x true true 8 (x.accesses (.o (.g 0) 1016) 8 .atomic)) = true := by decide +kernel

/-- A plain load and an LDC and a load that acquires, at the end of the first page; no lane. -/
theorem wit_LoadWords :
    meets s0 u (fun x =>
      let as := x.accesses (.o (.g 0) 32752) 16 .load
      x.holdsRun (.v 254) (valueRegs 16) ((0, .v 254) :: addrFields (.o (.g 0) 32752)) && x.act != 0 && x.g.sb.isEmpty &&
        globalReady s0 x true false false true as && !s0.anySo x as && !s0.anyFar x as &&
        as.all (fun a => !s0.awaits x.iss.who a.lane x.c.asid a.va a.n) && s0.ordActs x as) = true ∧
    meets s0 off (fun x => x.act == 0) = true := by decide +kernel

/-- A store in a buffer with 63 held entries, a release with none, and no lane. -/
theorem wit_StoreWord :
    (let s := sw (cw { gw with sb := List.replicate 63 { id := 0, pc := 0, committed := false, cp := .dflt, parts := [] } })
     meets s u (fun x =>
       let as := x.accesses (.x (.g 0) (.g 0) 3) 8 .store
       x.act != 0 && globalReady s x false true true true as && !s.anySo x as && !s.anyFar x as &&
         decide ((x.g.sb.filter (!·.committed)).length < 64))) = true ∧
    meets s0 u (fun x =>
      let as := x.accesses (.o (.g 0) 0) 1 .store
      x.act != 0 && globalReady s0 x false true true true as && s0.ordActs x as && x.g.sb.isEmpty &&
        !x.g.fenceWaits .sys && !(Scope.sys.far && x.g.failMark)) = true ∧
    meets s0 off (fun x => x.act == 0) = true := by decide +kernel

theorem wit_AtomicWords :
    meets s0 u (fun x =>
      let as := x.accesses (.o (.g 0) 32760) 8 .atomic
      x.holdsRun (.g 1) 1 [(0, .g 1), (1, .g 0), (2, .v 255)] && x.act != 0 && !x.g.hasHeld &&
        as.all (fun q => q.va % 8 == 0) && globalReady s0 x true true false false as && !s0.anySo x as && !s0.anyFar x as &&
        !x.g.fenceWaits .dom && !(Scope.dom.far && x.g.failMark)) = true ∧
    meets s0 off (fun x => x.holdsRun .absent 1 [(0, .absent), (1, .g 0), (2, .imm 1)] && x.act == 0) = true := by decide +kernel

theorem wit_FenceWord :
    meets s0 u (fun x => x.act != 0 && !x.g.hasHeld && !x.g.fenceWaits .sys && !(Scope.sys.far && x.g.failMark) &&
      x.c.copies.all (fun k => k.grp != x.iss.who.grp || k.stopped)) = true ∧
    meets s0 off (fun x => x.act == 0) = true := by decide +kernel

/-- No lane; a FLUSH and an INVAL up to the end of the page, and of no byte anywhere; a PREF and a RENEW. -/
theorem wit_RangeWords :
    meets s0 off (fun x => x.act == 0 && x.holds [(1, .g 0), (2, .imm 0)]) = true ∧
    meets s0 u (fun x => x.act != 0 && x.holds [(1, .g 0), (2, .imm 511)] && x.g.sb.isEmpty &&
      rangeReady s0 x (.g 0) 32257 (.imm 511) && rangeReady s0 x (.g 0) 0xFFFFFFF (.imm 0)) = true ∧
    meets s0 u (fun x => (x.accesses (.o (.g 0) 0) 1 .load).all (fun q =>
      lookAttr (s0.core x.c.core) x.g x.c.asid .load q.va != .probe) &&
      (s0.peek x.c.asid (x.addr (.o (.g 0) 0) 0)).any (fun y => y.attr.r && y.attr.ap == .hbm && !y.beyond)) = true ∧
    meets s0 u (fun x => x.holds [(1, .g 0)] && renewReady s0 x (.g 0) 32767) = true := by decide +kernel

theorem wit_TsadvWord : meets s0 u (fun x => x.holds [(1, .v 255)]) = true := by decide +kernel

/-- A tile to arm; tiles to release in each state; a HAND that meets no arm and one that meets one. -/
theorem wit_TileWords :
    meets s0 off (fun x => x.holds [(0, .p 15), (1, .tile 1), (2, .g 1023)] && x.act == 0) = true ∧
    meets s0 u (fun x => x.holds [(1, .tile 1), (2, .imm 0)] && (x.c.tile 1).st == .empty && !(x.c.tile 1).handed) = true ∧
    (let s := sw { cw gw with tiles := [{ st := .filling, size := 1024, armed := true, key := 7 }, { st := .draining, size := 512, handed := true }] }
     meets s u (fun x => (x.c.tile 0).st == .filling && (x.c.tile 0).armed && (x.c.tile 0).fills == 0 && (x.c.tile 1).handed)) = true ∧
    meets s0 u (fun x => (x.c.tile 0).st == .ready && (x.c.tile 1).st == .empty) = true ∧
    meets s0 u (fun x => x.holds [(0, .p 0), (1, .tile 0), (2, .imm 0)] && (x.c.tile 0).st == .ready &&
      (s0.arms (clusterCore x.c.core 0) x.c.vf (x.c.tile 0).size 0).isEmpty) = true ∧
    (let r : Crew := { cw gw with id := 1, tiles := [{ st := .filling, size := 1024, armed := true, key := 0 }] }
     let s := { s0 with crews := [cw gw, r] }
     meets s u (fun x => !(s.arms (clusterCore x.c.core 0) x.c.vf (x.c.tile 0).size 0).isEmpty && decide (s.copiesOn x.c.core < 128)))
      = true := by decide +kernel

/-- A copy of no bytes, and copies up to the end of their tile in the two directions and of global memory. -/
theorem wit_CopyWords :
    meets s0 u (fun x => x.off == 0 && x.holds [(0, .tile 1), (1, .g 0), (2, .imm 0), (3, .imm 511)] &&
      !(copyTile .g2t (x.c.tile 1)).1) = true ∧
    meets s0 u (fun x => !x.g.hasHeld && copyReady s0 x { kind := .g2t, tile := 1, runs := [{ src := 0, dst := 0, n := 512 }], tileEnd := 512, field := (3, .imm 0) }) = true ∧
    meets s0 u (fun x => copyReady s0 x { kind := .t2g, tile := 0, runs := [{ src := 1023, dst := 0, n := 1 }], tileEnd := 1024, field := (3, .imm 0) }) = true ∧
    meets s0 u (fun x => copyReady s0 x { kind := .g2g, tile := 0, runs := [{ src := 0, dst := 32767, n := 1 }], tileEnd := 0, field := (3, .g 0), word := 32760 }) = true ∧
    ∃ fs plan, CopyOf (.copyG2t u .dflt (.tile 1) (.g 0) (.imm 0) (.imm 511)) u fs .dflt plan := by
  refine ⟨?_, ?_, ?_, ?_, _, _, .g2t ..⟩ <;> decide +kernel

/-- The last vector of a tile, an unbound port, and the end of a port's run. -/
theorem wit_StreamWords :
    meets s0 off (fun x => x.holds [(1, .tile 0), (2, .imm 0), (3, .imm 0)] && x.act == 0) = true ∧
    meets s0 u (fun x => x.act != 0 && 0 % 8 == 0 && decide (0 + (4 - 1) * 8 * 32 + 256 ≤ (x.c.tile 0).size)) = true ∧
    (let s := sw (cw { gw with ports := [(2, { tile := 0, ofs := 0, count := 4, stride := 32, wr := false, pos := 0 })] })
     meets s u (fun x => x.holds [(2, .imm 4)] && decide ((x.src (.imm 4) 0).toNat % 2 ^ 32 ≤ (x.g.port 2).count) &&
       (x.g.port 3).count == 0)) = true := by decide +kernel

/-- A queue of 16-byte records that the crew's stage puts out, and its stage. -/
def q1 : Queue where
  num := 4095
  graph := 1
  vf := 0
  asid := 1
  winbase := 0
  panbase := 0
  wincnt := 2
  pancnt := 0
  size := 16
  host := false
  lq := 2
  dq := 0
  cons := some 1

def st1 : Stage where
  num := 1
  graph := 1
  vf := 0
  asid := 1
  entry := 0x100
  inp := .queue 4095
  outs := [4095]
  weight := 1
  batch := 1
  flush := 0
  cost := 1
  shape := { groups := 1 }
  fcr := 0

def gr1 : Graph where
  handle := 1
  vf := 0
  asid := 1
  queues := [4095]
  stages := [1]

/-- The machine with the queue, its stage and its graph. -/
def sq (g : Group) : State := { sw (cw g) with queues := [q1], stages := [st1], graphs := [gr1] }

def eq1 : EnqWord where
  h := u
  p := .p 15
  a := .v 254
  q := .imm 0
  st := .v 0

/-- As it asks; as it asks again for the lanes without an answer; and as every lane has its answer. -/
theorem wit_EnqueueWords :
    meets (sq gw) u (fun x => x.act != 0 && x.holds eq1.fs && !x.g.hasAnswers && !x.g.hasHeld && enqReady (sq gw) x eq1 &&
      !x.g.fenceWaits (eq1.scope (sq gw) x) && !((eq1.scope (sq gw) x).far && x.g.failMark)) = true ∧
    (let s := sq { gw with answers := [(0, 1), (31, 2)], phase := 1 }
     meets s u (fun x => x.g.hasAnswers && x.act.lanes.all (fun l => sget 0 x.g.answers l % 4 != 3) &&
       x.act.lanes.any (fun l => sget 0 x.g.answers l == 0) &&
       x.act.lanes.all fun l => (eq1.queue? s x l).any fun q => decide (q.num < 4096))) = true ∧
    (let s := sq { gw with answers := (List.range 32).map fun l => (l, if l = 31 then 2 else 4 * l + 1), phase := 1 }
     meets s u (fun x => x.act != 0 && x.act.lanes.all fun l => sget 0 x.g.answers l % 4 == 1 ||
       sget 0 x.g.answers l % 4 == 2)) = true ∧
    (let s := sq { gw with answers := (List.range 32).map fun l => (l, 4 * l + 1), phase := 1 }
     meets s u (fun x => x.g.remain &&& ~~~(Mask.ofFn fun l => x.act.has l && sget 0 x.g.answers l % 4 == 1) == 0)) = true := by
  decide +kernel

/-- DEQ on a queue and on a range; QLEN; an ARM, one whose tag is taken, one on short records, and a disarm. -/
theorem wit_DequeueWords :
    meets (sq gw) off (fun x => x.act == 0 && x.holds [(0, .v 6), (2, .v 7), (3, .p 15)]) = true ∧
    meets (sq gw) u (fun x => !x.g.hasHeld && x.holds [(0, .v 6), (3, .p 0)] &&
      ((sq gw).stage? x.c.stage).any fun st => st.inp == .queue 4095) = true ∧
    (let s := { sq gw with stages := [{ st1 with inp := .range 1 1 1 }] }
     meets s u (fun x => (s.stage? x.c.stage).any fun st => st.inp == .range 1 1 1)) = true ∧
    meets (sq gw) u (fun x => x.holds [(0, .g 1), (1, .imm 0)] &&
      x.act.lanes.all fun l => ((sq gw).handle? x.c.graph x.c.vf (x.src (.imm 0) l)).isSome) = true ∧
    (let s := sq { gw with g := [(5, 9), (6, 4096)] }
     meets s u (fun x => x.scalar (.g 5) != 0 && (x.scalar (.g 6)).toNat % 4096 == 0 &&
       (runPages (x.scalar (.g 6)).toNat (2 ^ 6)).all (fun va =>
         match lookAttr (s.core x.c.core) x.g x.c.asid .queue va with
           | .ok _ => true
           | _ => false) && (s.handle? x.c.graph x.c.vf (x.src (.imm 0) 0)).any (fun r => decide (r.size < 32)))) = true ∧
    (let s := { sq { gw with g := [(5, 9), (6, 4096)] } with queues := [{ q1 with size := 32 }] }
     meets s u (fun x => !(s.queues.any fun y => y.tag == (x.scalar (.g 5)).toNat) && x.scalar (.g 7) == 0 && x.act.low == some 0)) = true := by
  decide +kernel

/-- Arrival with and without SET; a wait whose phase is done and one whose is not, for BARW and for BARAW after its arrival; and
BARAW as it arrives, last and not last. -/
theorem wit_BarrierWords :
    meets s0 off (fun x => x.act == 0 && x.holds [(1, .bar 15), (2, .imm 1)]) = true ∧
    meets s0 u (fun x => x.holds [(1, .bar 15), (2, .imm 1)] && !x.g.hasHeld && !x.g.fenceWaits .crew &&
      !(x.c.bar 15).arr.getLsbD x.iss.who.grp && (x.c.bar 15).arr == 0 && decide (15 < x.c.bars.length)) = true ∧
    (let s := sw { cw gw with bars := [{ phase := 1 }, { phase := 0 }] }
     meets s u (fun x => (x.c.bar 0).phase != sget 0 (x.c.bar 0).tgt 0 && (x.c.bar 1).phase == sget 0 (x.c.bar 1).tgt 0)) = true ∧
    (let s := sw { cw { gw with phase := 4 } with bars := [{ phase := 1 }, { phase := 0 }] }
     meets s u (fun x => x.g.phase == 4 && (x.c.bar 0).phase != sget 0 (x.c.bar 0).tgt 0 && (x.c.bar 1).phase == sget 0 (x.c.bar 1).tgt 0)) = true ∧
    meets s0 u (fun x => x.g.phase != 4 && (x.arrived 0 (x.c.bar 0).mask).phase != (x.c.bar 0).phase) = true ∧
    (let s := sw { cw gw with groups := [gw, gw], bars := [{ mask := 3 }] }
     meets s u (fun x => (x.arrived 0 (x.c.bar 0).mask).phase == (x.c.bar 0).phase)) = true := by decide +kernel

/-- A group in its handler, which has supervisor rights. -/
def ssup (g : Group) : State := (sq { g with handler := true }).updCore 0 fun co => { co with trapbase := 0x8000_0000_0000_0000 }

/-- SLEEP; the answers of SYSC, GLOAD and GSTOP and the asking of each; a GSTOP of no graph, of the crew's own and of another. -/
theorem wit_SystemWords :
    meets s0 u (fun x => x.holds [(1, .imm 0x3FF)]) = true ∧
    meets (ssup gw) off (fun x => x.act == 0 && supervisor ((ssup gw).core x.c.core).trapbase x.c.vf x.g &&
      x.holds [(0, .g 1), (1, .g 2), (2, .imm 0)]) = true ∧
    meets (ssup { gw with phase := 2 }) u (fun x => x.act != 0 && x.g.phase == 2) = true ∧
    meets s0 u (fun x => x.act != 0 && x.g.phase != 2 && !x.g.hasHeld) = true ∧
    (let s := ssup { gw with g := [(2, 1), (3, 2)] }
     let s := { s with graphs := [gr1, { gr1 with handle := 2 }] }
     meets s u (fun x => supervisor (s.core x.c.core).trapbase x.c.vf x.g && x.g.phase != 2 &&
       (s.graph? (x.src (.g 1) 0).toNat).isNone && (s.graph? (x.src (.g 2) 0).toNat).any (fun y => y.handle == x.c.graph) &&
       (s.graph? (x.src (.g 3) 0).toNat).any fun y => y.handle != x.c.graph)) = true := by decide +kernel

/-- An MLW, a stream from the READY tile, a write of rows to the EMPTY one, and an MRD. -/
theorem wit_MatrixWords :
    meets s0 u (fun x => x.off == 0 && x.holdsRun .absent 0 [(0, .tile 0)] &&
      matrixReady s0 x 0 (.mlw (some (0, .e4m3, false)))) = true ∧
    meets s0 u (fun x => matrixReady s0 x 2 (.stream .e4m3 0 0 none 1024 1 16 0 true)) = true ∧
    meets s0 u (fun x => matrixReady s0 x 7 (.mrdt .rn false .bf16 1 0 none 0 0 16)) = true ∧
    meets s0 u (fun x => x.holdsRun (.v 240) 16 [(0, .v 240), (1, .imm 0)] && matrixReady s0 x 6 (.mrd none true 16 240 0 0)) = true ∧
    ∃ fs bad op, MatrixOf (.mzero u (.imm 0) (.imm 64)) u (.absent, 0) fs 8 bad op := by
  refine ⟨?_, ?_, ?_, ?_, _, _, _, .mzero ..⟩ <;> decide +kernel

/-! ## Witnesses of the events' premises -/

/-- A home block of the span at 0. -/
def blk1 : Blk where
  asid := 1
  span := 0
  first := 0
  last := 31
  wt := 5
  le := 9

/-- The machine whose home slice of address 0 holds the block. -/
def sh : State := { s0 with slices := [(homeOf 0, { home := [blk1] })] }

/-- The machine with tables: ASID 1 checkpoints, and its address 0 has the page of `leaf` through three levels. -/
def sv : State :=
  (((((s0.setReg 0x200 0x8001).setHbm64 0x8008 0x10003).setHbm64 0x10000 0x30001).setHbm64 0x18000 0x40001).setHbm64 0x20000 leaf)

/-- The translation of a request at its home succeeds, in memory of the device or its host. -/
def transl (s : State) (va : Nat) (r : Attr → Bool) (wr : Bool) : Bool :=
  match (s.translateCount (ctrlOf (homeOf va)) 1 va r wr).2 with
  | .ok x => x.near
  | _ => false

/-- A store of the last byte of a span, and its acknowledgement. -/
def ms1 : StMsg where
  origin := .group { crew := 0, grp := 0 } 5 31
  part := 0
  core := 0
  vf := 0
  asid := 1
  va := 511
  bytes := [1]
  sclk := 0
  cp := .dflt
  pc := 0
  wb := false

theorem wit_StoreEvents :
    (!sh.ckHolds 1 511 0 && !sh.oldWb 1 511 && sh.mayPerform (.storePerformedAtHome ms1) &&
      ((sh.followed 1 511).homeBlk 1 511).isSome) = true ∧
    (s0.mayPerform (.storePerformedAtHome ms1) && !s0.oldWb 1 511 && (s0.homeBlk 1 511).isNone && transl s0 511 (·.w) true) = true ∧
    ({ ms1 with wb := true } : StMsg).wb = true ∧
    (let s := { sv with ctrls := [(ctrlOf (homeOf 0), { tlb := [{ asid := 1, lvl := 3, va := 0, leaf := leaf + 0x200 }] })] }
     s.oldWb 1 511) = true ∧
    (s0.stop.isNone && (s0.crew? 0).isSome && (s0.group? { crew := 0, grp := 0 }).isSome) = true ∧
    (let s := s0.updCore 0 fun co => { co with l1 := [blk1] }
     (findBlk (s.core 0).l1 1 511).any (fun b => decide ((s.core 0).l1base ≤ b.wt)) && decide (2 ^ 24 - 1 < (s.core 0).l1base + 2 ^ 24) &&
       decide ((s.core 0).l1base ≤ 0)) = true ∧
    ((sw { cw gw with copies := [{ id := 5, kind := .g2g, grp := 0, pc := 0, cp := .dflt, tile := 0, runs := [] }] }).copy? 0 5).isSome
      = true := by decide +kernel

/-- A load of the last word of a span. -/
def ld1 : LdReq where
  origin := .group { crew := 0, grp := 0 } 5 0
  core := 0
  vf := 0
  asid := 1
  va := 508
  n := 4
  lclk := 0
  len := 32
  first := 31
  last := 31
  pc := 0
  cp := .dflt
  ldc := false
  e0 := false
  renew := false
  pref := false
  atLocal := false

/-- At the home, present and missing; at the local copy, in its lease, lapsed and missing; a queue; the result and the last part
of a lane's 4 bytes and 16 bytes; a result that is a failure, of a lane's last part. -/
theorem wit_LoadEvents :
    (sh.mayPerform (.loadRequestAtHome ld1) && !sh.strays ld1 && (sh.homeBlk 1 508).isSome) = true ∧
    ((s0.homeBlk 1 508).isNone && transl s0 508 (·.r) false) = true ∧
    ((List.range 288).any fun k => (localSlice k (homeOf 508)).any fun j =>
      let s := { s0 with slices := [(j, { loc := [blk1] })] }
      (findBlk (s.slice j).loc 1 508).any (fun b => decide (9 ≤ b.le) && decide (b.le < 10)) && (findBlk (s0.slice j).loc 1 508).isNone)
      = true ∧
    ((sq gw).queue? 4095).isSome = true ∧
    (let o (n : Nat) : Out := { out1 with kind := .load n false, dst := .v 254, lanes := 0x80000000, left := [(24 * 31, 509)] }
     let s (n : Nat) := sw (cw { gw with outs := [o n] })
     ((s 4).out? { crew := 0, grp := 0 } 5).any (fun y => y.lanes.has 31 && y.left == [(24 * 31, 508 + 1)] && y.own.isEmpty && y.got.isEmpty) &&
       ((s 16).out? { crew := 0, grp := 0 } 5).any (fun y => y.kind == .load 16 false)) = true ∧
    (let m : LdRep := { req := ld1, data := [], poison := false, wt := 0, fill := none, fail := some (0x13, 0) }
     let o : Out := { out1 with lanes := 0x80000000, left := [(24 * 31 + 23, 509)] }
     m.fail.isSome && ((sw (cw { gw with outs := [o] })).out? { crew := 0, grp := 0 } 5).any (fun y =>
       y.lanes.has 31 && y.left == [(24 * 31 + 23, 508 + 1)])) = true := by decide +kernel

/-- An INC of the last word of a span, and a compare that fails. -/
def am1 : AtMsg where
  origin := .group { crew := 0, grp := 0 } 5 31
  core := 0
  vf := 0
  asid := 1
  va := 504
  n := 8
  op := .int .inc
  b := 1
  sclk := 0
  lclk := 0
  len := 32
  pc := 0
  wb := false

theorem wit_AtomicEvents :
    (!sh.ckHolds 1 504 0 && !sh.oldWb 1 504 && sh.mayPerform (.atomicAtHome am1) && ((sh.followed 1 504).homeBlk 1 504).any (fun b => b.ap != .host && !b.poison.has 31) &&
      (AtomOp.apply (.int .inc) 8 0 1).isSome && (AtomOp.apply (.cas 7) 8 0 1).isNone) = true ∧
    (let s := { s0 with slices := [(homeOf 504, { home := [{ blk1 with poison := 0x80000000 }] })] }
     ((s.followed 1 504).homeBlk 1 504).any (fun b => b.ap != .host && b.poison.has 31)) = true ∧
    ((s0.homeBlk 1 504).isNone && (s0.peek 1 504).any (fun y => y.attr.ap != .host) && transl s0 504 (fun a => a.r && a.w) true) = true ∧
    (let s := { s0 with ctrls := [(ctrlOf (homeOf 0), { tlb := [{ asid := 1, lvl := 3, va := 0, leaf := leaf + 0x80 }] })] }
     (s.peek 1 504).any (fun y => y.attr.ap == .host) && s.zdown.isNone && !s.backPoison .host 504 &&
       (match (s.translateCount (ctrlOf (homeOf 504)) 1 504 (fun a => a.r && a.w) true).2 with
         | .ok x => x.pa == 504
         | _ => false)) = true ∧
    (let s := sw (cw { gw with outs := [{ out1 with kind := .atom, dst := .v 255, lanes := 0x80000000, left := [(24 * 31, 505)] }] })
     s.stop.isNone && (s.out? { crew := 0, grp := 0 } 5).any (fun o => o.kind == .atom && o.lanes.has 31 && o.left == [(24 * 31, 505)])) = true := by
  decide +kernel

/-- A probe that answers and one that is held; the only answer and one of two; a fill that installs; a local copy; a sleeper. -/
theorem wit_ProbeEvents :
    transl s0 0 (·.r) false = true ∧
    (let s := ({ s0 with ctrls := [] } : State).setReg 0x210 0x8000_0000_0000_0000
     (match (s.translateCount (ctrlOf (homeOf 0)) 1 0 (·.r) false).2 with
       | .noTrans => true
       | _ => false) && (s.reg 0x210).getLsbD 63) = true ∧
    ((sw (cw { gw with wait := .probe 1 })).group? { crew := 0, grp := 0 }).any (fun g => g.wait == .probe 1) = true ∧
    ((sw (cw { gw with wait := .probe 2 })).group? { crew := 0, grp := 0 }).any (fun g => g.wait == .probe 2) = true ∧
    (let m : FillMsg := { slice := homeOf 0, asid := 1, va := 0, first := 0, last := 0, tag := 0, copy := none }
     (sh.homeBlk 1 0).isSome && !sh.homeFull 1 0 0 0 && !s0.homeFull 1 0 0 0 && !s0.portWaits (.homeFillReturn m)) = true ∧
    ((sw (cw { gw with wait := .till 64 })).group? { crew := 0, grp := 0 }).any (fun g => g.wait == .till 64) = true := by decide +kernel

/-- A fill at the home into an empty set, and one of a local copy: the words it installs. -/
theorem wit_ProbeEvents_fills :
    (let m : FillMsg := { slice := homeOf 16, asid := 1, va := 16, first := 0, last := 3, tag := 0, copy := none }
     let s := (s0.setHbm64 16 0x1122).setHbm64 0 0x77
     !s.homeFull 1 16 0 3 && (s.homeBlk 1 16).isNone && s.parked.isEmpty && s.todo.isEmpty &&
       ((s.slice m.slice).home ++ (s.slice m.slice).loc).isEmpty &&
       (match (s.translate (ctrlOf m.slice) 1 16 (fun _ => true) false).2 with
         | .ok x => x.attr.ap == .hbm && x.pa == 16
         | _ => false) && after (exec (.homeFillReturn m) s) fun t => (t.homeBlk 1 16).any fun b =>
           b.dirty == 0 && b.pa == 0 && b.read 0 2 == [0x77, 0] && b.read 16 2 == [0x22, 0x11]) = true ∧
    (let f : Fill := { asid := 1, span := 0, first := 2, last := 31, wt := 5, le := 9, data := [(40, 3)], poison := 0x80000004 }
     let m : FillMsg := { slice := 30, asid := 1, va := 32, first := 2, last := 2, tag := 0, copy := some f }
     m.renewed.isNone && decide (f.wt < (sh.slice 30).base + 2 ^ 24) && after (exec (.homeFillReturn m) sh) fun t =>
       (t.slice 30).home.isEmpty && (t.slice 30).loc.any fun b =>
         b.first == 2 && b.last == 31 && b.wt == 5 && b.le == 9 && b.poison.has 31 && b.read 40 1 == [3]) = true := by decide +kernel

/-- A held request. -/
def held1 (r : Instr) : Held where
  id := 3
  why := .wb
  since := 0
  asid := 1
  va := 0
  slice := 0
  req := r

theorem wit_ClockEvents :
    ((({ s0 with held := [held1 (.storePerformedAtHome ms1)] } : State).held.find? fun y => y.id == 3)) =
      some (held1 (.storePerformedAtHome ms1)) ∧
    ((({ s0 with held := [held1 (.loadRequestAtHome ld1)] } : State).held.find? fun y => y.id == 3)) =
      some (held1 (.loadRequestAtHome ld1)) := by decide +kernel

/-- A queue with a free slot, a stopped one, a full one, and one whose home moves or whose slots are in host memory as the Zenvex Link
retrains; the last index of a range and none; a claim of a queue with and
without records; a graph with a waiter. -/
theorem wit_QueueEvents :
    (let s := { sq gw with queues := [q1], cores := [] }
     (s.queue? 4095).any (fun q => (q.refusal true false 0).isNone && q.pan.isEmpty && q.slotFree q.next && !s.queueShut q) &&
       (s.homeWrite 1 0 (List.replicate 16 0) 7).isSome) = true ∧
    (({ q1 with stopped := true } : Queue).refusal true false 0).isSome = true ∧
    ((({ q1 with backlog := 2 } : Queue).refusal true true 1).isNone && decide (2 < 2 + 1)) = true ∧
    (let s := { sq gw with stages := [{ st1 with inp := .range 2 1 1, ctr := 1 }, { st1 with num := 2, inp := .range 1 1 1, ctr := 1 }] }
     (s.stage? 1).any (fun st => decide (st.ctr < 2)) && (s.stage? 2).any (fun st => decide (1 ≤ st.ctr))) = true ∧
    (let q : Queue := { q1 with win := [{ seq := 0, wt := 0, at_ := 0 }], pan := [(0, { seq := 1, wt := 0, at_ := 0 })] }
     decide (min (q1.win.length + q1.pan.length) 32 ≤ q1.win.length) && decide (q.win.length < min (q.win.length + q.pan.length) 32)) = true ∧
    ((sq gw).graph? 1).isSome = true ∧
    (let s := { sq gw with retiring := some { slice := true, unit := q1.home, reason := 5, req := true } }
     let z := ({ sv with queues := [q1], retrain := [(16, { attempts := 1 })], ctrls := [] } : State).setHbm64 0x20000 (leaf + 0x80)
     s.queueMoves q1 && !(sq gw).queueShut q1 && !z.queueMoves q1 && z.queueShut q1) = true ∧
    ((sw (cw { gw with wait := .answer })).group? { crew := 0, grp := 0 }).any (fun g => g.wait == .answer) = true := by decide +kernel

/-- A record of one word, and one of 256 bytes whose words stand dirty at their home: its bytes read back. -/
theorem wit_QueueEvents_bytes :
    let r (n : Nat) : Rec := { lane := 31, queue := 4095, bytes := (List.range n).map fun k => BitVec.ofNat 8 (k + 1) }
    let put (n : Nat) (s : State) (p : State → Bool) : Bool := (s.queue? 4095).any (fun q => !s.queueShut q && q.slotFree q.next) &&
      after (exec (.queueAppendAtHome { src := .group { crew := 0, grp := 0 } false false 7, recs := [r n] }) s) p
    put 16 { sq gw with cores := [] } (fun t => (t.homeBlk 1 0).any fun b => b.read 0 16 == (r 16).bytes) = true ∧
    (let s := { sq gw with
       queues := [{ q1 with size := 256 }], cores := [], slices := [(homeOf 0, { home := [{ blk1 with dirty := 1 }] })] }
     (wordPieces 0 256).all (fun c => (s.homeBlk 1 c.1).any fun b => b.dirty != 0) &&
       put 256 s fun t => (wordPieces 0 256).all fun c => (t.homeBlk 1 c.1).any fun b =>
         b.read c.1 c.2 == ((r 256).bytes.drop c.1).take c.2) = true := by decide +kernel

theorem wit_HostLinkEvents :
    (!(s0.vfReg 0 0x48).getLsbD 63 && s0.zdown.isNone) = true ∧
    (((sq gw).queue? 4095).any fun q => !q.host) = true ∧
    (let s := { sq gw with queues := [{ q1 with host := true }] }
     (s.queue? (fld 0xFFF 0 12)).any (fun q => q.host) && (wordPieces 0 16).all fun p => !s.backPoison .host p.1) = true ∧
    (let s := s0.setReg 0x1_0068 3
     decide ((s.vfReg 0 0x70).toNat ≤ 3) && decide (3 ≤ (s.vfReg 0 0x68).toNat)) = true ∧
    (let s := { sw (cw { gw with wait := .answer }) with svcOpen := [(0, 0, { crew := 0, grp := 0 })] }
     (s.svcOpen.find? fun o => o.1 == 0 && o.2.1 == (s.vfReg 0 0x78).toNat).isSome && s.svcWait.isEmpty) = true ∧
    (let s := ({ s0 with svcWait := [{ vf := 0, token := 0, code := 0, pc := 0, arga := 0, argb := 0 }] } : State).setReg 0x1_0060 1
     s.svcRoom 0 && (s.svcWait.find? fun r => r.vf == 0).isSome) = true ∧
    (let s := sw (cw { gw with wait := .answer })
     !s.admitWaits 1 [] 1 && match (s.admission 1 [] 1 0).2 with
       | .no _ => true
       | _ => false) = true := by decide +kernel

/-- The core's candidate stage with a record due, and none; a claim reply; a crew that may retire, one to save, a slice. -/
theorem wit_SchedulerEvents :
    (let s := (sq gw).updCore 0 fun co => { co with cands := [1] }
     s.names 0 4095 false) = true ∧
    (!(s0.core 0).absent && !s0.coreGoing 0 && s0.keepers.isEmpty && (s0.pickStage 0).isNone) = true ∧
    (let s := (sq gw).updCore 0 fun co => { co with resv := [{ id := 7, stage := 1, keeper := none, p0 := 0 }] }
     ((s.core 0).resv.find? fun r => r.id == 7).isSome && (s.stage? 1).isSome && (s.graph? 1).any fun g => !g.aborting) = true ∧
    (let g := { gw with lp := gw.lp.map fun p => (p.1, { p.2 with st := .exited }) }
     ({ cw g with st := .closing } : Crew).closed) = true ∧
    (s0.crew? 0).any (fun c => c.st == .running) = true ∧
    (let s := sw { cw gw with st := .stopping }
     (s.crew? 0).any fun c => s.maySave c && c.stopTo != .closing && !(s.graph? c.graph).any (·.aborting)) = true ∧
    (let s := { sw { cw gw with st := .stopping } with graphs := [{ gr1 with aborting := true }] }
     (s.crew? 0).any fun c => s.maySave c && (s.graph? c.graph).any (·.aborting)) = true ∧
    (let s := s0.updCore 0 fun co => { co with tsvf := some 15 }
     (s.core 0).tsvf == some 15 && !s.vfStands 0 15) = true := by decide +kernel

/-- A copy of each kind as its chunk moves, as it completes, and a HAND to another crew and to another tile. -/
def cp1 (k : CopyKind) : Copy where
  id := 5
  kind := k
  grp := 0
  pc := 0
  cp := .dflt
  tile := 0
  runs := [{ src := 0, dst := 0, n := 16 }]

theorem wit_CopyEvents :
    (let c := { cw gw with copies := [cp1 .g2t] }
     let s := { sw c with slices := sh.slices }
     let k := cp1 .g2t
     c.resident && !k.stopped && !k.runs.isEmpty &&
       (s.copyRead c k (piecesFrom k.data.length ((k.chunk.map fun r => wordPieces r.src r.n).flatten))).2.2.isNone) = true ∧
    (let c := { cw gw with copies := [cp1 .t2g] }
     let k := cp1 .t2g
     (sw c |>.chunkBad c ((runSplit k.chunk (c.chunkScratch k.chunk)).map fun r => runPages r.1 r.2.length).flatten).2.isNone) = true ∧
    ((sw { cw gw with copies := [cp1 .g2g] }).copy? 0 5).any (fun k => k.kind == .g2g && !k.stopped) = true ∧
    ((sw { cw gw with copies := [cp1 .t2g] }).copy? 0 5).any (fun k => k.kind != .g2g) = true ∧
    (let k := { cp1 .hand with toCrew := 1 }
     let s := { s0 with crews := [{ cw gw with copies := [k] }, { cw gw with id := 1 }] }
     (s.copy? 0 5).isSome && (s.crew? 1).isSome) = true ∧
    (let k := { cp1 .hand with toCrew := 0, toTile := 1 }
     (({ s0 with crews := [{ cw gw with copies := [k] }] } : State).copy? 0 5).any (fun k => k.toCrew == 0 && k.tile != k.toTile) &&
       decide (k.toTile < (cw gw).tiles.length)) = true := by decide +kernel

/-- An instruction of the array. -/
def job (op : MOp) : Job where
  iss := iss
  h := u
  act := 0xFFFFFFFF
  op := op
  fs := []
  code := 0
  accepted := true

/-- The machine whose array holds the instruction. -/
def sj (op : MOp) (acc : Bool) : State :=
  (sw { cw gw with tiles := [{ st := .ready, size := 1024 }, { size := 16384 }] }).updCore 0 fun co => { co with mq := [{ job op with accepted := acc }] }

/-- An acceptance that traps (a row beyond acc) and three that do not; a row; a completion of each kind. -/
theorem wit_MatrixEvents :
    ((sj (.mzero 64 1) false).jobCtx { job (.mzero 64 1) with accepted := false }).any (fun x =>
      (matBad x.c { job (.mzero 64 1) with accepted := false }).isSome) = true ∧
    ((sj (.mzero 63 1) false).jobCtx (job (.mzero 63 1))).any (fun x => (matBad x.c (job (.mzero 63 1))).isNone) = true ∧
    ((sj (.mlw none) false).jobCtx (job (.mlw none))).any (fun x => (matBad x.c (job (.mlw none))).isNone) = true ∧
    ((sj (.mrd none true 16 240 48 0) false).jobCtx (job (.mrd none true 16 240 48 0))).any (fun x =>
      (matBad x.c (job (.mrd none true 16 240 48 0))).isNone) = true ∧
    (let op : MOp := .mrdt .rn false .bf16 1 0 none 2 62 16
     op.progress && decide (0 < op.rows) && !((sj op true).matStrike 0 0 op).2 &&
       ((sj op true).jobCtx (job op)).isSome && (job op).iss.who == iss.who) = true ∧
    ([MOp.mswap, .mzero 0 64, .mswr true 2 62 [1, 2], .msrd false 64 255 0, .mrd none true 1 255 63 0].all fun op =>
      ((sj op true).core 0).job == some (job op) && ((sj op true).jobCtx (job op)).any (fun x => x.c.core == 0) &&
        (op.progress || !((sj op true).matStrike 0 0 op).2)) = true := by decide +kernel

/-! ## Witnesses of the translation's and the fabric's premises -/

/-- Its walk ends at the leaf, whose entry it may read and write. -/
def ck1 (pos : Nat) (pend : List (Nat × Nat × Nat)) : Ck where
  phase := .copy
  cut := 0
  pos := pos
  pend := pend

/-- A log of 1 GiB in host memory. -/
def sl : State := (sv.setReg 0x240 0x8000_0000_0000_0000).setReg 0x248 0x10

/-- One unit and the largest count of a range; a purge; the last word of HBM; checkpoints of each kind; a record that just does
not fit and one that just does, a page likewise; two regions whose conflict is 1 ms past. -/
theorem wit_TranslationEvents :
    (fld 0x1_0000_0000 32 16 != 0 && fld 0xFFFF_0000_0000 32 16 != 0) = true ∧
    ({ sv with inv := some { scope := 0, asid := 1, va := 0, units := 1, purge := true } } : State).invDone
      { scope := 0, asid := 1, va := 0, units := 1, purge := true } = true ∧
    (let s := s0.setReg 0x228 (BitVec.ofNat 64 (hbmEnd - 8))
     decide ((s.reg 0x228).toNat < hbmEnd) && !s.touchesPending (s.reg 0x228).toNat) = true ∧
    ([1, 2].all fun k => let s := (s0.setReg 0x240 (BitVec.ofNat 64 (k * 2 ^ 62))).setReg 0x248 0x10
      s.ck.isNone && fld (s.reg 0x240) 62 2 != 0 && fld (s.reg 0x240) 62 2 != 3 && fld (s.reg 0x248) 4 11 != 0) = true ∧
    (let k : Ck := { phase := .drain, cut := 0 }
     s0.ckDrained k && s0.ckPages == some [] && !sl.zretrains) = true ∧
    (decide (fld (sl.reg 0x248) 4 11 * 2 ^ 30 < 2 ^ 30 - 63 + 64) && decide (2 ^ 30 - 64 + 64 ≤ fld (sl.reg 0x248) 4 11 * 2 ^ 30) &&
      fld (sl.reg 0x240) 62 2 == 2 && sl.zdown.isNone &&
      (match sl.walk 1 0 with
        | .leaf p lvl a => !(leafAttr p).wb && (leafAttr p).ap == .hbm && lvl == 3 && a == 0x20000
        | _ => false) && decide (2 ^ 30 - 64 - 2 ^ 15 + 64 + pageSize 3 ≤ fld (sl.reg 0x248) 4 11 * 2 ^ 30)) = true ∧
    (let d (b n : Nat) : DirEnt := { base := b, size := n, conflict := 0, used := 0 }
     [128, 32768].all fun n => (({ s0 with time := [(0, 1000000)], dir := [d 0 n, d n n] } : State).mayMerge 0).isSome) = true := by
  decide +kernel

/-- An entry of the table that is not in memory: the pages cannot be found. -/
theorem wit_no_pages : (s0.setReg 0x200 0xF_FFFF_FFFF_8001).ckPages = none := by
  have h (l : List Nat) (f : Nat → List (Nat × Nat × Nat) → Option (List (Nat × Nat × Nat)))
      (hf : ∀ r, f 4095 r = none) (e : Option (List (Nat × Nat × Nat))) :
      (l ++ [4095]).foldr (fun a acc => acc.bind (f a)) e = none := by
    induction l with
    | nil => cases e <;> simp [hf]
    | cons a l ih => simp [ih]
  have hr : List.range 4096 = List.range 4095 ++ [4095] := List.range_succ
  unfold State.ckPages State.ckLeaves State.tableLeaves
  rw [hr, if_neg (by decide +kernel)]
  exact h _ _ (fun r => by rw [if_neg (by decide), if_pos (Or.inl (by decide +kernel))]) _

/-- Some host address outside the control window, wherever the environment puts it. -/
theorem outside_window : ∃ pa, pa ∈ [0, 2 ^ 17] ∧ inWindow .host pa = false := by
  by_cases h : winBase = 0
  · exact ⟨2 ^ 17, by decide, by rw [inWindow, h]; decide⟩
  · exact ⟨0, by decide, by simp [inWindow, Ne.symm h]⟩

/-- At such an address: a region that is clean, one that is dirty, and none. -/
theorem wit_Companion : ∃ pa, inWindow .host pa = false ∧
    (let d : DirEnt := { base := pa, size := 128, conflict := 0, used := 0 }
     let b : Blk := { blk1 with ap := .host, pa := pa, dirty := 0x80 }
     let s := { s0 with dir := [d] }
     let t := { s with slices := [(0, { home := [b] })] }
     (s.dir.find? (·.has pa)) == some d && !s.regionDirty d.base d.size && (t.dir.find? (·.has (pa + 127))) == some d &&
       t.regionDirty d.base d.size && !t.zshut && !s.zshut && s0.retiring.isNone && !s0.dir.any (·.has pa) &&
       s.dir.any (·.has pa) && s.ck.isNone && (({ s0 with retrain := [(16, { attempts := 1 })] } : State).zshut)) = true := by
  have h : ([0, 2 ^ 17] : List Nat).all (fun pa =>
    (let d : DirEnt := { base := pa, size := 128, conflict := 0, used := 0 }
     let b : Blk := { blk1 with ap := .host, pa := pa, dirty := 0x80 }
     let s := { s0 with dir := [d] }
     let t := { s with slices := [(0, { home := [b] })] }
     (s.dir.find? (·.has pa)) == some d && !s.regionDirty d.base d.size && (t.dir.find? (·.has (pa + 127))) == some d &&
       t.regionDirty d.base d.size && !t.zshut && !s.zshut && s0.retiring.isNone && !s0.dir.any (·.has pa) &&
       s.dir.any (·.has pa) && s.ck.isNone && (({ s0 with retrain := [(16, { attempts := 1 })] } : State).zshut))) = true := by decide +kernel
  obtain ⟨pa, hm, hw⟩ := outside_window
  exact ⟨pa, hw, List.all_eq_true.mp h pa hm⟩

/-- The machine with its fabric on, for ASID 1. -/
def sf : State := s0.setReg 0x300 0x1002

def rq (op : PeerOp) : PeerReq where
  src := 1
  port := 15
  tag := 0
  op := op

/-- A segment that is sent. -/
def seg1 (u : SegUse) : Seg where
  tag := 7
  dev := 1
  ofs := 0
  port := 15
  plane := 0
  sent := true
  use := u

/-- An armed queue. -/
def qa : Queue := { q1 with tag := 2 ^ 26 - 1, lcnt := 1, size := 32, lused := [(0, 0, 64)] }

/-- A configuration of one module in a torus; both changes of the last plane; the requests at the last bytes of a span; EN = 0. -/
theorem wit_FabricRequestEvents :
    (let w : Word := 0x1001 &&& (bitsMask 63 12 ||| 3)
     !(s0.reg 0x300).getLsbD 1 && fld w 12 12 != 0 && decide (fld w 54 10 ≤ fld w 44 10) && w.getLsbD 0 &&
       (fld w 24 5 + 1) * (fld w 29 5 + 1) * (fld w 34 5 + 1) * (fld w 39 5 + 1) == fld w 44 10 + 1) = true ∧
    (!s0.planeTarget 7 && (s0.setReg 0x308 0x80).planeTarget 7 && ({ s0 with planeSw := [(7, true)] } : State).planeDrained (7, true)) = true ∧
    (let t (r : Attr → Bool) (wr : Bool) := ((sf.portCount 15 1 0).translate (ctrlOf (homeOf 504)) (fld (sf.reg 0x300) 12 12) 504 r wr)
     (sf.reg 0x300).getLsbD 1 && (match (t (·.r) false).2 with
       | .ok x => x.attr.ap == .hbm
       | _ => false) && (match t (fun a => a.r && a.w) true with
       | (s1, .ok x) => x.attr.ap == .hbm && !x.attr.wb && !sf.ckHolds 1 504 (2 ^ 64) && (s1.peerAtom 1 504 8 (.int .add) 1 x).isOk
       | _ => false) && (match (sf.portCount 15 1 8).translate (ctrlOf (homeOf 504)) (fld (sf.reg 0x300) 12 12) 504 (·.w) true with
       | (s1, .ok x) => x.attr.ap == .hbm && !x.attr.wb && (s1.homeWrite 1 504 [1, 2, 3, 4, 5, 6, 7, 8] 0).isSome
       | _ => false)) = true ∧
    ([sf, sf.portCount 15 1 0, sf.portCount 15 1 8].all fun s => [.load 504 8, .store 504 [1], .atom 504 8 (.int .add) 1].all fun op =>
      !s.shutWords 1 (peerWords op) && !s.ckHolds 1 504 (2 ^ 64)) = true ∧
    (!(s0.reg 0x300).getLsbD 1 && [SegUse.load ld1, .store ms1, .atom am1].all fun u =>
      ({ sf with segs := [seg1 u] } : State).segs.any fun g => g.tag == 7 && g.sent) = true ∧
    (let s := (sf.setReg 0x310 0x8001).setHbm64 0x8000 0x10001
     let a := fld (s.reg 0x310) 15 37 * 2 ^ 15 + 8 * (65536 % 65536)
     (s.reg 0x300).getLsbD 1 && (s.reg 0x310).getLsbD 0 && decide (a < hbmEnd) && (s.hbm64 a).getLsbD 0 && s.slices.isEmpty && s.ck.isNone && s.retiring.isNone) = true ∧
    (let s := (s0.setReg 0x300 3).setReg 0x338 0x8000
     s.torus && (s.reg 0x300).getLsbD 1 && s.portUp 15) = true := by decide +kernel

/-- A message for an armed queue whose first slot is taken, as long as a slot; messages of no queue; of the host link. -/
theorem wit_Messages :
    (let s := { sf with queues := [qa], cores := [], stages := [st1] }
     let q := qa
     let free (k : Nat) : Bool := !(q.lused.any fun p =>
       decide (p.2.1 < q.land + k * 2 ^ (q.lslot + 6) + 2 ^ (q.lslot + 6)) && decide (q.land + k * 2 ^ (q.lslot + 6) < p.2.1 + p.2.2))
     (s.queues.find? fun y => y.tag == 2 ^ 26 - 1) == some q &&
       (((List.range (2 ^ q.lcnt)).map fun k => (q.lnext + k) % 2 ^ q.lcnt).find? free) == some 1 &&
       (match s.homeWrite q.asid 64 (List.replicate 64 1) (sget 0 s.floorF (homeOf 64 / 24)) with
         | some (wt, s2) => (match (s2.raiseFloor wt).appendOutside q.num (armedRecord 32 64 (2 ^ 26 - 1) 64 1 15 0) true with
           | (s3, .accepted _) => (s3.queue? q.num).isSome
           | _ => false)
         | none => false)) = true ∧
    (decide (2 ^ 26 ≤ 2 ^ 26) && sf.queues.all fun q => q.tag != 5) = true ∧
    (s0.msg.isNone && s0.zdown.isNone && fld 1 0 16 != 0) = true ∧
    (let s := { s0 with msg := some 5 }
     let u := ({ s with msg := none } : State).hostSync (fld 2 16 48 * 16) (fld 2 0 16 * 16)
     (List.range (fld 2 0 16)).all fun k => !u.backPoison .host (fld 2 16 48 * 16 + 16 * k)) = true := by decide +kernel

/-- A queue whose receiving segment has room for the last of 32 records, and one that receives. -/
def qs : Queue := { q1 with
  role := .send
  edge := some (1, 0x8000)
  peer := 1
  psum := some { queue := 4095, backlog := 1, lq := 3, nextExp := 0, w := 1 }
  backlog := 2
  next := 2 }

def qr : Queue := { q1 with role := .receive }

/-- The machine with a queue, its fabric on and port 15 up. -/
def sp (q : Queue) : State := { (sf.setReg 0x338 0x8000) with queues := [q], stages := [st1], cores := [] }

def fr : FwdRec where
  queue := 4095
  seq := 0
  port := 15
  src := 1
  bytes := List.replicate 16 1

theorem wit_FabricLinkEvents :
    ((sp qs).queue? (fld 0xFFF 0 12) == some qs && qs.edge.isSome && (sp qr).queue? (fld 0xFFF 0 12) == some qr && qr.edge.isNone) = true ∧
    (let s := sp qs
     (s.reg 0x300).getLsbD 1 && s.portUp 15 && (sget {} s.retrain 15).attempts == 0 && !s.downing.getLsbD 15 && !s.queueShut qs &&
       s.queues.all (fun y => y == qs || (y.burst 15).isNone) && qs.burst 15 == some ([0, 1], 1)) = true ∧
    (let s := sp qr
     !s.queueMoves qr && !s.zshut && !s.queueShut qr && qr.early.isEmpty && qr.earlyPan.isEmpty && qr.pan.isEmpty && fr.seq == qr.expose && qr.slotFree fr.seq &&
       (match (s.portCount 15 1 16).homeWrite qr.asid (qr.slotVa fr.seq) fr.bytes (sget 0 s.floorF (qr.home / 24)) with
         | some (_, s2) => s2.queues == s.queues && s2.outbox == s.outbox
         | none => false)) = true ∧
    (let q := { qr with expose := 1 }
     (sp q).queue? fr.queue == some q && decide (fr.seq < q.expose)) = true ∧
    ((s0.setReg 0x338 0x1_8000).linkUp (.port 15) && (s0.setReg 0x338 0x1_8000).linkUp .zenvex &&
      ({ s0.setReg 0x338 0x8000 with retrain := [(15, { attempts := 3 })] } : State).linkUp (.port 15)) = true ∧
    ((sp qs).segs.isEmpty && qs.inflight.isEmpty && ({ sp qs with segs := [seg1 (.store ms1)] } : State).segs.all (·.sent) && !s0.portUp 15 &&
      ({ s0 with training := 0x8000 } : State).training.getLsbD 15) = true ∧
    (let s := { s0 with zdown := some 0, time := [(0, 1000000001)] }
     decide (0 + 1000000000 < s.now)) = true := by decide +kernel

/-! ## Witnesses of the other events' premises -/

/-- A window over its budget, at it and under it; a sample of the last slot into a ring that has one free entry; a stop at its very
time; a dump and a release. -/
theorem wit_ObservationEvents :
    (let s := { s0 with budget := 1, energy := 1001 }
     decide (s.budget * 1000 < s.windowEnergy) && decide (({ s with energy := 1000 } : State).windowEnergy = 1000)) = true ∧
    (let c := cw { gw with part := 3, slot := 11 }
     let s := (((sw c).setReg 0xDC0 0x8000_0000_0000_0000).setReg 0x800 0x40_0040_0001).setReg 0x810 0xFF
     let ctl := s.winRead 0x800
     ctl.getLsbD 0 && ctl.getLsbD 22 && (s.groupAt (fld ctl 9 9) (47 / 12) (47 % 12)).isSome &&
       (fld (s.reg 0x810) 0 32 + 2 ^ 32 - fld (s.reg 0x818) 0 32) % 2 ^ 32 != 2 ^ (fld ctl 23 4 + 8) && s.retiring.isNone) = true ∧
    (let s := { (s0.setReg 0x900 0x31).setReg 0x908 5 with time := [(0, 5)] }
     s.stopArmed 0 3 0 && fld (s.reg 0x900) 6 9 == 0 && fld (s.reg 0x900) 4 2 == 3 && decide ((s.reg 0x908).toNat ≤ (sget 0 s.time 0).toNat)) = true ∧
    (let k : Stop := { pc := 0, cause := 0, part := 3, core := 287, trig := 2, time := 0 }
     !k.dumped && k.held.isEmpty && k.trapped.isNone && s0.retiring.isNone) = true := by decide +kernel

/-- A ring with one free entry and an empty one; FLTTAIL at HEAD and at TAIL; a held crew, one that is on its way there and one that
is not held; a block with a word. -/
theorem wit_FaultEvents :
    (let s := ({ s0 with fltWait := [{ kind := 0x22, addr := 0 }] } : State).setReg 0xC08 1
     s.fltRoom && s.fltSize == 64 && (s.setReg 0xC10 63).fltRoom && fld ((s.setReg 0xC10 63).reg 0xC18) 0 48 != 63) = true ∧
    (let s := s0.setReg 0xC10 5
     decide (fld 5 0 48 ≤ fld (s.reg 0xC10) 0 48) && decide (fld (s.reg 0xC18) 0 48 ≤ fld 0 0 48)) = true ∧
    (let c := { cw gw with st := .held, fltSeq := some 4 }
     (sw c).crew? 0 == some c && ((sw c).crews.map (·.id)).Nodup && decide (4 < fld 5 0 48) &&
       decide (fld ((sw c).reg 0xC20) 0 48 < fld 5 0 48) && (sw c).fltWait.all (fun r => r.kind != 0x10 || r.crew != some 0) &&
       decide (fld 5 0 48 ≤ fld (((sw c).setReg 0xC20 5).reg 0xC20) 0 48) &&
       ({ sw c with fltWait := [{ kind := 0x10, addr := 0, crew := some 0 }] } : State).fltWait.any (fun r =>
         r.kind == 0x10 && r.crew == some 0)) = true ∧
    (let c := { cw gw with st := .stopping, stopTo := .held, fltSeq := some 4 }
     (sw c).crew? 0 == some c && c.stopTo == .held && decide (fld 4 0 48 ≤ 4)) = true ∧
    ((s0.crew? 0).any (fun c => c.st != .held) && (findBlk (sh.slice (homeOf 0)).home 1 511).isSome) = true := by decide +kernel

/-- A core and a slice to retire and their ends; the start-up; a write of a plain register. -/
theorem wit_RetireAndBootEvents :
    (s0.retiring.isNone && decide (fld 287 0 9 < 288) && !(s0.core 287).absent && decide (fld 95 0 9 < 96) &&
      (s0.freeSlice (95 / 24)).isSome) = true ∧
    (let s := { s0 with retiring := some { slice := false, unit := 287, reason := 5, req := true } }
     s.coreClear 287 && !s.inNet 287 && s.retWait.isEmpty && (s.freeSlice 3).isSome && !s.inNet (sliceNode 95)) = true ∧
    (let u := State.reset.store
     u.boots.isEmpty && u.alts.isEmpty && u.log.all (fun e => !e.slice) && u.accepts false && u.accepts true) = true ∧
    (let s := State.reset.withFetchWord 96 0
     s.zdown.isNone && !s.zretrains && s.ready && !s.fatal && (winMask 0x11F8).isSome && (winMask 0x200).isSome) = true := by decide +kernel

/-! ## Witnesses of the premises on other pages, and of what waits, traps or stops -/

/-- The small machine with another leaf for the page of address 0, its fabric on and every port up. -/
def pw (v : Word) (g : Group) : State :=
  (({ sw (cw g) with
    cores := [(0, { attrs := [{ asid := 1, page := 0, attr := leafAttr v }] })]
    ctrls := [(ctrlOf (homeOf 0), { tlb := [{ asid := 1, lvl := 3, va := 0, leaf := v }] })] } : State).setReg 0x300
      0x1002).setReg 0x338 0xFFFF

/-- An entry of the store buffer whose two bytes stand at address 0. -/
def ent1 (committed : Bool) : SbEntry where
  id := 0
  pc := 0
  committed := committed
  cp := .dflt
  parts := [{ lane := 0, va := 0, bytes := [1, 2], acked := false }]

/-- Loads of an SO page, of a peer's and of bytes that an own store holds, some of them. -/
theorem wit_LoadWords_pages :
    ([(0xC00F, true, false), (0xC05F, false, true)].all fun p =>
      let s := pw (BitVec.ofNat 64 p.1) gw
      meets s u (fun x =>
        let as := x.accesses (.o (.g 0) 0) 4 .load
        x.holdsRun (.v 3) 1 ((0, .v 3) :: addrFields (.o (.g 0) 0)) && x.act != 0 && !x.g.hasHeld && !x.g.fenceWaits .dev &&
          s.anySo x as == p.2.1 && s.anyFar x as == p.2.2 && globalReady s x true false false true as &&
          as.all fun a => !s.awaits x.iss.who a.lane x.c.asid a.va a.n)) = true ∧
    (let s := sw (cw { gw with sb := [ent1 false] })
     meets s u (fun x =>
       let as := x.accesses (.o (.g 0) 0) 4 .load
       globalReady s x true false false true as && !s.anySo x as && !s.anyFar x as && x.g.outs.isEmpty &&
         as.all (fun a => !s.awaits x.iss.who a.lane x.c.asid a.va a.n) && (x.g.forward (x.addr (.o (.g 0) 0) 0 + 1)).isSome &&
         (x.g.forward (x.addr (.o (.g 0) 0) 0 + 2)).isNone)) = true := by decide +kernel

/-- Stores to an SO page, to a peer's and to a multicast page; atomics of an SO page and of a peer's. -/
theorem wit_StoresAndAtomics_pages :
    ([0xC00F, 0xC05F, 0xC0DF].all fun p =>
      let s := pw (BitVec.ofNat 64 p) gw
      meets s u (fun x =>
        let as := x.accesses (.o (.g 0) 0) 4 .store
        x.act != 0 && x.g.sb.isEmpty && globalReady s x false true true true as && (s.anySo x as || s.anyFar x as) &&
          !x.g.fenceWaits .dev)) = true ∧
    ([0xC00F, 0xC15F].all fun p =>
      let s := pw (BitVec.ofNat 64 p) gw
      meets s u (fun x =>
        let as := x.accesses (.o (.g 0) 0) 4 .atomic
        x.act != 0 && !x.g.hasHeld && globalReady s x true true false false as && (s.anySo x as || s.anyFar x as) &&
          !x.g.fenceWaits .dev)) = true := by decide +kernel

/-- A fence with a store outstanding, and FENCE.ASYNC with a copy. -/
theorem wit_FenceWord_waits :
    (let s := sw (cw { gw with sb := [ent1 true] })
     meets s u (fun x => x.act != 0 && !x.g.hasHeld && x.g.fenceWaits .dev && x.g.phase == 0)) = true ∧
    (let s := sw { cw gw with copies := [{ id := 5, kind := .g2g, grp := 0, pc := 0, cp := .dflt, tile := 0, runs := [] }] }
     meets s u (fun x => !x.g.fenceWaits .dev && x.c.copies.any fun k => k.grp == x.iss.who.grp && !k.stopped)) = true := by
  decide +kernel

/-- A FLUSH over the dirty word of the one home block; a PREF of 512 bytes. -/
theorem wit_RangeWords_bytes :
    (let s := { s0 with slices := [(homeOf 0, { home := [{ blk1 with dirty := 1 }] })] }
     meets s u (fun x => x.act != 0 && x.g.sb.isEmpty && rangeReady s x (.g 0) 0 (.imm 16) && x.act.lanes.any fun l =>
       ((1 : Mask) &&& Blk.inRange { blk1 with dirty := 1 } x.c.asid (x.range (.g 0) 0 (.imm 16) l).1
         (x.range (.g 0) 0 (.imm 16) l).2).has 0)) = true ∧
    meets s0 u (fun x => x.holds [(1, .g 0), (2, .imm 511)] && x.act.has 0 && (x.src (.imm 511) 0).toNat % 2 ^ 32 != 0 &&
      (match lookAttr (s0.core x.c.core) x.g x.c.asid .load (x.addr (.o (.g 0) 0) 0) with
        | .ok y => y.ap == .hbm && !s0.windowAt x.c.asid 0 y
        | _ => false) && (s0.peek x.c.asid 0).any fun y => y.attr.r && !y.beyond && y.attr.ap == .hbm) = true := by
  decide +kernel

/-- Two home blocks that stand for different bytes: after FLUSH, and after INVAL.DIE of their first word, memory has what they held. -/
theorem wit_RangeWords_apart :
    let j : Blk := { blk1 with dirty := 3, pa := 0x10000, data := [(0, 7), (16, 9)] }
    let k : Blk := { blk1 with span := 1, dirty := 1, pa := 0x10200, data := [(3, 8)] }
    let s := { s0 with slices := [(homeOf 0, { home := [j] }), (homeOf 512, { home := [k] })] }
    let has (t : State) (b : Blk) (q : Nat) : Bool := t.hbm.read (b.pa + 16 * q) 16 == Memory.read b.data (16 * q) 16
    s.HomesApart ∧ meets s u (fun x => x.act != 0 && x.g.sb.isEmpty && rangeReady s x (.g 0) 0 (.imm 511)) = true ∧
      after (exec (.flush u (.g 0) 0 (.imm 511)) s) (fun t => has t j 0 && has t j 1) = true ∧
      after (exec (.inval u .die (.g 0) 0 (.imm 16)) s) (fun t => has t j 0 && has t j 1 && !has t k 0) = true := by
  decide +kernel

/-- A tile to arm that is not empty; a HAND of one that is gone; tiles that a TREL and a HAND wait for, and the limit of copies. -/
theorem wit_TileWords_waits :
    meets s0 u (fun x => x.act != 0 && trapReady s0 x && x.holds [(1, .tile 0), (2, .imm 0)] && (x.c.tile 0).st != .empty) = true ∧
    (let s := sw { cw gw with tiles := [{ st := .empty, size := 1024, handed := true }] }
     meets s u (fun x => trapReady s x && x.holds [(0, .p 0), (1, .tile 0), (2, .imm 0)] && (x.c.tile 0).gone)) = true ∧
    (let s := sw { cw gw with
       shape := { (cw gw).shape with tiles := [1024, 1024, 1024] }
       tiles := [{ st := .draining, size := 1024 }, { st := .filling, size := 1024 },
         { st := .filling, size := 1024, armed := true, fills := 1 }] }
     meets s u (fun x => x.holds [(1, .tile 2)] && (x.c.tile 0).st == .draining && (x.c.tile 1).st == .filling &&
       !(x.c.tile 1).armed && (x.c.tile 2).fills != 0 && !(x.c.tile 2).handed)) = true ∧
    (let r : Crew := { cw gw with
       id := 1
       tiles := [{ st := .filling, size := 1024, armed := true, key := 0 }]
       copies := List.replicate 128 { id := 5, kind := .g2t, grp := 0, pc := 0, cp := .dflt, tile := 0, runs := [] } }
     let s := { s0 with crews := [cw gw, r] }
     meets s u (fun x => decide (128 ≤ s.copiesOn x.c.core) && (x.c.tile 0).st == .ready &&
       !(s.arms (clusterCore x.c.core 0) x.c.vf (x.c.tile 0).size 0).isEmpty)) = true ∧
    (let s := sw { cw gw with tiles := [{ st := .ready, size := 1024 }, { st := .filling, size := 1024, armed := true }] }
     meets s u (fun x => (s.arms (clusterCore x.c.core 0) x.c.vf (x.c.tile 0).size 0).any fun r =>
       r.crew == x.iss.who.crew && decide (r.tile < x.c.tiles.length) && r.tile != 0)) = true := by decide +kernel

/-- A renewal that reaches its home; a probe of an atomic. -/
theorem wit_LoadEvents_renewal :
    ((List.range 288).any fun k => (localSlice k (homeOf 508)).isSome && (sh.homeBlk 1 508).isSome &&
      sh.mayPerform (.loadRequestAtHome { ld1 with core := k, wt := some (5, 31, 31) })) = true ∧
    (match (s0.translateCount (ctrlOf (homeOf 0)) 1 0 (fun a => a.r && a.w) true
        (fun a => Acc.atomic != .atomic || a.ap != .peer || a.rap)).2 with
      | .ok _ => true
      | _ => false) = true := by decide +kernel

/-- A write of VFCTL that is taken, and one that a loaded graph turns away. -/
theorem wit_HostLinkEvents_vf :
    (s0.graphs.all (fun g => g.vf != 3) && s0.quotasFit ((List.range 16).map fun w =>
      if w = 3 then { s0.vfRegs 3 with ctl := 0 } else s0.vfRegs w)) = true ∧
    ((sq gw).graphs.all (fun g => g.vf != 0)) = false := by decide +kernel

/-- A crew in a stopped partition and one in none; a copy's rows outside every message unit. -/
theorem wit_Stops_and_copies :
    (let s := { s0 with stop := some { pc := 0, cause := 0, part := 0, core := 0, trig := 0, time := 0 } }
     (s.crew? 0).any (fun c => c.st == .running && s.stopKeeps c) && (s0.crew? 0).any fun c => !s0.stopKeeps c) = true ∧
    (let c := { cw gw with copies := [cp1 .t2g] }
     let k := cp1 .t2g
     !k.msg && (((runSplit k.chunk (c.chunkScratch k.chunk)).map fun r => runPages r.1 r.2.length).flatten).all fun va =>
       (sw c |>.peek c.asid va).all fun y => (sw c |>.msgUnit c.asid va y.attr).isNone) = true := by decide +kernel

/-- A slice that hands its state over and one that does not; a segment that is lost; a write from a multicast group to the one home
block that holds its word, to no member, and on a port that is off; a torus link that is down; the slices of a message. -/
theorem wit_FabricRequestEvents_other :
    (let s := { sf with retiring := some { slice := true, unit := homeOf 504, reason := 5, req := true } }
     (peerWords (.load 504 8)).any (fun a => s.sliceMoves (homeOf a)) && { rq (.load 504 8) with counted := true }.counted &&
       !(rq (.load 504 8)).counted && !sf.sliceMoves (homeOf 504) && !s.ckHolds 1 504 (2 ^ 64) &&
       (s.reg 0x300).getLsbD 1) = true ∧
    (({ sf with segs := [seg1 (.store ms1)] } : State).segs.find? fun g => g.tag == 7 && g.sent).isSome = true ∧
    ([SegUse.store ms1, .load ld1].all fun u => ({ sf with segs := [seg1 u] } : State).segs.all (·.sent)) = true ∧
    (let b : Blk := { blk1 with ap := .hbm, pa := 0x10000 }
     let s := { (sf.setReg 0x310 0x8001).setHbm64 0x8000 0x10001 with slices := [(95, { home := [b] })] }
     (s.hbm64 0x8000).getLsbD 0 && b.holdsFrame (0x10000 + 511) && decide (b.last < 32) && !s.sliceMoves 95 &&
       (s.ckFrame .hbm (0x10000 + 511)).isNone && fld (s.hbm64 0x8000) 15 37 * 2 ^ 15 + 511 == 0x10000 + 511) = true ∧
    (!(sf.reg 0x310).getLsbD 0 && !(s0.reg 0x300).getLsbD 1) = true ∧
    (let s := s0.setReg 0x300 3
     s.torus && (s.reg 0x300).getLsbD 1 && !s.portUp 15) = true ∧
    (({ sf with queues := [qa] } : State).lands (2 ^ 26 - 1) 64 && sf.lands 5 64) = true := by decide +kernel

/-- Blocks of several ASIDs on one frame: no two hold one word under one ASID, and all of them take a multicast write. -/
theorem wit_FabricRequestEvents_homes :
    let a : Blk := { blk1 with ap := .hbm, pa := 0x10000 }
    let s := { (sf.setReg 0x310 0x8001).setHbm64 0x8000 0x10001 with
      slices := [(95, { home := [a, { a with asid := 2, le := 30 }] }), (3, { home := [{ a with asid := 5, le := 77 }] })] }
    let m : McWrite := { src := 1, group := 65536, ofs := 511, bytes := [9], tag := 3, port := 2 }
    s.HomesSound ∧ s.slices.any (fun y => y.2.home.any fun b => b.holdsFrame (0x10000 + 511)) = true ∧
      after (exec (.multicastWriteArrival m) s) (fun t => s.slices.all fun y => y.2.home.all fun b =>
        (t.slice y.1).home.any fun b' => b'.asid == b.asid && b'.read 511 1 == [9] && b'.dirty.has 31 && decide (b.le < b'.wt) &&
          decide (b'.wt ≤ sget 0 t.floorF 3)) = true := by
  refine ⟨⟨by decide, ?_⟩, by decide +kernel, by decide +kernel⟩
  simp only [List.forall_mem_cons, List.not_mem_nil, false_implies, implies_true, List.pairwise_cons, List.Pairwise.nil]
  simp [Blk.holds, blk1]
  omega

/-- A peer's store that has its turn, and one behind a store that is held; a forwarded torus segment that waits at a port which
retrains, that leaves as the port is ready, and that is lost as it goes down. -/
theorem wit_FabricEvents_waits :
    (let r (n : Nat) (v : Byte) : PeerReq := { rq (.store 504 [v]) with counted := true, no := n }
     let s := { sf with held := [{ id := 3, why := .wb, since := 0, asid := 1, va := 0, slice := 0, req := .peerRequestArrival (r 1 1) }] }
     sf.peerFree (r 2 2) && after (exec (.peerRequestArrival (r 2 2)) sf) (fun t => t.outbox == [.peerAns 0 15 (.done 0)]) &&
       (s.held.find? fun h => peerBefore (r 2 2) h.req).isSome && after (exec (.peerRequestArrival (r 2 2)) s) fun t =>
         t.outbox.isEmpty && t.held.length == 2) = true ∧
    (let m : TorusSeg := { dst := 2, src := 1, tag := 3, port := 2, turns := [15, 0], payload := [1] }
     let s := (s0.setReg 0x300 3).setReg 0x338 0x8000
     let r := { s with retrain := [(15, { attempts := 1 })] }
     let w := { r with transit := [m] }
     s.torus && !s.segWaits 8 15 && r.segWaits 8 15 &&
       after (exec (.torusForward m) s) (fun t => t.outbox == [.torus 15 { m with turns := [0] }] && t.transit.isEmpty) &&
       after (exec (.torusForward m) r) (fun t => t.outbox.isEmpty && t.transit == [m]) &&
       after (exec (.retrainComplete (.port 15)) w) (fun t => t.outbox == [.torus 15 { m with turns := [0] }] && t.transit.isEmpty) &&
       after (exec (.portDown 15) w) (fun t => t.outbox == [.torusLost m] && t.transit.isEmpty)) = true := by decide +kernel

/-- What waits for the Zenvex Link as it goes down, comes up and has retrained; a burst that the torus lost. -/
theorem wit_FabricLinkEvents_waits :
    (let s := { sw (cw { gw with sysWait := true }) with linkWait := [.registerWrite 0x200 5, .tlbinvRange 0] }
     let z := { s with retrain := [(16, { attempts := 1 })] }
     let on (t : State) : Bool := t.linkWait.isEmpty && t.todo == s.linkWait && !(the t).sysWait && !(the t).failMark
     after (exec .zenvexLinkDown s) (fun t => t.linkWait == [.tlbinvRange 0] && (the t).failMark && !(the t).sysWait) &&
       after (exec .zenvexLinkUp s) on && after (exec (.retrainComplete .zenvex) z) on && z.zretrains && z.zdown.isNone) = true ∧
    (let s := sp { qs with inflight := [(0, 15, 7), (1, 15, 8)] }
     s.segs.isEmpty && after (exec (.peerReply { tag := 7, res := .lost }) s) fun t => (t.queue? 4095).any fun q =>
       q.inflight == [(1, 15, 8)] && q.again == [0]) = true := by decide +kernel

/-- A summary with a record that has waited through two; a burst beside a queue whose home moves; a port that drains. -/
theorem wit_FabricLinkEvents_other :
    (let q := { qs with inflight := [(0, 15, 7), (1, 15, 7)], waited := [0] }
     (sp q).queue? 4095 == some q && q.role == .send && q.waited.contains 0) = true ∧
    (let q2 := { qs with num := 1, winbase := (List.range 96).find? (fun k => homeOf (k * 4096) != homeOf qs.winbase) |>.getD 0 |>.mul 4096 }
     let s := { sp qs with queues := [qs, q2], retiring := some { slice := true, unit := q2.home, reason := 5, req := true } }
     s.queues.all (fun y => y == qs || (y.burst 15).isNone || s.queueShut y) && !s.queueShut qs) = true ∧
    (let s := { sp qs with segs := [seg1 (.store ms1)] }
     s.portUp 15 && s.segs.any fun g => g.sent && g.port == 15) = true ∧
    (let s := sp { qs with inflight := [(0, 15, 7)] }
     s.portUp 15 && s.segs.isEmpty && !s.portDrained 15) = true := by decide +kernel

/-- An absent core with its stop armed; a release that a crew's pre-emption has waited for, and one with a held result. -/
theorem wit_ObservationEvents_other :
    (let s := ((s0.setReg 0x900 0x1).setReg 0x908 0).updCore 0 fun co => { co with absent := true }
     s.stopArmed 0 0 0 && (s.core 0).absent) = true ∧
    (let k : Stop := { pc := 0, cause := 0, part := 0, core := 0, trig := 0, time := 0, dumped := true, deferred := [0] }
     let s := { s0 with stop := some k }
     k.held.isEmpty && k.trapped.isNone && (s.crew? 0).any (fun c => c.st == .running) && (s.crews.map (·.id)).Nodup &&
       k.deferred.contains 0 && s.retiring.all fun r => r.slice || r.unit != k.core) = true ∧
    (let k : Stop := { pc := 0, cause := 0, part := 0, core := 0, trig := 0, time := 0, dumped := true
                       held := [.array { who := iss.who, pc := 0, out := none, act := 1, vals := [(0, 5)], fl := 0 }] }
     k.held.length == 1 && k.deferred.isEmpty && !(s0.reg 0x900).getLsbD 0) = true := by decide +kernel

/-- An L1 block with a word; a store and a load under way with a word; a queue of a graph. -/
theorem wit_FaultEvents_other :
    (let s := s0.updCore 0 fun co => { co with l1 := [blk1] }
     (findBlk (s.core 0).l1 1 511).isSome) = true ∧
    (let s := { s0 with flight := [.storePerformedAtHome ms1, .loadResultReturn { req := ld1, data := [], poison := false, wt := 0, fill := none }] }
     s.flying.contains (.storePerformedAtHome ms1) && s.flying.length == 2 && ld1.va / 16 == 511 / 16) = true ∧
    (((sq gw).queue? 4095).any fun q => ((sq gw).graph? q.graph).isSome) = true ∧
    (let s := { s0 with stop := some { pc := 0, cause := 0, part := 0, core := 287, trig := 0, time := 0 } }
     s.stopsOn 287 && !s0.stopsOn 287) = true := by decide +kernel

/-- A discarded crew whose copy a replay sends on; the crews of a queue that cannot be read; the words that an error on the way marks. -/
theorem wit_FaultEvents_gone :
    (let s := sw { cw gw with st := .gone, fltSeq := some 4, copies := [cp1 .g2g] }
     !s.chunkUnderWay 0 5 && after (exec (.fltreplay 5) s) fun t =>
       (t.crew? 0).any (fun c => c.fltSeq.isNone && c.st == .gone) && t.flying == [.copyChunkComplete 0 5]) = true ∧
    (let s := { sq gw with crews := [{ cw gw with st := .saved }, { cw gw with id := 1 }] }
     (s.crews.map (·.id)).Nodup && after (exec (.dataErrorDetected (.queueState 4095)) s) fun t =>
       t.crews.map (·.st) == [.gone, .running] && t.todo == [.preemption 1]) = true ∧
    (let s := { s0 with flight := [.loadResultReturn
       { req := ld1, data := [], poison := false, wt := 0, fill := some (blk1.fill 1 0 31 9) }] }
     after (exec (.dataErrorDetected (.carried true 1 511)) s) fun t => t.flying.any fun i => match i with
       | .loadResultReturn m => m.poison && m.bad == [0, 1, 2, 3] && m.fill.any fun f => f.poison == 0x80000000
       | _ => false) = true := by decide +kernel

/-- NOP at the reset state's fetch address: what the step's premises ask. -/
theorem wit_StepRunsDecodedWord :
    (let s := State.reset.withFetchWord 96 (leNat (encBytes (.nop u)))
     !s.over && s.todo.isEmpty && s.inbox.isEmpty && s.ready && s.flight.isEmpty && s.net.isEmpty && s.convFaults.isEmpty &&
       (match s.arbitrate s.readyGroups with
         | some r => (match s.crew? r.who.crew, s.group? r.who with
           | some c, some g => g.head.isNone && g.asyncNext.isNone && !r.sel.conv && (match s.fetchWord c g r.sel.pc with
             | .ok bs => decodeBytes bs == .ok (.nop u)
             | _ => false)
           | _, _ => false)
         | none => false)) = true ∧
    (let s := State.reset.withFetchWord 96 (leNat (encBytes (.yield u)))
     s.readyGroups.length == 1) = true := by decide +kernel

theorem wit_EncodeDecode : (Instr.nop u).isWord = true ∧ (Instr.nop u).wf = true := by decide

theorem wit_MemoryInvariant : ∃ s t, State.MemOk s ∧ step s = .next t := by
  refine ⟨{ State.reset with todo := [.clockTick] }, _, ?_, rfl⟩
  exact ⟨by decide, by decide⟩

/-! ## The spec's worked examples -/

/-- 07, "saturating add of an immediate": both lanes. -/
theorem test_iadd_sat :
    let f := intArith 32 true true fun a b _ => a + b
    f 0x8000_0002_0000_0005 0xFFFF_FFFD_FFFF_FFFD 0 = { d := 0x8000_0000_0000_0002, fl := Fl.sa } ∧
      f 0x0000_0000_FFFF_FFFF 0xFFFF_FFFD_FFFF_FFFD 0 = { d := 0xFFFF_FFFD_FFFF_FFFC } := by decide +kernel

/-- 07, "a guarded backward branch". -/
theorem test_branch_target : relTarget 0x400 0xFFFF_FFE8 = 0x3E8 := by decide

/-- 07, R170: (A AND B) OR C is table 0xF8. -/
theorem test_blut : blutW 0xF8 0xF0F0 0xCCFF 0x0001 = 0xC0F1 := by decide +kernel

/-- 08, "narrowing into part 1". -/
theorem test_narrow_part :
    cvtFfW .e4m3 .f32 f0 .rn 1 0xC060_0000_4396_0000 0x1111_1111_1111_1111 = { d := 0x1111_1111_C679_1111, fl := Fl.nx } := by
  decide +kernel

/-- 04, beside R85: 3.1875 / 3.0 is a tie, and narrows to 1.0. -/
theorem test_cvts_tie : (cvtsW .e4m3 .f32 f0 .rn 0 0x404C_0000 0x4040_0000_4040_0000 0).d.toNat % 256 = 0x38 := by decide +kernel

/-- 04, beside R86: 2.625 narrows to 3 and leaves −0.375. -/
theorem test_cvtef : let r := cvtefW .e2m1 f0 .rn 0 0x4028_0000 none 0
    r.1.d.toNat % 16 = 5 ∧ r.2.d.toNat % 2 ^ 32 = 0xBEC0_0000 ∧ r.1.fl = Fl.nx := by decide +kernel

/-- 08, beside R195: 900 scaled for 448 is the byte 0x41. -/
theorem test_bscl : (bsclW 0 0x4461_0000 0x43E0_0000 0).d.toNat % 256 = 0x41 := by decide +kernel

/-- 04, beside R90: 2²⁴ and a block sum of 3 give 2²⁴ + 4. -/
theorem test_block_round : let xs := List.replicate 3 0x38 ++ List.replicate 29 0
    accBlock 0x4B80_0000 (blockValue .e4m3 .e4m3 xs xs 0x38 0x38) = (0x4B80_0002, Fl.nx) := by decide +kernel

/-- 04 R89: where every product and the accumulator are −0, so is the sum. -/
theorem test_block_minus_zero :
    accBlock 0x8000_0000 (blockValue .e4m3 .e4m3 (List.replicate 32 0x80) (List.replicate 32 0x38) 0x38 0x38) = (0x8000_0000, 0) := by
  decide +kernel

/-- 01, beside R18 and R20: the frame's die; 12, beside R300: home slice and set; 16, beside R400: the plane. -/
theorem test_places : hbmDie 0x128000 = 0 ∧ homeOf 0x100_0000_0000 = 0 ∧ l2Set 0x100_0000_0000 = 172 ∧ planeOf 0xA40 = 3 := by
  decide +kernel

/-- The check value of CRC-32: that of the nine digits (PRESUMED variant, notes/assumptions/107.md). -/
theorem test_crc : crc32 [0x31, 0x32, 0x33, 0x34, 0x35, 0x36, 0x37, 0x38, 0x39] = 0xCBF43926 := by decide +kernel

/-- The digest of "abc" as FIPS 180-4's examples have it. -/
theorem test_sha384 : sha384 [0x61, 0x62, 0x63] =
    0xCB00753F45A35E8BB5A03D699AC65007272C32AB0EDED1631A8B605A43FF5BED8086072BA1E7CC2358BAECA134C825A7 := by decide +kernel

/-- The signature of "sample" under P-384 and SHA-384 as RFC 6979 has it (A.2.6), and one with another s. -/
theorem test_ecdsa :
    let key := (0xEC3A4E415B4E19A4568618029F427FA5DA9A8BC4AE92E02E06AAE5286B300C64DEF8F0EA9055866064A254515480BC13,
      0x8015D9B72D7D57244EA8EF9AC0C621896708A59367F9DFB9F54CA84B3F1C9DB1288B231C3AE0D4FE7344FD2533264720)
    let e := sha384 [0x73, 0x61, 0x6D, 0x70, 0x6C, 0x65]
    let r := 0x94EDBB92A5ECB8AAD4736E56C691916B3F88140666CE9FA73D64C4EA95AD133C81A648152E44ACF96E36DD1E80FABE46
    let s := 0x99EF4AEB15F178CEA1FE40DB2603138F130E740A19624526203B6351D0A3A94FA329C145786E679E7B82C71A38628AC8
    ecdsaVerify key e r s = true ∧ ecdsaVerify key e r (s + 1) = false := by decide +kernel

/-- 18, "one window": the plan is 1.6 GHz. -/
theorem test_plan : planClock 1400 15000 2100 18900000 = 1600 := by decide

/-! ## One step each, on the small machine -/

/-- A vector operation whose source is its destination: every lane's sum, and the pc past the word. -/
theorem test_step_iadd :
    let s := sw (cw (gw.wrV 4 0x80000000 fun _ => 6))
    after (exec (.iadd u .w64 false false (.v 4) (.v 4) (.r (.imm 1))) s) (fun t =>
      (the t).rdV 4 0 == 1 && (the t).rdV 4 31 == 7 && ((the t).lpOf 0).pc == 0x10C) = true := by decide +kernel

/-- A word under a false guard: nothing is written, and the lanes go on (03 R58). -/
theorem test_step_off :
    after (exec (.mov { u with pg := 0 } (.v 4) (.imm 7)) { s0 with cur := some { iss with act := 0 } }) (fun t =>
      (the t).rdV 4 0 == 0 && ((the t).lpOf 0).pc == 0x10C) = true := by decide +kernel

/-- A call pushes nothing but the written return address, and its lanes are one deeper (07 R155). -/
theorem test_step_call :
    after (exec (.call u (.v 1) 0x20) s0) (fun t =>
      (the t).rdV 1 31 == 0x10C && ((the t).lpOf 31).pc == 0x120 && ((the t).lpOf 31).depth == 2) = true := by decide +kernel

/-- 25 R519: an atomic of a peer page with RAP = 0 probes, and is looked up once the probe has answered. -/
theorem test_rap_probe :
    let a : Attr := { r := true, w := true, x := false, ok := .rc, ap := .peer, rap := false, g := false, d := true, wb := false }
    let co : Core := { attrs := [{ asid := 1, page := 0, attr := a }] }
    lookAttr co gw 1 .atomic 8 = .probe ∧ lookAttr co { gw with answers := [(probeKey .atomic 8, 4)] } 1 .atomic 8 = .ok a ∧
      lookAttr co gw 1 .store 8 = .ok a := by decide +kernel

/-- 22 R477: the second group of a crew that meets cause 0x10 in a cycle issues in it, and the lower GROUPID posts first. -/
theorem test_aborts_in_one_cycle :
    let s := { sw { cw gw with groups := [gw, { gw with part := 1 }] } with cycle := 5 }
    let t := s.abort { crew := 0, grp := 1 } 0 0 0x100
    ((t.crew? 0).any fun c => c.st == .stopping && t.issues c gw) = true ∧
      ((t.abort { crew := 0, grp := 0 } 0 0 0x100).fltWait.map (·.grp)) = [0, 1] := by decide +kernel

/-- TRAP enters the handler with its cause and its address (20 R448). -/
theorem test_step_trap :
    after (exec (.trap u 3) ((s0.updCore 0 fun co => { co with trapbase := 0x4000 }))) (fun t =>
      (the t).handler && (the t).tpc == 0x100 && (the t).tlanes == 0xFFFFFFFF) = true := by decide +kernel

/-- The step of the spec fetches, decodes and runs the word that is placed for it. -/
theorem test_step_runs :
    after (step (State.reset.withFetchWord 96 (leNat (encBytes (.mov u (.g 1) (.imm 5)))))) (fun t =>
      sget 0 (the t).g 1 == 5) = true := by decide +kernel

end Sys2Proof.Tests
end

section
/-! SUPPORT. Lane masks, and the lanes of a group at the end of an issue. -/

namespace Sys2Proof

/-! ## Lane masks -/

theorem Mask.has_ofFn (f : Nat → Bool) (l : Nat) : (Mask.ofFn f).has l = (decide (l < 32) && f l) := by
  have key : ∀ n ≤ 32, ∀ m : Mask, Mask.has ((List.range n).foldl (fun m k => if f k then m ||| Mask.one k else m) m) l =
      (m.has l || (decide (l < n) && f l)) := by
    intro n
    induction n with
    | zero => simp
    | succ n ih =>
      intro hn m
      rw [List.range_succ, List.foldl_append, List.foldl_cons, List.foldl_nil]
      have one : (Mask.one n).getLsbD l = decide (n = l) := Mask.has_one (by omega)
      have split : decide (l < n + 1) = (decide (l < n) || decide (n = l)) := by
        rw [Bool.eq_iff_iff]; simp; omega
      have before := ih (by omega) m
      by_cases e : n = l
      · subst e
        simp only [Mask.has] at before one ⊢
        split <;> simp_all
      · simp only [Mask.has] at before one ⊢
        split <;> simp_all
  simpa [Mask.ofFn, Mask.has] using key 32 (by omega) 0

theorem Mask.eq_zero_iff {m : Mask} : m = 0 ↔ ∀ l, l < 32 → m.has l = false := by
  constructor
  · rintro rfl l _
    simp [Mask.has]
  · intro h
    apply BitVec.eq_of_getLsbD_eq
    intro l hl
    simpa [Mask.has] using h l hl

theorem Mask.low_eq_none_iff {m : Mask} : m.low = none ↔ m = 0 := by
  rw [Mask.eq_zero_iff, Mask.low, List.head?_eq_none_iff, List.eq_nil_iff_forall_not_mem]
  simp [Mask.mem_lanes]

theorem Mask.lanes_zero : Mask.lanes 0 = [] := by decide

theorem Mask.lt_of_has {m : Mask} {l : Nat} (h : m.has l = true) : l < 32 := BitVec.lt_of_getLsbD h

/-- No lane of a mask that none of its lanes is in. -/
theorem Mask.ofFn_none {m : Mask} {f : Nat → Bool} (h : ∀ l, m.has l = true → f l = false) :
    Mask.ofFn (fun l => m.has l && f l) = 0 := by
  rw [Mask.eq_zero_iff]
  intro l _
  rw [Mask.has_ofFn]
  cases hl : m.has l with
  | false => simp
  | true => simp [h l hl]

/-- What every lane of a mask passes, as a test of the lanes. -/
theorem Mask.all_lanes {m : Mask} {p : Nat → Bool} (h : m.lanes.all p = true) {l : Nat} (hl : m.has l = true) : p l = true :=
  List.all_eq_true.mp h l (Mask.mem_lanes.mpr ⟨Mask.lt_of_has hl, hl⟩)

end Sys2Proof

namespace Sys2Proof.Machine

/-! ## The lanes of a group -/

theorem Group.IssueRest.trans {a b c : Group} (h : a.IssueRest b) (k : b.IssueRest c) : a.IssueRest c :=
  Eq.trans k (congrArg (fun g : Group => { g with
    lp := c.lp, wset := c.wset, suppress := c.suppress, wait := c.wait, phase := c.phase, head := c.head
    probed := c.probed, answers := c.answers, recs := c.recs, lastIssue := c.lastIssue }) h)

theorem Group.IssueRest.sameRegs {g g' : Group} (h : g.IssueRest g') : g.SameRegs g' := by
  rw [h]
  exact ⟨rfl, rfl, rfl, rfl, rfl⟩

theorem Group.IssueRest.sameTrap {g g' : Group} (h : g.IssueRest g') : g.SameTrap g' := by
  rw [h]
  exact ⟨rfl, rfl, rfl, rfl, rfl, rfl, rfl, rfl, rfl, rfl, rfl, rfl, rfl⟩

/-- The group only goes on: every lane keeps its PC and its depth; an exited or absent lane stays so, and a remaining one
remains. -/
structure Group.Stands (g g' : Group) : Prop where
  rest : g.IssueRest g'
  pc : ∀ l, (g'.lpOf l).pc = (g.lpOf l).pc
  depth : ∀ l, (g'.lpOf l).depth = (g.lpOf l).depth
  gone : ∀ l, (g.lpOf l).st.remaining = false → (g'.lpOf l).st = (g.lpOf l).st
  remain : ∀ l, (g.lpOf l).st.remaining = true → (g'.lpOf l).st.remaining = true

/-- A group with the same lanes. -/
theorem Group.Stands.same {g g' : Group} (rest : g.IssueRest g') (lp : g'.lp = g.lp) : g.Stands g' := by
  have at_ (l : Nat) : g'.lpOf l = g.lpOf l := by rw [Group.lpOf, Group.lpOf, lp]
  exact ⟨rest, fun l => by rw [at_], fun l => by rw [at_], fun l _ => by rw [at_], fun l h => by rwa [at_]⟩

theorem Group.Stands.refl (g : Group) : g.Stands g := .same rfl rfl

theorem Group.Stands.trans {a b c : Group} (h : a.Stands b) (k : b.Stands c) : a.Stands c where
  rest := h.rest.trans k.rest
  pc l := (k.pc l).trans (h.pc l)
  depth l := (k.depth l).trans (h.depth l)
  gone l e := (k.gone l (by rw [h.gone l e, e])).trans (h.gone l e)
  remain l e := k.remain l (h.remain l e)

@[simp] theorem Group.lpOf_setLp (g : Group) (k : Nat) (e : Lp) (l : Nat) :
    (g.setLp k e).lpOf l = if l = k then e else g.lpOf l := by
  simp [Group.lpOf, Group.setLp, sget_sset]

/-- A remaining lane moves to another state that remains. -/
theorem Group.Stands.setSt {g g' : Group} (h : g.Stands g') {l : Nat} {st : LSt} (old : (g.lpOf l).st.remaining = true)
    (new : st.remaining = true) : g.Stands (g'.setLp l { g'.lpOf l with st := st }) where
  rest := h.rest.trans rfl
  pc k := by
    rw [Group.lpOf_setLp, ← h.pc k]
    split <;> simp_all
  depth k := by
    rw [Group.lpOf_setLp, ← h.depth k]
    split <;> simp_all
  gone k e := by
    have hk : k ≠ l := by rintro rfl; simp [old] at e
    rw [Group.lpOf_setLp, if_neg hk, h.gone k e]
  remain k e := by
    rw [Group.lpOf_setLp]
    split
    · exact new
    · exact h.remain k e

theorem Group.has_lanesIn (g : Group) (p : LSt → Bool) (l : Nat) :
    (g.lanesIn p).has l = (decide (l < 32) && p (g.lpOf l).st) := Mask.has_ofFn _ l

theorem Group.mem_lanesIn {g : Group} {p : LSt → Bool} {l : Nat} (h : l ∈ (g.lanesIn p).lanes) : p (g.lpOf l).st = true := by
  have := (Mask.mem_lanes.mp h).2
  rw [Group.has_lanesIn] at this
  simp_all

/-- A yielded lane may have gone live, and no lane has changed its state otherwise. -/
def Group.Woken (g g' : Group) : Prop :=
  ∀ l, (g'.lpOf l).st = (g.lpOf l).st ∨ ((g.lpOf l).st = .yielded ∧ (g'.lpOf l).st = .live)

theorem Group.Woken.trans {a b c : Group} (h : a.Woken b) (k : b.Woken c) : a.Woken c := by
  intro l
  rcases h l with h | ⟨h, h'⟩ <;> rcases k l with k | ⟨k, k'⟩
  · exact .inl (k.trans h)
  · exact .inr ⟨h ▸ k, k'⟩
  · exact .inr ⟨h, k ▸ h'⟩
  · simp [h'] at k

/-- Dropping lanes from the wait sets wakes yielded lanes and changes nothing else. -/
theorem Group.settle_stands (g : Group) (drop : Mask) : g.Stands (g.settle drop) ∧ g.Woken (g.settle drop) := by
  have key : ∀ (ls : List Nat) (live : Mask) (g' : Group), (∀ l ∈ ls, (g.lpOf l).st = .yielded) → g.Stands g' ∧ g.Woken g' →
      let t := ls.foldl (fun g l =>
        let w := sget 0 g.wset l &&& live &&& ~~~drop
        let g := { g with wset := sset 0 g.wset l w }
        if w = 0 then g.setLp l { g.lpOf l with st := .live } else g) g'
      g.Stands t ∧ g.Woken t := by
    intro ls live
    induction ls with
    | nil => exact fun g' _ h => h
    | cons l ls ih =>
      intro g' hy ⟨hs, hw⟩
      refine ih _ (fun k hk => hy k (by simp [hk])) ?_
      have old := hy l (by simp)
      have drops (ws : SMap Mask) : g.Stands { g' with wset := ws } := hs.trans (.same rfl rfl)
      dsimp only
      split
      · refine ⟨(drops _).setSt (by rw [old]; rfl) rfl, fun k => ?_⟩
        rw [Group.lpOf_setLp]
        split
        · next e => subst e; exact .inr ⟨old, rfl⟩
        · exact hw k
      · exact ⟨drops _, hw⟩
  exact key _ _ g (fun l hl => by simpa using Group.mem_lanesIn hl) ⟨.refl g, fun _ => .inl rfl⟩

/-- S parks live lanes. -/
theorem Group.parkS_stands (g : Group) (act : Mask) : g.Stands (g.parkS act) := by
  have at_ (l : Nat) : ((g.parkS act).lpOf l) = g.lpOf l ∨
      ((g.lpOf l).st = .live ∧ (g.parkS act).lpOf l = { g.lpOf l with st := .parked }) := by
    simp only [Group.parkS, Group.lpOf_mapLp]
    split
    · next h =>
      have live : g.live.has l = true := by
        have := h.2
        simp only [Mask.has, BitVec.getLsbD_and, Bool.and_eq_true] at this
        exact this.2
      rw [Group.live, Group.has_lanesIn] at live
      exact .inr ⟨by simp_all, rfl⟩
    · exact .inl rfl
  refine ⟨rfl, fun l => ?_, fun l => ?_, fun l e => ?_, fun l e => ?_⟩
  · rcases at_ l with h | ⟨_, h⟩ <;> rw [h]
  · rcases at_ l with h | ⟨_, h⟩ <;> rw [h]
  · rcases at_ l with h | ⟨old, _⟩
    · rw [h]
    · rw [old] at e
      contradiction
  · rcases at_ l with h | ⟨_, h⟩
    · rwa [h]
    · rw [h]
      rfl

/-- Y makes live lanes yield. -/
theorem Group.yieldY_stands (g : Group) (act held : Mask) : g.Stands (g.yieldY act held) := by
  have key : ∀ (ls : List Nat) (w : Mask) (g' : Group), (∀ l ∈ ls, (g.lpOf l).st = .live) → g.Stands g' →
      g.Stands (ls.foldl (fun g l => { g.setLp l { g.lpOf l with st := .yielded } with wset := sset 0 g.wset l w }) g') := by
    intro ls w
    induction ls with
    | nil => exact fun g' _ h => h
    | cons l ls ih =>
      intro g' hl hs
      exact ih _ (fun k hk => hl k (by simp [hk])) ((hs.setSt (by rw [hl l (by simp)]; rfl) rfl).trans (.same rfl rfl))
  unfold Group.yieldY
  dsimp only
  split
  · exact .refl g
  · refine key _ _ g (fun l hl => ?_) (.refl g)
    have live := (Mask.mem_lanes.mp hl).2
    simp only [Mask.has, BitVec.getLsbD_and, Bool.and_eq_true] at live
    have := Group.has_lanesIn g (· == .live) l
    simp_all [Group.live, Mask.has]

/-- The group of a word that has performed (03 R61 to R63). -/
def Group.wordDone (g : Group) (x : Ctx) (h : Hdr) (hint : Mask) : Group :=
  let g := (g.unsuppress x.iss).settle (x.iss.set ||| x.iss.held)
  let g := if h.s then g.parkS hint else g
  let g := if h.y then g.yieldY hint x.iss.held else g
  (g.settle 0).headDone

theorem State.performed_eq (s : State) (x : Ctx) (h : Hdr) (hint : Mask) :
    s.performed x h hint = s.updGroup x.iss.who fun g => g.wordDone x h hint := rfl

theorem Group.unsuppress_stands (g : Group) (i : Issue) : g.Stands (g.unsuppress i) := by
  unfold Group.unsuppress
  split
  · exact .refl g
  · exact .same rfl rfl

/-- The end of a word moves lanes between the states that remain. -/
theorem Group.wordDone_stands (g : Group) (x : Ctx) (h : Hdr) (hint : Mask) : g.Stands (g.wordDone x h hint) := by
  have park (g : Group) : g.Stands (if h.s then g.parkS hint else g) := by
    split
    · exact g.parkS_stands hint
    · exact .refl g
  have yield (g : Group) : g.Stands (if h.y then g.yieldY hint x.iss.held else g) := by
    split
    · exact g.yieldY_stands hint x.iss.held
    · exact .refl g
  have issued := (g.unsuppress_stands x.iss).trans (Group.settle_stands _ (x.iss.set ||| x.iss.held)).1
  have hinted := (issued.trans (park _)).trans (yield _)
  exact (hinted.trans (Group.settle_stands _ 0).1).trans (.same rfl rfl)

theorem Group.parkS_zero (g : Group) : g.parkS 0 = g := by
  have none : (0 : Mask) &&& g.outLanes &&& g.live = 0 := by simp
  rw [Group.parkS, none, Group.mapLp, Mask.lanes_zero]
  rfl

theorem Group.yieldY_zero (g : Group) (held : Mask) : g.yieldY 0 held = g := by
  have none : (0 : Mask) &&& g.live = 0 := by simp
  simp only [Group.yieldY, none, Mask.lanes_zero, List.foldl_nil, ite_self]

/-- Without a lane for its hints a word that has performed only wakes lanes. -/
theorem Group.wordDone_woken (g : Group) (x : Ctx) (h : Hdr) : g.Woken (g.wordDone x h 0) := by
  have woken := ((g.unsuppress x.iss).settle_stands (x.iss.set ||| x.iss.held)).2.trans (Group.settle_stands _ 0).2
  intro l
  have start : ((g.unsuppress x.iss).lpOf l) = g.lpOf l := by
    unfold Group.unsuppress
    split <;> rfl
  simp only [Group.wordDone, Group.parkS_zero, Group.yieldY_zero, ite_self]
  exact start ▸ woken l

/-- The lanes of a set that go on, and all lanes then stand. -/
theorem Group.Stands.wentOn {g g' : Group} {set : Mask} {len : Nat} (h : (g.advance set len).Stands g') : g.WentOn g' set len where
  pc l := by
    rw [h.pc, Group.lpOf_advance]
    by_cases hl : set.has l = true
    · simp [hl, Mask.lt_of_has hl]
    · simp [hl]
  depth l := by
    rw [h.depth, Group.lpOf_advance]
    split <;> rfl
  gone l e := by rw [h.gone l (by rwa [Group.advance_lpOf_st]), Group.advance_lpOf_st]
  remain l e := h.remain l (by rwa [Group.advance_lpOf_st])

end Sys2Proof.Machine
end

section
/-! SUPPORT. What an issue spends: the frame of the counts, of the history of a partition and of a stop. -/

namespace Sys2Proof.Machine

/-! ## What an issue spends -/

theorem IssueFrame.refl (s : State) (w : Who) : IssueFrame s s w :=
  ⟨rfl, List.prefix_refl _, fun _ _ => rfl, fun _ _ => rfl, fun _ _ => rfl, List.prefix_refl _, List.prefix_refl _⟩

theorem IssueFrame.trans {a b c : State} {w : Who} (h : IssueFrame a b w) (k : IssueFrame b c w) : IssueFrame a c w where
  rest := k.rest.trans (congrArg (fun t : State => { t with
    crews := c.crews, cores := c.cores, win := c.win, stop := c.stop, flight := c.flight, net := c.net, ptr := c.ptr
    svcWait := c.svcWait, fresh := c.fresh }) h.rest)
  svcWait := h.svcWait.trans k.svcWait
  crews id e := (k.crews id e).trans (h.crews id e)
  groups j e := (k.groups j e).trans (h.groups j e)
  win o e := (k.win o e).trans (h.win o e)
  flight := h.flight.trans k.flight
  net := h.net.trans k.net

/-- What an issue does to a core: the counters of one VF that are enabled count, one that is not stays, and so do the selection,
the enable bits and the interrupt bits. -/
structure Core.CountsOnly (vf : Nat) (a b : Core) : Prop where
  only : Core.IssueOnly a b
  sel : (sget {} b.perf vf).sel = (sget {} a.perf vf).sel
  ctl : (sget {} b.perf vf).ctl &&& 0xFF00FF = (sget {} a.perf vf).ctl &&& 0xFF00FF
  pmc : ∀ k, k < 8 → (sget {} a.perf vf).ctl.getLsbD k = false → sget 0 (sget {} b.perf vf).pmc k = sget 0 (sget {} a.perf vf).pmc k

theorem Core.CountsOnly.refl (vf : Nat) (a : Core) : Core.CountsOnly vf a a := ⟨rfl, rfl, rfl, fun _ _ _ => rfl⟩

/-- The enable bits of PERFCTL lie in the mask of the fields that no count changes. -/
theorem getLsbD_enable {a b : BitVec 24} (h : b &&& 0xFF00FF = a &&& 0xFF00FF) {k : Nat} (hk : k < 8) :
    b.getLsbD k = a.getLsbD k := by
  have e := congrArg (fun v : BitVec 24 => v.getLsbD k) h
  have mask : ∀ k < 8, (0xFF00FF : BitVec 24).getLsbD k = true := by decide
  simpa only [BitVec.getLsbD_and, mask k hk, Bool.and_true] using e

theorem Core.CountsOnly.trans {vf : Nat} {a b c : Core} (h : Core.CountsOnly vf a b) (k : Core.CountsOnly vf b c) :
    Core.CountsOnly vf a c where
  only := k.only.trans (congrArg (fun x : Core => { x with
    perf := c.perf, lastWho := c.lastWho, runLen := c.runLen, lastCyc := c.lastCyc }) h.only)
  sel := k.sel.trans h.sel
  ctl := k.ctl.trans h.ctl
  pmc j hj e := (k.pmc j hj (by rw [getLsbD_enable h.ctl hj, e])).trans (h.pmc j hj e)

theorem Core.CountsOnly.history (vf : Nat) (a : Core) (lastWho : SMap (Nat × Nat)) (runLen lastCyc : SMap Nat) :
    Core.CountsOnly vf a { a with lastWho := lastWho, runLen := runLen, lastCyc := lastCyc } := ⟨rfl, rfl, rfl, fun _ _ _ => rfl⟩

/-- What an issue of a group spends by itself: counts of its core and of the control window, a stop, its place in the order of
issues. Its own crew keeps all but its groups. -/
structure Spends (s t : State) (w : Who) (core vf : Nat) : Prop where
  frame : IssueFrame s t w
  counts : Core.CountsOnly vf (s.core core) (t.core core)
  cores : ∀ k, k ≠ core → t.core k = s.core k
  crew : ∀ c, s.crew? w.crew = some c → ∃ gs, t.crew? w.crew = some { c with groups := gs }

theorem Spends.refl (s : State) (w : Who) (core vf : Nat) : Spends s s w core vf :=
  ⟨.refl s w, .refl vf _, fun _ _ => rfl, fun c h => ⟨c.groups, h⟩⟩

theorem Spends.trans {a b c : State} {w : Who} {core vf : Nat} (h : Spends a b w core vf) (k : Spends b c w core vf) :
    Spends a c w core vf where
  frame := h.frame.trans k.frame
  counts := h.counts.trans k.counts
  cores j e := (k.cores j e).trans (h.cores j e)
  crew c hc := by
    obtain ⟨gs, hb⟩ := h.crew c hc
    obtain ⟨gs', hc'⟩ := k.crew _ hb
    exact ⟨gs', hc'⟩

/-- It has the whole frame of an issue. -/
theorem Spends.quiet {s t : State} {w : Who} {core vf : Nat} (h : Spends s t w core vf) : QuietFrame s t w where
  toIssueFrame := h.frame
  cores k := by
    by_cases e : k = core
    · exact e ▸ h.counts.only
    · rw [h.cores k e]
      rfl

theorem Spends.updGroup (s : State) (w : Who) (f : Group → Group) (core vf : Nat) :
    Spends s (s.updGroup w f) w core vf where
  frame := ⟨rfl, List.prefix_refl _, fun _ e => State.crew?_updGroup_ne e,
    fun _ e => State.group?_updGroup_ne fun h => e (congrArg Who.grp h),
    fun _ _ => rfl, List.prefix_refl _, List.prefix_refl _⟩
  counts := .refl vf _
  cores _ _ := rfl
  crew _ h := ⟨_, State.crew?_updGroup h⟩

theorem Spends.updCore (s : State) (w : Who) {core vf : Nat} {f : Core → Core} (h : Core.CountsOnly vf (s.core core) (f (s.core core))) :
    Spends s (s.updCore core f) w core vf where
  frame := ⟨rfl, List.prefix_refl _, fun _ _ => rfl, fun _ _ => rfl, fun _ _ => rfl, List.prefix_refl _, List.prefix_refl _⟩
  counts := by rwa [State.core_updCore]
  cores _ e := State.core_updCore_ne e
  crew c h := ⟨c.groups, h⟩

/-- Records that wait, a stop and what is under way: none of them is of a crew or a core. -/
theorem Spends.observed (s : State) (w : Who) (core vf : Nat) {win : SMap Word} {flight : List Instr} {svc : List SvcReq}
    (hw : ∀ o, obsReg o = false → sget 0 win o = s.reg o) (hf : s.flight <+: flight) (hs : s.svcWait <+: svc)
    (stop : Option Stop) (ptr : Nat) :
    Spends s { s with win := win, stop := stop, flight := flight, ptr := ptr, svcWait := svc } w core vf where
  frame := ⟨rfl, hs, fun _ _ => rfl, fun _ _ => rfl, hw, hf, List.prefix_refl _⟩
  counts := .refl vf _
  cores _ _ := rfl
  crew c h := ⟨c.groups, h⟩

theorem Spends.setPtr (s : State) (w : Who) (core vf ptr : Nat) : Spends s { s with ptr := ptr } w core vf :=
  .observed s w core vf (fun _ _ => rfl) (List.prefix_refl _) (List.prefix_refl _) s.stop ptr

/-- A count register of the window is one of those that an issue may move. -/
theorem Spends.winCount (s : State) (w : Who) (core vf : Nat) {ofs : Nat} (h : obsReg ofs = true) (n : Nat) :
    Spends s (s.winCount ofs n) w core vf :=
  .observed s w core vf (fun o e => State.reg_setReg_ne (s := s) (ofs := ofs) (by rintro rfl; simp [h] at e))
    (List.prefix_refl _) (List.prefix_refl _) s.stop s.ptr

theorem Spends.lcrCount (s : State) (i : Issue) (g : Group) (w : Who) (core vf : Nat) :
    Spends s (s.lcrCount i g core vf) w core vf := by
  unfold State.lcrCount
  dsimp only
  split
  · exact .refl ..
  split
  · exact .winCount s w core vf (by decide) _
  split
  · exact .winCount s w core vf (by decide) _
  · next b hb =>
    have hb : b < 16 := by simpa using List.mem_of_find?_eq_some hb
    have obs (k : Nat) (hk : k ≤ 24) : obsReg (0x600 + 32 * b + k) = true := by
      simp only [obsReg, Bool.or_eq_true, Bool.and_eq_true, decide_eq_true_eq]
      omega
    exact (((Spends.winCount _ w core vf (obs 0 (by omega)) _).trans (.winCount _ w core vf (obs 8 (by omega)) _)).trans
      (.winCount _ w core vf (obs 16 (by omega)) _)).trans (.winCount _ w core vf (obs 24 (by omega)) _)

/-- One enabled counter counts. -/
theorem Core.CountsOnly.count {vf k : Nat} {a : Core} {p : Perf} (hk : (sget {} a.perf vf).ctl.getLsbD k = true)
    (sel : p.sel = (sget {} a.perf vf).sel) (ctl : p.ctl &&& 0xFF00FF = (sget {} a.perf vf).ctl &&& 0xFF00FF)
    (pmc : ∀ j, j ≠ k → sget 0 p.pmc j = sget 0 (sget {} a.perf vf).pmc j) :
    Core.CountsOnly vf a { a with perf := sset {} a.perf vf p } where
  only := rfl
  sel := by rw [sget_sset_same, sel]
  ctl := by rw [sget_sset_same, ctl]
  pmc j _ off := by
    rw [sget_sset_same, pmc j fun e => Bool.noConfusion ((e ▸ off).symm.trans hk)]

/-- An overflow bit is none of the bits that no count changes. -/
theorem overflow_mask {k : Nat} (hk : k < 8) (c : BitVec 24) :
    (c ||| BitVec.ofNat 24 (2 ^ (8 + k))) &&& 0xFF00FF = c &&& 0xFF00FF := by
  have none : ∀ k < 8, BitVec.ofNat 24 (2 ^ (8 + k)) &&& 0xFF00FF = 0#24 := by decide
  rw [BitVec.and_or_distrib_right, none k hk, BitVec.or_zero]

/-- A counter of a VF counts `n`; a wrap sets its overflow bit. -/
def Perf.count (p : Perf) (n k : Nat) : Perf :=
  let c := sget 0 p.pmc k + n
  { p with
    pmc := sset 0 p.pmc k (c % 2 ^ 48)
    ctl := if decide (2 ^ 48 ≤ c) then p.ctl ||| BitVec.ofNat 24 (2 ^ (8 + k)) else p.ctl }

theorem Perf.count_ctl_mask (p : Perf) (n : Nat) {k : Nat} (hk : k < 8) : (p.count n k).ctl &&& 0xFF00FF = p.ctl &&& 0xFF00FF := by
  unfold Perf.count
  dsimp only
  split
  · exact overflow_mask hk _
  · rfl

/-- One counter of a VF on a core counts, and where its overflow is to interrupt a record waits. -/
def State.perfCount (core vf n : Nat) (s : State) (k : Nat) : State :=
  let p := sget {} (s.core core).perf vf
  let wrap := decide (2 ^ 48 ≤ sget 0 p.pmc k + n)
  let s := s.updCore core fun co => { co with perf := sset {} co.perf vf (p.count n k) }
  if wrap && p.ctl.getLsbD (16 + k) && !p.ctl.getLsbD (8 + k) then { s with svcWait := s.svcWait ++ [{
    vf := vf, token := 0, code := 0xFFFF, pc := 0, arga := BitVec.ofNat 64 (core * 8 + k), argb := sget 0 s.time (core / 72) }] }
  else s

/-- An event counts in the enabled counters that select it. -/
theorem State.perfAdd_eq (s : State) (core vf ev n : Nat) : s.perfAdd core vf ev n = if !s.counts core vf then s else
    ((List.range 8).filter fun k => (sget {} (s.core core).perf vf).ctl.getLsbD k &&
      decide (((sget {} (s.core core).perf vf).sel.toNat >>> (8 * k)) % 256 = ev)).foldl (State.perfCount core vf n) s := rfl

theorem Spends.perfCount (s : State) (w : Who) {core vf k : Nat} (hk : k < 8)
    (on : (sget {} (s.core core).perf vf).ctl.getLsbD k = true) (n : Nat) :
    Spends s (s.perfCount core vf n k) w core vf := by
  have counted : Spends s (s.updCore core fun co => { co with
      perf := sset {} co.perf vf ((sget {} (s.core core).perf vf).count n k) }) w core vf :=
    .updCore s w (.count on rfl (Perf.count_ctl_mask _ n hk) fun _ ne => sget_sset_ne _ ne)
  unfold State.perfCount
  dsimp only
  split
  · exact counted.trans (.observed _ w core vf (fun _ _ => rfl) (List.prefix_refl _) (List.prefix_append _ _) _ _)
  · exact counted

/-- The counters that are enabled when counting begins count. -/
theorem Spends.foldl_perfCount (w : Who) (core vf n : Nat) : ∀ (ks : List Nat) (s : State),
    (∀ k ∈ ks, k < 8 ∧ (sget {} (s.core core).perf vf).ctl.getLsbD k = true) →
    Spends s (ks.foldl (State.perfCount core vf n) s) w core vf
  | [], s, _ => .refl s w core vf
  | k :: ks, s, h => by
    have first := Spends.perfCount s w (h k (by simp)).1 (h k (by simp)).2 n
    refine first.trans (Spends.foldl_perfCount w core vf n ks _ fun j hj => ?_)
    obtain ⟨hj, on⟩ := h j (by simp [hj])
    exact ⟨hj, by rw [getLsbD_enable first.counts.ctl hj, on]⟩

theorem Spends.perfAdd (s : State) (w : Who) (core vf ev n : Nat) : Spends s (s.perfAdd core vf ev n) w core vf := by
  rw [State.perfAdd_eq]
  split
  · exact .refl ..
  · refine Spends.foldl_perfCount w core vf n _ s fun k hk => ?_
    simp only [List.mem_filter, List.mem_range, Bool.and_eq_true] at hk
    exact ⟨hk.1, hk.2.1⟩

theorem Spends.issueCount (s : State) (i : Issue) (w : Who) (core vf : Nat) : Spends s (s.issueCount i core vf) w core vf := by
  unfold State.issueCount
  split
  · exact .refl ..
  dsimp only
  have words := (Spends.perfAdd s w core vf 0x02 1).trans (.perfAdd _ w core vf 0x03 (i.set &&& i.act).count)
  split
  · exact words.trans (.perfAdd _ w core vf 0x04 1)
  · exact words

theorem Spends.freeze (s : State) (w : Who) (core vf part trig pc cause : Nat) (trapped : Option Who) :
    Spends s (s.freeze core part trig pc cause trapped) w core vf := by
  refine .observed s w core vf (fun o e => ?_) (List.prefix_append _ _) (List.prefix_refl _) _ _
  have h0 : o ≠ 0x900 := by rintro rfl; simp [obsReg] at e
  have h1 : o ≠ 0x918 := by rintro rfl; simp [obsReg] at e
  rw [sget_sset_ne _ h1, sget_sset_ne _ h0]
  rfl

/-- The crews at the end of a cycle that a partition has spent: the group has issued in it, unless its word had spent one before. -/
theorem State.spent_crews (s : State) (i : Issue) :
    (s.spent i).crews = s.crews ∨ (s.spent i).crews = (s.updGroup i.who fun g => { g with lastIssue := s.cycle }).crews := by
  unfold State.spent
  split
  · next g c _ _ =>
    split
    · exact .inl rfl
    refine .inr ?_
    dsimp only
    generalize hu : State.updGroup (s.updCore _ _) i.who _ = u
    obtain ⟨win, hl⟩ := u.lcrCount_some i g c.core c.vf
    obtain ⟨cores, svc, hi⟩ := (u.lcrCount i g c.core c.vf).issueCount_some i c.core c.vf
    have crews : ((u.lcrCount i g c.core c.vf).issueCount i c.core c.vf).crews = u.crews := by rw [hi, hl]
    split <;> exact crews.trans (hu ▸ rfl)
  · exact .inl rfl

/-- The group after its partition has spent a cycle. -/
theorem State.group?_spent {s : State} {i : Issue} {g : Group} (h : s.group? i.who = some g) :
    ∃ n, (s.spent i).group? i.who = some { g with lastIssue := n } := by
  rcases s.spent_crews i with e | e
  · exact ⟨g.lastIssue, by rw [State.group?, State.crew?, e]; exact h⟩
  · exact ⟨s.cycle, by rw [State.group?, State.crew?, e]; exact State.group?_updGroup h⟩

/-- A partition spends its cycle. -/
theorem Spends.spent {s : State} {i : Issue} {c : Crew} (hc : s.crew? i.who.crew = some c) :
    Spends s (s.spent i) i.who c.core c.vf := by
  unfold State.spent
  split
  · next g c' _ hc' =>
    obtain rfl : c = c' := Option.some.inj (hc.symm.trans hc')
    split
    · exact .refl ..
    dsimp only
    have history {f : Core → Core} (hf : Core.CountsOnly c.vf (s.core c.core) (f (s.core c.core))) :=
      (Spends.updCore s i.who hf).trans (.updGroup _ i.who (fun g => { g with lastIssue := s.cycle }) c.core c.vf)
    have counted {t : State} (h : Spends s t i.who c.core c.vf) :=
      ((h.trans (.lcrCount _ i g i.who c.core c.vf)).trans (.issueCount _ i i.who c.core c.vf)).trans
        (.setPtr _ i.who c.core c.vf (4 * c.core + g.part + 1))
    split
    · exact (counted (history (by exact .history ..))).trans (.freeze _ i.who c.core c.vf g.part 1 i.pc.toNat 0 none)
    · exact counted (history (by exact .history ..))
  · exact .refl ..

end Sys2Proof.Machine
end

section
/-! SUPPORT. The end of an issue, and what follows where the lanes of a group are gone. -/

namespace Sys2Proof.Machine

/-! ## The end of an issue -/

/-- A word whose operands and rights are there passes its checks. -/
theorem State.checked_go {s : State} {x : Ctx} {fs : List (Nat × Opnd)} {super : Bool} {k : Unit → State} (hf : x.holds fs = true)
    (hs : super = true → supervisor (s.core x.c.core).trapbase x.c.vf x.g = true) : s.checked x fs super k = k () := by
  unfold State.checked
  rw [Option.isNone_iff_eq_none.mp hf]
  cases super <;> simp_all

theorem Spends.issued {s : State} {x : Ctx} {c : Crew} (hc : s.crew? x.iss.who.crew = some c) (h : Hdr) (hint : Mask) :
    Spends s (s.issued x h hint) x.iss.who c.core c.vf :=
  (Spends.spent hc).trans (.updGroup _ _ _ _ _)

/-- The group at the end of an issue. -/
def Group.issueDone (g : Group) (n : Nat) (x : Ctx) (h : Hdr) (hint : Mask) : Group :=
  ({ g with lastIssue := n } : Group).wordDone x h hint

theorem Group.issueDone_stands (g : Group) (n : Nat) (x : Ctx) (h : Hdr) (hint : Mask) : g.Stands (g.issueDone n x h hint) :=
  have issued : g.Stands { g with lastIssue := n } := .same rfl rfl
  issued.trans (Group.wordDone_stands _ x h hint)

theorem Group.issueDone_woken (g : Group) (n : Nat) (x : Ctx) (h : Hdr) : g.Woken (g.issueDone n x h 0) :=
  Group.wordDone_woken { g with lastIssue := n } x h

/-- The group of a word that has performed. -/
theorem State.group?_issued {s : State} {x : Ctx} {g : Group} (hg : s.group? x.iss.who = some g) (h : Hdr) (hint : Mask) :
    ∃ n, (s.issued x h hint).group? x.iss.who = some (g.issueDone n x h hint) := by
  obtain ⟨n, hn⟩ := State.group?_spent hg
  rw [State.issued, State.performed_eq]
  exact ⟨n, State.group?_updGroup hn⟩

/-- The lanes of the issue set go on, and nothing else of the group that is a register changes. -/
theorem Spends.retire {s : State} {x : Ctx} {c : Crew} {g : Group} (hc : s.crew? x.iss.who.crew = some c)
    (hg : s.group? x.iss.who = some g) (h : Hdr) : Spends s (s.retire x h) x.iss.who c.core c.vf ∧
      ∃ g', (s.retire x h).group? x.iss.who = some g' ∧ g.WentOn g' x.iss.set x.iss.len ∧ g.IssueRest g' := by
  obtain ⟨n, hn⟩ := State.group?_issued (State.group?_updGroup (f := fun g => g.advance x.iss.set x.iss.len) hg) h x.act
  have stands := (g.advance x.iss.set x.iss.len).issueDone_stands n x h x.act
  exact ⟨(Spends.updGroup s _ _ _ _).trans (.issued (State.crew?_updGroup hc) h x.act), _, hn, stands.wentOn,
    .trans (b := g.advance x.iss.set x.iss.len) rfl stands.rest⟩

/-- A word that changes its own group and is issued. -/
theorem Spends.updGroup_issued {s : State} {x : Ctx} {h : Hdr} (hx : s.ctx? h = some x) (f : Group → Group) (hint : Mask) :
    Spends s ((s.updGroup x.iss.who f).issued x h hint) x.iss.who x.c.core x.c.vf ∧
      ∃ n, ((s.updGroup x.iss.who f).issued x h hint).group? x.iss.who =
        some ((f x.g).issueDone n x h hint) := by
  obtain ⟨_, hc, hg, _, _⟩ := State.ctx?_some hx
  exact ⟨(Spends.updGroup s _ f _ _).trans (.issued (State.crew?_updGroup hc) h hint),
    State.group?_issued (State.group?_updGroup hg) h hint⟩

/-- What has only spent its issue has performed. -/
theorem Spends.toPerformed {s t : State} {x : Ctx} {h : Hdr} (hx : s.ctx? h = some x)
    (k : Spends s t x.iss.who x.c.core x.c.vf) {g' : Group} (hg : t.group? x.iss.who = some g') : Performed s t x g' := by
  obtain ⟨_, hc, _, _, _⟩ := State.ctx?_some hx
  obtain ⟨gs, hc'⟩ := k.crew _ hc
  exact ⟨k.quiet, hg, _, hc', rfl⟩

/-- A word without an effect but its own issue passes. -/
theorem State.retire_passed {s : State} {x : Ctx} {h : Hdr} (hx : s.ctx? h = some x) : Passed s (s.retire x h) x := by
  obtain ⟨_, hc, hg, _, _⟩ := State.ctx?_some hx
  obtain ⟨spends, g', hg', lanes, rest⟩ := Spends.retire hc hg h
  exact ⟨g', spends.toPerformed hx hg', lanes, rest⟩

/-! ## A group without remaining lanes -/

theorem Group.remain_eq_zero_iff {g : Group} : g.remain = 0 ↔ ∀ l, l < 32 → (g.lpOf l).st.remaining = false := by
  rw [Mask.eq_zero_iff]
  refine forall₂_congr fun l hl => ?_
  rw [Group.remain, Group.has_lanesIn]
  simp [hl]

/-- A group that stands has lanes left where it had. -/
theorem Group.Stands.remain_eq_zero_iff {g g' : Group} (h : g.Stands g') : g'.remain = 0 ↔ g.remain = 0 := by
  rw [Group.remain_eq_zero_iff, Group.remain_eq_zero_iff]
  refine forall₂_congr fun l _ => ⟨fun e => ?_, fun e => by rw [h.gone l e, e]⟩
  exact Bool.eq_false_iff.mpr fun r => Bool.noConfusion (e.symm.trans (h.remain l r))

theorem Group.remain_congr {g g' : Group} (h : g'.lp = g.lp) : g'.remain = g.remain := by
  simp only [Group.remain, Group.lanesIn, Group.lpOf, h]

theorem Group.lpOf_exitLanes (g : Group) (m : Mask) (l : Nat) :
    (g.exitLanes m).lpOf l = if l < 32 ∧ m.has l = true then { g.lpOf l with st := .exited } else g.lpOf l := by
  rw [← Group.lpOf_mapLp g m fun _ e => { e with st := .exited }]
  unfold Group.exitLanes
  dsimp only
  split <;> rfl

/-- The groups of the crew keep their lanes and their mode. -/
def Crew.KeepsLanes (c c' : Crew) : Prop :=
  c'.id = c.id ∧ ∀ (j : Nat) (g : Group), c.groups[j]? = some g →
    ∃ g' : Group, c'.groups[j]? = some g' ∧ g'.lp = g.lp ∧ g'.handler = g.handler

theorem Crew.KeepsLanes.same {c c' : Crew} (hi : c'.id = c.id) (hg : c'.groups = c.groups) : c.KeepsLanes c' :=
  ⟨hi, fun _ g h => ⟨g, hg ▸ h, rfl, rfl⟩⟩

theorem Crew.KeepsLanes.trans {a b c : Crew} (h : a.KeepsLanes b) (k : b.KeepsLanes c) : a.KeepsLanes c := by
  refine ⟨k.1.trans h.1, fun j g hg => ?_⟩
  obtain ⟨g', hg', lp', mode'⟩ := h.2 j g hg
  obtain ⟨g'', hg'', lp'', mode''⟩ := k.2 j g' hg'
  exact ⟨g'', hg'', lp''.trans lp', mode''.trans mode'⟩

theorem Crew.KeepsLanes.foldl {α : Type} {f : Crew → α → Crew} (h : ∀ (c : Crew) a, c.KeepsLanes (f c a)) :
    ∀ (l : List α) (c : Crew), c.KeepsLanes (l.foldl f c)
  | [], _ => .same rfl rfl
  | a :: l, c => (h c a).trans (foldl h l (f c a))

theorem Crew.KeepsLanes.updGroup (c : Crew) (j : Nat) {f : Group → Group} (hf : ∀ g, (f g).lp = g.lp ∧ (f g).handler = g.handler) :
    c.KeepsLanes (c.updGroup j f) := by
  refine ⟨rfl, fun i g h => ?_⟩
  rw [Crew.updGroup, lupd_getElem?, h]
  split
  · exact ⟨f g, rfl, hf g⟩
  · exact ⟨g, rfl, rfl, rfl⟩

theorem Crew.KeepsLanes.undrain (c : Crew) (t : Nat) : c.KeepsLanes (c.undrain t) := by
  unfold Crew.undrain
  split
  · exact .same rfl rfl
  · exact .same rfl rfl

theorem Crew.KeepsLanes.finishBars (c : Crew) : c.KeepsLanes c.finishBars := by
  unfold Crew.finishBars
  exact .foldl (f := fun c k => c.barCheck k false) (fun _ _ => .same rfl rfl) _ c

theorem Crew.KeepsLanes.countsAgain (c : Crew) (grp : Nat) : c.KeepsLanes (c.countsAgain grp) := by
  unfold Crew.countsAgain
  refine .foldl (fun c k => ?_) _ c
  split
  · exact .same rfl rfl
  · exact .same rfl rfl

theorem Crew.KeepsLanes.streamRead (c : Crew) : c.KeepsLanes c.streamRead := by
  unfold Crew.streamRead
  split
  · exact .trans (.same rfl rfl) (.undrain _ _)
  · exact .same rfl rfl

theorem Crew.KeepsLanes.matAbandon (c : Crew) : c.KeepsLanes c.matAbandon := by
  unfold Crew.matAbandon
  dsimp only
  have rows := Crew.KeepsLanes.foldl (f := fun (c : Crew) (p : Nat × List Byte) => { c with scratch := c.scratch.write p.1 p.2 })
    (fun _ _ => .same rfl rfl) c.mout c
  generalize List.foldl _ c c.mout = c' at rows ⊢
  have flags := rows.trans (.updGroup c' (fld c'.mprog 59 4) (f := Group.matFlags) fun _ => ⟨rfl, rfl⟩)
  split
  · exact flags.trans (.same rfl rfl)
  · exact (flags.trans (.same rfl rfl)).trans (.streamRead _)

theorem Crew.KeepsLanes.closing (c : Crew) : c.KeepsLanes { c.dropPlanes.cancelArms with st := .closing } := by
  have planes : c.KeepsLanes c.dropPlanes := by
    unfold Crew.dropPlanes
    refine .trans ?_ (.undrain _ _)
    refine .trans ?_ (.undrain _ _)
    exact .same rfl rfl
  exact planes.trans (.same rfl rfl)

/-- A group of the state keeps its lanes and its mode. -/
def State.KeepsLanes (s t : State) (w : Who) : Prop :=
  ∀ g, s.group? w = some g → ∃ g', t.group? w = some g' ∧ g'.lp = g.lp ∧ g'.handler = g.handler

theorem State.KeepsLanes.same {s t : State} (h : t.crews = s.crews) (w : Who) : s.KeepsLanes t w := by
  intro g hg
  exact ⟨g, by rw [State.group?, State.crew?, h]; exact hg, rfl, rfl⟩

theorem State.KeepsLanes.trans {a b c : State} {w : Who} (h : a.KeepsLanes b w) (k : b.KeepsLanes c w) : a.KeepsLanes c w := by
  intro g hg
  obtain ⟨g', hg', lp', mode'⟩ := h g hg
  obtain ⟨g'', hg'', lp'', mode''⟩ := k g' hg'
  exact ⟨g'', hg'', lp''.trans lp', mode''.trans mode'⟩

theorem State.KeepsLanes.foldl {α : Type} {f : State → α → State} {w : Who} (h : ∀ (s : State) a, s.KeepsLanes (f s a) w) :
    ∀ (l : List α) (s : State), s.KeepsLanes (l.foldl f s) w
  | [], _ => .same rfl w
  | a :: l, s => (h s a).trans (foldl h l (f s a))

theorem State.KeepsLanes.updCrew (s : State) (id : Nat) {f : Crew → Crew} (hf : ∀ c : Crew, c.KeepsLanes (f c)) (w : Who) :
    s.KeepsLanes (s.updCrew id f) w := by
  intro g hg
  obtain ⟨c, hc, hj⟩ := State.group?_some hg
  by_cases e : w.crew = id
  · subst e
    obtain ⟨g', hg', keeps⟩ := (hf c).2 _ _ hj
    exact ⟨g', by rw [State.group?, State.crew?_updCrew (fun c => (hf c).1) hc]; exact hg', keeps⟩
  · exact ⟨g, by rw [State.group?, State.crew?_updCrew_ne (fun c => (hf c).1) e]; exact hg, rfl, rfl⟩

theorem State.KeepsLanes.updGroup (s : State) (v : Who) {f : Group → Group} (hf : ∀ g, (f g).lp = g.lp ∧ (f g).handler = g.handler)
    (w : Who) : s.KeepsLanes (s.updGroup v f) w :=
  .updCrew s v.crew (fun c => .updGroup c v.grp hf) w

theorem State.KeepsLanes.updCore (s : State) (core : Nat) (f : Core → Core) (w : Who) : s.KeepsLanes (s.updCore core f) w :=
  .same (State.updCore_crews s core f) w

theorem State.KeepsLanes.send (s : State) (e : Instr) (w : Who) : s.KeepsLanes (s.send e) w := by
  refine .same ?_ w
  unfold State.send State.sendFrom
  split
  · rfl
  · dsimp only
    split <;> rfl

theorem State.KeepsLanes.perfAdd (s : State) (core vf ev n : Nat) (w : Who) : s.KeepsLanes (s.perfAdd core vf ev n) w :=
  .same (by rw [State.perfAdd_frame]) w

theorem State.KeepsLanes.sendParts (s : State) (v : Who) (o : Bool) (l : List Instr) (w : Who) :
    s.KeepsLanes (s.sendParts v o l State.send) w := by
  unfold State.sendParts
  refine .trans ?_ (.foldl (fun s e => .send s e w) _ _)
  exact .updGroup s v (by exact fun _ => ⟨rfl, rfl⟩) w

theorem State.KeepsLanes.commitEntry (s : State) (v : Who) (e : SbEntry) (w : Who) : s.KeepsLanes (s.commitEntry v e) w := by
  unfold State.commitEntry
  split
  · exact .same rfl w
  · dsimp only
    have parts {f : Group → Group} (hf : ∀ g, (f g).lp = g.lp ∧ (f g).handler = g.handler) (l : List Instr) :
        s.KeepsLanes ((s.updGroup v f).newTag.2.sendParts v e.inOrder l State.send) w :=
      (State.KeepsLanes.updGroup s v hf w).trans (.trans (b := (s.updGroup v f).newTag.2) (.same rfl w) (.sendParts _ v e.inOrder l w))
    refine .trans ?_ (.perfAdd _ _ _ _ _ w)
    split
    · refine .trans ?_ (.updCore _ _ _ w)
      exact parts (by exact fun _ => ⟨rfl, rfl⟩) _
    · exact parts (by exact fun _ => ⟨rfl, rfl⟩) _

theorem State.KeepsLanes.commitHeld (s : State) (v w : Who) : s.KeepsLanes (s.commitHeld v) w := by
  unfold State.commitHeld
  split
  · exact .same rfl w
  · exact .foldl (fun s e => .commitEntry s v e w) _ s

theorem State.KeepsLanes.crewClosing (s : State) (crew : Nat) (w : Who) : s.KeepsLanes (s.crewClosing crew) w := by
  unfold State.crewClosing
  split
  · exact .same rfl w
  · split
    · exact .trans (.updCrew s crew .closing w) (.foldl (fun s g => .commitHeld s _ w) _ _)
    · exact .same rfl w

/-- What follows where a group may have finished. -/
def State.groupOver (s : State) (w : Who) : State :=
  match s.group? w with
  | none => s
  | some g =>
    if !g.finished then s
    else
      let s := s.updCrew w.crew fun c =>
        let c := c.finishBars
        if c.ownMat w.grp then c.matAbandon else c
      s.crewClosing w.crew

theorem State.KeepsLanes.groupOver (s : State) (w : Who) : s.KeepsLanes (s.groupOver w) w := by
  unfold State.groupOver
  split
  · exact .same rfl w
  split
  · exact .same rfl w
  · refine .trans (.updCrew s w.crew (fun c => ?_) w) (.crewClosing _ _ w)
    dsimp only
    split
    · exact (Crew.KeepsLanes.finishBars c).trans (.matAbandon _)
    · exact .finishBars c

/-- The handler exit rule for a group, with the results of the handler that reach no register of the program. -/
def Group.outOfHandler (g : Group) : Group :=
  { g.handlerExit with outs := (g.outs.filter fun o => !o.waits.any shadowed).map Out.mute }

theorem State.lanesGone_eq (s : State) (w : Who) : s.lanesGone w =
    (if (s.group? w).any Group.handlerGone then (s.updGroup w Group.outOfHandler).updCrew w.crew (·.countsAgain w.grp)
      else s).groupOver w := rfl

/-- A group with a remaining lane goes on. -/
theorem State.lanesGone_remain {s : State} {w : Who} {g : Group} (hg : s.group? w = some g) (h : g.remain ≠ 0) : s.lanesGone w = s := by
  have zero : (g.remain == 0) = false := beq_eq_false_iff_ne.mpr h
  have gone : g.handlerGone = false := by rw [Group.handlerGone, zero, Bool.and_false]
  have finished : g.finished = false := by rw [Group.finished, zero, Bool.and_false]
  simp [State.lanesGone_eq, State.groupOver, hg, gone, finished]

/-- A group without one leaves its handler, where it is in one, and keeps its lanes otherwise. -/
theorem State.lanesGone_none {s : State} {w : Who} {g : Group} (hg : s.group? w = some g) (h : g.remain = 0) :
    ∃ g', (s.lanesGone w).group? w = some g' ∧ g'.handler = false ∧ (g.handler = false → g'.finished = true ∧ g'.lp = g.lp) := by
  have gone : (s.group? w).any Group.handlerGone = g.handler := by simp [hg, Group.handlerGone, h]
  rw [State.lanesGone_eq, gone]
  cases mode : g.handler with
  | true =>
    obtain ⟨g₁, hg₁, _, mode₁⟩ := State.KeepsLanes.updCrew (s.updGroup w Group.outOfHandler) w.crew (f := (·.countsAgain w.grp))
      (fun c => .countsAgain c w.grp) w _ (State.group?_updGroup hg)
    obtain ⟨g₂, hg₂, _, mode₂⟩ := State.KeepsLanes.groupOver _ w g₁ hg₁
    exact ⟨g₂, hg₂, mode₂.trans mode₁, nofun⟩
  | false =>
    obtain ⟨g₁, hg₁, lp₁, mode₁⟩ := State.KeepsLanes.groupOver s w g hg
    refine ⟨g₁, hg₁, mode₁.trans mode, fun _ => ⟨?_, lp₁⟩⟩
    simp [Group.finished, mode₁, mode, Group.remain_congr lp₁, h]

end Sys2Proof.Machine
end

section
/-! SUPPORT. LPW and LPW.SNAP. -/

namespace Sys2Proof.Machine

/-! ## LPW (08 R209) -/

/-- The lanes that LPW writes: the given words in the lanes of `act`, the lanes of `off` behind the word. -/
def Group.writeLanes (g : Group) (act gone off : Mask) (len : Nat) (v : Nat → Word) : Group :=
  ((g.mapLp act fun l _ => lpEntry (v l)).exitLanes gone).advance off len

/-- The snapshot that LPW.SNAP writes; in a handler it writes none. -/
def Group.writeSnap (g : Group) (act : Mask) (v : Nat → Word) : Group :=
  if g.handler then g else { g with snap := act.lanes.foldl (fun m l => sset Lp.none m l (lpEntry (v l))) g.snap }

/-- A word that LPW takes: STATE live or exited, and a PC of a multiple of four. -/
def lpTakes (v : Word) : Bool := (fld v 60 4 == 0 || fld v 60 4 == 3) && fld v 0 2 == 0

/-- The lanes that LPW writes exited. -/
def Ctx.exiting (x : Ctx) (v : Nat → Word) : Mask := Mask.ofFn fun l => x.act.has l && fld (v l) 60 4 == 3

/-- LPW where every active lane gives a word that it takes. -/
theorem execLpw_takes {h : Hdr} {snap : Bool} {a : Opnd} {s : State} {x : Ctx} (hx : s.ctx? h = some x)
    (ha : x.holds [(1, a)] = true) (hv : x.act.lanes.all (fun l => lpTakes (x.src a l)) = true) :
    execLpw h snap a s = .next (
      if snap then (s.updGroup x.iss.who fun g => g.writeSnap x.act (x.src a)).retire x h
      else ((s.updGroup x.iss.who fun g => g.writeLanes x.act (x.exiting (x.src a)) x.off x.iss.len (x.src a)).issued x h
        0).lanesGone x.iss.who) := by
  have takes {l : Nat} (hl : x.act.has l = true) := Bool.and_eq_true _ _ ▸ Mask.all_lanes hv hl
  have bad : Mask.ofFn (fun l => x.act.has l && !(fld (x.src a l) 60 4 == 0 || fld (x.src a l) 60 4 == 3)) = 0 :=
    Mask.ofFn_none fun l hl => by rw [(takes hl).1, Bool.not_true]
  have odd : (Mask.ofFn fun l => x.act.has l && fld (x.src a l) 0 2 != 0).low = none :=
    Mask.low_eq_none_iff.mpr (Mask.ofFn_none fun l hl => by rw [bne, (takes hl).2, Bool.not_true])
  unfold execLpw
  rw [State.withCtx_some hx, State.checked_go ha (by simp)]
  dsimp only
  rw [if_neg (not_not.mpr bad), odd]
  rfl

theorem Group.writeLanes_eq (g : Group) (act gone off : Mask) (len : Nat) (v : Nat → Word) :
    ∃ lp snap, g.writeLanes act gone off len v = { g with lp := lp, snap := snap } := by
  unfold Group.writeLanes Group.exitLanes
  dsimp only
  split
  · exact ⟨_, _, rfl⟩
  · exact ⟨_, _, rfl⟩

/-- The lanes after LPW. -/
theorem Group.lpOf_writeLanes (x : Ctx) {h : Hdr} (hoff : x.off = x.iss.set &&& ~~~x.g.guard h)
    (hact : x.act = x.iss.set &&& x.g.guard h) (v : Nat → Word) {l : Nat} (hl : l < 32) :
    (x.g.writeLanes x.act (x.exiting v) x.off x.iss.len v).lpOf l =
      if x.act.has l then lpEntry (v l)
      else { x.g.lpOf l with pc := (x.g.lpOf l).pc + (if x.off.has l then BitVec.ofNat 48 x.iss.len else 0) } := by
  have apart : x.act.has l = true → x.off.has l = false := by
    rw [hact, hoff]
    simp only [Mask.has, BitVec.getLsbD_and, BitVec.getLsbD_not, Bool.and_eq_true]
    rintro ⟨_, hg⟩
    simp [hg]
  rw [Group.writeLanes, Group.lpOf_advance, Group.lpOf_exitLanes, Group.lpOf_mapLp, Ctx.exiting, Mask.has_ofFn]
  cases ha : x.act.has l with
  | true =>
    by_cases he : fld (v l) 60 4 = 3
    · simp [hl, he, apart ha, lpEntry]
    · simp [hl, he, apart ha]
  | false =>
    cases ho : x.off.has l <;> simp [hl]

theorem fld_setWidth (v : Word) : BitVec.ofNat 48 (fld v 0 48) = v.setWidth 48 := by
  apply BitVec.eq_of_toNat_eq
  simp [fld]

theorem fld_extract (v : Word) : BitVec.ofNat 12 (fld v 48 12) = v.extractLsb' 48 12 := by
  apply BitVec.eq_of_toNat_eq
  simp [fld, BitVec.extractLsb'_toNat]

/-- The snapshot after LPW.SNAP. -/
theorem Group.snap_writeSnap (g : Group) (act : Mask) (v : Nat → Word) (l : Nat) : sget Lp.none (g.writeSnap act v).snap l =
    if act.has l && !g.handler then lpEntry (v l) else sget Lp.none g.snap l := by
  unfold Group.writeSnap
  cases mode : g.handler with
  | true => simp
  | false =>
    have lanes := foldl_sset_lanes (d := Lp.none) (fun l _ => lpEntry (v l)) l act.lanes g.snap (Mask.nodup_lanes act)
    simp only [Bool.false_eq_true, if_false, lanes, Mask.mem_lanes, Bool.not_false, Bool.and_true]
    refine if_congr ⟨And.right, fun h => ⟨Mask.lt_of_has h, h⟩⟩ rfl rfl

theorem Group.writeSnap_eq (g : Group) (act : Mask) (v : Nat → Word) : ∃ snap, g.writeSnap act v = { g with snap := snap } := by
  unfold Group.writeSnap
  split
  · exact ⟨_, rfl⟩
  · exact ⟨_, rfl⟩

/-- LPW.SNAP writes snapshot entries and goes on. -/
theorem lpwSnap_performs {h : Hdr} {a : Opnd} {s : State} {x : Ctx} (hx : s.ctx? h = some x)
    (ha : x.holds [(1, a)] = true) (hv : x.act.lanes.all (fun l => lpTakes (x.src a l)) = true) :
    ∃ t g', exec (.lpw h true a) s = .next t ∧ Performed s t x g' ∧ x.g.SameRegs g' ∧ x.g.SameTrap g' ∧
      x.g.WentOn g' x.iss.set x.iss.len ∧ ∀ l, l < 32 → sget Lp.none g'.snap l =
        if x.act.has l && !x.g.handler then lpEntry (x.src a l) else sget Lp.none x.g.snap l := by
  obtain ⟨_, hc, hg, _, _⟩ := State.ctx?_some hx
  obtain ⟨spends, g', hg', lanes, rest⟩ := Spends.retire
    (State.crew?_updGroup (f := fun g => g.writeSnap x.act (x.src a)) hc) (State.group?_updGroup hg) h
  have entries : ∀ l, sget Lp.none g'.snap l = _ := fun l =>
    (congrArg (fun g : Group => sget Lp.none g.snap l) rest).trans (x.g.snap_writeSnap x.act (x.src a) l)
  obtain ⟨snap, hs⟩ := x.g.writeSnap_eq x.act (x.src a)
  rw [hs] at lanes rest
  exact ⟨_, g', execLpw_takes hx ha hv, ((Spends.updGroup s _ _ _ _).trans spends).toPerformed hx hg', rest.sameRegs,
    rest.sameTrap, ⟨lanes.pc, lanes.depth, lanes.gone, lanes.remain⟩, fun l _ => entries l⟩

theorem lpTakes_state {v : Word} (h : lpTakes v = true) : fld v 60 4 = 0 ∨ fld v 60 4 = 3 := by
  simp only [lpTakes, Bool.and_eq_true, Bool.or_eq_true, beq_iff_eq] at h
  exact h.1

/-- Some lane of the group remains after LPW: one that it writes live, or another that had remained (08 R209). -/
def Ctx.leftBy (x : Ctx) (v : Nat → Word) : Prop :=
  ∃ l, l < 32 ∧ (if x.act.has l then fld (v l) 60 4 = 0 else (x.g.lpOf l).st.remaining = true)

theorem Ctx.leftBy_iff {x : Ctx} {v : Nat → Word} {w : Group} (hv : x.act.lanes.all (fun l => lpTakes (v l)) = true)
    (lanes : ∀ l, l < 32 → w.lpOf l = if x.act.has l then lpEntry (v l)
      else { x.g.lpOf l with pc := (x.g.lpOf l).pc + (if x.off.has l then BitVec.ofNat 48 x.iss.len else 0) }) :
    x.leftBy v ↔ w.remain ≠ 0 := by
  have lane (l : Nat) (hl : l < 32) : (w.lpOf l).st.remaining = true ↔
      (if x.act.has l then fld (v l) 60 4 = 0 else (x.g.lpOf l).st.remaining = true) := by
    rw [lanes l hl]
    cases ha : x.act.has l with
    | false => simp
    | true => rcases lpTakes_state (Mask.all_lanes hv ha) with e | e <;> simp [lpEntry, e, LSt.remaining]
  rw [Ne, Group.remain_eq_zero_iff]
  simp only [Ctx.leftBy, not_forall, Bool.not_eq_false, exists_prop]
  exact exists_congr fun l => and_congr_right fun hl => (lane l hl).symm

/-- LPW of a group that keeps a remaining lane, and of one that does not. -/
theorem lpw_performs {h : Hdr} {a : Opnd} {s : State} {x : Ctx} (hx : s.ctx? h = some x)
    (ha : x.holds [(1, a)] = true) (hv : x.act.lanes.all (fun l => lpTakes (x.src a l)) = true) :
    ∃ t g', exec (.lpw h false a) s = .next t ∧ t.group? x.iss.who = some g' ∧
      (x.leftBy (x.src a) → Performed s t x g' ∧ x.g.SameRegs g' ∧ x.g.SameTrap g' ∧
        (∀ l, l < 32 → x.act.has l = true →
          (g'.lpOf l).pc = (x.src a l).setWidth 48 ∧ (g'.lpOf l).depth = (x.src a l).extractLsb' 48 12 ∧
          (g'.lpOf l).st = if fld (x.src a l) 60 4 = 3 then .exited else .live) ∧
        ∀ l, l < 32 → x.act.has l = false → (g'.lpOf l).depth = (x.g.lpOf l).depth ∧
          (g'.lpOf l).pc = (x.g.lpOf l).pc + (if x.off.has l then BitVec.ofNat 48 x.iss.len else 0)) ∧
      (¬x.leftBy (x.src a) → g'.handler = false ∧ (x.g.handler = false → g'.finished = true ∧
        ∀ l, l < 32 → x.act.has l = true → (g'.lpOf l).st = .exited)) := by
  obtain ⟨_, _, _, hact, hoff⟩ := State.ctx?_some hx
  obtain ⟨spends, n, hg⟩ := Spends.updGroup_issued hx
    (fun g => g.writeLanes x.act (x.exiting (x.src a)) x.off x.iss.len (x.src a)) 0
  have lanes (l : Nat) (hl : l < 32) := Group.lpOf_writeLanes x hoff hact (x.src a) hl
  obtain ⟨lp, snap, hw⟩ := x.g.writeLanes_eq x.act (x.exiting (x.src a)) x.off x.iss.len (x.src a)
  generalize x.g.writeLanes x.act (x.exiting (x.src a)) x.off x.iss.len (x.src a) = w at hg lanes hw
  have stands := w.issueDone_stands n x h 0
  have woken := w.issueDone_woken n x h
  generalize w.issueDone n x h 0 = g₁ at hg stands woken
  have written {l : Nat} (hl : l < 32) (ha : x.act.has l = true) : w.lpOf l = lpEntry (x.src a l) := by rw [lanes l hl, if_pos ha]
  have state {l : Nat} (hl : l < 32) (ha : x.act.has l = true) :
      (g₁.lpOf l).st = if fld (x.src a l) 60 4 = 3 then .exited else .live := by
    have st : (w.lpOf l).st = if fld (x.src a l) 60 4 = 3 then .exited else .live := by rw [written hl ha]; rfl
    rcases woken l with e | ⟨e, _⟩
    · rw [e, st]
    · rw [st] at e
      split at e <;> contradiction
  have left : x.leftBy (x.src a) ↔ g₁.remain ≠ 0 := (Ctx.leftBy_iff hv lanes).trans (not_congr stands.remain_eq_zero_iff).symm
  by_cases hleft : x.leftBy (x.src a)
  · refine ⟨_, g₁, execLpw_takes hx ha hv, ?_⟩
    simp only [Bool.false_eq_true, if_false, State.lanesGone_remain hg (left.mp hleft)]
    refine ⟨hg, fun _ => ⟨spends.toPerformed hx hg, ?_, ?_, fun l hl hal => ⟨?_, ?_, state hl hal⟩, fun l hl hal => ⟨?_, ?_⟩⟩,
      fun k => absurd hleft k⟩
    · rw [hw] at stands
      exact stands.rest.sameRegs
    · rw [hw] at stands
      exact stands.rest.sameTrap
    · rw [stands.pc, written hl hal, ← fld_setWidth]
      rfl
    · rw [stands.depth, written hl hal, ← fld_extract]
      rfl
    · rw [stands.depth, lanes l hl, hal]
      rfl
    · rw [stands.pc, lanes l hl, hal]
      rfl
  · have none : g₁.remain = 0 := not_not.mp (mt left.mpr hleft)
    obtain ⟨g₂, hg₂, mode, kept⟩ := State.lanesGone_none hg none
    refine ⟨_, g₂, execLpw_takes hx ha hv, hg₂, fun k => absurd k hleft, fun _ => ⟨mode, fun hm => ?_⟩⟩
    have mode₁ : g₁.handler = false := by
      rw [← hm, stands.rest, hw]
    obtain ⟨finished, lp₂⟩ := kept mode₁
    refine ⟨finished, fun l hl hal => ?_⟩
    have gone := Group.remain_eq_zero_iff.mp none l hl
    rw [Group.lpOf, lp₂]
    have st := state hl hal
    change (g₁.lpOf l).st = .exited
    rw [st] at gone ⊢
    split
    · rfl
    · simp_all [LSt.remaining]

end Sys2Proof.Machine
end

section
/-! SUPPORT. SWR. -/

namespace Sys2Proof

/-- An entry of a map of which the entries of some numbers are taken out. -/
theorem sget_filter_key {α : Type} {d : α} (p : Nat → Bool) (k : Nat) :
    ∀ m : SMap α, sget d (m.filter fun c => p c.1) k = if p k then sget d m k else d
  | [] => by simp [sget]
  | c :: m => by
    have ih := sget_filter_key (d := d) p k m
    by_cases hc : p c.1 = true
    · rw [List.filter_cons_of_pos (by simpa using hc), sget, ih, sget]
      by_cases e : c.1 = k
      · subst e; simp [hc]
      · simp [e]
    · rw [List.filter_cons_of_neg (by simpa using hc), ih, sget]
      by_cases e : c.1 = k
      · subst e; simp [hc]
      · simp [e]

end Sys2Proof

namespace Sys2Proof.Machine

/-! ## SWR (08 R208) -/

/-- The same change of LEASECFG on both sides of an issue. -/
theorem IssueFrame.setLease {s t : State} {w : Who} (h : IssueFrame s t w) (v : Word) :
    IssueFrame { s with leasecfg := v } { t with leasecfg := v } w :=
  { h with rest := congrArg (fun t : State => { t with leasecfg := v }) h.rest }

/-- The group's own special registers as SWR leaves them. -/
def Group.sregPut (g : Group) (n : Nat) (v : Word) : Group :=
  { g with
    fsr := if n = 0x10 then v.setWidth 7 else g.fsr
    fcr := if n = 0x11 then fcrWrite g.fcr v else g.fcr }

/-- A VF's counters on a core as SWR leaves them. -/
def Perf.sregPut (p : Perf) (n : Nat) (v : Word) : Perf :=
  if n = 0x1C then ({ p with sel := perfselWrite p.sel v } : Perf).hold
  else if n = 0x1D then { p with ctl := perfctlWrite p.ctl v }
  else if 0x20 ≤ n ∧ n < 0x28 then ({ p with pmc := sset 0 p.pmc (n - 0x20) (v.toNat % 2 ^ 48) } : Perf).hold
  else p

/-- Is it a register of the counters? -/
def sregPerf (n : Nat) : Bool := n == 0x1C || n == 0x1D || (decide (0x20 ≤ n) && decide (n < 0x28))

/-- A core's special registers as SWR leaves them. -/
def Core.sregPut (co : Core) (vf n : Nat) (v : Word) : Core :=
  { co with
    perf := if sregPerf n then sset {} co.perf vf ((sget {} co.perf vf).sregPut n v) else co.perf
    trapbase := if n = 0x19 then v &&& trapbaseBits else co.trapbase
    watch := if 0x28 ≤ n ∧ n < 0x2C then sset 0 co.watch (n - 0x28) (v &&& 0xFF07_FFFF_FFFF_FFFF) else co.watch }

/-- What a write of a special register changes. -/
structure SregWritten (s t : State) (x : Ctx) (n : Nat) (v : Word) : Prop where
  frame : IssueFrame s { t with leasecfg := s.leasecfg } x.iss.who
  leasecfg : t.leasecfg = if n = 0x2C then leaseWrite s.leasecfg v else s.leasecfg
  core : t.core x.c.core = (s.core x.c.core).sregPut x.c.vf n v
  cores : ∀ k, k ≠ x.c.core → t.core k = s.core k
  crew : ∃ gs, t.crew? x.iss.who.crew = some { x.c with groups := gs }
  group : t.group? x.iss.who = some (x.g.sregPut n v)

section
variable {s : State} {x : Ctx} {h : Hdr} {n : Nat} {v : Word} (hx : s.ctx? h = some x)
include hx

theorem SregWritten.ofGroup {f : Group → Group} (hf : f x.g = x.g.sregPut n v)
    (hc : (s.core x.c.core).sregPut x.c.vf n v = s.core x.c.core) (hl : n ≠ 0x2C) :
    SregWritten s (s.updGroup x.iss.who f) x n v := by
  obtain ⟨_, crew, group, _, _⟩ := State.ctx?_some hx
  exact ⟨(Spends.updGroup s _ f 0 0).frame.setLease s.leasecfg, by rw [if_neg hl]; rfl, hc.symm, fun _ _ => rfl,
    ⟨_, State.crew?_updGroup crew⟩, hf ▸ State.group?_updGroup group⟩

theorem SregWritten.ofCore {f : Core → Core} (hf : f (s.core x.c.core) = (s.core x.c.core).sregPut x.c.vf n v)
    (hg : x.g.sregPut n v = x.g) (hl : n ≠ 0x2C) : SregWritten s (s.updCore x.c.core f) x n v := by
  obtain ⟨_, crew, group, _, _⟩ := State.ctx?_some hx
  refine ⟨⟨rfl, List.prefix_refl _, fun _ _ => rfl, fun _ _ => rfl, fun _ _ => rfl, List.prefix_refl _, List.prefix_refl _⟩,
    by rw [if_neg hl]; rfl, by rw [State.core_updCore, hf], fun _ e => State.core_updCore_ne e, ⟨_, crew⟩, hg.symm ▸ group⟩

theorem SregWritten.ofLease {lc : Word} (hl : lc = if n = 0x2C then leaseWrite s.leasecfg v else s.leasecfg)
    (hg : x.g.sregPut n v = x.g) (hc : (s.core x.c.core).sregPut x.c.vf n v = s.core x.c.core) :
    SregWritten s { s with leasecfg := lc } x n v := by
  obtain ⟨_, crew, group, _, _⟩ := State.ctx?_some hx
  exact ⟨.refl s _, hl, hc.symm, fun _ _ => rfl, ⟨_, crew⟩, hg.symm ▸ group⟩

/-- Every special register by its kind: of the group, of the core, LEASECFG, or one that discards the write. -/
theorem SregWritten.sregWrite (n : Nat) (v : Word) : SregWritten s (s.sregWrite x n v) x n v := by
  unfold State.sregWrite
  dsimp only
  split
  · exact .ofGroup hx rfl rfl (by decide)
  · exact .ofGroup hx rfl rfl (by decide)
  · exact .ofCore hx rfl rfl (by decide)
  · exact .ofCore hx (by simp [Core.sregPut, Perf.sregPut, sregPerf]) rfl (by decide)
  · exact .ofCore hx (by simp [Core.sregPut, Perf.sregPut, sregPerf]) rfl (by decide)
  · exact .ofLease hx rfl rfl rfl
  · next h10 h11 h19 h1C h1D h2C =>
    have group : x.g.sregPut n v = x.g := by rw [Group.sregPut, if_neg h10, if_neg h11]
    split
    · next hn =>
      have counter : sregPerf n = true := by simp [sregPerf, hn]
      refine .ofCore hx ?_ group h2C
      rw [Core.sregPut, if_pos counter, Perf.sregPut, if_neg h19, if_neg h1C, if_neg h1D, if_pos hn, if_neg (by omega)]
    · next hn =>
      have counter : ¬sregPerf n = true := by
        simp only [sregPerf, Bool.or_eq_true, beq_iff_eq, Bool.and_eq_true, decide_eq_true_eq]
        rintro ((h | h) | h)
        · exact h1C h
        · exact h1D h
        · exact hn h
      split
      · next hw =>
        refine .ofCore hx ?_ group h2C
        rw [Core.sregPut, if_neg counter, if_neg h19, if_pos hw]
      · next hw =>
        refine .ofLease hx (if_neg h2C).symm group ?_
        rw [Core.sregPut, if_neg counter, if_neg h19, if_neg hw]

end

theorem Core.perf_sregPut (co : Core) (vf n : Nat) (v : Word) :
    sget {} (co.sregPut vf n v).perf vf = (sget {} co.perf vf).sregPut n v := by
  unfold Core.sregPut
  dsimp only
  split
  · rw [sget_sset_same]
  · next hn =>
    simp only [sregPerf, Bool.or_eq_true, beq_iff_eq, Bool.and_eq_true, decide_eq_true_eq, not_or] at hn
    obtain ⟨⟨h1C, h1D⟩, hr⟩ := hn
    rw [Perf.sregPut, if_neg h1C, if_neg h1D, if_neg hr]

@[simp] theorem Perf.hold_sel (p : Perf) : p.hold.sel = p.sel := rfl

@[simp] theorem Perf.hold_ctl (p : Perf) : p.hold.ctl = p.ctl := rfl

theorem Perf.sel_sregPut (p : Perf) (n : Nat) (v : Word) :
    (p.sregPut n v).sel = if n = 0x1C then perfselWrite p.sel v else p.sel := by
  unfold Perf.sregPut
  split
  · rw [Perf.hold_sel]
  · split
    · rfl
    · split
      · rw [Perf.hold_sel]
      · rfl

theorem perfctlWrite_mask (old : BitVec 24) (v : Word) : perfctlWrite old v &&& 0xFF00FF = v.setWidth 24 &&& 0xFF00FF := by
  have overflow : (0x00FF00 : BitVec 24) &&& 0xFF00FF = 0#24 := by decide
  rw [perfctlWrite, BitVec.and_or_distrib_right, BitVec.and_assoc, BitVec.and_self, BitVec.and_assoc, overflow, BitVec.and_zero,
    BitVec.or_zero]

theorem Perf.ctl_sregPut (p : Perf) (n : Nat) (v : Word) :
    (p.sregPut n v).ctl = if n = 0x1D then perfctlWrite p.ctl v else p.ctl := by
  unfold Perf.sregPut
  split
  · next h => rw [Perf.hold_ctl, if_neg (by omega)]
  · split
    · rfl
    · split
      · rw [Perf.hold_ctl]
      · rfl

/-- A counter that is written holds 0 where it selects a fabric count. -/
theorem Perf.pmc_sregPut (p : Perf) {k : Nat} (hk : k < 8) (v : Word) :
    sget 0 (p.sregPut (0x20 + k) v).pmc k = if evFabric (elemN p.sel 8 k) then 0 else v.toNat % 2 ^ 48 := by
  have put : p.sregPut (0x20 + k) v = ({ p with pmc := sset 0 p.pmc k (v.toNat % 2 ^ 48) } : Perf).hold := by
    rw [Perf.sregPut, if_neg (by omega), if_neg (by omega), if_pos (by omega), Nat.add_sub_cancel_left]
  rw [put]
  refine (sget_filter_key (fun c => !evFabric (elemN p.sel 8 c)) k _).trans ?_
  rw [sget_sset_same]
  cases evFabric (elemN p.sel 8 k) <;> rfl

theorem fcrWrite_high (old : BitVec 6) (v : Word) : (fcrWrite old v).extractLsb' 4 2 = v.extractLsb' 4 2 := by
  apply BitVec.eq_of_toNat_eq
  have := old.isLt
  simp only [fcrWrite, BitVec.extractLsb'_toNat, BitVec.toNat_ofNat, Nat.shiftRight_eq_div_pow]
  split <;> omega

theorem fcrWrite_mode (old : BitVec 6) (v : Word) : (fcrWrite old v).extractLsb' 0 3 =
    if v.extractLsb' 0 3 ≤ 4 then v.extractLsb' 0 3 else old.extractLsb' 0 3 := by
  have legal : v.extractLsb' 0 3 ≤ 4 ↔ ¬4 < v.toNat % 8 := by
    rw [BitVec.le_def, BitVec.extractLsb'_toNat]
    simp
  rw [if_congr legal rfl rfl]
  apply BitVec.eq_of_toNat_eq
  by_cases hm : 4 < v.toNat % 8
  · simp only [fcrWrite, hm, not_true_eq_false, if_false, if_true, BitVec.extractLsb'_toNat, BitVec.toNat_ofNat, Nat.shiftRight_eq_div_pow]
    omega
  · simp only [fcrWrite, hm, not_false_eq_true, if_false, if_true, BitVec.extractLsb'_toNat, BitVec.toNat_ofNat, Nat.shiftRight_eq_div_pow]
    omega

/-- SWR with its rights writes the register where a lane is active, and goes on. -/
theorem execSwr_writes {h : Hdr} {n : BitVec 6} {a : Opnd} {s : State} {x : Ctx} (hx : s.ctx? h = some x)
    (ha : x.holds [(1, a)] = true)
    (hs : sregSuper n.toNat = true → supervisor (s.core x.c.core).trapbase x.c.vf x.g = true) :
    exec (.swr h (.sreg n) a) s =
      .next ((if x.act = 0 then s else s.sregWrite x n.toNat (x.src a (x.act.low.getD 0))).retire x h) := by
  change execSwr h (.sreg n) a s = _
  unfold execSwr
  simp only [Opnd.sregNum]
  rw [State.withCtx_some hx, State.checked_go ha hs]
  rfl

/-- A special register by its number. -/
theorem sreg_eq_iff {n : BitVec 6} {k : Nat} (hk : k < 64) : n = BitVec.ofNat 6 k ↔ n.toNat = k := by
  rw [BitVec.toNat_eq, BitVec.toNat_ofNat, Nat.mod_eq_of_lt hk]

/-- The core after SWR and its issue. -/
theorem SregWritten.core_after {s u t : State} {x : Ctx} {n : Nat} {v : Word} (w : SregWritten s u x n v)
    (k : Spends u t x.iss.who x.c.core x.c.vf) :
    let co := s.core x.c.core
    let co' := t.core x.c.core
    let pf := sget {} co.perf x.c.vf
    let pf' := sget {} co'.perf x.c.vf
    co' = { co with perf := co'.perf, lastWho := co'.lastWho, runLen := co'.runLen, lastCyc := co'.lastCyc
                    trapbase := co'.trapbase, watch := co'.watch } ∧
    (co'.trapbase = if n = 0x19 then v &&& trapbaseBits else co.trapbase) ∧
    (co'.watch = if 0x28 ≤ n ∧ n < 0x2C then sset 0 co.watch (n - 0x28) (v &&& 0xFF07_FFFF_FFFF_FFFF) else co.watch) ∧
    (pf'.sel = if n = 0x1C then perfselWrite pf.sel v else pf.sel) ∧
    (pf'.ctl &&& 0xFF00FF = (if n = 0x1D then v.setWidth 24 else pf.ctl) &&& 0xFF00FF) ∧
    (∀ k, k < 8 → n = 0x20 + k → pf.ctl.getLsbD k = false →
      sget 0 pf'.pmc k = if evFabric (elemN pf.sel 8 k) then 0 else v.toNat % 2 ^ 48) := by
  intro co co' pf pf'
  have counts := k.counts
  rw [w.core] at counts
  have written : sget {} (co.sregPut x.c.vf n v).perf x.c.vf = pf.sregPut n v := Core.perf_sregPut co x.c.vf n v
  have only : co' = { co.sregPut x.c.vf n v with
    perf := co'.perf, lastWho := co'.lastWho, runLen := co'.runLen, lastCyc := co'.lastCyc } := counts.only
  refine ⟨?_, congrArg Core.trapbase only, congrArg Core.watch only, ?_, ?_, ?_⟩
  · rw [only]
    rfl
  · rw [← Perf.sel_sregPut, ← written]
    exact counts.sel
  · have ctl : pf'.ctl &&& 0xFF00FF = (pf.sregPut n v).ctl &&& 0xFF00FF := written ▸ counts.ctl
    rw [ctl, Perf.ctl_sregPut]
    split
    · exact perfctlWrite_mask _ _
    · rfl
  · rintro j hj rfl off
    have same : (pf.sregPut (0x20 + j) v).ctl = pf.ctl := by rw [Perf.ctl_sregPut, if_neg (by omega)]
    have pmc := counts.pmc j hj (by rw [written, same, off])
    rw [written, Perf.pmc_sregPut pf hj] at pmc
    exact pmc

/-- The group after SWR. -/
theorem Group.sregPut_status (g : Group) (n : BitVec 6) (v : Word) :
    ((g.sregPut n.toNat v).fsr = if n = 0x10 then v.setWidth 7 else g.fsr) ∧
    ((g.sregPut n.toNat v).fcr.extractLsb' 4 2 = if n = 0x11 then v.extractLsb' 4 2 else g.fcr.extractLsb' 4 2) ∧
    ((g.sregPut n.toNat v).fcr.extractLsb' 0 3 =
      if n = 0x11 ∧ v.extractLsb' 0 3 ≤ 4 then v.extractLsb' 0 3 else g.fcr.extractLsb' 0 3) ∧
    (n ≠ 0x11 → (g.sregPut n.toNat v).fcr = g.fcr) := by
  have fsr : n = 0x10 ↔ n.toNat = 0x10 := sreg_eq_iff (by decide)
  have fcr : n = 0x11 ↔ n.toNat = 0x11 := sreg_eq_iff (by decide)
  refine ⟨if_congr fsr.symm rfl rfl, ?_⟩
  unfold Group.sregPut
  dsimp only
  by_cases h : n = 0x11
  · rw [if_pos (fcr.mp h), fcrWrite_high, fcrWrite_mode, if_pos h]
    exact ⟨rfl, if_congr (iff_and_self.mpr fun _ => h) rfl rfl, fun ne => absurd h ne⟩
  · rw [if_neg (mt fcr.mpr h), if_neg h, if_neg fun both => h both.1]
    exact ⟨rfl, rfl, fun _ => rfl⟩

/-- SWR without an active lane passes. -/
theorem swr_passes {h : Hdr} {n : BitVec 6} {a : Opnd} {s : State} {x : Ctx} (hx : s.ctx? h = some x)
    (ha : x.holds [(1, a)] = true)
    (hs : sregSuper n.toNat = true → supervisor (s.core x.c.core).trapbase x.c.vf x.g = true) (hact : x.act = 0) :
    ∃ t, exec (.swr h (.sreg n) a) s = .next t ∧ Passed s t x :=
  ⟨_, by rw [execSwr_writes hx ha hs, if_pos hact], State.retire_passed hx⟩

end Sys2Proof.Machine
end

section
/-! SUPPORT. The obligation of LPW and SWR. -/

namespace Sys2Proof.Machine

/-- Settles O19: LPW and LPW.SNAP by the lanes that they leave (`lpw_performs`, `lpwSnap_performs`), SWR by the registers that it
writes (`SregWritten`) and what its issue then counts (`Spends`). -/
theorem lpwAndSwrWords : Obligations.LpwAndSwrWords := by
  unfold Obligations.LpwAndSwrWords
  refine ⟨fun h a s x hx ha hv => lpw_performs hx ha hv, fun h a s x hx ha hv => lpwSnap_performs hx ha hv,
    fun h n a s x hx ha hs => ⟨swr_passes hx ha hs, fun hact => ?_⟩⟩
  have run := execSwr_writes hx ha hs
  rw [if_neg hact] at run
  have w := SregWritten.sregWrite hx n.toNat (x.src a (x.act.low.getD 0))
  obtain ⟨gs, crew⟩ := w.crew
  obtain ⟨spends, g', hg, lanes, rest⟩ := Spends.retire crew w.group h
  obtain ⟨hv, hgr, hp, hfsr, hfcr⟩ := rest.sameRegs
  obtain ⟨fsr, high, mode, fcr⟩ := x.g.sregPut_status n (x.src a (x.act.low.getD 0))
  obtain ⟨only, trapbase, watch, sel, ctl, pmc⟩ := w.core_after spends
  refine ⟨_, g', run, hg, w.frame.trans (spends.frame.setLease s.leasecfg),
    fun k hk => (spends.cores k hk).trans (w.cores k hk), ⟨lanes.pc, lanes.depth, lanes.gone, lanes.remain⟩, rest.sameTrap,
    hv, hgr, hp, only, hfsr.trans fsr, ?_⟩
  rw [hfcr]
  refine ⟨high, mode, fcr, ?_, fun k hk => ?_, ?_, ?_, pmc, ?_⟩
  · rw [trapbase]
    exact if_congr (sreg_eq_iff (by decide)).symm rfl rfl
  · rw [watch]
    split
    · next hn =>
      rw [sget_sset]
      exact if_congr (by omega) rfl rfl
    · next hn => rw [if_neg (by omega)]
  · rw [sel]
    exact if_congr (sreg_eq_iff (by decide)).symm rfl rfl
  · rw [ctl]
    exact congrArg (· &&& 0xFF00FF) (if_congr (sreg_eq_iff (by decide)).symm rfl rfl)
  · have kept : (State.retire _ x h).leasecfg = _ := congrArg State.leasecfg spends.frame.rest
    rw [kept]
    exact w.leasecfg.trans (if_congr (sreg_eq_iff (by decide)).symm rfl rfl)

end Sys2Proof.Machine
end

section
/-! SUPPORT. The canonical form of the two memories through the shared operations: counts, traps and gates, the network, translation. -/

namespace Sys2Proof.Machine.State

variable {s t u : State} {x : Ctx} {w : Who}

/-! ## Operations in general -/

/-- A change of other fields keeps the memories as they are. -/
theorem MemOk.same (h : s.MemOk) (e : (t.hbm, t.host) = (s.hbm, s.host)) : t.MemOk := by
  obtain ⟨hbm, host⟩ := Prod.mk.inj e
  exact ⟨hbm ▸ h.1, host ▸ h.2⟩

/-- Bytes written to HBM. -/
theorem MemOk.writeHbm (h : s.MemOk) (a : Nat) (bs : List Byte) : ({ s with hbm := s.hbm.write a bs } : State).MemOk :=
  ⟨Memory.wf_write a bs h.1, h.2⟩

/-- Bytes written to host memory. -/
theorem MemOk.writeHost (h : s.MemOk) (a : Nat) (bs : List Byte) : ({ s with host := s.host.write a bs } : State).MemOk :=
  ⟨h.1, Memory.wf_write a bs h.2⟩

theorem MemOk.ite {c : Prop} [Decidable c] (ht : t.MemOk) (hu : u.MemOk) : (if c then t else u).MemOk := by
  split
  · exact ht
  · exact hu

/-- The state of a result is the one that its function answers. -/
theorem MemOk.fst {α : Type} {p : State × α} {a : α} (h : p.1.MemOk) (e : p = (t, a)) : t.MemOk := by
  subst e
  exact h

/-- An operation that is repeated along a list. -/
theorem MemOk.foldl {α : Type} {f : State → α → State} (hf : ∀ s a, s.MemOk → (f s a).MemOk) {l : List α} (h : s.MemOk) :
    (l.foldl f s).MemOk := by
  induction l generalizing s with
  | nil => exact h
  | cons a l ih => exact ih (hf s a h)

/-! ## Named updates of other fields, where what they write is large -/

theorem MemOk.newTag (h : s.MemOk) : s.newTag.2.MemOk := h.same rfl

theorem MemOk.updCrew (h : s.MemOk) {id : Nat} {f : Crew → Crew} : (s.updCrew id f).MemOk := h.same rfl

theorem MemOk.updGroup (h : s.MemOk) {f : Group → Group} : (s.updGroup w f).MemOk := h.updCrew

theorem MemOk.updQueue (h : s.MemOk) {n : Nat} {f : Queue → Queue} : (s.updQueue n f).MemOk := h.same rfl

theorem MemOk.postFlt (h : s.MemOk) {r : FltRec} : (s.postFlt r).MemOk := h.same rfl

theorem MemOk.updCore (h : s.MemOk) {c : Nat} {f : Core → Core} : (s.updCore c f).MemOk := h.same rfl

theorem MemOk.updSlice (h : s.MemOk) {i : Nat} {f : Slice → Slice} : (s.updSlice i f).MemOk := h.same rfl

theorem MemOk.updCtrl (h : s.MemOk) {i : Nat} {f : Ctrl → Ctrl} : (s.updCtrl i f).MemOk := h.same rfl

theorem MemOk.setReg (h : s.MemOk) {ofs : Nat} {v : Word} : (s.setReg ofs v).MemOk := h.same rfl

theorem MemOk.setFld (h : s.MemOk) {ofs lo n v : Nat} : (s.setFld ofs lo n v).MemOk := h.setReg

theorem MemOk.post (h : s.MemOk) {es : List Instr} : (s.post es).MemOk := h.same rfl

/-! ## Counts and the end of an issue -/

theorem MemOk.perfAdd (h : s.MemOk) {core vf ev n : Nat} : (s.perfAdd core vf ev n).MemOk := by
  rw [s.perfAdd_frame]
  exact h.same rfl

theorem MemOk.spent (h : s.MemOk) {i : Issue} : (s.spent i).MemOk := by
  obtain ⟨_, _, _, _, _, _, _, e⟩ := s.spent_some i
  rw [e]
  exact h.same rfl

theorem MemOk.withCtx (h : s.MemOk) {hd : Hdr} {k : Ctx → State} (hk : ∀ x, (k x).MemOk) : (s.withCtx hd k).MemOk := by
  unfold State.withCtx
  split
  · exact h
  · exact hk _

theorem MemOk.issued (h : s.MemOk) {hd : Hdr} {hint : Mask} : (s.issued x hd hint).MemOk := .same h.spent (by rfl)

theorem MemOk.retire (h : s.MemOk) {hd : Hdr} : (s.retire x hd).MemOk := .issued (h.same (by rfl))

theorem MemOk.divide {core : Nat} {f : State → State} (h : (f s).MemOk) : (s.divide core f).MemOk := .ite h (h.same (by rfl))

theorem MemOk.saveCrew (h : s.MemOk) {crew : Nat} {st : CrewSt} : (s.saveCrew crew st).MemOk := by
  unfold State.saveCrew
  split
  · exact h
  · exact .divide <| .same (.ite h h.perfAdd) (by rfl)

/-! ## Traps -/

theorem MemOk.enter (h : s.MemOk) {c : Crew} {g : Group} {r : TrapRec} : (s.enter w c g r).MemOk :=
  .ite (h.same (by rfl)) (h.same (by rfl))

theorem MemOk.doubleTrap (h : s.MemOk) {r : TrapRec} : (s.doubleTrap w r).MemOk := by
  unfold State.doubleTrap
  split
  · dsimp only
    split <;> exact h.same rfl
  · exact h

theorem MemOk.takeTrap (h : s.MemOk) {r : TrapRec} : (s.takeTrap w r).MemOk := by
  unfold State.takeTrap
  split
  · exact .ite h.doubleTrap <| .ite h.enter (h.same (by rfl))
  · exact h

theorem MemOk.trapIssue (h : s.MemOk) {cause : Nat} {lanes : Mask} {info addr : Word} :
    (s.trapIssue x cause lanes info addr).MemOk := .takeTrap <| .spent (h.same (by rfl))

/-! ## The gates of a word: it goes on with `k`, waits or traps -/

theorem MemOk.checked (h : s.MemOk) {fs : List (Nat × Opnd)} {super : Bool} {k : Unit → State} (hk : (k ()).MemOk) :
    (s.checked x fs super k).MemOk := by
  unfold State.checked
  split
  · exact h.trapIssue
  · exact .ite h.trapIssue hk

theorem MemOk.runChecked (h : s.MemOk) {d : Opnd} {n : Nat} {fs : List (Nat × Opnd)} {k : Unit → State} (hk : (k ()).MemOk) :
    (s.runChecked x d n fs k).MemOk := .ite h.trapIssue (h.checked hk)

theorem MemOk.fpGate (h : s.MemOk) {lanes : Mask} {f : Nat → Fl} {k : Unit → State} (hk : (k ()).MemOk) :
    (s.fpGate x lanes f k).MemOk := .ite hk h.trapIssue

theorem MemOk.residGate (h : s.MemOk) {checked : Bool} {f : Nat → Fl} {k : State → State} (hk : ∀ s, s.MemOk → (k s).MemOk) :
    (s.residGate x checked f k).MemOk := by
  have struck : ∀ {g : Core → Core} {n : Nat}, ((s.updCore x.c.core g).perfAdd x.c.core x.c.vf 0x10 n).MemOk :=
    .perfAdd (h.same (by rfl))
  unfold State.residGate
  split
  · exact .ite (.fpGate (struck.same (by rfl)) (.trapIssue (struck.same (by rfl))))
      (.fpGate (struck.same (by rfl)) (hk _ (struck.same (by rfl))))
  · exact h.fpGate (hk s h)

theorem MemOk.portGate (h : s.MemOk) {us : List PUse} {k : Unit → State} (hk : (k ()).MemOk) : (s.portGate x us k).MemOk := by
  refine .ite hk ?_
  split
  · exact h.trapIssue
  split
  · exact h.trapIssue
  dsimp only
  split
  · exact h.trapIssue
  · exact .ite (h.same (by rfl)) hk

theorem MemOk.vwrite (h : s.MemOk) {v : VWord} {f : Nat → LaneOut} : (s.vwrite x v f).MemOk := .retire (h.same (by rfl))

/-- A vector word, whatever it computes. -/
theorem MemOk.vexec (h : s.MemOk) {v : VWord} {f : Ctx → Nat → LaneOut} : (s.vexec v f).MemOk :=
  .withCtx h fun _ => .checked h <| .portGate h <| .residGate h fun _ h => h.vwrite

/-! ## Messages -/

theorem MemOk.hop (h : s.MemOk) {k : Nat} : (s.hop k).MemOk := by
  unfold State.hop
  split
  · exact h
  · split
    · exact h
    · exact h.same rfl

theorem MemOk.escort (h : s.MemOk) {node bytes : Nat} {up : Bool} : (s.escort node bytes up).MemOk := by
  unfold State.escort
  dsimp only
  split <;> exact h.same rfl

theorem MemOk.sendFrom (h : s.MemOk) {from_ : Option Nat} {e : Instr} : (s.sendFrom from_ e).MemOk := by
  unfold State.sendFrom
  split
  · exact h.same rfl
  · dsimp only
    split <;> exact h.same rfl

theorem MemOk.send (h : s.MemOk) {e : Instr} : (s.send e).MemOk := h.sendFrom

theorem MemOk.unlessMoves (h : s.MemOk) {slices : List Nat} {e : Instr} {k : State} (hk : k.MemOk) :
    (s.unlessMoves slices e k).MemOk := .ite (h.same (by rfl)) hk

/-! ## Translation, and bytes of backing memory -/

theorem MemOk.setHbm64 (h : s.MemOk) {pa : Nat} {v : Word} : (s.setHbm64 pa v).MemOk := h.writeHbm pa _

theorem MemOk.walkFill (h : s.MemOk) {c asid va : Nat} {rights : Attr → Bool} {wr : Bool} :
    (s.walkFill c asid va rights wr).1.MemOk := by
  unfold State.walkFill
  split
  · exact h
  · exact h
  · dsimp only
    split
    · exact h
    · dsimp only
      exact .updCtrl <| .ite h h.setHbm64

theorem MemOk.translate (h : s.MemOk) {c asid va : Nat} {rights : Attr → Bool} {wr : Bool} {held : Attr → Bool} :
    (s.translate c asid va rights wr held).1.MemOk := by
  unfold State.translate
  split
  · exact h.walkFill
  · dsimp only
    split
    · dsimp only
      exact h.updCtrl
    · exact .walkFill h.updCtrl

theorem MemOk.countAcc (h : s.MemOk) {c asid va : Nat} {wr : Bool} : (s.countAcc c asid va wr).MemOk :=
  .ite h <| .ite (.send (h.same (by rfl))) (h.same (by rfl))

theorem MemOk.translateCount (h : s.MemOk) {c asid va : Nat} {rights : Attr → Bool} {wr : Bool} {held : Attr → Bool} :
    (s.translateCount c asid va rights wr held).1.MemOk := by
  unfold State.translateCount
  split
  next heq =>
    have ht := h.translate.fst heq
    exact .ite ht.countAcc ht
  next heq =>
    have ht := h.translate.fst heq
    split
    · exact .ite ht.countAcc ht
    · exact ht
  · exact h.translate

theorem MemOk.backWrite (h : s.MemOk) {ap : Apt} {pa : Nat} {bs : List Byte} : (s.backWrite ap pa bs).MemOk :=
  .ite (h.writeHost pa bs) (h.writeHbm pa bs)

theorem MemOk.setPoison (h : s.MemOk) {ap : Apt} {pa : Nat} {b : Bool} : (s.setPoison ap pa b).MemOk :=
  .ite (h.same (by rfl)) (h.same (by rfl))

end Sys2Proof.Machine.State
end

section
/-! SUPPORT. The canonical form of the two memories through the caches, the control window, the issue of words, and the homes. -/

namespace Sys2Proof.Machine.State

variable {s t : State} {x : Ctx} {w : Who}

/-! ## Caches and home blocks -/

theorem MemOk.writeBack (h : s.MemOk) {b : Blk} : (s.writeBack b).MemOk :=
  .foldl (fun _ _ h => h.backWrite.setPoison) <| .ite h.escort h

theorem MemOk.foldl_writeBack (h : s.MemOk) {bs : List Blk} : (bs.foldl State.writeBack s).MemOk :=
  .foldl (fun _ _ h => h.writeBack) h

theorem MemOk.cleanHome (h : s.MemOk) {q : Blk → Bool} : (s.cleanHome q).MemOk :=
  .same (.foldl (fun _ _ h => h.foldl_writeBack) h) (by rfl)

theorem MemOk.dropHome (h : s.MemOk) {q : Blk → Bool} : (s.dropHome q).MemOk := .same h.cleanHome (by rfl)

theorem MemOk.reclaimDir (h : s.MemOk) {keep : DirEnt → Bool} : (s.reclaimDir keep).MemOk := by
  unfold State.reclaimDir
  split
  · exact h
  · exact .same h.dropHome (by dsimp only; rfl)

theorem MemOk.dirFill (h : s.MemOk) {pa n : Nat} : (s.dirFill pa n).MemOk :=
  .foldl (fun _ _ h => .ite (h.same (by rfl)) <| .same (.ite h h.reclaimDir) (by rfl)) (h.same (by rfl))

theorem MemOk.fillSlice (h : s.MemOk) {i : Nat} {loc : Bool} {nb : Blk} {hf hl lo hi : Nat} :
    (s.fillSlice i loc nb hf hl lo hi).MemOk := by
  unfold State.fillSlice
  exact .ite (.updSlice h.newTag) <| .ite (.updSlice h.newTag) <| .updSlice <| .foldl_writeBack (.updSlice h.newTag)

theorem MemOk.postFlts (h : s.MemOk) {l : List Nat} {r : Nat → FltRec} : (l.foldl (fun s k => s.postFlt (r k)) s).MemOk :=
  .foldl (fun _ _ h => h.same (by rfl)) h

theorem MemOk.fillHome (h : s.MemOk) {asid va first last : Nat} {y : Xl} : (s.fillHome asid va first last y).MemOk := by
  have filled : (if y.attr.ap = .host then s.dirFill (y.pa - va % 512 + 16 * first) (16 * (last + 1 - first)) else s).MemOk :=
    .ite h.dirFill h
  exact .fillSlice <| .ite filled.postFlts filled

theorem MemOk.follow (h : s.MemOk) {asid va : Nat} {y : Xl} : (s.follow asid va y).MemOk := by
  unfold State.follow
  split
  · exact h
  · exact .ite h <| .ite h.dropHome <| .ite (.dirFill (h.same (by rfl))) (h.same (by rfl))

theorem MemOk.ensureHome (h : s.MemOk) {asid va : Nat} {y : Xl} {wr : Bool} : (s.ensureHome asid va y wr).MemOk := by
  have asked : (if y.attr.ap = .host then s.escort (sliceNode (homeOf va))
      (16 * ((s.homeRun asid va (wordOf va) (wordOf va)).2 + 1 - (s.homeRun asid va (wordOf va) (wordOf va)).1)) false else s).MemOk :=
    .ite h.escort h
  exact .ite (.ite h.follow h) <| .ite h <| .fillHome <| .ite asked.countAcc asked

theorem MemOk.setD (h : s.MemOk) {asid va : Nat} : (s.setD asid va).MemOk := by
  unfold State.setD
  split
  · exact .ite h h.translate
  · exact h

/-! ## The control window -/

theorem MemOk.holdFloor (h : s.MemOk) : s.holdFloor.MemOk := h.same rfl

theorem MemOk.winWrite (h : s.MemOk) {ofs : Nat} {v : Word} : (s.winWrite ofs v).MemOk := by
  refine .ite h ?_
  split
  · exact h.setReg
  dsimp only
  split
  · refine .ite h <| .ite h.setReg ?_
    split
    · exact h.setReg.post
    · exact h.setReg.post
    · exact h.setReg.post
    · exact h.setReg.setFld
  · exact .ite h.setReg h
  · exact .ite h <| .ite h.setFld h.setFld.post
  · exact .ite h.setFld.post h.setFld
  · exact h.post
  · exact h.post
  · exact h.post
  · refine .ite h ?_
    split
    · exact h.setReg.setFld.send
    · exact h.setReg.setFld.send
    · exact h.setReg.setFld.send
    · exact h.setFld
  · exact h.post
  · exact .ite h.setReg.post h.setReg
  · exact h.post
  · exact h.post
  · exact .ite h.setReg h
  · exact .ite h <| .ite h.setReg.post h.setReg
  · exact .ite (.ite h h.setReg.holdFloor) <| .ite h.post h

theorem MemOk.winStore (h : s.MemOk) {pa : Nat} {bs : List Byte} : (s.winStore pa bs).MemOk := .ite h.winWrite h

/-! ## Aborts, outstanding results and their causes -/

theorem MemOk.abort (h : s.MemOk) {addr : Word} {acc : Nat} {pc : Pc} : (s.abort w addr acc pc).MemOk := by
  unfold State.abort
  split
  · exact .ite h.doubleTrap (h.same (by rfl))
  · exact h

theorem MemOk.trapIfClear (h : s.MemOk) : (s.trapIfClear w).MemOk := by
  unfold State.trapIfClear
  split
  · split
    · exact .ite h.enter h
    · exact h
  · exact h

theorem MemOk.failDone (h : s.MemOk) {id : Nat} : (s.failDone w id).MemOk := by
  unfold State.failDone
  split
  · exact h
  · refine .ite h <| .foldl (fun _ _ h => ?_) (h.same (by rfl))
    split <;> exact h.same rfl

theorem MemOk.outEnd (h : s.MemOk) {id l : Nat} : (s.outEnd w id l).MemOk := by
  unfold State.outEnd
  split
  · exact h
  · exact .ite h <| .trapIfClear <| .failDone (h.same (by rfl))

theorem MemOk.outBytes (h : s.MemOk) {id l ofs : Nat} {bs : List Byte} : (s.outBytes w id l ofs bs).MemOk :=
  .outEnd (h.same (by rfl))

theorem MemOk.outCancel (h : s.MemOk) {id l cause addr info byte : Nat} : (s.outCancel w id l cause addr info byte).MemOk := by
  unfold State.outCancel
  split
  · exact h
  · exact .outEnd (h.same (by rfl))

/-! ## Probes, and the pages of a word -/

theorem MemOk.probe (h : s.MemOk) {core asid : Nat} {ps : List (Acc × Nat)} : (s.probe w core asid ps).MemOk :=
  .foldl (fun _ _ h => h.send) (h.same (by rfl))

theorem MemOk.probeGate (h : s.MemOk) {as : List Access} {k : Unit → State} (hk : (k ()).MemOk) : (s.probeGate x as k).MemOk :=
  .ite h.probe hk

theorem MemOk.lookTrap (h : s.MemOk) {as : List Access} {l : Look} {cause : Nat} {info : Word} {k : Unit → State}
    (hk : (k ()).MemOk) : (s.lookTrap x as l cause info k).MemOk := by
  unfold State.lookTrap
  dsimp only
  split
  · exact h.trapIssue
  · exact hk

theorem MemOk.pageFaults (h : s.MemOk) {as : List Access} {k : Unit → State} (hk : (k ()).MemOk) : (s.pageFaults x as k).MemOk := by
  unfold State.pageFaults
  split
  · exact h.spent.abort
  · exact h.lookTrap <| h.lookTrap hk

theorem MemOk.attrGate (h : s.MemOk) {as : List Access} {k : Unit → State} (hk : (k ()).MemOk) : (s.attrGate x as k).MemOk :=
  h.probeGate <| h.pageFaults hk

/-! ## Segments, and the parts of an access -/

theorem MemOk.sendSeg (h : s.MemOk) {g : Seg} {payload : List Byte} : (s.sendSeg g payload).MemOk :=
  .ite (h.same (by rfl)) (h.same (by rfl))

theorem MemOk.strandCount (h : s.MemOk) {dst ofs : Nat} : (s.strandCount dst ofs).MemOk := by
  unfold State.strandCount
  split <;> exact h.same rfl

theorem MemOk.sendParts (h : s.MemOk) {inOrder : Bool} {l : List Instr} {go : State → Instr → State}
    (hgo : ∀ s i, s.MemOk → (go s i).MemOk) : (s.sendParts w inOrder l go).MemOk := .foldl hgo (h.same (by rfl))

theorem MemOk.commitEntry (h : s.MemOk) {e : SbEntry} : (s.commitEntry w e).MemOk := by
  unfold State.commitEntry
  split
  · exact h
  · have sent : ∀ {f : Group → Group} {l : List Instr},
        ((s.updGroup w f).newTag.2.sendParts w e.inOrder l State.send).MemOk := .sendParts (h.same (by rfl)) fun _ _ h => h.send
    exact .perfAdd <| .ite (sent.same (by rfl)) sent

theorem MemOk.commitHeld (h : s.MemOk) : (s.commitHeld w).MemOk := by
  unfold State.commitHeld
  split
  · exact h
  · exact .foldl (fun _ _ h => h.commitEntry) h

/-! ## The issue -/

theorem MemOk.heldLeave (h : s.MemOk) : s.heldLeave.MemOk :=
  .foldl (fun _ _ h => .foldl (fun _ _ h => .ite (h.same (by rfl)) h) h) h

theorem MemOk.readWords (h : s.MemOk) {c : Crew} {pc : Nat} {ps : List (Nat × Bool)} {code : Bool} :
    (s.readWords w c pc ps code).MemOk := .foldl (fun _ _ h => .send (h.same (by rfl))) (h.same (by rfl))

theorem MemOk.faultConv (h : s.MemOk) {c : Crew} {g : Group} {e : Sel} : (s.faultConv w c g e).MemOk := .takeTrap h

end Sys2Proof.Machine.State
end

section
/-! SUPPORT. The canonical form of the two memories through loads, stores and atomics at their homes and back. -/

namespace Sys2Proof.Machine

/-- The next state, where an instruction answers one, has both memories in canonical form. -/
def KeptMem (o : Host.Outcome State Fault Refusal) : Prop := ∀ t, o = .next t → t.MemOk

theorem KeptMem.next {t : State} (h : t.MemOk) : KeptMem (.next t) := fun _ e => by
  cases e
  exact h

end Sys2Proof.Machine

namespace Sys2Proof.Machine.State

variable {s t : State} {x : Ctx} {w : Who}

/-! ## Requests at their homes -/

theorem MemOk.hold (h : s.MemOk) {why : HoldWhy} {asid va : Nat} {req : Instr} : (s.hold why asid va req).MemOk := h.same rfl

theorem MemOk.homeTurn (h : s.MemOk) {asid va : Nat} {req : Instr} {k : Unit → State} (hk : (k ()).MemOk) :
    (s.homeTurn asid va req k).MemOk := by
  unfold State.homeTurn
  split
  · exact h.hold
  · exact .ite (h.same (by rfl)) hk

theorem MemOk.homeHit (h : s.MemOk) {core vf : Nat} {missed : Bool} : (s.homeHit core vf missed).MemOk := .ite h h.perfAdd

theorem MemOk.homeMiss (h : s.MemOk) {asid va first last : Nat} {rights : Attr → Bool} {wr : Bool} {req : Instr}
    {core vf : Nat} {far : Xl → State → State} (hfar : ∀ y s, s.MemOk → (far y s).MemOk) :
    (s.homeMiss asid va first last rights wr req core vf far).MemOk := by
  unfold State.homeMiss
  split
  next heq =>
    have ht := h.translateCount.fst heq
    split
    · exact hfar _ _ ht
    · exact .send <| .same (.perfAdd ht.newTag) (by rfl)
  next heq => exact .hold (h.translateCount.fst heq)

theorem MemOk.setHome (h : s.MemOk) {i asid va : Nat} {f : Blk → Blk} : (s.setHome i asid va f).MemOk := h.updSlice

/-! ## Copies and code -/

theorem MemOk.updCopy (h : s.MemOk) {crew id : Nat} {f : Copy → Copy} : (s.updCopy crew id f).MemOk := h.updCrew

theorem MemOk.copyCheck (h : s.MemOk) {crew id : Nat} : (s.copyCheck crew id).MemOk := by
  unfold State.copyCheck
  split
  · exact h
  · exact .ite (.send (h.same (by rfl))) h

theorem MemOk.copyStop (h : s.MemOk) {crew id : Nat} : (s.copyStop crew id).MemOk := by
  unfold State.copyStop
  split
  · exact h
  · exact .copyCheck (h.same (by rfl))

theorem MemOk.copyAsync (h : s.MemOk) {crew id cause addr info : Nat} : (s.copyAsync crew id cause addr info).MemOk := by
  unfold State.copyAsync
  split
  · exact h
  · exact h.same rfl

theorem MemOk.copyBreak (h : s.MemOk) {crew id cause addr info : Nat} : (s.copyBreak crew id cause addr info).MemOk :=
  .ite h <| .copyStop h.copyAsync

theorem MemOk.copyFail (h : s.MemOk) {crew id n cause addr info : Nat} : (s.copyFail crew id n cause addr info).MemOk := by
  unfold State.copyFail
  split
  · exact h
  · have marked : ∀ {c : Prop} [Decidable c] {f : Copy → Copy}, (if c then s.updCopy crew id f else s).MemOk := .ite h.updCopy h
    exact .ite marked marked.copyStop

theorem MemOk.copyTell (h : s.MemOk) {crew id : Nat} : (s.copyTell crew id).MemOk := by
  unfold State.copyTell
  split
  · exact h
  · refine .foldl (fun _ _ h => ?_) h
    split
    · exact h
    · exact .ite h (.updCopy h.copyAsync)

theorem MemOk.copyAcked (h : s.MemOk) {crew id wt : Nat} : (s.copyAcked crew id wt).MemOk := .copyCheck <| .copyTell h.updCopy

theorem MemOk.codeBack (h : s.MemOk) {l va n : Nat} {bs : List Byte} {bad : Nat} {at_ : List Nat} :
    (s.codeBack w l va n bs bad at_).MemOk := h.updGroup

/-! ## Loads at their homes -/

theorem MemOk.replyLoad (h : s.MemOk) {r : LdReq} {b : Blk} {le : Nat} : (s.replyLoad r b le).MemOk := h.send

/-- Its match reads the state that it has rebased, which the kernel must not evaluate: so it is unfolded under its name alone. -/
theorem MemOk.renewLocal (h : s.MemOk) {j : Nat} {f : Fill} {r : LdReq} : (s.renewLocal j f r).MemOk := by
  suffices ∀ go, go = State.renewLocal → (go s j f r).MemOk from this _ rfl
  intro go hgo
  delta State.renewLocal at hgo
  subst hgo
  beta_reduce
  generalize hs : s.updSlice j _ = t
  have ht : t.MemOk := hs ▸ h.updSlice
  dsimp only
  split
  · exact .ite ht.replyLoad ht.sendFrom
  · exact ht.sendFrom

theorem MemOk.execHomeFillReturn (h : s.MemOk) {m : FillMsg} : KeptMem (execHomeFillReturn m s) := by
  refine .next ?_
  split
  · exact h.renewLocal
  · exact h.fillSlice
  · refine .ite h.dropHome <| .ite (h.same (by rfl)) <| .same ?_ (by rfl)
    refine .ite h ?_
    split
    next heq => exact .setHome <| .fillHome (h.translate.fst heq)
    next heq => exact h.translate.fst heq

theorem MemOk.restOf (h : s.MemOk) {r : LdReq} {resident : List Blk} : (s.restOf r resident).MemOk := h.post

theorem MemOk.renewDown (h : s.MemOk) {i asid va : Nat} : (s.renewDown i asid va).MemOk := by
  unfold State.renewDown
  split
  · exact .ite (.postFlts h.setHome) h
  · exact h

theorem MemOk.loadLost (h : s.MemOk) {r : LdReq} {cause info : Nat} : (s.loadLost r cause info).MemOk := h.send

theorem MemOk.loadHome (h : s.MemOk) {r : LdReq} : (s.loadHome r).MemOk := by
  unfold State.loadHome
  dsimp only
  split
  · have renewed : ∀ {i : Nat} {f : Slice → Slice} {g : Blk → Blk}, (((if r.ldc then s.restOf r (s.slice (homeOf r.va)).home
        else (s.restOf r (s.slice (homeOf r.va)).home).renewDown (homeOf r.va) r.asid r.va).newTag.2.updSlice i f).setHome
          i r.asid r.va g).MemOk := .setHome <| .updSlice <| .newTag <| .ite h.restOf h.restOf.renewDown
    have counted : ∀ {t : State}, t.MemOk → (if r.ldc then t.homeHit r.core r.vf r.missed
        else (t.homeHit r.core r.vf r.missed).perfAdd r.core r.vf 0x0B 1).MemOk := fun h => .ite h.homeHit h.homeHit.perfAdd
    split
    · exact .ite (.replyLoad (counted renewed)) <| .ite (.send (counted renewed)) <| .replyLoad <| .send (counted renewed)
    · exact .replyLoad <| .ite (counted renewed) <| .send (counted renewed)
    · exact .replyLoad (counted renewed)
  · refine .homeMiss h.restOf fun y s h => .ite h.send ?_
    split
    · exact .sendSeg h.newTag
    · split
      · exact .copyBreak h.strandCount
      · exact .same (.newTag h.strandCount) (by rfl)
      · exact h.loadLost

theorem MemOk.qlenHome (h : s.MemOk) {r : LdReq} {n : Nat} : (s.qlenHome r n).MemOk := by
  unfold State.qlenHome
  dsimp only
  split
  · exact h.send
  · exact .send (h.same (by rfl))

theorem MemOk.readAgain (h : s.MemOk) {r : LdReq} : (s.readAgain r).MemOk := by
  unfold State.readAgain
  split
  · exact h.send
  · exact h.codeBack
  · exact h

theorem MemOk.execLoadRequestAtHome (h : s.MemOk) {r : LdReq} : KeptMem (execLoadRequestAtHome r s) := by
  refine .next ?_
  split
  · exact h.qlenHome
  split
  · dsimp only
    split
    · exact .ite (.replyLoad <| .perfAdd <| .updSlice <| .newTag h.restOf) (.sendFrom h.restOf)
    · exact .sendFrom h.restOf
  · exact .ite h.readAgain (.homeTurn h h.loadHome)

/-! ## Loads in their cores -/

theorem MemOk.lookL1 (h : s.MemOk) {r : LdReq} : (s.lookL1 r).MemOk := by
  unfold State.lookL1
  dsimp only
  split
  · exact .send <| .perfAdd <| .updCore h.newTag
  · exact .send <| .newTag <| .ite h.perfAdd h

theorem MemOk.leaveLater (h : s.MemOk) {id l wt : Nat} : (s.leaveLater w id l wt).MemOk := by
  unfold State.leaveLater
  split
  · split
    · exact h
    · dsimp only
      split
      · exact .lookL1 h.updGroup
      · exact .send <| .newTag h.updGroup
      · exact h.updGroup
  · exact h

theorem MemOk.loadFail (h : s.MemOk) {r : LdReq} {cause info : Nat} : (s.loadFail r cause info).MemOk := by
  unfold State.loadFail
  split
  · exact .ite h.codeBack <| .ite h.updGroup <| .ite (.failDone h.updGroup) h.outCancel
  · exact h

theorem MemOk.fillL1 (h : s.MemOk) {core : Nat} {f : Fill} {lo hi : Nat} {victim : Bool} {e : Option (Nat × Nat × Nat × Nat)} :
    (s.fillL1 core f lo hi victim e).MemOk := by
  unfold State.fillL1
  exact .updCore h.newTag

theorem MemOk.loadCache (h : s.MemOk) {m : LdRep} : (s.loadCache m).MemOk := by
  have filled : ∀ {core lo hi : Nat} {victim : Bool} {e}, (match m.fill with
    | some f => s.fillL1 core f lo hi victim e
    | none => s).MemOk := by
    intros
    split
    · exact h.fillL1
    · exact h
  exact .ite filled filled.updCore

theorem MemOk.loadWords (h : s.MemOk) {m : LdRep} : (s.loadWords m).MemOk := by
  unfold State.loadWords
  dsimp only
  split
  · have heard : ∀ {c : Prop} [Decidable c] {n k : Nat},
        (if c then s.loadCache m else (s.loadCache m).raiseClocks n k 0).MemOk := .ite h.loadCache (h.loadCache.same (by rfl))
    refine .ite heard.codeBack <| .ite (.failDone heard.updGroup) ?_
    split
    · split
      · exact heard.outCancel
      · exact .ite heard.outBytes (.leaveLater heard.outBytes)
    · exact heard
  · exact .ite (.copyBreak h.loadCache) (.send (.updCopy h.loadCache))
  · exact h.loadCache

theorem MemOk.loadBack (h : s.MemOk) {m : LdRep} : (s.loadBack m).MemOk := by
  unfold State.loadBack
  split
  · exact h.loadFail
  · exact h.loadWords

theorem MemOk.stopKeep (h : s.MemOk) {e : Instr} : (s.stopKeep e).MemOk := h.same rfl

theorem MemOk.loadKept (h : s.MemOk) {m : LdRep} : (s.loadKept m).MemOk := by
  have cached : ∀ {c : Prop} [Decidable c], (if c then s else s.loadCache m).MemOk := .ite h h.loadCache
  refine .stopKeep ?_
  split
  · split
    · exact .ite cached cached.leaveLater
    · exact cached
  · exact cached

theorem MemOk.execLoadResultReturn (h : s.MemOk) {m : LdRep} : KeptMem (execLoadResultReturn m s) :=
  .next <| .ite h.loadKept h.loadBack

end Sys2Proof.Machine.State
end

section
/-! SUPPORT. The canonical form of the two memories through stores, atomics, probes and the drop of held requests. -/

namespace Sys2Proof.Machine.State

variable {s t : State} {x : Ctx} {w : Who}

/-! ## Stores -/

theorem MemOk.storeBlk (h : s.MemOk) {asid va : Nat} {bs : List Byte} {clk : Nat} {b : Blk} {victim : Bool} {access : Nat} :
    (s.storeBlk asid va bs clk b victim access).2.MemOk := by
  unfold State.storeBlk
  exact .setHome <| .updSlice h.newTag

theorem MemOk.storeFar (h : s.MemOk) {m : StMsg} {y : Xl} : (s.storeFar m y).MemOk := by
  refine .ite h.winStore.send ?_
  dsimp only
  split
  · exact h.strandCount.send
  · exact .sendSeg h.newTag

theorem MemOk.followed (h : s.MemOk) {asid va : Nat} : (s.followed asid va).MemOk := by
  unfold State.followed
  split
  · exact h.follow
  · exact h

theorem MemOk.execStorePerformedAtHome (h : s.MemOk) {m : StMsg} : KeptMem (execStorePerformedAtHome m s) := by
  refine .next <| .ite h.hold <| .ite h.hold <| .homeTurn h ?_
  have hf : (s.followed m.asid m.va).MemOk := h.followed
  dsimp only
  split
  · have stored : ∀ {asid va clk access : Nat} {bs : List Byte} {b : Blk} {v : Bool},
        (((s.followed m.asid m.va).homeHit m.core m.vf m.missed).setD m.asid m.va |>.storeBlk asid va bs clk b v access).2.MemOk :=
      .storeBlk hf.homeHit.setD
    exact .send <| .ite (.setHome stored) stored
  · exact .homeMiss hf fun _ _ h => h.storeFar

theorem MemOk.mapReqs (h : s.MemOk) {f : Instr → Instr} : (s.mapReqs f).MemOk := h.same rfl

theorem MemOk.ownStore (h : s.MemOk) {core asid va wt : Nat} : (s.ownStore core asid va wt).MemOk := by
  unfold State.ownStore
  refine .mapReqs ?_
  split
  · exact h.updSlice
  · exact h

theorem MemOk.ackCache (h : s.MemOk) {a : StAck} : (s.ackCache a).MemOk := by
  unfold State.ackCache
  split
  · exact .ownStore h.updCore
  · exact h

theorem MemOk.raiseClocks (h : s.MemOk) {crew l c : Nat} : (s.raiseClocks crew l c).MemOk := h.same rfl

theorem MemOk.storeAck (h : s.MemOk) {a : StAck} : (s.storeAck a).MemOk := by
  unfold State.storeAck
  dsimp only
  split
  · have told : ∀ {t : State}, t.MemOk → ∀ {w : Who} {id l : Nat}, (if a.kept then t else t.leaveLater w id l).MemOk :=
      fun h => .ite h h.leaveLater
    have marked : ∀ {t : State}, t.MemOk → ∀ {c : Prop} [Decidable c] {w : Who} {f : Group → Group},
        (if c then t.updGroup w f else t).MemOk := fun h => .ite h.updGroup h
    refine told ?_
    split
    · have heard : ∀ {t : State}, t.MemOk → (if a.kept then t else t.ackCache a).MemOk := fun h => .ite h h.ackCache
      exact .failDone <| heard <| .raiseClocks <| marked <| marked h.updGroup
    · exact .failDone h.updGroup
    · exact .failDone <| .updGroup h.updGroup
    · exact .failDone <| .updGroup h.updGroup
    · exact .failDone <| .updGroup h.updGroup
  · refine .copyAcked ?_
    split
    · exact h.copyFail
    · exact h.copyFail
    · exact h.copyFail
    · exact h
  · exact h

theorem MemOk.ackKept (h : s.MemOk) {a : StAck} : (s.ackKept a).MemOk := by
  refine .stopKeep ?_
  split
  · exact .leaveLater h.ackCache
  · exact h.ackCache

theorem MemOk.execStoreAcknowledgement (h : s.MemOk) {a : StAck} : KeptMem (execStoreAcknowledgement a s) :=
  .next <| .ite h.ackKept h.storeAck

/-! ## Atomics -/

theorem MemOk.atReply (h : s.MemOk) {m : AtMsg} {r : AtRes} : (s.atReply m r).MemOk := h.send

theorem MemOk.atomBlk (h : s.MemOk) {m : AtMsg} {b : Blk} : (s.atomBlk m b).MemOk := by
  refine .ite h.homeHit.atReply ?_
  dsimp only
  split
  · exact .atReply <| .storeBlk h.homeHit.setD
  · exact .atReply <| .perfAdd <| .setHome <| .updSlice h.homeHit

/-- The home's newer words go to host memory, and the atomic is performed there. Its later matches read a state that it has rebased, which
the kernel must not evaluate: so it is unfolded under its name alone, and that state is named before the match. -/
theorem MemOk.atomHost (h : s.MemOk) {m : AtMsg} {y : Xl} : (s.atomHost m y).MemOk := by
  suffices ∀ go, go = State.atomHost → (go s m y).MemOk from this _ rfl
  intro go hgo
  delta State.atomHost at hgo
  subst hgo
  beta_reduce
  refine .ite h.atReply <| .ite h.homeHit.atReply ?_
  extract_lets +onlyGivenNames i s₁ s₂ s₃
  have h₁ : s₁.MemOk := .ite h.homeHit h
  have h₂ : s₂.MemOk := by
    dsimp only [s₂]
    split
    · exact .setHome h₁.writeBack
    · exact h₁
  have h₃ : s₃.MemOk := h₂.escort.escort
  clear_value s₃
  refine .ite h₃.atReply ?_
  extract_lets +onlyGivenNames old le
  split
  · extract_lets +onlyGivenNames wt le'
    generalize hs : s₃.updSlice i _ = s₄
    have h₄ : s₄.MemOk := hs ▸ h₃.updSlice
    refine .atReply <| .perfAdd ?_
    split
    · exact h₄.setHome
    · exact h₄.updSlice
  · extract_lets +onlyGivenNames wt s₄
    have h₄ : s₄.MemOk := h₃.writeHost y.pa _
    generalize hs : s₄.updSlice i _ = s₅
    have h₅ : s₅.MemOk := hs ▸ h₄.updSlice
    refine .atReply ?_
    split
    · exact h₅.setHome
    · exact h₅.updSlice

theorem MemOk.execAtomicAtHome (h : s.MemOk) {m : AtMsg} : KeptMem (execAtomicAtHome m s) := by
  refine .next <| .ite h.hold <| .ite h.hold <| .homeTurn h ?_
  have hf : (s.followed m.asid m.va).MemOk := h.followed
  refine .ite ?_ ?_
  · split
    next heq => exact .atomHost (hf.translateCount.fst heq)
    next heq => exact .hold (hf.translateCount.fst heq)
  · split
    · exact hf.atomBlk
    · refine .homeMiss hf fun _ _ h => ?_
      split
      · exact h.strandCount.atReply
      · exact .sendSeg h.newTag

theorem MemOk.atomBack (h : s.MemOk) {a : AtRep} : (s.atomBack a).MemOk := by
  unfold State.atomBack
  dsimp only
  split
  · split
    · exact .failDone <| .outBytes <| .raiseClocks h.updGroup
    · exact .failDone <| .outBytes h.updGroup
    · exact .failDone <| .outBytes <| .raiseClocks h.updGroup
    · exact .ite (.outCancel h.updGroup) (.failDone <| .updGroup h.updGroup)
    · exact .ite (.outCancel h.updGroup) (.failDone <| .updGroup h.updGroup)
    · exact .ite (.outCancel h.updGroup) (.failDone <| .updGroup h.updGroup)
  · refine .copyAcked ?_
    split
    · exact .ite h h.copyAsync
    · exact h.copyAsync
    · exact h.copyAsync
    · exact h
  · exact h

theorem MemOk.execAtomicReply (h : s.MemOk) {a : AtRep} : KeptMem (execAtomicReply a s) := .next <| .ite h.stopKeep h.atomBack

/-! ## Probes, expiry and the tick -/

theorem MemOk.execAttributeProbe (h : s.MemOk) {p : Probe} : KeptMem (execAttributeProbe p s) := by
  refine .next ?_
  dsimp only
  split
  · exact h.translateCount.send
  · exact h.translateCount.send
  · exact .ite h.hold h.translateCount.send

theorem MemOk.execAttributeProbeReply (h : s.MemOk) {m : ProbeRep} : KeptMem (execAttributeProbeReply m s) := by
  refine .next <| .updGroup ?_
  split
  · exact h.updCore
  · exact h

theorem MemOk.execMiglimitExpiry (h : s.MemOk) {id : Nat} : KeptMem (execMiglimitExpiry id s) := by
  refine .next ?_
  split
  · exact h
  · dsimp only
    split
    · exact .send (h.same (by rfl))
    · exact .atReply (h.same (by rfl))
    · split
      · exact .loadLost (h.same (by rfl))
      · exact .send (h.same (by rfl))
      · exact h.same rfl
    · exact .send (h.same (by rfl))
    · exact h.same rfl
    · exact h.same rfl

theorem MemOk.execClockTick (h : s.MemOk) : KeptMem (execClockTick s) := .next (h.same (by rfl))

end Sys2Proof.Machine.State
end

section
/-! SUPPORT. The canonical form of the two memories through the memory words. -/

namespace Sys2Proof.Machine.State

variable {s t : State} {x : Ctx} {w : Who}

/-! ## Waits and gates of a memory word -/

theorem MemOk.headWait (h : s.MemOk) {phase : Nat} : (s.headWait x phase).MemOk := .updGroup <| .ite h h.spent

theorem MemOk.awaitAnswer (h : s.MemOk) : (s.awaitAnswer x).MemOk := h.spent.updGroup

theorem MemOk.waitRetry (h : s.MemOk) : (s.waitRetry x).MemOk := h.updGroup

theorem MemOk.watchGate (h : s.MemOk) {sp rd wr : Bool} {as : List Access} {k : Unit → State} (hk : (k ()).MemOk) :
    (s.watchGate x sp rd wr as k).MemOk := by
  refine .ite hk ?_
  dsimp only
  split
  · exact hk
  · exact h.trapIssue

theorem MemOk.lanesGate (h : s.MemOk) {cause : Nat} {info : Word} {as : List Access} {bad : Access → Option Nat}
    {k : Unit → State} (hk : (k ()).MemOk) : (s.lanesGate x cause info as bad k).MemOk := by
  unfold State.lanesGate
  split
  · exact hk
  · exact h.trapIssue

theorem MemOk.reachGate (h : s.MemOk) {as : List Access} {k : Unit → State} (hk : (k ()).MemOk) : (s.reachGate x as k).MemOk := by
  unfold State.reachGate
  split
  · exact h.spent.abort
  dsimp only
  split
  · exact h.trapIssue
  · exact h.lookTrap hk

theorem MemOk.commitGate (h : s.MemOk) {on : Bool} {k : State → Ctx → State} (hk : ∀ s x, s.MemOk → (k s x).MemOk) :
    (s.commitGate x on k).MemOk := .ite (hk _ _ h) <| .ite h.commitHeld.waitRetry (hk _ _ h.commitHeld)

theorem MemOk.fenceGate (h : s.MemOk) {sc : Option Scope} {k : State → Ctx → State} (hk : ∀ s x, s.MemOk → (k s x).MemOk) :
    (s.fenceGate x sc k).MemOk := by
  unfold State.fenceGate
  split
  · exact hk _ _ h
  · have synced : ∀ {c : Prop} [Decidable c] {n : Nat} {sc : Scope}, (if c then s.syncClocks n sc else s).MemOk :=
    .ite (h.same (by rfl)) h
    exact .ite (.trapIssue h.updGroup) <| .ite synced.headWait (hk _ _ (synced.same (by rfl)))

theorem MemOk.memChecked (h : s.MemOk) {n : Nat} {d : Opnd} {fs : List (Nat × Opnd)} {k : Unit → State} (hk : (k ()).MemOk) :
    (s.memChecked x n d fs k).MemOk := h.runChecked hk

theorem MemOk.scratchGate (h : s.MemOk) {field : Nat × Opnd} {rd wr : Bool} {align : Nat} {as : List Access} {k : Unit → State}
    (hk : (k ()).MemOk) : (s.scratchGate x field rd wr align as k).MemOk := by
  unfold State.scratchGate
  dsimp only
  split
  · exact h.trapIssue
  · exact .lanesGate h <| .lanesGate h <| .watchGate h <| .ite h.waitRetry hk

/-! ## Loads and stores -/

theorem MemOk.ownResult (h : s.MemOk) {kind : OutKind} {d : Opnd} {bs : Nat → List Byte} : (s.ownResult x kind d bs).MemOk :=
  .foldl (fun _ _ h => h.send) <| .updGroup h.newTag

theorem MemOk.loadLanes (h : s.MemOk) {hd : Hdr} {cp : Cp} {ldc sx inOrder : Bool} {n : Nat} {d : Opnd} {as : List Access} :
    (s.loadLanes x hd cp ldc sx inOrder n d as).2.MemOk := by
  unfold State.loadLanes
  refine .foldl (fun _ _ h => h.outBytes) <| .sendParts (.updGroup h.newTag) fun _ i h => ?_
  split
  · exact h.lookL1
  · exact h

/-- A state whose group may go on past a boundary, or wait for an acquire. -/
theorem MemOk.iteUpdGroup (h : s.MemOk) {c : Prop} [Decidable c] {f : Group → Group} : (if c then s.updGroup w f else s).MemOk :=
  .ite h.updGroup h

theorem MemOk.loadWord (h : s.MemOk) {hd : Hdr} {n : Nat} {sx ldc : Bool} {ord : Ord} {sc : Scope} {cp : Cp} {d : Opnd} {ad : Addr} :
    (s.loadWord hd n sx ldc ord sc cp d ad).MemOk :=
  .withCtx h fun _ => .memChecked h <| .lanesGate h <| .watchGate h <| .probeGate h <| .commitGate h fun _ _ h => .reachGate h <|
    .ite h.retire <| .fenceGate h fun _ _ h => .ite h.waitRetry <| .iteUpdGroup <| .retire <| .iteUpdGroup h.loadLanes

theorem MemOk.execStg (h : s.MemOk) {hd w ord sc cp d ad} : KeptMem (execStg hd w ord sc cp d ad s) :=
  .next <| .withCtx h fun _ => .memChecked h <| .lanesGate h <| .watchGate h <| .probeGate h <| .commitGate h fun _ _ h =>
    .reachGate h <| .ite h.retire <| .commitGate h fun _ _ h => .fenceGate h fun _ _ h => .ite h.waitRetry <|
      .iteUpdGroup <| .retire <| .iteUpdGroup <| .ite (.commitEntry <| .updGroup h.newTag) (.updGroup h.newTag)

theorem MemOk.execLds (h : s.MemOk) {hd w sx d ad} : KeptMem (execLds hd w sx d ad s) :=
  .next <| .withCtx h fun _ => .memChecked h <| .scratchGate h <| .ite h.retire h.ownResult.retire

theorem MemOk.execSts (h : s.MemOk) {hd w d ad} : KeptMem (execSts hd w d ad s) :=
  .next <| .withCtx h fun _ => .memChecked h <| .scratchGate h <| .retire h.updCrew

/-! ## Atomics -/

theorem MemOk.execAtoms (h : s.MemOk) {hd w64 op d a ofs b} : KeptMem (execAtoms hd w64 op d a ofs b s) :=
  .next <| .withCtx h fun _ => .memChecked h <| .scratchGate h <| .ite (.retire h.updCrew) (.retire <| .ownResult h.updCrew)

theorem MemOk.atomWord (h : s.MemOk) {hd : Hdr} {n : Nat} {op : Ctx → Nat → AtomOp} {bv : Ctx → Nat → Word} {ord : Ord} {sc : Scope}
    {d : Option Opnd} {a : Opnd} {ofs : BitVec 28} {b : Opnd} : (s.atomWord hd n op bv ord sc d a ofs b).MemOk :=
  .withCtx h fun _ => .memChecked h <| .lanesGate h <| .lanesGate h <| .watchGate h <| .commitGate h fun _ _ h => .probeGate h <|
    .reachGate h <| .lanesGate h <| .ite h.retire <| .fenceGate h fun _ _ h => .iteUpdGroup <| .retire <| .updGroup <|
      .foldl (fun _ _ h => h.send) <| .updGroup <| .updGroup h.newTag

/-! ## Fences, ranges, prefetches and leases -/

theorem MemOk.execFence (h : s.MemOk) {hd sc async} : KeptMem (execFence hd sc async s) :=
  .next <| .withCtx h fun _ => .ite h.retire <| .commitGate h fun _ _ h => .fenceGate h fun _ _ h => .ite h.headWait <|
    .retire <| .ite h.raiseClocks h

theorem MemOk.flushRange (h : s.MemOk) {asid lo hi : Nat} : (s.flushRange asid lo hi).MemOk :=
  .same (.foldl (fun _ _ h => .foldl (fun _ _ h => h.writeBack) h) h) (by rfl)

theorem MemOk.dropRange (h : s.MemOk) {asid lo hi : Nat} : (s.dropRange asid lo hi).MemOk := .same h.dropHome (by rfl)

theorem MemOk.invalL1 (h : s.MemOk) {core asid lo hi : Nat} {wide : Bool} : (s.invalL1 core asid lo hi wide).MemOk :=
  .mapReqs h.updCore

theorem MemOk.rangeWord (h : s.MemOk) {hd : Hdr} {a : Opnd} {ofs : BitVec 28} {b : Opnd} {f : Ctx → Nat × Nat → State → State}
    (hf : ∀ x r s, s.MemOk → (f x r s).MemOk) : (s.rangeWord hd a ofs b f).MemOk :=
  .withCtx h fun _ => .checked h <| .lanesGate h <| .ite h.retire <| .commitGate h fun _ _ h => .attrGate h <|
    .ite h.headWait <| .ite h.waitRetry <| .retire <| .foldl (fun _ _ h => hf _ _ _ h) h

theorem MemOk.execFlush (h : s.MemOk) {hd a ofs b} : KeptMem (execFlush hd a ofs b s) :=
  .next <| .rangeWord h fun _ _ _ h => h.flushRange

theorem MemOk.execInval (h : s.MemOk) {hd sc a ofs b} : KeptMem (execInval hd sc a ofs b s) :=
  .next <| .rangeWord h fun _ _ _ h => .ite h.invalL1.dropRange h.invalL1

theorem MemOk.execPref (h : s.MemOk) {hd cp a ofs b} : KeptMem (execPref hd cp a ofs b s) := by
  refine .next <| .withCtx h fun _ => .checked h <| .ite h.probe <| .retire <| .foldl (fun _ _ h => ?_) h
  split
  · exact .ite h <| .foldl (fun _ _ h => h.send) h
  · exact h

theorem MemOk.execRenew (h : s.MemOk) {hd a ofs} : KeptMem (execRenew hd a ofs s) :=
  .next <| .withCtx h fun _ => .checked h <| .lanesGate h <| .attrGate h <| .retire <| .foldl (fun _ _ h => h.send) <|
    .ite h.newTag (.updGroup h.newTag)

theorem MemOk.execTsadv (h : s.MemOk) {hd l sc a} : KeptMem (execTsadv hd l sc a s) :=
  .next <| .withCtx h fun _ => .checked h <| .retire h.updCrew

end Sys2Proof.Machine.State
end

section
/-! SUPPORT. The canonical form of the two memories through control flow, tiles, ports and copies. -/

namespace Sys2Proof.Machine.State

variable {s t : State} {x : Ctx} {w : Who}

/-! ## Control flow -/

theorem MemOk.crewClosing (h : s.MemOk) {crew : Nat} : (s.crewClosing crew).MemOk := by
  unfold State.crewClosing
  split
  · exact h
  · exact .ite (.foldl (fun _ _ h => h.commitHeld) h.updCrew) h

theorem MemOk.lanesGone (h : s.MemOk) : (s.lanesGone w).MemOk := by
  have left : ∀ {c : Prop} [Decidable c] {f : Group → Group} {n : Nat} {g : Crew → Crew},
      (if c then (s.updGroup w f).updCrew n g else s).MemOk := .ite (h.same (by rfl)) h
  unfold State.lanesGone
  dsimp only
  split
  · exact left
  · exact .ite left <| .crewClosing <| .updCrew left

theorem MemOk.targetGate (h : s.MemOk) {f : Nat → Word} {k : Unit → State} (hk : (k ()).MemOk) : (s.targetGate x f k).MemOk := by
  unfold State.targetGate
  dsimp only
  split
  · exact hk
  · exact h.trapIssue

theorem MemOk.depthGate (h : s.MemOk) {limit : BitVec 12} {k : Unit → State} (hk : (k ()).MemOk) : (s.depthGate x limit k).MemOk :=
  .ite hk h.trapIssue

theorem MemOk.jump (h : s.MemOk) {hd : Hdr} {d : Option Opnd} {f : Nat → Word} {depth : BitVec 12} : (s.jump x hd d f depth).MemOk :=
  .issued h.updGroup

/-- NOP, JOIN and YIELD. -/
theorem MemOk.retireWord (h : s.MemOk) {hd hd' : Hdr} : (s.withCtx hd fun x => s.retire x hd').MemOk := .withCtx h fun _ => h.retire

theorem MemOk.execBra (h : s.MemOk) {hd ofs} : KeptMem (execBra hd ofs s) := .next <| .withCtx h fun _ => .targetGate h h.jump

theorem MemOk.execBrx (h : s.MemOk) {hd a} : KeptMem (execBrx hd a s) :=
  .next <| .withCtx h fun _ => .checked h <| .targetGate h h.jump

theorem MemOk.execCall (h : s.MemOk) {hd d ofs} : KeptMem (execCall hd d ofs s) :=
  .next <| .withCtx h fun _ => .checked h <| .depthGate h <| .targetGate h h.jump

theorem MemOk.execCallx (h : s.MemOk) {hd d a} : KeptMem (execCallx hd d a s) :=
  .next <| .withCtx h fun _ => .checked h <| .depthGate h <| .targetGate h h.jump

theorem MemOk.execRet (h : s.MemOk) {hd a} : KeptMem (execRet hd a s) :=
  .next <| .withCtx h fun _ => .checked h <| .depthGate h <| .targetGate h h.jump

theorem MemOk.execExit (h : s.MemOk) {hd} : KeptMem (execExit hd s) :=
  .next <| .withCtx h fun _ => .lanesGone <| .issued h.updGroup

theorem MemOk.execRegion (h : s.MemOk) {hd tag} : KeptMem (execRegion hd tag s) :=
  .next <| .withCtx h fun _ => .ite h.retire <| .commitGate h fun _ _ h => .retire h.updGroup

theorem MemOk.trapWord (h : s.MemOk) {hd : Hdr} {cause : Nat} {code : BitVec 16} : (s.trapWord hd cause code).MemOk :=
  .withCtx h fun _ => .ite h.retire (.trapIssue h.updGroup)

theorem MemOk.execRtt (h : s.MemOk) {hd skip} : KeptMem (execRtt hd skip s) :=
  .next <| .withCtx h fun _ => .checked h <| .ite h.waitRetry <| .ite (.lanesGone <| .updCrew <| .updGroup h.spent) h.trapIssue

theorem MemOk.execLpw (h : s.MemOk) {hd snap a} : KeptMem (execLpw hd snap a s) := by
  refine .next <| .withCtx h fun _ => .checked h <| .ite h.trapIssue ?_
  dsimp only
  split
  · exact h.trapIssue
  · exact .ite (.retire h.updGroup) (.lanesGone <| .issued h.updGroup)

/-! ## Tiles -/

theorem MemOk.tileTrap (h : s.MemOk) {n : Nat} : (s.tileTrap x n).MemOk := h.trapIssue

theorem MemOk.execTstateArm (h : s.MemOk) {hd a b} : KeptMem (execTstateArm hd a b s) :=
  .next <| .withCtx h fun _ => .checked h <| .ite h.retire <| .ite h.tileTrap <| .retire <| .updCrew h.newTag

theorem MemOk.execTrel (h : s.MemOk) {hd a} : KeptMem (execTrel hd a s) := by
  refine .next <| .withCtx h fun _ => .checked h <| .ite h.retire <| .ite (.retire h.updCrew) ?_
  split
  · exact h.retire
  · exact .retire h.updCrew
  · exact .ite (.retire h.updCrew) h.waitRetry
  · exact h.waitRetry

theorem MemOk.execHand (h : s.MemOk) {hd p a b} : KeptMem (execHand hd p a b s) := by
  refine .next <| .withCtx h fun _ => .checked h <| .ite h.retire <| .ite h.tileTrap <| .ite h.waitRetry ?_
  dsimp only
  split
  · exact .retire h.updGroup
  · exact .ite h.waitRetry <| .retire <| .updGroup <| .send <| .updCrew <| .updCrew h.newTag

theorem MemOk.execHandTransferComplete (h : s.MemOk) {crew copy} : KeptMem (execHandTransferComplete crew copy s) := by
  refine .next ?_
  split
  · exact .updCrew h.updCrew
  · exact h.updCrew
  · exact h

/-! ## Stream ports -/

theorem MemOk.execSpset (h : s.MemOk) {hd wr stride port a b c} : KeptMem (execSpset hd wr stride port a b c s) :=
  .next <| .withCtx h fun _ => .checked h <| .ite h.retire <| .ite h.trapIssue (.retire h.updGroup)

theorem MemOk.execSprst (h : s.MemOk) {hd port b} : KeptMem (execSprst hd port b s) :=
  .next <| .withCtx h fun _ => .checked h <| .ite h.retire <| .ite h.trapIssue (.retire h.updGroup)

/-! ## Copies -/

theorem MemOk.copyBegin (h : s.MemOk) {hd : Hdr} {cp : Cp} {p : Plan} {msg : Bool} : (s.copyBegin x hd cp p msg).MemOk :=
  .retire <| .send <| .iteUpdGroup <| .updCrew h.newTag

theorem MemOk.copyWord (h : s.MemOk) {hd : Hdr} {fs : List (Nat × Opnd)} {cp : Cp} {plan : Ctx → Plan} :
    (s.copyWord hd fs cp plan).MemOk := by
  refine .withCtx h fun _ => .checked h <| .ite h.trapIssue <| .ite h.tileTrap <| .ite h.retire <| .ite h.trapIssue <|
    .lanesGate h ?_
  split
  · exact h.trapIssue
  refine .lanesGate h ?_
  dsimp only
  split
  · exact h.trapIssue
  refine .commitGate h fun _ _ h => .attrGate h ?_
  split
  · exact h.trapIssue
  · exact .lanesGate h <| .lanesGate h <| .ite h.waitRetry <| .commitGate h fun _ _ h => h.copyBegin

theorem MemOk.copyReadPiece (h : s.MemOk) {c : Crew} {k : Copy} {va n : Nat} : (s.copyReadPiece c k va n).1.MemOk := by
  unfold State.copyReadPiece
  split
  · exact h
  split
  next heq => exact h.translate.fst heq
  next heq => exact h.translate.fst heq
  next heq =>
    have ht := h.translate.fst heq
    split
    · exact ht
    split
    · exact ht
    split
    · exact ht
    dsimp only
    split
    · exact .renewDown <| .ensureHome ht.perfAdd
    · split
      · exact .renewDown <| .ensureHome ht.perfAdd
      · exact .perfAdd <| .setHome <| .updSlice <| .renewDown <| .ensureHome ht.perfAdd

theorem MemOk.copyRead (h : s.MemOk) {c : Crew} {k : Copy} {ps : List (Nat × Nat)} : (s.copyRead c k ps).1.MemOk := by
  induction ps generalizing s with
  | nil => exact h
  | cons p ps ih =>
    unfold State.copyRead
    split
    next heq => exact h.copyReadPiece.fst heq
    next heq => exact ih (h.copyReadPiece.fst heq)

theorem MemOk.stopCrew (h : s.MemOk) {crew : Nat} {st : CrewSt} : (s.stopCrew crew st).MemOk := h.updCrew

theorem MemOk.copyFault (h : s.MemOk) {c : Crew} {k : Copy} {va : Nat} {acc : Acc} : (s.copyFault c k va acc).MemOk := by
  unfold State.copyFault
  split
  · exact h
  · exact .postFlt <| .stopCrew h.updCopy

theorem MemOk.nextChunk (h : s.MemOk) {crew copy : Nat} : (s.nextChunk crew copy).MemOk := .ite h.send h

theorem MemOk.sendMsg (h : s.MemOk) {crew copy : Nat} {y : Xl} {payload : List Byte} {l : List Nat} :
    (s.sendMsg crew copy y payload l).MemOk := by
  induction l generalizing s with
  | nil => exact h
  | cons ofs l ih =>
    unfold State.sendMsg
    split
    · exact .copyStop <| .copyAsync h.strandCount
    · exact ih <| .sendSeg <| .updCopy h.newTag

theorem MemOk.chunkDone (h : s.MemOk) {c : Crew} {k : Copy} : (s.chunkDone c k).MemOk := by
  refine .ite ?_ (.nextChunk h.updCopy)
  split
  · split
    · exact .sendMsg <| .updCrew h.updCopy
    · exact .copyStop <| .copyAsync <| .updCrew h.updCopy
  · exact .copyCheck <| .updCrew h.updCopy

theorem MemOk.chunkBad (h : s.MemOk) {c : Crew} {l : List Nat} : (s.chunkBad c l).1.MemOk := by
  induction l generalizing s with
  | nil => exact h
  | cons va l ih =>
    unfold State.chunkBad
    split
    next heq => exact ih (h.translate.fst heq)
    next heq => exact h.translate.fst heq
    next heq => exact h.translate.fst heq

theorem MemOk.chunkWrite (h : s.MemOk) {c : Crew} {k : Copy} {bs : List Byte} : (s.chunkWrite c k bs).MemOk := by
  refine .ite (.chunkDone h.updCopy) ?_
  dsimp only
  split
  next heq => exact .copyFault (h.chunkBad.fst heq)
  next heq => exact .copyStop <| .copyAsync (h.chunkBad.fst heq)
  next heq =>
    have ht := h.chunkBad.fst heq
    refine .ite (.chunkDone ht.updCopy) ?_
    split
    · exact .copyStop ht.copyAsync
    · exact .chunkDone <| .updCopy <| .foldl (fun _ _ h => .send h.newTag) ht

theorem MemOk.execCopyChunkComplete (h : s.MemOk) {crew copy} : KeptMem (execCopyChunkComplete crew copy s) := by
  refine .next ?_
  split
  · refine .ite h <| .ite h.chunkWrite ?_
    dsimp only
    split
    · exact .send <| .updCopy h.copyRead
    · exact .copyFault <| .updCopy h.copyRead
    · exact .copyStop <| .copyAsync <| .updCopy h.copyRead
    · exact .send <| .newTag <| .updCopy h.copyRead
    · exact .ite (.chunkDone <| .updCrew <| .updCopy h.copyRead) (.chunkWrite <| .updCopy h.copyRead)
  · exact h

theorem MemOk.execCopyComplete (h : s.MemOk) {crew copy} : KeptMem (execCopyComplete crew copy s) := by
  refine .next ?_
  split
  · exact .ite (.send <| .newTag h.updCopy) h.updCrew
  · exact h

end Sys2Proof.Machine.State
end

section
/-! SUPPORT. The canonical form of the two memories through the queues and the words that use them. -/

namespace Sys2Proof.Machine.State

variable {s t : State} {x : Ctx} {w : Who}

/-! ## Writes of the homes themselves -/

theorem MemOk.raiseFloor (h : s.MemOk) {wt : Nat} : (s.raiseFloor wt).MemOk := h.same rfl

theorem MemOk.homeWritePieces (h : s.MemOk) {asid clk va : Nat} {bs : List Byte} {access : Nat} {ps : List (Nat × Nat)}
    {wt wt' : Nat} (e : s.homeWritePieces asid clk va bs access ps wt = some (wt', t)) : t.MemOk := by
  induction ps generalizing s wt with
  | nil =>
    cases e
    exact h
  | cons p ps ih =>
    unfold State.homeWritePieces at e
    split at e
    next heq =>
      have ht := h.translate.fst heq
      dsimp only at e
      split at e
      · cases e
      · exact ih (.storeBlk ht.ensureHome) e
    · cases e

theorem MemOk.homeWrite (h : s.MemOk) {asid va : Nat} {bs : List Byte} {clk wt : Nat}
    (e : s.homeWrite asid va bs clk = some (wt, t)) : t.MemOk := h.newTag.homeWritePieces e

theorem MemOk.unlessBarred (h : s.MemOk) {asid : Nat} {words : List Nat} {e : Instr} {k : State} (hk : k.MemOk) :
    (s.unlessBarred asid words e k).MemOk := .unlessMoves h <| .ite (h.same (by rfl)) hk

theorem MemOk.unlessShut (h : s.MemOk) {q : Queue} {e : Instr} {k : State} (hk : k.MemOk) : (s.unlessShut q e k).MemOk :=
  .ite (h.same (by rfl)) <| .ite (h.same (by rfl)) hk

theorem MemOk.unlessAny (h : s.MemOk) {num : Nat} {e : Instr} {k : State} (hk : k.MemOk) : (s.unlessAny num e k).MemOk := by
  unfold State.unlessAny
  split
  · exact h.unlessShut hk
  · exact hk

/-! ## Appends -/

theorem MemOk.panPlace (h : s.MemOk) {num asid clk : Nat} {bs : List Byte} {seq k pos : Nat} :
    (s.panPlace num asid clk bs seq k pos).1.MemOk := by
  induction k generalizing s pos with
  | zero => exact h
  | succ k ih =>
    unfold State.panPlace
    split
    · exact h
    · dsimp only
      split
      · exact ih h
      · split
        · exact ih h.updQueue
        next heq => exact .updQueue (h.homeWrite heq)

theorem MemOk.append (h : s.MemOk) {num : Nat} {bs : List Byte} {clk : Nat} : (s.append num bs clk).1.MemOk := by
  unfold State.append
  split
  · exact h
  · dsimp only
    split
    next heq =>
      split at heq
      · exact .updQueue <| .updQueue (h.homeWrite heq)
      · cases heq
    · split
      next heq => exact .updQueue (h.panPlace.fst heq)
      next heq => exact h.panPlace.fst heq

theorem MemOk.appendLanes (h : s.MemOk) {num clk : Nat} {waits : Bool} {rs : List Rec} :
    (s.appendLanes num clk waits rs).1.MemOk := by
  induction rs generalizing s with
  | nil => exact h
  | cons r rs ih =>
    unfold State.appendLanes
    split
    · exact h
    · split
      · exact ih h
      · split
        next heq => exact h.append.fst heq
        next heq => exact ih (h.append.fst heq)

theorem MemOk.appendOutside (h : s.MemOk) {num : Nat} {bs : List Byte} {program : Bool} :
    (s.appendOutside num bs program).1.MemOk := by
  unfold State.appendOutside
  split
  · exact h
  · split
    · exact h
    · split
      next heq => exact h.append.fst heq
      next heq => exact .raiseFloor (h.append.fst heq)

theorem MemOk.hstat (h : s.MemOk) {vf result reason seq : Nat} : (s.hstat vf result reason seq).MemOk := h.setReg

theorem MemOk.execQueueAppendAtHome (h : s.MemOk) {m} : KeptMem (execQueueAppendAtHome m s) := by
  refine .next ?_
  split
  · exact h
  · split
    · exact h.send
    · refine .unlessShut h ?_
      split
      · exact h.send
      · exact .ite (h.same (by rfl)) <| .ite (h.same (by rfl)) <| .ite (.send h.updQueue) h.appendLanes.send
  · refine .unlessAny h ?_
    split
    next heq => exact .hstat (h.appendOutside.fst heq)
    next heq => exact .hstat (h.appendOutside.fst heq)
    next heq => exact .hstat (h.appendOutside.fst heq)
  · refine .ite h.updCtrl <| .unlessAny h ?_
    split
    next heq => exact .updCtrl (h.appendOutside.fst heq)
    next heq => exact .updCtrl (h.appendOutside.fst heq)

/-- An operation on a state and more that is repeated along a list. -/
theorem MemOk.foldlFst {α β : Type} {f : State × β → α → State × β} (hf : ∀ p a, p.1.MemOk → (f p a).1.MemOk) {l : List α}
    {b : β} (h : s.MemOk) : (l.foldl f (s, b)).1.MemOk := by
  suffices ∀ p : State × β, p.1.MemOk → (l.foldl f p).1.MemOk from this (s, b) h
  induction l with
  | nil => exact fun _ h => h
  | cons a l ih => exact fun p h => ih _ (hf p a h)

/-! ## Records that flow, are claimed and released -/

theorem MemOk.wakeAppends (h : s.MemOk) {num : Nat} : (s.wakeAppends num).MemOk := h.same rfl

theorem MemOk.wakeClaims (h : s.MemOk) {num : Nat} : (s.wakeClaims num).MemOk := h.same rfl

theorem MemOk.moveRecords (h : s.MemOk) {num k : Nat} : (s.moveRecords num k).MemOk := by
  induction k generalizing s with
  | zero => exact h
  | succ k ih =>
    unfold State.moveRecords
    split
    · exact h
    split
    · exact h
    refine .ite h ?_
    extract_lets from_ ps rd got s₁ dst put bad
    have hrd : ∀ a p, a.1.MemOk → (rd a p).1.MemOk := fun a p h => by
      dsimp only [rd]
      split
      next heq =>
        have ht := h.translate.fst heq
        split <;> exact ht.ensureHome
      next heq => exact h.translate.fst heq
    have h₁ : s₁.MemOk := .ite (.postFlt <| .foldlFst hrd h) (.foldlFst hrd h)
    have hput : ∀ n r, (put.getD (n, s₁.postFlt r)).2.MemOk := fun n r => by
      cases e : put with
      | none => exact h₁.postFlt
      | some p => exact h₁.homeWrite e
    exact ih <| .updQueue <| .foldl (fun _ _ h => .ite h.setHome h) (hput _ _)

theorem MemOk.exposeRecs (h : s.MemOk) {num k : Nat} : (s.exposeRecs num k).MemOk := by
  induction k generalizing s with
  | zero => exact h
  | succ k ih =>
    unfold State.exposeRecs
    split
    · exact h
    · split
      · exact .ite h (ih h.updQueue)
      · exact ih h.updQueue
      · exact h

theorem MemOk.flowRecs (h : s.MemOk) {num k : Nat} : (s.flowRecs num k).MemOk := by
  induction k generalizing s with
  | zero => exact h
  | succ k ih =>
    unfold State.flowRecs
    split
    · exact h
    · exact .ite h (ih h.moveRecords.exposeRecs)

theorem MemOk.releaseRecs (h : s.MemOk) {num : Nat} {seqs : List Nat} : (s.releaseRecs num seqs).MemOk := by
  unfold State.releaseRecs
  split
  · exact h
  · exact .wakeClaims <| .wakeAppends <| .flowRecs h.updQueue

theorem MemOk.flowAll (h : s.MemOk) : s.flowAll.MemOk := .foldl (fun _ _ h => h.flowRecs.wakeAppends.wakeClaims) h

theorem MemOk.execClaimAtHome (h : s.MemOk) {m} : KeptMem (execClaimAtHome m s) := by
  refine .next ?_
  extract_lets reply
  split
  · exact h.send
  split
  · exact .ite (.send (h.same (by rfl))) h.send
  split
  · exact h.send
  · extract_lets +onlyGivenNames launch take
    refine .ite (h.same (by rfl)) ?_
    extract_lets s₁ s₂ crew s₃
    have h₂ : s₂.MemOk := by
      dsimp only [s₂]
      split
      · exact .updCrew h.updQueue
      · exact h.updQueue
    have h₃ : s₃.MemOk := .ite (h₂.same (by rfl)) h₂
    exact h₃.send

theorem MemOk.deqBack (h : s.MemOk) {m : ClaimRep} {out : Nat} {lanes : Mask} : (s.deqBack m w out lanes).MemOk := by
  unfold State.deqBack
  split
  · exact .foldl (fun _ _ h => h.outBytes) h
  · split
    · exact h
    · split
      · exact .foldl (fun _ _ h => h.outBytes) h
      · refine .foldl (fun _ _ h => ?_) (.ite h h.raiseClocks)
        split <;> exact h.outBytes

/-! ## The words of queues -/

theorem MemOk.enqDone (h : s.MemOk) {e : EnqWord} : (s.enqDone x e).MemOk :=
  .ite (.ite (.lanesGone <| .issued <| .updGroup <| .updGroup h.perfAdd) (.issued <| .updGroup <| .updGroup h.perfAdd))
    (.trapIssue <| .updGroup <| .updGroup h.perfAdd)

theorem MemOk.enqRead (h : s.MemOk) {e : EnqWord} {qs : List (Nat × Queue)} : (s.enqRead x e qs).MemOk := h.iteUpdGroup

theorem MemOk.enqAsk (h : s.MemOk) {e : EnqWord} {qs : List (Nat × Queue)} : (s.enqAsk x e qs).MemOk :=
  .ite (.enqDone h.updGroup) (.send <| .awaitAnswer h.updGroup)

theorem MemOk.handleGate (h : s.MemOk) {q : Opnd} {k : List (Nat × Queue) → State} (hk : ∀ qs, (k qs).MemOk) :
    (s.handleGate x q k).MemOk := by
  unfold State.handleGate
  dsimp only
  split
  · exact h.trapIssue
  · exact hk _

theorem MemOk.enqRelease (h : s.MemOk) {e : EnqWord} {qs : List (Nat × Queue)} : (s.enqRelease x e qs).MemOk :=
  .fenceGate h fun _ _ h => h.enqAsk

theorem MemOk.enqWord (h : s.MemOk) {e : EnqWord} : (s.enqWord e).MemOk := by
  refine .withCtx h fun _ => .checked h <| .ite h.retire <| .ite h.enqAsk <| .ite h.enqRelease ?_
  dsimp only
  split
  · exact h.trapIssue
  · exact .ite h.trapIssue <| .lanesGate h <| .handleGate h fun _ => .watchGate h <| .ite h.waitRetry <|
      .commitGate h fun _ _ h => h.enqRead.enqRelease

theorem MemOk.execDeq (h : s.MemOk) {hd vd vs p} : KeptMem (execDeq hd vd vs p s) :=
  .next <| .withCtx h fun _ => .checked h <| .ite h.retire <| .commitGate h fun _ _ h => .ite (.retire <| .updGroup h.updGroup)
    (.retire <| .send <| .updGroup <| .newTag h.updGroup)

theorem MemOk.execQlen (h : s.MemOk) {hd exact d q} : KeptMem (execQlen hd exact d q s) := by
  refine .next <| .withCtx h fun _ => .checked h <| .handleGate h fun _ => .ite h.retire <| .retire <|
    .foldl (fun _ _ h => ?_) (.updGroup h.newTag)
  dsimp only
  split <;> exact h.send

theorem MemOk.execArm (h : s.MemOk) {hd p q tag base lcnt lslot} : KeptMem (execArm hd p q tag base lcnt lslot s) := by
  refine .next <| .withCtx h fun _ => .checked h <| .ite h.retire <| .ite h.trapIssue <| .handleGate h fun _ =>
    .commitGate h fun _ _ h => .attrGate h ?_
  split
  · exact h.retire
  · exact .retire <| .updGroup <| .ite h <| .ite h.updQueue h.updQueue

/-! ## Barriers, sleep and services -/

theorem MemOk.arriveGate (h : s.MemOk) {n : Nat} {set : Option (BitVec 16)} {k : State → Ctx → State}
    (hk : ∀ s x, s.MemOk → (k s x).MemOk) : (s.arriveGate x n set k).MemOk :=
  .ite h.waitRetry <| .commitGate h fun _ _ h => .fenceGate h fun _ _ h => hk _ _ h.updCrew

theorem MemOk.syncClocks (h : s.MemOk) {crew : Nat} {sc : Scope} : (s.syncClocks crew sc).MemOk := h.same rfl

theorem MemOk.phaseGate (h : s.MemOk) {hd : Hdr} {n phase : Nat} : (s.phaseGate x hd n phase).MemOk :=
  .ite h.headWait (.retire <| .syncClocks h.updCrew)

theorem MemOk.execBara (h : s.MemOk) {hd set b m} : KeptMem (execBara hd set b m s) :=
  .next <| .withCtx h fun _ => .checked h <| .ite h.retire <| .arriveGate h fun _ _ h => h.retire

theorem MemOk.execBarw (h : s.MemOk) {hd b} : KeptMem (execBarw hd b s) :=
  .next <| .withCtx h fun _ => .checked h <| .ite h.retire h.phaseGate

theorem MemOk.execBaraw (h : s.MemOk) {hd b} : KeptMem (execBaraw hd b s) :=
  .next <| .withCtx h fun _ => .checked h <| .ite h.retire <| .ite h.phaseGate <| .arriveGate h fun _ _ h => h.phaseGate

theorem MemOk.execSleep (h : s.MemOk) {hd a} : KeptMem (execSleep hd a s) :=
  .next <| .withCtx h fun _ => .checked h <| .ite h.retire h.retire.updGroup

theorem MemOk.giveAnswer (h : s.MemOk) {v : Word} : (s.giveAnswer w v).MemOk := h.updGroup

theorem MemOk.answered (h : s.MemOk) {hd : Hdr} {d : Opnd} {bnd : Bool} : (s.answered x hd d bnd).MemOk := .retire h.updGroup

theorem MemOk.execSysc (h : s.MemOk) {hd d a b code} : KeptMem (execSysc hd d a b code s) :=
  .next <| .withCtx h fun _ => .checked h <| .ite h.retire <| .ite h.answered <|
    .commitGate h fun _ _ h => .same h.newTag.awaitAnswer (by rfl)

theorem MemOk.execGload (h : s.MemOk) {hd d a b} : KeptMem (execGload hd d a b s) :=
  .next <| .withCtx h fun _ => .checked h <| .ite h.retire <| .ite h.answered h.awaitAnswer.send

/-! ## The stop of a graph -/

theorem MemOk.drainGraph (h : s.MemOk) {g : Graph} : (s.drainGraph g).MemOk := .foldl (fun _ _ h => h.wakeAppends) (h.same (by rfl))

theorem MemOk.copiesOnward (h : s.MemOk) {crew : Nat} : (s.copiesOnward crew).MemOk := by
  unfold State.copiesOnward
  split
  · exact h
  · exact .foldl (fun _ _ h => h.send) h

theorem MemOk.discardCrew (h : s.MemOk) {crew : Nat} : (s.discardCrew crew).MemOk := .copiesOnward (h.same (by rfl))

theorem MemOk.abortGraph (h : s.MemOk) {g : Graph} : (s.abortGraph g).MemOk :=
  .foldl (fun _ _ h => h.send) <| .post <| .same (.foldl (fun _ _ h => h.discardCrew) h) (by rfl)

theorem MemOk.execGstop (h : s.MemOk) {hd abort d a} : KeptMem (execGstop hd abort d a s) := by
  refine .next <| .withCtx h fun _ => .checked h <| .ite h.retire <| .ite h.answered ?_
  dsimp only
  split
  · exact .retire h.updGroup
  · exact .ite (.retire h.updGroup) <| .same (.ite h.drainGraph.awaitAnswer.abortGraph h.drainGraph.awaitAnswer) (by rfl)

theorem MemOk.execGraphStopComplete (h : s.MemOk) {handle} : KeptMem (execGraphStopComplete handle s) := by
  refine .next ?_
  split
  · exact h
  · exact .foldl (fun _ _ h => h.giveAnswer) (h.same (by rfl))

theorem MemOk.execSpokeSummary (h : s.MemOk) {core m} : KeptMem (execSpokeSummary core m s) := .next <| .ite h h.updCore

end Sys2Proof.Machine.State
end

section
/-! SUPPORT. The canonical form of the two memories through the scheduling of crews, the VFs' registers and admission. -/

namespace Sys2Proof.Machine

/-- The state that a read of admission leaves. -/
def Rd.state {α : Type} : Rd α → State
  | .ok _ s => s
  | .no s => s
  | .far _ s => s

end Sys2Proof.Machine

namespace Sys2Proof.Machine.State

variable {s t u : State} {x : Ctx} {w : Who}

/-! ## Crews on their cores -/

theorem MemOk.redirect (h : s.MemOk) {crew core : Nat} : (s.redirect crew core).MemOk := .updCrew (h.same (by rfl))

theorem MemOk.dropOlder (h : s.MemOk) {core asid n : Nat} : (s.dropOlder core asid n).MemOk := h.same rfl

theorem MemOk.resume (h : s.MemOk) {core : Nat} {c : Crew} {keeper : Option Nat} {p0 : Nat} : (s.resume core c keeper p0).MemOk :=
  .divide <| .crewClosing <| .foldl (fun _ _ h => h.send) <| .perfAdd <| .updCore <| .dropOlder <| .redirect h.updCrew

theorem MemOk.claim (h : s.MemOk) {core : Nat} {g : Stage} {keeper : Option Nat} {p0 : Nat} : (s.claim core g keeper p0).MemOk :=
  .divide <| .send <| .updCore h.newTag

theorem MemOk.launch (h : s.MemOk) {core : Nat} {g : Stage} {keeper : Option Nat} {p0 : Nat} : (s.launch core g keeper p0).MemOk := by
  unfold State.launch
  split
  · exact h.resume
  · exact h.claim

theorem MemOk.keeperLaunch (h : s.MemOk) {k : Keeper} : (s.keeperLaunch k).MemOk := by
  refine .ite h ?_
  split
  · exact h
  · exact .updCore <| .launch (h.newTag.same (by rfl))

theorem MemOk.execDerailleurEvaluation (h : s.MemOk) {core} : KeptMem (execDerailleurEvaluation core s) := by
  refine .next <| .ite h <| .updCore <| .foldl (fun _ _ h => h.keeperLaunch) ?_
  split
  · exact h.updCore
  · exact .updCore <| .launch h.updCore

theorem MemOk.startCrew (h : s.MemOk) {core : Nat} {r : Resv} {g : Stage} {m : ClaimRep} {due : Bool} :
    (s.startCrew core r g m due).MemOk := h.newTag.same rfl

theorem MemOk.launchBack (h : s.MemOk) {core resv : Nat} {m : ClaimRep} : (s.launchBack core resv m).MemOk := by
  unfold State.launchBack
  split
  · exact h
  · refine .divide ?_
    have found : ∀ {f : Core → Core}, (s.updCore core f).MemOk := h.updCore
    dsimp only
    split
    · exact found
    · refine .ite found.updCore <| .ite ?_ (.perfAdd <| .startCrew found.updCore)
      split
      · exact found.releaseRecs
      · exact found

theorem MemOk.execClaimReply (h : s.MemOk) {m} : KeptMem (execClaimReply m s) := by
  refine .next ?_
  split
  · exact h.launchBack
  · exact .ite h.stopKeep h.deqBack

theorem MemOk.setSvcOpen (h : s.MemOk) {l : List (Nat × Nat × Who)} : ({ s with svcOpen := l } : State).MemOk := h.same rfl

theorem MemOk.dropCrew (h : s.MemOk) {core crew : Nat} :
    (s.divide core fun s => { s with crews := s.crews.filter fun x => x.id != crew }).MemOk := .divide (h.same (by rfl))

theorem MemOk.execCrewRetire (h : s.MemOk) {crew} : KeptMem (execCrewRetire crew s) := by
  refine .next ?_
  split
  · exact h
  · exact .ite h <| .foldl (fun _ _ h => h.releaseRecs) <| .setSvcOpen <| .dropCrew <| .ite h <| .saveCrew <|
      .raiseClocks h.syncClocks

theorem MemOk.execPreemption (h : s.MemOk) {crew} : KeptMem (execPreemption crew s) := by
  refine .next ?_
  split
  · exact h
  · exact .ite (h.same (by rfl)) <| .ite h.stopCrew <| .ite (.ite h.saveCrew.discardCrew h.saveCrew) h

theorem MemOk.execSliceEnd (h : s.MemOk) {core} : KeptMem (execSliceEnd core s) := by
  refine .next ?_
  split
  · exact h
  · exact .post h.updCore

theorem MemOk.overrun (h : s.MemOk) {vf ns : Nat} : (s.overrun vf ns).MemOk := h.setReg

theorem MemOk.execSliceSwitchComplete (h : s.MemOk) {core} : KeptMem (execSliceSwitchComplete core s) := by
  refine .next ?_
  split
  · exact h
  · exact .ite h (.updCore h.overrun)

/-! ## The registers of a VF -/

theorem MemOk.retime (h : s.MemOk) {old : State} {core : Nat} : (old.retime s core).MemOk := .ite (.ite h.updCore h) h.updCore

theorem MemOk.vfTake (h : s.MemOk) {vf ofs : Nat} {v : Word} : (s.vfTake vf ofs v).MemOk :=
  .ite h.setFld <| .holdFloor <| .foldl (fun _ _ h => h.retime) <| .setReg <| .foldl (fun _ _ h => h.setReg) <| .setReg h.setReg

theorem MemOk.vfTook (h : s.MemOk) {vf : Nat} : (s.vfTook vf).MemOk := h.setFld

theorem MemOk.execVfRegisterWrite (h : s.MemOk) {vf ofs v} : KeptMem (execVfRegisterWrite vf ofs v s) := by
  refine .next ?_
  dsimp only
  split
  · exact h.setReg.vfTook
  · exact .ite h h.setReg.vfTook
  · exact h.setReg.vfTook
  · exact h.setReg.vfTook
  · exact .ite h.vfTake h

/-! ## Admission -/

theorem MemOk.reserve (h : s.MemOk) {graph vf : Nat} {stages : List Stage} {slots : List (List Nat)}
    (e : s.reserve graph vf stages slots = some t) : t.MemOk := by
  induction slots generalizing s with
  | nil =>
    cases e
    exact h
  | cons serves slots ih =>
    unfold State.reserve at e
    dsimp only at e
    split at e
    · cases e
    · exact ih (h.newTag.same (by rfl)) e

theorem MemOk.enterCands (h : s.MemOk) {stages : List Stage} (e : s.enterCands stages = some t) : t.MemOk := by
  induction stages generalizing s with
  | nil =>
    cases e
    exact h
  | cons g stages ih =>
    unfold State.enterCands at e
    split at e
    · cases e
    · exact ih (.foldl (fun _ _ h => h.updCore) h) e

theorem MemOk.bind {α β : Type} {r : Rd α} {k : α → State → Rd β} (h : r.state.MemOk)
    (hk : ∀ a s, s.MemOk → (k a s).state.MemOk) : (r.bind k).state.MemOk := by
  cases r with
  | ok a s => exact hk a s h
  | no s => exact h
  | far vas s => exact h

theorem MemOk.readPieces (h : s.MemOk) {asid : Nat} {got : SMap Nat} {ps : List (Nat × Nat)} :
    (s.readPieces asid got ps).state.MemOk := by
  induction ps generalizing s with
  | nil => exact h
  | cons p ps ih =>
    unfold State.readPieces
    split
    · exact h
    split
    next heq =>
      have ht := h.translate.fst heq
      extract_lets s' here
      have hs : s'.MemOk := .ite ht.countAcc ht
      refine .bind ?_ fun _ _ h => .bind (ih h) fun _ _ h => h
      dsimp only [here]
      split
      · split <;> exact ht
      split
      · split <;> exact hs
      · split
        · exact hs
        · split
          · exact hs
          · split <;> exact hs
    next heq => exact h.translate.fst heq

theorem MemOk.readVa (h : s.MemOk) {asid : Nat} {got : SMap Nat} {va n : Nat} : (s.readVa asid got va n).state.MemOk := by
  unfold State.readVa
  split
  · exact h
  · exact h.readPieces

theorem MemOk.readTiles (h : s.MemOk) {asid : Nat} {got : SMap Nat} {ts : List (List Byte)} :
    (s.readTiles asid got ts).state.MemOk := by
  induction ts generalizing s with
  | nil => exact h
  | cons g ts ih =>
    unfold State.readTiles
    refine .bind ?_ fun _ _ h => .bind (ih h) fun _ _ h => h
    split
    · exact h
    · exact h.readVa

theorem MemOk.readDesc (h : s.MemOk) {asid : Nat} {got : SMap Nat} {va : Nat} : (s.readDesc asid got va).state.MemOk := by
  refine .bind h.readVa fun hd s h => ?_
  extract_lets nq ns ne tab
  have htab : ∀ s ofs n size, s.MemOk → (tab s ofs n size).state.MemOk := fun s ofs n size h => by
    dsimp only [tab]
    split
    · exact h
    · exact h.readVa
  exact .bind (htab _ _ _ _ h) fun _ _ h => .bind (htab _ _ _ _ h) fun _ _ h => .bind (htab _ _ _ _ h) fun _ _ h =>
    .bind h.readTiles fun _ _ h => h

theorem MemOk.admitDesc (h : s.MemOk) {d : Desc} {vf n : Nat} (e : s.admitDesc d vf = .yes n t) : t.MemOk := by
  unfold State.admitDesc at e
  extract_lets at e
  split at e
  · cases e
  split at e
  · cases e
  split at e
  · cases e
  split at e
  · cases e
  split at e
  · cases e
  next reserved =>
    split at e
    · cases e
    next entered =>
      split at e
      · cases e
      split at e
      · cases e
      · extract_lets s' at e
        have hs : s'.MemOk := .dropHome <| (h.reserve reserved).enterCands entered
        rw [← (Admit.yes.inj e).2]
        exact hs.same rfl

theorem MemOk.admission (h : s.MemOk) {crewAsid : Nat} {got : SMap Nat} {va vf : Nat} :
    (s.admission crewAsid got va vf).1.MemOk := by
  have hr := h.readDesc (asid := crewAsid) (got := got) (va := va)
  unfold State.admission
  split
  all_goals
    next heq =>
      rw [heq] at hr
      exact hr

theorem MemOk.admission_yes (h : s.MemOk) {crewAsid : Nat} {got : SMap Nat} {va vf n : Nat}
    (e : s.admission crewAsid got va vf = (u, .yes n t)) : t.MemOk := by
  have hr := h.readDesc (asid := crewAsid) (got := got) (va := va)
  unfold State.admission at e
  split at e
  · cases e
  · cases e
  next heq =>
    rw [heq] at hr
    exact hr.admitDesc (congrArg Prod.snd e)

theorem MemOk.execAdmissionDecision (h : s.MemOk) {va vf} : KeptMem (execAdmissionDecision w va vf s) := by
  refine .next ?_
  split
  · refine .ite (h.same (by rfl)) ?_
    split
    next heq => exact .giveAnswer (h.admission.fst heq)
    next heq => exact .giveAnswer (h.admission_yes heq)
    next heq => exact .same (h.admission.fst heq) (by rfl)
    next heq => exact .readWords (h.admission.fst heq)
  · exact h

end Sys2Proof.Machine.State
end

section
/-! SUPPORT. The canonical form of the two memories through the host link, invalidations, the entry port and checkpoints. -/

namespace Sys2Proof.Machine.State

variable {s t : State} {x : Ctx} {w : Who}

/-! ## Services and enqueues of the host -/

theorem MemOk.setVf (h : s.MemOk) {vf ofs v : Nat} : (s.setVf vf ofs v).MemOk := h.setReg

theorem MemOk.hostSync (h : s.MemOk) {pa n : Nat} : (s.hostSync pa n).MemOk := h.cleanHome

theorem MemOk.execServiceRecordPost (h : s.MemOk) {vf} : KeptMem (execServiceRecordPost vf s) := by
  refine .next ?_
  split
  · exact h
  · refine .ite h ?_
    extract_lets +onlyGivenNames head a s₁ s₂
    have h₁ : s₁.MemOk := by
      dsimp only [s₁]
      split
      · exact h.escort
      · exact h
    have h₂ : s₂.MemOk := (h₁.writeHost _ _).same (by rfl)
    clear_value s₂
    exact .setVf <| .ite (h₂.same (by rfl)) h₂

theorem MemOk.execSvctail (h : s.MemOk) {vf v} : KeptMem (execSvctail vf v s) := .next <| .ite h h.setVf.vfTook

theorem MemOk.execSvcval (h : s.MemOk) {vf v} : KeptMem (execSvcval vf v s) := by
  refine .next ?_
  dsimp only
  split
  · exact h
  · exact .ite h <| .vfTook <| .giveAnswer h.setSvcOpen

theorem MemOk.setHenq (h : s.MemOk) {l : List (Nat × Word)} : ({ s with henq := l } : State).MemOk := h.same rfl

theorem MemOk.execHenq (h : s.MemOk) {vf v} : KeptMem (execHenq vf v s) := .next <| .ite h <| .send h.setVf.vfTook.setHenq

theorem MemOk.execHenqRecordRead (h : s.MemOk) {vf v} : KeptMem (execHenqRecordRead vf v s) := by
  refine .next ?_
  dsimp only
  split
  · exact h.setHenq.hstat
  · exact .ite h.setHenq.hstat <| .unlessMoves h <| .ite h.setHenq.hostSync.hstat h.setHenq.hostSync.send

/-! ## Invalidations -/

theorem MemOk.letGo (h : s.MemOk) {p : Held → Bool} : (s.letGo p).MemOk := h.same rfl

theorem MemOk.dropXlate (h : s.MemOk) {v : Inv} : (s.dropXlate v).MemOk := h.same rfl

theorem MemOk.dropCode (h : s.MemOk) {v : Inv} : (s.dropCode v).MemOk := h.same rfl

theorem MemOk.purge (h : s.MemOk) {v : Inv} : (s.purge v).MemOk := by
  have hd : (s.dropHome v.hitsBlk).MemOk := h.dropHome
  unfold State.purge
  generalize s.dropHome v.hitsBlk = t at hd
  exact hd.same rfl

theorem MemOk.reback (h : s.MemOk) {v : Inv} : (s.reback v).MemOk := by
  unfold State.reback
  extract_lets +onlyGivenNames new far go comes s₁
  have h₁ : s₁.MemOk := .dropHome h.mapReqs
  clear_value s₁
  exact .foldl (fun _ _ h => h.dirFill) (h₁.same (by rfl))

theorem MemOk.setInv (h : s.MemOk) {v : Option Inv} : ({ s with inv := v } : State).MemOk := h.same rfl

theorem MemOk.tlbinv (h : s.MemOk) {scope : Nat} {val : Word} : (s.tlbinv scope val).MemOk := .setInv h.setFld

theorem MemOk.execTlbinvRange (h : s.MemOk) {val} : KeptMem (execTlbinvRange val s) := .next <| .ite h.setFld h.tlbinv

theorem MemOk.setHeld (h : s.MemOk) {l : List Held} : ({ s with held := l } : State).MemOk := h.same rfl

theorem MemOk.execInvalidationComplete (h : s.MemOk) : KeptMem (execInvalidationComplete s) := by
  refine .next ?_
  split
  · exact h
  · exact .ite h <| .setHeld <| .letGo <| .setInv <| .setFld <| .ite h.dropCode.dropXlate.purge h.dropCode.dropXlate.reback

/-! ## The entry port -/

theorem MemOk.port (h : s.MemOk) {again : Instr} {f : Word → Word → Option Word} : (s.port again f).MemOk := by
  refine .ite h.setFld <| .ite h.setFld.send <| .setFld <| .setReg ?_
  split
  · exact h.setHbm64
  · exact h

/-! ## Checkpoints -/

theorem MemOk.setUnits (h : s.MemOk) {l : SMap Core} {cs : List Crew} : ({ s with cores := l, crews := cs } : State).MemOk :=
  h.same rfl

theorem MemOk.raiseAll (h : s.MemOk) {n : Nat} : (s.raiseAll n).MemOk := .setUnits h.raiseFloor

theorem MemOk.setCk (h : s.MemOk) {k : Option Ck} : ({ s with ck := k } : State).MemOk := h.same rfl

theorem MemOk.execCheckpointStart (h : s.MemOk) {v} : KeptMem (execCheckpointStart v s) :=
  .next <| .ite h <| .ite h.setFld <| .setCk <| .setReg <| .setFld <| .setFld h.raiseAll

/-- A checkpoint ends, and nothing waits for answers to it. -/
theorem MemOk.clearCk (h : s.MemOk) {l : List Seg} : ({ s with ck := none, segs := l } : State).MemOk := h.same rfl

theorem MemOk.ckEnd (h : s.MemOk) {result : Nat} : (s.ckEnd result).MemOk := .letGo <| .clearCk h.setFld

theorem MemOk.execCheckpointDrained (h : s.MemOk) : KeptMem (execCheckpointDrained s) := by
  refine .next ?_
  split
  · exact h
  · refine .ite h ?_
    split
    · exact h.ckEnd
    · exact .letGo h.setCk

/-- An operation that may fail, repeated along a list. -/
theorem MemOk.foldlBind {α : Type} {f : State → α → Option State} (hf : ∀ s a t, s.MemOk → f s a = some t → t.MemOk) {l : List α}
    (h : s.MemOk) (e : l.foldl (fun acc a => acc.bind fun s => f s a) (some s) = some t) : t.MemOk := by
  suffices ∀ acc : Option State, (∀ s, acc = some s → s.MemOk) →
      l.foldl (fun acc a => acc.bind fun s => f s a) acc = some t → t.MemOk from
    this (some s) (fun _ e => Option.some.inj e ▸ h) e
  clear e
  induction l with
  | nil => exact fun _ hacc => hacc t
  | cons a l ih =>
    refine fun acc hacc => ih _ fun u hu => ?_
    obtain ⟨s, hs, hu⟩ := Option.bind_eq_some_iff.1 hu
    exact hf s a u (hacc s hs) hu

theorem MemOk.logWrite (h : s.MemOk) {pos : Nat} {bs : List Byte} (e : s.logWrite pos bs = some t) : t.MemOk := by
  unfold State.logWrite at e
  dsimp only at e
  split at e
  · split at e
    · cases e
    · rw [← Option.some.inj e]
      exact h.writeHost _ _
  · refine h.foldlBind (fun s k t h e => ?_) e
    obtain ⟨r, -, rfl⟩ := Option.map_eq_some_iff.1 e
    exact .sendSeg h.newTag

theorem MemOk.ckRead (h : s.MemOk) {k : Ck} {y : Xl} {size : Nat} : (s.ckRead k y size).MemOk := by
  unfold State.ckRead
  dsimp only
  split
  · exact .sendSeg h.newTag.setCk
  · exact h.same rfl

theorem MemOk.ckLog (h : s.MemOk) {k : Ck} {bs : List Byte} {done : Ck → State → State}
    (hdone : ∀ k s, s.MemOk → (done k s).MemOk) : (s.ckLog k bs done).MemOk := by
  unfold State.ckLog
  split
  · exact h.ckEnd
  next heq => exact .ite (hdone _ _ (h.logWrite heq)) (h.logWrite heq).setCk

theorem MemOk.ckPageDone (h : s.MemOk) {p : Word} {at_ asid va lvl : Nat} {rest : List (Nat × Nat × Nat)} {k : Ck} :
    (s.ckPageDone p at_ asid va lvl rest k).MemOk := .letGo <| .setCk <| .setFld h.setHbm64.dropXlate

theorem MemOk.execCheckpointPageWritten (h : s.MemOk) : KeptMem (execCheckpointPageWritten s) := by
  refine .next ?_
  split
  · exact h
  · refine .ite h ?_
    split
    · exact .ite h.ckEnd <| .ite h <| .ite h.ckEnd <| .ckLog h fun _ _ h => h.ckEnd
    · split
      · exact .ite h <| .ite h.ckPageDone <| .ite h.ckEnd <| .ite h.ckRead <|
          .ckLog (.foldl (fun _ _ h => h.postFlt) h) fun _ _ h => h.ckPageDone
      · exact h.ckEnd

theorem MemOk.ckGot (h : s.MemOk) {r : PeerRes} : (s.ckGot r).MemOk := by
  unfold State.ckGot
  split
  · exact h
  · dsimp only
    split
    · exact h.setCk
    · exact .postFlt h.setCk
    · exact h.same rfl

theorem MemOk.ckLogged (h : s.MemOk) {ok : Bool} : (s.ckLogged ok).MemOk := by
  unfold State.ckLogged
  split
  · exact h
  · exact .ite h.setCk h.ckEnd

/-! ## The companion processor's accesses -/

theorem MemOk.dirConflict (h : s.MemOk) {pa : Nat} : (s.dirConflict pa).MemOk := by
  unfold State.dirConflict
  split
  · exact h
  · exact .ite (h.same (by rfl)) <| .same (.ite h.newTag (.reclaimDir h.newTag)) (by rfl)

theorem MemOk.execCompanionRead (h : s.MemOk) {pa n} : KeptMem (execCompanionRead pa n s) := by
  refine .next <| .ite h <| .ite (h.same (by rfl)) ?_
  split
  · exact h
  · exact .ite h <| .unlessMoves h h.cleanHome.dirConflict

theorem MemOk.cleanBytes (h : s.MemOk) {pa n : Nat} : (s.cleanBytes pa n).MemOk :=
  .same (.foldl (fun _ _ h => .foldl (fun _ _ h => h.writeBack) h) h) (by rfl)

theorem MemOk.markWrite (h : s.MemOk) {va : Nat} : (s.markWrite va).MemOk := .raiseFloor <| .updSlice h.updSlice

theorem MemOk.execCompanionWrite (h : s.MemOk) {pa bs} : KeptMem (execCompanionWrite pa bs s) := by
  refine .next <| .ite h <| .ite (h.same (by rfl)) <| .ite h.winStore ?_
  split
  · exact h.hold
  · refine .unlessMoves h ?_
    have put : ∀ {l : List (Nat × Nat)}, (l.foldl (fun (s : State) (p : Nat × Nat) => if p.2 = 16 then s.setPoison .host p.1 false else s)
        { s.newTag.2.cleanBytes pa bs.length with host := (s.newTag.2.cleanBytes pa bs.length).host.write pa bs }).MemOk :=
      .foldl (fun _ _ h => .ite h.setPoison h) <| .writeHost (.cleanBytes h.newTag) pa bs
    exact .ite put.raiseFloor <| .dirConflict <| .foldl (fun _ _ h => .ite (.foldl (fun _ _ h => h.markWrite) h) <|
      .foldl (fun _ _ h => .foldl (fun _ _ h => .raiseFloor <| .updSlice <| .updSlice h.escort) h) h) put

theorem MemOk.execRegionMerge (h : s.MemOk) {base} : KeptMem (execRegionMerge base s) := by
  refine .next ?_
  split
  · exact h
  · exact h.same rfl

end Sys2Proof.Machine.State
end

section
/-! SUPPORT. The canonical form of the two memories through the fabric: segments, peers, messages, bursts and links. -/

namespace Sys2Proof.Machine.State

variable {s t : State} {x : Ctx} {w : Who}

/-! ## Segments -/

theorem MemOk.setSegs (h : s.MemOk) {l : List Seg} : ({ s with segs := l } : State).MemOk := h.same rfl

theorem MemOk.setOutbox (h : s.MemOk) {l : List OutMsg} : ({ s with outbox := l } : State).MemOk := h.same rfl

theorem MemOk.setTransit (h : s.MemOk) {l : List TorusSeg} : ({ s with transit := l } : State).MemOk := h.same rfl

theorem MemOk.setQueues (h : s.MemOk) {l : List Queue} : ({ s with queues := l } : State).MemOk := h.same rfl

theorem MemOk.winCount (h : s.MemOk) {ofs n : Nat} : (s.winCount ofs n).MemOk := h.same rfl

theorem MemOk.portCount (h : s.MemOk) {port kind n : Nat} : (s.portCount port kind n).MemOk := h.same rfl

theorem MemOk.putSeg (h : s.MemOk) {g : Seg} {payload : List Byte} : (s.putSeg g payload).MemOk := h.same rfl

theorem MemOk.failSeg (h : s.MemOk) {g : Seg} : (s.failSeg g).MemOk := by
  have left : ∀ {l : List Seg} {port kind n : Nat}, ({ s with segs := l } : State).portCount port kind n |>.MemOk :=
    h.setSegs.portCount
  unfold State.failSeg
  dsimp only
  split
  · split
    · exact left.copyBreak
    · exact left.send
  · exact left.send
  · exact left.send
  · exact left.atReply
  · exact left.ckLogged
  · exact left.ckGot
  · exact left.copyBreak.copyAcked

theorem MemOk.leaveSeg (h : s.MemOk) {g : Seg} : (s.leaveSeg g).MemOk := by
  unfold State.leaveSeg
  dsimp only
  split
  · exact .ite h h.failSeg
  · exact .ite h h.setSegs.putSeg

theorem MemOk.passOn (h : s.MemOk) {m : TorusSeg} : (s.passOn m).MemOk := by
  unfold State.passOn
  split
  · exact h
  · exact .ite h.setOutbox <| .ite h.setTransit h.portCount.setOutbox

theorem MemOk.leaveSegs (h : s.MemOk) : s.leaveSegs.MemOk :=
  .foldl (fun _ _ h => h.passOn) <| .setTransit <| .foldl (fun _ _ h => h.leaveSeg) h

theorem MemOk.failRecs (h : s.MemOk) {port : Nat} {p : Nat × Nat × Nat → Bool} : (s.failRecs port p).MemOk := h.portCount.setQueues

theorem MemOk.burstLost (h : s.MemOk) {tag : Nat} : (s.burstLost tag).MemOk := by
  unfold State.burstLost
  split
  · exact h.failRecs
  · exact h

theorem MemOk.failPort (h : s.MemOk) {port : Nat} : (s.failPort port).MemOk := .failRecs <| .foldl (fun _ _ h => h.failSeg) h

theorem MemOk.execFabcfg (h : s.MemOk) {val} : KeptMem (execFabcfg val s) := .next <| .ite (.ite h.setReg h) <| .ite h h.setReg

theorem MemOk.planeSwitch (h : s.MemOk) {plane : Nat} {dead : Bool} : (s.planeSwitch plane dead).MemOk := .ite h (h.same (by rfl))

theorem MemOk.setPlaneSw (h : s.MemOk) {l : List (Nat × Bool)} : ({ s with planeSw := l } : State).MemOk := h.same rfl

theorem MemOk.execPlaneSwitchDrained (h : s.MemOk) {plane} : KeptMem (execPlaneSwitchDrained plane s) := by
  refine .next ?_
  split
  · exact h
  · exact .ite h <| .leaveSegs <| .setFld h.setPlaneSw

/-! ## Requests of peers, and their answers -/

theorem MemOk.peerAnswer (h : s.MemOk) {m : PeerReq} {r : PeerRes} : (s.peerAnswer m r).MemOk := h.portCount.setOutbox

theorem MemOk.homeBytes (h : s.MemOk) {asid : Nat} {ps : List (Nat × Nat)} : (s.homeBytes asid ps).1.MemOk := by
  induction ps generalizing s with
  | nil => exact h
  | cons p ps ih =>
    unfold State.homeBytes
    refine ih ?_
    split
    next heq => exact .ensureHome (h.translate.fst heq)
    next heq => exact h.translate.fst heq

/-- As `MemOk.atomHost`, for an atomic of a peer. -/
theorem MemOk.peerAtom (h : s.MemOk) {asid va n : Nat} {op : AtomOp} {b : Word} {y : Xl} {old : Word}
    (e : s.peerAtom asid va n op b y = .ok (old, t)) : t.MemOk := by
  suffices ∀ go, go = State.peerAtom → go s asid va n op b y = .ok (old, t) → t.MemOk from this _ rfl e
  intro go hgo e
  delta State.peerAtom at hgo
  subst hgo
  beta_reduce at e
  extract_lets +onlyGivenNames i f at e
  split at e
  · extract_lets +onlyGivenNames s₁ at e
    have h₁ : s₁.MemOk := h.cleanBytes
    split at e
    · cases e
    split at e
    · cases e
    extract_lets +onlyGivenNames s₂ s₃ was at e
    have h₂ : s₂.MemOk := h₁.escort.escort
    have h₃ : s₃.MemOk := .ite h₂.countAcc h₂
    clear_value s₃
    split at e
    · rw [← (Prod.mk.inj (Except.ok.inj e)).2]
      exact h₃
    · extract_lets +onlyGivenNames le wt at e
      generalize hs : s₃.updSlice i _ = s₄ at e
      have h₄ : s₄.MemOk := hs ▸ h₃.updSlice
      rw [← (Prod.mk.inj (Except.ok.inj e)).2]
      refine .raiseFloor ?_
      split
      · exact .setHome (h₄.writeHost _ _)
      · exact .updSlice (h₄.writeHost _ _)
  · extract_lets +onlyGivenNames s₁ at e
    have h₁ : s₁.MemOk := h.ensureHome
    clear_value s₁
    split at e
    · cases e
    split at e
    · cases e
    extract_lets +onlyGivenNames was at e
    split at e
    · rw [← (Prod.mk.inj (Except.ok.inj e)).2]
      exact h₁
    · rw [← (Prod.mk.inj (Except.ok.inj e)).2]
      exact .raiseFloor h₁.storeBlk

theorem MemOk.peerCounted (h : s.MemOk) {m : PeerReq} : (s.peerCounted m).2.MemOk := by
  unfold State.peerCounted
  split
  · exact h
  · exact .newTag h.portCount

theorem MemOk.peerTurn (h : s.MemOk) {asid va : Nat} {m : PeerReq} {k : Unit → State} (hk : (k ()).MemOk) :
    (s.peerTurn asid va m k).MemOk := by
  unfold State.peerTurn
  split
  · exact h.hold
  · exact .ite (h.same (by rfl)) hk

theorem MemOk.execPeerRequestArrival (h : s.MemOk) {m} : KeptMem (execPeerRequestArrival m s) := by
  refine .next <| .ite h.peerAnswer ?_
  have hc := h.peerCounted (m := m)
  dsimp only
  refine .peerTurn hc <| .ite hc.hold <| .unlessBarred hc ?_
  split
  next heq =>
    have ht := hc.translate.fst heq
    exact .ite ht.hold ht.peerAnswer
  next heq => exact .peerAnswer (hc.translate.fst heq)
  next heq =>
    have ht := hc.translate.fst heq
    refine .ite ht.peerAnswer <| .ite ht.hold ?_
    split
    · exact ht.homeBytes.peerAnswer
    · split
      · exact ht.peerAnswer
      next heq => exact .peerAnswer <| .raiseFloor (ht.homeWrite heq)
    · refine .ite ht.peerAnswer ?_
      split
      · exact ht.peerAnswer
      next heq => exact .peerAnswer (ht.peerAtom heq)

theorem MemOk.dropSeg (h : s.MemOk) {tag : Nat} : (s.dropSeg tag).MemOk := .ite h.setSegs.leaveSegs h.setSegs

theorem MemOk.execPeerReply (h : s.MemOk) {m} : KeptMem (execPeerReply m s) := by
  refine .next <| .ite h ?_
  split
  · exact .ite h.burstLost h
  · refine .ite (.ite h.failSeg.leaveSegs h.failSeg) ?_
    extract_lets +onlyGivenNames s₁ s₂
    have h₁ : s₁.MemOk := h.dropSeg
    have h₂ : s₂.MemOk := by
      dsimp only [s₂]
      split
      · exact h₁.portCount
      · exact h₁
    clear_value s₂
    split
    · exact h₂
    · exact h₂.portCount.send
    · exact h₂.send
    · split
      · exact h₂.copyBreak
      · exact h₂.loadLost
    · exact h₂
    · exact h₂.send
    · exact h₂.send
    · exact h₂.ckLogged
    · exact h₂.portCount.ckGot
    · exact h₂.send
    · exact h₂.send
    · exact h₂.atReply
    · exact h₂.atReply
    · exact h₂.atReply
    · exact h₂.copyBreak.copyAcked
    · exact h₂.copyAcked

/-! ## Writes of frames -/

theorem MemOk.frameWrite (h : s.MemOk) {pa : Nat} {bs : List Byte} : (s.frameWrite pa bs).MemOk := by
  unfold State.frameWrite
  exact .foldl (fun _ _ h => .ite (.foldl (fun _ _ h => h.markWrite) <| .ite (h.writeHbm _ _).setPoison (h.writeHbm _ _)) <|
    .foldl (fun _ _ h => .raiseFloor <| .updSlice h.updSlice) h) h.newTag

theorem MemOk.hbmPut (h : s.MemOk) {pa : Nat} {bs : List Byte} : (s.hbmPut pa bs).MemOk :=
  .foldl (fun _ _ h => h.setPoison) <| .writeHbm h.frameWrite pa _

theorem MemOk.execMulticastWriteArrival (h : s.MemOk) {m} : KeptMem (execMulticastWriteArrival m s) := by
  refine .next <| .ite h.setOutbox ?_
  split
  · exact h.hold
  · exact .unlessMoves h <| .setOutbox <| .ite h.portCount.frameWrite h.portCount

theorem MemOk.execTorusForward (h : s.MemOk) {m} : KeptMem (execTorusForward m s) := by
  refine .next <| .ite h ?_
  split
  · exact h
  · exact h.portCount.passOn

/-! ## Messages -/

theorem MemOk.msgDrop (h : s.MemOk) : s.msgDrop.MemOk := h.setFld

theorem MemOk.unlessLands (h : s.MemOk) {tag n : Nat} {e : Instr} {k : State} (hk : k.MemOk) : (s.unlessLands tag n e k).MemOk := by
  unfold State.unlessLands
  split
  · exact hk
  · refine .unlessShut h ?_
    split
    · exact hk
    · exact h.unlessBarred hk

theorem MemOk.landMessage (h : s.MemOk) {port src tag : Nat} {payload : List Byte} {bad : List Nat} :
    (s.landMessage port src tag payload bad).MemOk := by
  unfold State.landMessage
  split
  · exact h.msgDrop
  dsimp only
  split
  · exact h.msgDrop
  split
  · exact h.msgDrop
  next heq =>
    have hw : ∀ {wt : Nat}, (State.raiseFloor _ wt).MemOk := (h.homeWrite heq).raiseFloor
    split
    next heq => exact .updQueue (MemOk.appendOutside (.foldl (fun _ _ h => h.setHome) (.ite hw.escort hw)) |>.fst heq)
    next heq => exact .msgDrop (MemOk.appendOutside (.foldl (fun _ _ h => h.setHome) (.ite hw.escort hw)) |>.fst heq)

theorem MemOk.execTaggedMessageArrival (h : s.MemOk) {m} : KeptMem (execTaggedMessageArrival m s) :=
  .next <| .ite h.setOutbox <| .unlessLands h <| .setOutbox h.portCount.landMessage

theorem MemOk.setMsg (h : s.MemOk) {m : Option Nat} : ({ s with msg := m } : State).MemOk := h.same rfl

theorem MemOk.execHmsga (h : s.MemOk) {val} : KeptMem (execHmsga val s) := .next <| .ite h <| .ite h.msgDrop h.setMsg.send

theorem MemOk.execHostMessageDelivery (h : s.MemOk) {val} : KeptMem (execHostMessageDelivery val s) := by
  refine .next ?_
  split
  · exact h
  · exact .unlessLands h <| .unlessMoves h h.setMsg.hostSync.landMessage

/-! ## Queues that are bound to those of other modules -/

theorem MemOk.segDone (h : s.MemOk) {result : Nat} : (s.segDone result).MemOk := h.setFld

theorem MemOk.bindSeg (h : s.MemOk) {val : Word} {ok : Queue → Bool} {f : Queue → Queue} : (s.bindSeg val ok f).MemOk := by
  unfold State.bindSeg
  split
  · exact h.segDone
  · exact .ite h.segDone h.updQueue.segDone

theorem MemOk.execReceivingSummary (h : s.MemOk) {m} : KeptMem (execReceivingSummary m s) := by
  refine .next ?_
  split
  · split
    · exact h
    · exact .ite h h.setOutbox
  · exact .ite h h.updQueue

theorem MemOk.execPortForwardBurst (h : s.MemOk) {port} : KeptMem (execPortForwardBurst port s) := by
  refine .next <| .ite h ?_
  extract_lets +onlyGivenNames pick
  clear_value pick
  split
  · exact h
  · extract_lets +onlyGivenNames recs
    have hr : recs.1.MemOk := by
      refine .foldlFst (fun _ _ h => ?_) h
      exact h.homeBytes
    clear_value recs
    exact .setOutbox <| .portCount <| .updQueue hr.newTag

theorem MemOk.burstAck (h : s.MemOk) {m : FwdRec} {q : Queue} : (s.burstAck m q).MemOk := h.setOutbox

theorem MemOk.execForwardedRecordArrival (h : s.MemOk) {m} : KeptMem (execForwardedRecordArrival m s) := by
  refine .next ?_
  split
  · exact h
  · refine .ite h <| .unlessShut h <| .ite h.portCount.burstAck ?_
    have hc : ∀ {port which n : Nat}, (s.portCount port which n).MemOk := h.portCount
    extract_lets clk win took
    have htook : ∀ s wt f, s.MemOk → (took s wt f).MemOk := fun _ _ _ h =>
      .burstAck <| .wakeClaims <| .flowRecs <| .updQueue h.raiseFloor
    split
    next heq =>
      split at heq
      · exact htook _ _ _ (hc.homeWrite heq)
      · cases heq
    · split
      next heq => exact htook _ _ _ (hc.panPlace.fst heq)
      next heq => exact hc.panPlace.fst heq

theorem MemOk.execForwardAcknowledgement (h : s.MemOk) {queue seqs} : KeptMem (execForwardAcknowledgement queue seqs s) := by
  refine .next ?_
  split
  · exact h
  · exact .ite h <| .unlessMoves h h.updQueue.releaseRecs

/-! ## Links -/

theorem MemOk.setRetrain (h : s.MemOk) {m : SMap Retrain} : ({ s with retrain := m } : State).MemOk := h.same rfl

theorem MemOk.execLinkError (h : s.MemOk) {l} : KeptMem (execLinkError l s) := by
  refine .next <| .ite h <| .ite h.post ?_
  dsimp only
  split
  · exact h.setRetrain.portCount.setReg
  · exact h.setRetrain

theorem MemOk.linkFree (h : s.MemOk) : s.linkFree.MemOk := h.same rfl

theorem MemOk.execRetrainComplete (h : s.MemOk) {l} : KeptMem (execRetrainComplete l s) := by
  refine .next ?_
  dsimp only
  split
  · exact h.setRetrain.leaveSegs
  · exact h.setRetrain.leaveSegs.linkFree.flowAll

theorem MemOk.setPorts (h : s.MemOk) {m : SMap Retrain} {d : BitVec 16} : ({ s with retrain := m, downing := d } : State).MemOk :=
  h.same rfl

theorem MemOk.execPortDown (h : s.MemOk) {port} : KeptMem (execPortDown port s) := by
  refine .next <| .ite h ?_
  have cut : ∀ {a b : Nat} {v : Word} {m : SMap Retrain} {d : BitVec 16},
      (({ s.setFld 0x338 a b 0 with retrain := m, downing := d } : State).setReg (0xA40 + 8 * port) v).MemOk :=
    .setReg h.setFld.setPorts
  exact .leaveSegs <| .failPort <| .ite cut cut.planeSwitch

theorem MemOk.execPortTrain (h : s.MemOk) {port} : KeptMem (execPortTrain port s) := .next <| .ite h (h.same (by rfl))

theorem MemOk.execPortTakeDown (h : s.MemOk) {port} : KeptMem (execPortTakeDown port s) := by
  refine .next <| .ite h <| .ite (h.same (by rfl)) ?_
  have cut : ∀ {a b : Nat} {v : Word} {m : SMap Retrain} {d : BitVec 16},
      ((({ s with downing := d, retrain := m } : State).setFld 0x338 a b 0).setReg (0xA40 + 8 * port) v).MemOk :=
    .setReg <| .setFld h.setPorts
  exact .leaveSegs <| .ite cut cut.planeSwitch

theorem MemOk.execPortTrained (h : s.MemOk) {port} : KeptMem (execPortTrained port s) :=
  .next <| .ite h <| .leaveSegs <| .setFld (h.same (by rfl))

theorem MemOk.setLinkDown (h : s.MemOk) {z : Option Nat} {m : SMap Retrain} {l : List Instr} {cs : List Crew} :
    ({ s with zdown := z, retrain := m, linkWait := l, crews := cs } : State).MemOk := h.same rfl

theorem MemOk.execZenvexLinkDown (h : s.MemOk) : KeptMem (execZenvexLinkDown s) := .next <| .ite h h.setFld.setLinkDown

theorem MemOk.setZdown (h : s.MemOk) {z : Option Nat} : ({ s with zdown := z } : State).MemOk := h.same rfl

theorem MemOk.execZenvexLinkUp (h : s.MemOk) : KeptMem (execZenvexLinkUp s) := .next <| .flowAll <| .linkFree h.setFld.setZdown

end Sys2Proof.Machine.State
end

section
/-! SUPPORT. The canonical form of the two memories through faults, repair and the start of the module. -/

namespace Sys2Proof.Machine.State

variable {s t : State} {x : Ctx} {w : Who}

/-! ## Fault records -/

theorem MemOk.setFatal (h : s.MemOk) : ({ s with fatal := true } : State).MemOk := h.same rfl

theorem MemOk.execZenvexDownTimeout (h : s.MemOk) : KeptMem (execZenvexDownTimeout s) := by
  refine .next ?_
  split
  · exact h
  · exact .ite h h.setFatal.postFlt

/-- A fault record goes to host memory. -/
theorem MemOk.execFaultRecordPost (h : s.MemOk) : KeptMem (execFaultRecordPost s) := by
  refine .next ?_
  split
  · exact h
  · refine .ite h ?_
    extract_lets +onlyGivenNames seq a s₁ s₂ s₃ s₄
    have h₁ : s₁.MemOk := h.escort
    have h₂ : s₂.MemOk := (h₁.writeHost _ _).same (by rfl)
    have h₃ : s₃.MemOk := .ite h₂.setOutbox h₂
    have h₄ : s₄.MemOk := by
      dsimp only [s₄]
      split
      · exact h₃.updCrew
      · exact h₃
    exact h₄.setReg

theorem MemOk.setFltWait (h : s.MemOk) {l : List FltRec} : ({ s with fltWait := l } : State).MemOk := h.same rfl

theorem MemOk.trimFlt (h : s.MemOk) : s.trimFlt.MemOk := .ite h <| .ite h <| .setReg h.setFltWait

theorem MemOk.execFlttail (h : s.MemOk) {val} : KeptMem (execFlttail val s) := .next <| .ite h h.setReg

theorem MemOk.execFltreplay (h : s.MemOk) {val} : KeptMem (execFltreplay val s) :=
  .next <| .ite h <| .foldl (fun _ _ h => .ite (.copiesOnward <| .updCrew h.newTag) (.updCrew h.newTag)) h.setReg

theorem MemOk.failModule (h : s.MemOk) {die : Nat} : (s.failModule die).MemOk := h.setFatal.postFlt.post

theorem MemOk.mapFlying (h : s.MemOk) {f : Instr → Instr} : (s.mapFlying f).MemOk := h.same rfl

theorem MemOk.execDataErrorDetected (h : s.MemOk) {e} : KeptMem (execDataErrorDetected e s) := by
  refine .next ?_
  split
  · exact .ite h.updSlice h
  · exact .postFlt h.updSlice
  · split
    · exact h
    · exact .postFlt h.updSlice
  · exact .postFlt h.updCore
  · exact .postFlt h.mapFlying
  · exact h.failModule
  · split
    · exact h
    · dsimp only
      split
      · exact h.postFlt
      · exact h.postFlt.drainGraph.abortGraph
  · exact h.setPoison.postFlt
  · exact h.setPoison.postFlt

theorem MemOk.setWaits (h : s.MemOk) {o : List (Nat × Nat × Who)} {l : List FltRec} :
    ({ s with svcOpen := o, fltWait := l } : State).MemOk := h.same rfl

theorem MemOk.execContextError (h : s.MemOk) {crew} : KeptMem (execContextError crew s) := by
  refine .next ?_
  split
  · exact h
  · exact .postFlt <| .foldl (fun _ _ h => h.releaseRecs) <| .setWaits <| .dropCrew h.saveCrew

/-! ## Retirement -/

theorem MemOk.repair (h : s.MemOk) {e : LogEnt} : (s.repair e).MemOk := .ite h (h.same (by rfl))

theorem MemOk.setRetiring (h : s.MemOk) {r : Option Retire} : ({ s with retiring := r } : State).MemOk := h.same rfl

theorem MemOk.setRetWait (h : s.MemOk) {l : List Retire} : ({ s with retWait := l } : State).MemOk := h.same rfl

theorem MemOk.retireEnd (h : s.MemOk) {result : Nat} : (s.retireEnd result).MemOk := by
  unfold State.retireEnd
  extract_lets +onlyGivenNames s₀ s₁
  have h₁ : s₁.MemOk := h.setFld.setRetiring
  clear_value s₁
  split
  · exact h₁
  · exact h₁.setRetWait.post

theorem MemOk.retireBegin (h : s.MemOk) {r : Retire} : (s.retireBegin r).MemOk := .setRetiring h.setReg

theorem MemOk.retireAsk (h : s.MemOk) {r : Retire} {k : State → State} (hk : (k s).MemOk) : (s.retireAsk r k).MemOk :=
  .ite (.ite h h.setRetWait) hk

theorem MemOk.execCoreRetire (h : s.MemOk) {val reason} : KeptMem (execCoreRetire val reason s) :=
  .next <| .retireAsk h <| .ite h.retireEnd <| .ite h.retireBegin h.retireBegin.post

theorem MemOk.reroute (h : s.MemOk) {node : Nat} : (s.reroute node).MemOk := h.same rfl

theorem MemOk.setDeadCores (h : s.MemOk) {l : List Nat} : ({ s with deadCores := l } : State).MemOk := h.same rfl

theorem MemOk.setDeadSpares (h : s.MemOk) {l : List Nat} : ({ s with deadSpares := l } : State).MemOk := h.same rfl

theorem MemOk.setDraw (h : s.MemOk) {n : Nat} : ({ s with draw := n } : State).MemOk := h.same rfl

theorem MemOk.setKeepers (h : s.MemOk) {l : List Keeper} : ({ s with keepers := l } : State).MemOk := h.same rfl

theorem MemOk.loseSpare (h : s.MemOk) {k reason : Nat} : (s.loseSpare k reason).MemOk := .setDeadCores h.repair

theorem MemOk.execCoreRetireDone (h : s.MemOk) : KeptMem (execCoreRetireDone s) := by
  refine .next ?_
  split
  · exact h
  · have tested : ∀ {c : Prop} [Decidable c] {n k r : Nat} {e : LogEnt},
        ((if c then ({ s with draw := n } : State).loseSpare k r else { s with draw := n }).repair e).MemOk :=
      .repair <| .ite h.setDraw.loseSpare h.setDraw
    exact .ite h <| .retireEnd <| .postFlt <| .reroute <| .ite tested.updCore tested.updCore.setKeepers

theorem MemOk.execSliceRetire (h : s.MemOk) {val reason} : KeptMem (execSliceRetire val reason s) := by
  refine .next <| .retireAsk h <| .ite h.retireEnd ?_
  split
  · exact h.retireBegin
  · exact .ite h.retireEnd h.failModule

/-- What waited for the slice goes on. -/
theorem MemOk.clearSliceWait (h : s.MemOk) {l : List Instr} : ({ s with todo := l, sliceWait := [], hbmWait := [] } : State).MemOk :=
  (h.same (by rfl))

theorem MemOk.execSliceRetireDone (h : s.MemOk) : KeptMem (execSliceRetireDone s) := by
  refine .next ?_
  split
  · exact h
  · refine .ite h ?_
    split
    · exact h.retireEnd
    · exact .flowAll <| .foldl (fun _ _ h => h.hbmPut) <| .retireEnd <| .postFlt <| .clearSliceWait <| .reroute <|
        .setDeadSpares <| .updSlice h.repair

/-! ## The start -/

theorem MemOk.applyEntry (h : s.MemOk) {e : LogEnt} : (s.applyEntry e).MemOk := by
  unfold State.applyEntry
  extract_lets spare stand
  have hstand : ∀ s i, s.MemOk → (stand s i).MemOk := fun s i h => by
    dsimp only [stand]
    split <;> exact h.updSlice
  refine .ite h <| .ite ?_ <| .ite (.ite (hstand _ _ h) h) ?_
  · split
    · exact h.updCore
    · exact .ite h.setDeadCores h
  · split
    · exact hstand _ _ h.setDeadSpares
    · exact h.setDeadSpares

theorem MemOk.applyMap (h : s.MemOk) : s.applyMap.MemOk := by
  refine .foldl (fun _ _ h => h.applyEntry) <| .foldl (fun _ _ h => ?_) h
  split
  · exact h.updSlice
  · exact h

theorem MemOk.bootRetire (h : s.MemOk) {slice : Bool} {die grp pos spare : Nat} : (s.bootRetire slice die grp pos spare).MemOk :=
  h.repair.applyEntry

theorem MemOk.dropCore (h : s.MemOk) {u : Nat} : (s.dropCore u).MemOk := by
  unfold State.dropCore
  dsimp only
  split
  · exact h.bootRetire
  · exact .ite h.bootRetire h

theorem MemOk.dropSlice (h : s.MemOk) {u : Nat} : (s.dropSlice u).1.MemOk := by
  unfold State.dropSlice
  extract_lets +onlyGivenNames die q used
  clear_value used
  split
  · split
    · exact h.bootRetire
    · exact h
  · exact .ite h.bootRetire h

theorem MemOk.retireFailing (h : s.MemOk) {env : BootEnv} : (s.retireFailing env).1.MemOk := by
  unfold State.retireFailing
  refine .foldlFst (fun _ _ h => ?_) <| .foldl (fun _ _ h => h.dropCore) h
  exact h.dropSlice

theorem MemOk.takeImage (h : s.MemOk) {env : BootEnv} : (s.takeImage env).MemOk := by
  unfold State.takeImage
  split
  · exact h
  · exact h.same rfl

theorem MemOk.acceptImage (h : s.MemOk) {useB : Bool} (e : s.acceptImage useB = some t) : t.MemOk := by
  unfold State.acceptImage at e
  dsimp only at e
  split at e
  · rw [← Option.some.inj e]
    exact h.same rfl
  · cases e

theorem MemOk.setStore (h : s.MemOk) {b : Store} : ({ s with store := b } : State).MemOk := h.same rfl

theorem MemOk.bootStep (h : s.MemOk) {env : BootEnv} {alt : Bool} {n : Nat} : (s.bootStep env alt n).1.MemOk := by
  unfold State.bootStep
  extract_lets o test
  have htest : ∀ b o t, t.MemOk → (test b o t).1.MemOk := fun b o t ht => by
    dsimp only [test]
    split
    · exact ht
    · exact h
  split
  · exact htest _ _ _ h
  · split
    next heq => exact h.setStore.acceptImage heq
    · exact h.setStore
  · exact htest _ _ _ h.applyMap
  · exact htest _ _ _ h
  · split
    · exact h.retireFailing
    · exact htest _ _ _ h
  · exact htest _ _ _ (h.same (by rfl))
  · exact htest _ _ _ h.setFld
  · split
    · exact h.setFld
    · exact htest _ _ _ h.setFld
  · exact h.same rfl

theorem MemOk.bootTime (h : s.MemOk) {n : Nat} : (s.bootTime n).MemOk := h.same rfl

theorem MemOk.keepAlt (h : s.MemOk) {n : Nat} {alt : Bool} : (s.keepAlt n alt).MemOk := h.same rfl

theorem MemOk.bootSteps (h : s.MemOk) {env : BootEnv} {ns : List Nat} {r : List (Nat × Nat × Nat × Nat)} :
    (State.bootSteps env ns s r).1.MemOk := by
  induction ns generalizing s r with
  | nil => exact h
  | cons n ns ih =>
    unfold State.bootSteps
    dsimp only
    split
    · exact h.bootStep.bootTime.setReg
    · exact ih h.bootStep.bootTime.keepAlt.setReg

theorem MemOk.cleared (h : s.MemOk) : s.cleared.MemOk := h.same rfl

theorem MemOk.boot (h : s.MemOk) {env : BootEnv} {k : Nat} : (State.boot env k s).MemOk := by
  induction k generalizing s with
  | zero => exact h.same rfl
  | succ k ih =>
    unfold State.boot
    have hs := h.cleared.bootSteps (env := env) (ns := [1, 2, 3, 4, 5, 6, 7, 8, 9]) (r := [])
    split
    next heq =>
      have ht := hs.fst heq
      extract_lets +onlyGivenNames prev boots store t'
      have ht' : t'.MemOk := ht.setStore
      clear_value t'
      split
      · exact .setDraw ht'.setFld.post
      · exact .ite (ht'.same (by rfl)) (ih ht')

end Sys2Proof.Machine.State
end

section
/-! SUPPORT. The canonical form of the two memories through the array, the special registers and the observation. -/

namespace Sys2Proof.Machine.State

variable {s t : State} {x : Ctx} {w : Who}

/-! ## The array -/

theorem MemOk.matWord (h : s.MemOk) {hd : Hdr} {run : Opnd × Nat} {fs : List (Nat × Opnd)} {code : Nat} {bad : Ctx → Bool}
    {op : Ctx → MOp} : (s.matWord hd run fs code bad op).MemOk := by
  refine .withCtx h fun x => .runChecked h <| .ite h.trapIssue <| .ite h.waitRetry <| .ite h.trapIssue ?_
  extract_lets o cont c tile trap j s' go
  have htrap : ∀ r n, (trap r n).MemOk := fun _ _ => h.trapIssue
  have hgo : ∀ b, (go b).MemOk := fun _ => .ite h.waitRetry <| .post <| .awaitAnswer h.updCore
  clear_value tile
  split
  · exact hgo _
  · exact .ite (htrap _ _) (hgo _)
  · exact .ite (htrap _ _) <| .ite (htrap _ _) (hgo _)

theorem MemOk.performed (h : s.MemOk) {hd : Hdr} {hint : Mask} : (s.performed x hd hint).MemOk := h.updGroup

theorem MemOk.execMatrixAccept (h : s.MemOk) {core} : KeptMem (execMatrixAccept core s) := by
  refine .next ?_
  split
  · exact h
  · extract_lets drop
    have hdrop : ∀ s, s.MemOk → (drop s).MemOk := fun _ h => h.updCore
    refine .ite h ?_
    split
    · exact hdrop _ h
    split
    · exact .takeTrap (hdrop _ h)
    · extract_lets +onlyGivenNames own s₁ step s₂
      have h₁ : s₁.MemOk := .ite h.updCrew h
      have h₂ : s₂.MemOk := .ite h₁.updCrew h₁
      clear_value s₂
      split
      split
      extract_lets +onlyGivenNames s₃ ready s₄
      have h₄ : s₄.MemOk := .updCore h₂.updCore
      clear_value s₄
      split
      · exact .performed <| .updGroup <| .updCore <| hdrop _ h₄.updCrew
      · exact .performed <| .updGroup h₄.updGroup
      · exact h₄

theorem MemOk.matStop (h : s.MemOk) {core : Nat} {j : Job} : (s.matStop core j).MemOk := .updCrew <| .updGroup h.updCore

theorem MemOk.writeRegs (h : s.MemOk) {r : StopRegs} : (s.writeRegs r).MemOk := by
  unfold State.writeRegs
  extract_lets +onlyGivenNames s₁ s₂
  have h₂ : s₂.MemOk := .trapIfClear h.updGroup
  clear_value s₂
  split
  · exact h₂.takeTrap
  · exact h₂
  · split
    · exact h₂
    · exact h₂.updGroup.performed

theorem MemOk.arrayBack (h : s.MemOk) {r : StopRegs} : (s.arrayBack r).MemOk := .ite (h.same (by rfl)) h.writeRegs

theorem MemOk.matStrike (h : s.MemOk) {core vf : Nat} {op : MOp} : (s.matStrike core vf op).1.MemOk := by
  unfold State.matStrike
  split
  · exact h
  · exact .perfAdd h.updCore

theorem MemOk.execMatrixRowComplete (h : s.MemOk) {core} : KeptMem (execMatrixRowComplete core s) := by
  refine .next ?_
  split
  · exact h
  · split
    · exact h.updCore
    · refine .ite h ?_
      split
      next heq =>
        have ht := h.matStrike.fst heq
        refine .ite ht.matStop.arrayBack ?_
        split
        extract_lets +onlyGivenNames c₁ c₂ s₁
        have h₁ : s₁.MemOk := ht.updCrew
        clear_value s₁
        split
        exact .ite h₁.updCore.matStop h₁.updCore

theorem MemOk.matEffect (h : s.MemOk) {j : Job} : (s.matEffect x j).1.MemOk := by
  unfold State.matEffect
  split
  · exact h.updCrew.updCore
  · split
    · exact h
    · exact h.updCrew
  · exact .ite h.arrayBack.updCrew h.arrayBack
  · exact h.updCrew
  · exact h.arrayBack
  · exact h.updCrew
  · exact h

theorem MemOk.execMatrixComplete (h : s.MemOk) {core} : KeptMem (execMatrixComplete core s) := by
  refine .next ?_
  split
  · exact h
  · extract_lets drop
    split
    · exact h.updCore
    · have struck : ∀ {c : Prop} [Decidable c] {vf : Nat} {op : MOp}, (if c then (s, false) else s.matStrike core vf op).1.MemOk := by
        intros
        split
        · exact h
        · exact h.matStrike
      split
      next heq =>
        have ht := struck.fst heq
        refine .ite (.arrayBack ht.updCore) ?_
        split
        next heq =>
          have he := ht.matEffect.fst heq
          exact .arrayBack <| .ite (.updCrew he.updCore) he.updCore

/-- The words of the array. -/
theorem MemOk.execMlw (h : s.MemOk) {hd arg} : KeptMem (execMlw hd arg s) := by
  refine .next ?_
  split <;> exact h.matWord

/-! ## Special registers -/

theorem MemOk.sregWrite (h : s.MemOk) {n : Nat} {v : Word} : (s.sregWrite x n v).MemOk := by
  unfold State.sregWrite
  dsimp only
  split
  · exact h.updGroup
  · exact h.updGroup
  · exact h.updCore
  · exact h.updCore
  · exact h.updCore
  · exact h.same rfl
  · exact .ite h.updCore <| .ite h.updCore h

theorem MemOk.execSwr (h : s.MemOk) {hd d a} : KeptMem (execSwr hd d a s) :=
  .next <| .withCtx h fun _ => .checked h <| .retire <| .ite h h.sregWrite

/-! ## Observation -/

theorem MemOk.execSkewUpdate (h : s.MemOk) {ps} : KeptMem (execSkewUpdate ps s) :=
  .next <| .foldl (fun _ _ h => h.setReg) <| .foldl (fun _ _ h => h.setReg) h

/-- The window of the budget begins again. -/
theorem MemOk.setBudget (h : s.MemOk) {b n : Nat} {e : Word} : ({ s with budget := b, winE := e, mhz := n } : State).MemOk :=
  h.same rfl

theorem MemOk.execBudgetWindowBoundary (h : s.MemOk) : KeptMem (execBudgetWindowBoundary s) :=
  .next <| .setBudget <| .ite h.setFld h

theorem MemOk.samplePut (h : s.MemOk) {pa : Nat} {bs : List Byte} : (s.samplePut pa bs).MemOk := .ite (h.same (by rfl)) h.hbmPut

theorem MemOk.setSmpSlot (h : s.MemOk) {n : Nat} : ({ s with smpSlot := n } : State).MemOk := h.same rfl

theorem MemOk.execPcSample (h : s.MemOk) : KeptMem (execPcSample s) := by
  refine .next <| .ite h ?_
  dsimp only
  split
  · exact h.setSmpSlot
  · exact .ite h.setSmpSlot <| .ite h.setSmpSlot.setReg (.setReg <| .samplePut h.setSmpSlot)

theorem MemOk.freeze (h : s.MemOk) {core part trig pc cause : Nat} {trapped : Option Who} :
    (s.freeze core part trig pc cause trapped).MemOk := h.same rfl

theorem MemOk.heldBack (h : s.MemOk) {r : StopRes} : (s.heldBack r).MemOk := by
  unfold State.heldBack
  split
  · exact h.writeRegs
  · split
    · exact h.loadBack
    · exact h.storeAck
    · exact h.atomBack
    · split
      · exact h.deqBack
      · exact h
    · exact h

theorem MemOk.setStop (h : s.MemOk) {t : Option Stop} : ({ s with stop := t } : State).MemOk := h.same rfl

theorem MemOk.heldWritten (h : s.MemOk) {t : Stop} : (s.heldWritten t).MemOk := .foldl (fun _ _ h => h.heldBack) h.setStop

theorem MemOk.execStopDumpComplete (h : s.MemOk) : KeptMem (execStopDumpComplete s) := by
  refine .next ?_
  split
  · exact h
  · exact .ite h <| .unlessMoves h <| .setStop <| .setFld h.hbmPut

theorem MemOk.deferredStops (h : s.MemOk) {t : Stop} : (s.deferredStops t).MemOk :=
  .foldl (fun _ _ h => .ite h.setStop h.stopCrew) h

theorem MemOk.execStopRelease (h : s.MemOk) : KeptMem (execStopRelease s) := by
  refine .next ?_
  split
  · exact h
  · refine .ite h.send ?_
    extract_lets +onlyGivenNames s₁ last s₂ s₃
    have h₁ : s₁.MemOk := h.heldWritten
    have h₂ : s₂.MemOk := .ite h₁.updCore h₁
    have h₃ : s₃.MemOk := by
      dsimp only [s₃]
      split
      · exact h₂
      · split
        · exact h₂
        · exact h₂.updGroup
    exact .ite h₃.deferredStops h₃.deferredStops.setFld

/-! ## The end of a cycle -/

theorem MemOk.passTime (h : s.MemOk) : s.passTime.MemOk := h.same rfl

theorem MemOk.idleCount (h : s.MemOk) : s.idleCount.MemOk := .ite h h.winCount

theorem MemOk.cycleCounts (h : s.MemOk) : s.cycleCounts.MemOk :=
  .foldl (fun _ _ h => .foldl (fun _ _ h => .ite (.perfAdd <| .ite h.perfAdd h) (.ite h.perfAdd h)) h) h

theorem MemOk.acquires (h : s.MemOk) : s.acquires.MemOk := by
  refine .foldl (fun _ _ h => .foldl (fun _ _ h => ?_) h) h
  split
  · exact .ite h.syncClocks.updGroup h
  · exact h

theorem MemOk.closings (h : s.MemOk) : s.closings.MemOk := .foldl (fun _ _ h => .foldl (fun _ _ h => h.commitHeld) h) h

theorem MemOk.dropFrozen (h : s.MemOk) : s.dropFrozen.MemOk := .foldl (fun _ _ h => h.discardCrew) h

theorem MemOk.summaries (h : s.MemOk) : s.summaries.MemOk := .ite h <| .foldl (fun _ _ h => .foldl (fun _ _ h => h.send) h) h

theorem MemOk.itePost (h : s.MemOk) {c : Prop} [Decidable c] {es : List Instr} : (if c then s.post es else s).MemOk := .ite h.post h

theorem MemOk.meterEvents (h : s.MemOk) {before : Nat} : (s.meterEvents before).MemOk :=
  .itePost <| .itePost <| .itePost <| .ite h.post.setDraw h

theorem MemOk.cycleEnd (h : s.MemOk) : s.cycleEnd.MemOk :=
  .meterEvents <| .post <| .summaries <| .itePost h.heldLeave.passTime.idleCount.cycleCounts.acquires.closings.dropFrozen.trimFlt

end Sys2Proof.Machine.State
end

section
/-! O60. Every instruction and every choice of what comes next keeps both memories in canonical form, and so does the step. -/

namespace Sys2Proof.Machine

/-- The state that an act goes on from has both memories in canonical form. -/
def Act.Kept : Act → Prop
  | .run _ s => s.MemOk
  | .stay s => s.MemOk
  | .halt => True

end Sys2Proof.Machine

namespace Sys2Proof.Machine.State

variable {s t : State} {x : Ctx} {w : Who}

/-! ## What comes next -/

theorem MemOk.issueKept (h : s.MemOk) {c : Crew} {g : Group} {e : Sel} : (s.issue w c g e).Kept := by
  unfold State.issue
  dsimp only
  split
  · exact MemOk.takeTrap (.spent h.updGroup)
  split
  · exact h.probe
  · exact h.readWords
  · exact h.spent.abort
  · exact h.trapIssue
  · split
    · exact MemOk.trapIssue (h.same (by rfl))
    · have latched : ∀ {i : Option Issue} {c : Prop} [Decidable c] {f : Group → Group},
          (if c then ({ s with cur := i } : State) else ({ s with cur := i } : State).updGroup w f).MemOk :=
            .ite (h.same (by rfl)) (h.same (by rfl))
      exact MemOk.ite latched.updGroup latched

theorem MemOk.issueActKept (h : s.MemOk) : (s.issueAct State.cycleEnd).Kept := by
  unfold State.issueAct
  split
  · exact h.faultConv
  split
  · exact h.cycleEnd
  split
  · exact h.issueKept
  · exact h.cycleEnd

theorem MemOk.netActKept (h : s.MemOk) {k : Nat} : (s.netAct k).Kept := by
  unfold State.netAct
  split
  · exact h
  split
  · exact h.hop
  dsimp only
  split
  · exact MemOk.same h (by rfl)
  split <;> exact MemOk.same h (by rfl)

theorem MemOk.nextActKept (h : s.MemOk) {boot : Instr} : (s.nextAct boot State.cycleEnd).Kept := by
  unfold State.nextAct
  split
  · trivial
  split
  · exact MemOk.same h (by rfl)
  · exact MemOk.same h (by rfl)
  split
  · exact MemOk.same h (by rfl)
  split
  · exact h.issueActKept
  · dsimp only
    split
    · exact h.setDraw.issueActKept
    · exact h.setDraw.netActKept
    · split
      · exact h.setDraw.issueActKept
      · exact MemOk.same h (by rfl)

/-! ## The instructions -/

theorem MemOk.exec (h : s.MemOk) {i : Instr} : KeptMem (exec i s) := by
  cases i with
  | iadd | isub | imul | imulh | imad | imin | imax | iabs | icmp | shl | shr | shra | isad | blut | rot |
    funnel | popc | clz | ctz | brev | bfx | bfi | isel | lea | iaddc | plut | idot4 | idot2 | fadd | fmul |
    ffma | fmin | fmax | fminm | fmaxm | fcmp | fclass | fdot2 | fdot4 | frnd | fscale | fgetexp | fgetmant |
    ferr | cvtFf | cvtFi | cvtIf | cvtIi | cvts | cvtef | cvtsr | packB6 | unpkB6 | packTri | unpkTri | bscl |
    rcp | rsq | sqrt | exp2 | log2 | sin | cos | tanh | mov | movi | movih | lxchIdx | lxchUp | lxchDown |
    lxchXor | pollAll | pollAny | pollMask | foldAdd | foldMinmax | bcast | selem | srd | lpr | tstate | spget |
    tandemWord =>
    exact .next h.vexec
  | nop | join | yield => exact .next h.retireWord
  | trap | brk => exact .next h.trapWord
  | ldg | ldc => exact .next h.loadWord
  | atom | atomc | atomf | red => exact .next h.atomWord
  | copyG2t | copyT2g | copyG2g | copytG2t | copytT2g | copys => exact .next h.copyWord
  | enq | enqt | enqw | enqwt | spawn => exact .next h.enqWord
  | mswap | mst | mstz | msts | msoft | mrdt | mzero | msrd | mswr => exact .next h.matWord
  | mrd => exact .next h.newTag.matWord
  | sleepEnd | queueAnswer => exact .next h.updGroup
  | summaryStale | mlwBackgroundLoadDone => exact .next h.updCore
  | tlbinvAsid | tlbinvAll => exact .next h.tlbinv
  | pteRead | pteWrite | pteOr | pteClear => exact .next h.port
  | planeDeadSet | planeDeadClear => exact .next h.planeSwitch
  | segbindUnbind | segbindSend | segbindReceive => exact .next h.bindSeg
  | energyUpdate => exact .next (h.same (by rfl))
  | moduleReset => exact .next h.takeImage.boot
  | registerWrite => exact .next <| .ite h <| .ite (h.same (by rfl)) h.winWrite
  | budgetReached => exact .next <| .ite (h.same (by rfl)) h
  | stopTriggerTime => exact .next <| .ite h.freeze h
  | bra => exact h.execBra
  | brx => exact h.execBrx
  | call => exact h.execCall
  | callx => exact h.execCallx
  | ret => exact h.execRet
  | exit => exact h.execExit
  | region => exact h.execRegion
  | rtt => exact h.execRtt
  | swr => exact h.execSwr
  | lpw => exact h.execLpw
  | stg => exact h.execStg
  | lds => exact h.execLds
  | sts => exact h.execSts
  | atoms => exact h.execAtoms
  | fence => exact h.execFence
  | flush => exact h.execFlush
  | inval => exact h.execInval
  | pref => exact h.execPref
  | renew => exact h.execRenew
  | tsadv => exact h.execTsadv
  | tstateArm => exact h.execTstateArm
  | trel => exact h.execTrel
  | hand => exact h.execHand
  | spset => exact h.execSpset
  | sprst => exact h.execSprst
  | deq => exact h.execDeq
  | qlen => exact h.execQlen
  | arm => exact h.execArm
  | bara => exact h.execBara
  | barw => exact h.execBarw
  | baraw => exact h.execBaraw
  | sleep => exact h.execSleep
  | sysc => exact h.execSysc
  | gload => exact h.execGload
  | gstop => exact h.execGstop
  | mlw => exact h.execMlw
  | storePerformedAtHome => exact h.execStorePerformedAtHome
  | storeAcknowledgement => exact h.execStoreAcknowledgement
  | loadRequestAtHome => exact h.execLoadRequestAtHome
  | loadResultReturn => exact h.execLoadResultReturn
  | atomicAtHome => exact h.execAtomicAtHome
  | atomicReply => exact h.execAtomicReply
  | attributeProbe => exact h.execAttributeProbe
  | attributeProbeReply => exact h.execAttributeProbeReply
  | homeFillReturn => exact h.execHomeFillReturn
  | derailleurEvaluation => exact h.execDerailleurEvaluation
  | claimAtHome => exact h.execClaimAtHome
  | claimReply => exact h.execClaimReply
  | crewRetire => exact h.execCrewRetire
  | preemption => exact h.execPreemption
  | sliceEnd => exact h.execSliceEnd
  | sliceSwitchComplete => exact h.execSliceSwitchComplete
  | queueAppendAtHome => exact h.execQueueAppendAtHome
  | spokeSummary => exact h.execSpokeSummary
  | admissionDecision => exact h.execAdmissionDecision
  | graphStopComplete => exact h.execGraphStopComplete
  | copyChunkComplete => exact h.execCopyChunkComplete
  | copyComplete => exact h.execCopyComplete
  | handTransferComplete => exact h.execHandTransferComplete
  | matrixAccept => exact h.execMatrixAccept
  | matrixComplete => exact h.execMatrixComplete
  | miglimitExpiry => exact h.execMiglimitExpiry
  | henq => exact h.execHenq
  | henqRecordRead => exact h.execHenqRecordRead
  | svcval => exact h.execSvcval
  | svctail => exact h.execSvctail
  | serviceRecordPost => exact h.execServiceRecordPost
  | vfRegisterWrite => exact h.execVfRegisterWrite
  | tlbinvRange => exact h.execTlbinvRange
  | checkpointStart val => exact h.execCheckpointStart (v := val)
  | companionRead => exact h.execCompanionRead
  | companionWrite => exact h.execCompanionWrite
  | regionMerge => exact h.execRegionMerge
  | fabcfg => exact h.execFabcfg
  | planeSwitchDrained => exact h.execPlaneSwitchDrained
  | peerRequestArrival => exact h.execPeerRequestArrival
  | peerReply => exact h.execPeerReply
  | multicastWriteArrival => exact h.execMulticastWriteArrival
  | torusForward => exact h.execTorusForward
  | taggedMessageArrival => exact h.execTaggedMessageArrival
  | hmsga => exact h.execHmsga
  | hostMessageDelivery => exact h.execHostMessageDelivery
  | receivingSummary => exact h.execReceivingSummary
  | portForwardBurst => exact h.execPortForwardBurst
  | forwardedRecordArrival => exact h.execForwardedRecordArrival
  | forwardAcknowledgement => exact h.execForwardAcknowledgement
  | linkError => exact h.execLinkError
  | retrainComplete => exact h.execRetrainComplete
  | portDown => exact h.execPortDown
  | portTrain => exact h.execPortTrain
  | portTakeDown => exact h.execPortTakeDown
  | portTrained => exact h.execPortTrained
  | skewUpdate => exact h.execSkewUpdate
  | flttail => exact h.execFlttail
  | fltreplay => exact h.execFltreplay
  | dataErrorDetected => exact h.execDataErrorDetected
  | contextError => exact h.execContextError
  | coreRetire => exact h.execCoreRetire
  | sliceRetire => exact h.execSliceRetire
  | matrixRowComplete => exact h.execMatrixRowComplete
  | clockTick => exact h.execClockTick
  | invalidationComplete => exact h.execInvalidationComplete
  | checkpointDrained => exact h.execCheckpointDrained
  | checkpointPageWritten => exact h.execCheckpointPageWritten
  | zenvexLinkDown => exact h.execZenvexLinkDown
  | zenvexDownTimeout => exact h.execZenvexDownTimeout
  | zenvexLinkUp => exact h.execZenvexLinkUp
  | budgetWindowBoundary => exact h.execBudgetWindowBoundary
  | pcSample => exact h.execPcSample
  | stopDumpComplete => exact h.execStopDumpComplete
  | stopRelease => exact h.execStopRelease
  | faultRecordPost => exact h.execFaultRecordPost
  | coreRetireDone => exact h.execCoreRetireDone
  | sliceRetireDone => exact h.execSliceRetireDone

end Sys2Proof.Machine.State

namespace Sys2Proof.Machine

/-- Settles O60: a step runs an instruction, stays or halts. The state that it goes on from has both memories in canonical form
(`State.MemOk.nextActKept`), and so has the state that the instruction leaves (`State.MemOk.exec`). -/
theorem memoryInvariant : Obligations.MemoryInvariant := by
  unfold Obligations.MemoryInvariant
  intro s t h e
  have acted := h.nextActKept (boot := bootEvent)
  unfold step at e
  split at e
  next heq =>
    rw [heq] at acted
    exact State.MemOk.exec acted t e
  next heq =>
    rw [heq] at acted
    cases e
    exact acted
  · cases e

end Sys2Proof.Machine
end

section
/-! SUPPORT. The hints of a word that act on no lane, and the group that EXIT leaves. -/

namespace Sys2Proof.Machine

/-! ## Wait sets (03 R56, R62) -/

/-- A yielded lane keeps of its wait set the lanes of `live` that are not in `drop`; without any it goes live. -/
def Group.leaveWait (live drop : Mask) (g : Group) (l : Nat) : Group :=
  let w := sget 0 g.wset l &&& live &&& ~~~drop
  let g := { g with wset := sset 0 g.wset l w }
  if w = 0 then g.setLp l { g.lpOf l with st := .live } else g

theorem Group.settle_eq (g : Group) (drop : Mask) :
    g.settle drop = (g.lanesIn (· == .yielded)).lanes.foldl (Group.leaveWait g.live drop) g := rfl

theorem Group.st_leaveWait (live drop : Mask) (g : Group) (l k : Nat) : ((g.leaveWait live drop l).lpOf k).st =
    if k = l ∧ sget 0 g.wset k &&& live &&& ~~~drop = 0 then .live else (g.lpOf k).st := by
  unfold Group.leaveWait
  dsimp only
  by_cases hk : k = l
  · subst hk
    by_cases hw : sget 0 g.wset k &&& live &&& ~~~drop = 0
    · rw [if_pos hw, if_pos ⟨rfl, hw⟩, Group.lpOf_setLp, if_pos rfl]
    · rw [if_neg hw, if_neg fun e => hw e.2]
      rfl
  · refine Eq.trans ?_ (if_neg fun e => hk e.1).symm
    split
    · rw [Group.lpOf_setLp, if_neg hk]
      rfl
    · rfl

theorem Group.wset_leaveWait (live drop : Mask) (g : Group) (l k : Nat) : sget 0 (g.leaveWait live drop l).wset k =
    if k = l then sget 0 g.wset k &&& live &&& ~~~drop else sget 0 g.wset k := by
  have kept : (g.leaveWait live drop l).wset = sset 0 g.wset l (sget 0 g.wset l &&& live &&& ~~~drop) := by
    unfold Group.leaveWait
    dsimp only
    split <;> rfl
  rw [kept, sget_sset]
  split
  · next e => rw [e]
  · rfl

/-- Each lane of a list looks at its own wait set alone. -/
theorem Group.foldl_leaveWait (live drop : Mask) (k : Nat) : ∀ (ls : List Nat) (g : Group), ls.Nodup →
    let w := sget 0 g.wset k &&& live &&& ~~~drop
    let g' := ls.foldl (Group.leaveWait live drop) g
    (g'.lpOf k).st = (if k ∈ ls ∧ w = 0 then .live else (g.lpOf k).st) ∧
      sget 0 g'.wset k = if k ∈ ls then w else sget 0 g.wset k
  | [], g, _ => by simp
  | l :: ls, g, h => by
    obtain ⟨hl, hn⟩ := List.nodup_cons.mp h
    obtain ⟨st, ws⟩ := Group.foldl_leaveWait live drop k ls (g.leaveWait live drop l) hn
    rw [Group.wset_leaveWait] at st ws
    rw [Group.st_leaveWait] at st
    rw [List.foldl_cons]
    refine ⟨st.trans ?_, ws.trans ?_⟩
    · by_cases e : k = l
      · subst e; simp [hl]
      · simp [e]
    · by_cases e : k = l
      · subst e; simp [hl]
      · simp [e]

/-- What settling keeps of a yielded lane's wait set. -/
def Group.waits (g : Group) (drop : Mask) (l : Nat) : Mask := sget 0 g.wset l &&& g.live &&& ~~~drop

/-- What settling does to a lane and to its wait set. -/
theorem Group.settle_lane (g : Group) (drop : Mask) {l : Nat} (hl : l < 32) :
    ((g.settle drop).lpOf l).st = (if (g.lpOf l).st = .yielded ∧ g.waits drop l = 0 then .live else (g.lpOf l).st) ∧
      sget 0 (g.settle drop).wset l = if (g.lpOf l).st = .yielded then g.waits drop l else sget 0 g.wset l := by
  have yielded : l ∈ (g.lanesIn (· == .yielded)).lanes ↔ (g.lpOf l).st = .yielded := by
    rw [Mask.mem_lanes, Group.has_lanesIn]
    simp [hl]
  have lane := Group.foldl_leaveWait g.live drop l _ g (Mask.nodup_lanes (g.lanesIn (· == .yielded)))
  simp only [← Group.settle_eq, yielded] at lane
  exact lane

/-- The live lanes once the wait sets are settled. -/
theorem Group.live_settle (g : Group) (drop : Mask) :
    (g.settle drop).live = g.live ||| Mask.ofFn fun k => (g.lpOf k).st == .yielded && g.waits drop k == 0 := by
  apply BitVec.eq_of_getLsbD_eq
  intro l hl
  have live := Group.has_lanesIn (g.settle drop) (· == .live) l
  have was := Group.has_lanesIn g (· == .live) l
  have woke := Mask.has_ofFn (fun k => (g.lpOf k).st == .yielded && g.waits drop k == 0) l
  rw [(g.settle_lane drop hl).1] at live
  rw [BitVec.getLsbD_or]
  refine live.trans (Eq.trans ?_ (congrArg₂ or was woke).symm)
  by_cases hy : (g.lpOf l).st = .yielded
  · by_cases hw : g.waits drop l = 0
    · rw [if_pos ⟨hy, hw⟩, hy, hw]; simp [hl]
    · rw [if_neg fun e => hw e.2, hy, beq_eq_false_iff_ne.mpr hw]; simp
  · rw [if_neg fun e => hy e.1, beq_eq_false_iff_ne.mpr hy]; simp

theorem Mask.zero_and (m : Mask) : 0 &&& m = 0 := BitVec.zero_and

theorem Mask.and_not_zero (m : Mask) : m &&& ~~~0 = m := by
  rw [show ~~~(0 : Mask) = BitVec.allOnes 32 by decide]
  exact BitVec.and_allOnes

theorem Mask.has_zero (l : Nat) : Mask.has 0 l = false := BitVec.getLsbD_zero

/-- Settling once more, with the lanes that woke among the live ones. -/
theorem Group.settle_again (g : Group) (drop : Mask) {l : Nat} (hl : l < 32) :
    let live := (g.settle drop).live
    (((g.settle drop).settle 0).lpOf l).st = if live.has l then .live
      else if (g.lpOf l).st = .yielded then (if g.waits drop l &&& live = 0 then .live else .yielded) else (g.lpOf l).st := by
  intro live
  obtain ⟨st, ws⟩ := g.settle_lane drop hl
  have now : live.has l = ((if (g.lpOf l).st = .yielded ∧ g.waits drop l = 0 then LSt.live else (g.lpOf l).st) == .live) := by
    have := Group.has_lanesIn (g.settle drop) (· == .live) l
    rwa [st, decide_eq_true hl, Bool.true_and] at this
  have again := ((g.settle drop).settle_lane 0 hl).1
  rw [Group.waits, ws, st, Mask.and_not_zero] at again
  rw [again, now]
  by_cases hy : (g.lpOf l).st = .yielded
  · by_cases hw : g.waits drop l = 0
    · simp [hy, hw]
    · simp only [hy, hw, and_false, true_and, if_false, if_true]; rfl
  · simp only [hy, false_and, if_false]
    split
    · next h => exact beq_iff_eq.mp h
    · rfl

/-! ## Hints that act on no lane (03 R61 to R63) -/

/-- What the hints leave depends on the states and the wait sets alone. -/
theorem Group.Hinted.congr {a b g' : Group} {iss : Issue} {hint : Mask} {sh yh : Bool} (h : a.Hinted g' iss hint sh yh)
    (st : ∀ l, (a.lpOf l).st = (b.lpOf l).st) (wset : a.wset = b.wset) : b.Hinted g' iss hint sh yh := by
  have live : a.live = b.live := by simp only [Group.live, Group.lanesIn, st]
  have status := h.status
  simp only [st, wset, live] at status
  exact ⟨status⟩

/-- A word that has performed without a lane for its hints only settles the wait sets. -/
theorem Group.wordDone_hinted (g : Group) (x : Ctx) (h : Hdr) : g.Hinted (g.wordDone x h 0) x.iss 0 h.s h.y := by
  have done : g.wordDone x h 0 = (((g.unsuppress x.iss).settle (x.iss.set ||| x.iss.held)).settle 0).headDone := by
    simp only [Group.wordDone, Group.parkS_zero, Group.yieldY_zero, ite_self]
  have start : (g.unsuppress x.iss).lp = g.lp ∧ (g.unsuppress x.iss).wset = g.wset := by
    unfold Group.unsuppress
    split <;> exact ⟨rfl, rfl⟩
  rw [done]
  generalize g.unsuppress x.iss = g₀ at start
  have key : g₀.Hinted ((g₀.settle (x.iss.set ||| x.iss.held)).settle 0).headDone x.iss 0 h.s h.y := by
    refine ⟨fun l hl => ?_⟩
    intro old rest woke park live ys w now
    have hpark : park = 0 := by simp only [park, Mask.zero_and, ite_self]
    have hys : ys = 0 := by simp only [ys, Mask.zero_and, ite_self]
    have hnow : now = 0 := by simp only [now, hys, ite_self]
    have hlive : live = (g₀.settle (x.iss.set ||| x.iss.held)).live := by
      simp only [live, hpark, Mask.and_not_zero]
      exact (Group.live_settle ..).symm
    rw [hpark, hnow, hlive, Mask.and_not_zero, Mask.has_zero]
    refine ⟨(g₀.settle_again _ hl).trans ?_, nofun⟩
    simp only [old, Bool.false_eq_true, if_false, beq_iff_eq]
    rfl
  exact key.congr (fun l => by rw [Group.lpOf, start.1]; rfl) start.2

/-! ## The lanes that EXIT leaves (07 R158) -/

/-- The active lanes exit, and the others of the issue set go on. -/
def Group.exitWord (g : Group) (act off : Mask) (len : Nat) : Group := (g.exitLanes act).advance off len

theorem Group.exitLanes_eq (g : Group) (m : Mask) : ∃ lp snap, g.exitLanes m = { g with lp := lp, snap := snap } := by
  unfold Group.exitLanes
  dsimp only
  split <;> exact ⟨_, _, rfl⟩

theorem Group.exitWord_eq (g : Group) (act off : Mask) (len : Nat) :
    ∃ lp snap, g.exitWord act off len = { g with lp := lp, snap := snap } := by
  obtain ⟨lp, snap, e⟩ := g.exitLanes_eq act
  exact ⟨_, snap, by rw [Group.exitWord, e]; rfl⟩

/-- The snapshot entries of lanes that exit (20 R451): none in a handler. -/
theorem Group.snap_exitLanes (g : Group) (m : Mask) (l : Nat) : (sget Lp.none (g.exitLanes m).snap l).st =
    if m.has l && !g.handler then .exited else (sget Lp.none g.snap l).st := by
  unfold Group.exitLanes
  dsimp only
  split
  · next mode =>
    have mode : g.handler = true := mode
    simp [mode, Group.mapLp]
  · next mode =>
    have mode : g.handler = false := Bool.not_eq_true _ ▸ mode
    have lanes := foldl_sset_lanes (d := Lp.none) (fun _ e => { e with st := .exited }) l m.lanes g.snap (Mask.nodup_lanes m)
    change (sget Lp.none (m.lanes.foldl _ g.snap) l).st = _
    rw [lanes, mode]
    simp only [Mask.mem_lanes, Bool.not_false, Bool.and_true]
    by_cases hl : m.has l = true
    · rw [if_pos ⟨Mask.lt_of_has hl, hl⟩, if_pos hl]
    · rw [if_neg fun e => hl e.2, if_neg hl]

theorem Group.st_exitWord (g : Group) (act off : Mask) (len l : Nat) :
    ((g.exitWord act off len).lpOf l).st = if act.has l then .exited else (g.lpOf l).st := by
  rw [Group.exitWord, Group.advance_lpOf_st, Group.lpOf_exitLanes]
  by_cases hl : act.has l = true
  · rw [if_pos ⟨Mask.lt_of_has hl, hl⟩, if_pos hl]
  · rw [if_neg fun e => hl e.2, if_neg hl]

theorem Group.pc_exitWord (g : Group) (act off : Mask) (len l : Nat) :
    ((g.exitWord act off len).lpOf l).pc = (g.lpOf l).pc + (if off.has l then BitVec.ofNat 48 len else 0) := by
  have same : ((g.exitLanes act).lpOf l).pc = (g.lpOf l).pc := by
    rw [Group.lpOf_exitLanes]
    split <;> rfl
  rw [Group.exitWord, Group.lpOf_advance]
  by_cases hl : off.has l = true
  · rw [if_pos ⟨Mask.lt_of_has hl, hl⟩, if_pos hl, ← same]
  · rw [if_neg fun e => hl e.2, if_neg hl, same]
    exact (BitVec.add_zero _).symm

/-- The lanes left over are those that did not exit. -/
theorem Group.remain_exitWord (g : Group) (act off : Mask) (len : Nat) :
    (g.exitWord act off len).remain = g.remain &&& ~~~act := by
  apply BitVec.eq_of_getLsbD_eq
  intro l hl
  have now := Group.has_lanesIn (g.exitWord act off len) LSt.remaining l
  have was := Group.has_lanesIn g LSt.remaining l
  rw [Group.st_exitWord] at now
  rw [BitVec.getLsbD_and, BitVec.getLsbD_not]
  refine now.trans (Eq.trans ?_ (congrArg (· && _) was).symm)
  change _ = (_ && (decide (l < 32) && !act.has l))
  cases act.has l <;> simp [hl, LSt.remaining]

/-- The active lanes and the others of the issue set are apart. -/
theorem State.ctx?_apart {s : State} {h : Hdr} {x : Ctx} (hx : s.ctx? h = some x) {l : Nat} (hl : x.act.has l = true) :
    x.off.has l = false := by
  obtain ⟨_, _, _, hact, hoff⟩ := State.ctx?_some hx
  rw [hact] at hl
  rw [hoff]
  simp only [Mask.has, BitVec.getLsbD_and, BitVec.getLsbD_not, Bool.and_eq_true] at hl ⊢
  simp [hl.2]

end Sys2Proof.Machine
end

section
/-! SUPPORT. The group that leaves its handler, and what its crew's end keeps of it. -/

namespace Sys2Proof

/-- The entries below a number of one map, and from it on those of another. -/
theorem sget_low_high {α : Type} {d : α} (c k : Nat) (a b : SMap α) :
    sget d ((a.filter fun p => decide (p.1 < c)) ++ b.filter fun p => decide (c ≤ p.1)) k =
      if k < c then sget d a k else sget d b k := by
  induction a with
  | nil =>
    rw [List.filter_nil, List.nil_append, sget_filter_key (fun n => decide (c ≤ n))]
    by_cases h : k < c
    · simp [h, sget]
    · simp [h, Nat.le_of_not_lt h]
  | cons p a ih =>
    by_cases hp : p.1 < c
    · rw [List.filter_cons_of_pos (by simpa using hp), List.cons_append, sget, ih, sget]
      by_cases e : p.1 = k
      · subst e; simp [hp]
      · simp [e]
    · rw [List.filter_cons_of_neg (by simpa using hp), ih, sget]
      by_cases e : p.1 = k
      · subst e; simp [hp]
      · simp [e]

end Sys2Proof

namespace Sys2Proof.Machine

/-! ## Leaving the handler (20 R453) -/

/-- The registers that the shadow holds come back. -/
theorem Group.exchange_low (g : Group) : (∀ n l, n < 4 → l < 32 → g.exchange.rdV n l = sget 0 g.shV (32 * n + l)) ∧
    (∀ n, n < 4 → g.exchange.rdG n = sget 0 g.shG n) ∧ ∀ n, n < 4 → g.exchange.rdP n = sget 0 g.shP n := by
  refine ⟨fun n l hn hl => ?_, fun n hn => ?_, fun n hn => ?_⟩
  · exact (sget_low_high 128 _ g.shV g.v).trans (if_pos (by omega))
  · exact (sget_low_high 4 n g.shG g.g).trans (if_pos hn)
  · rw [Group.rdP, if_neg (by omega)]
    exact (sget_low_high 4 n g.shP g.p).trans (if_pos hn)

/-- The other registers stay. -/
theorem Group.exchange_high (g : Group) : (∀ n l, 4 ≤ n → l < 32 → g.exchange.rdV n l = g.rdV n l) ∧
    (∀ n, 4 ≤ n → g.exchange.rdG n = g.rdG n) ∧ ∀ n, 4 ≤ n → g.exchange.rdP n = g.rdP n := by
  refine ⟨fun n l hn hl => ?_, fun n hn => ?_, fun n hn => ?_⟩
  · exact (sget_low_high 128 _ g.shV g.v).trans (if_neg (by omega))
  · exact (sget_low_high 4 n g.shG g.g).trans (if_neg (by omega))
  · unfold Group.rdP
    split
    · rfl
    · exact (sget_low_high 4 n g.shP g.p).trans (if_neg (by omega))

theorem Group.lpOf_leaveTrap (g : Group) (named : Lp → Lp) (suppress : Bool) {l : Nat} (hl : l < 32) :
    (g.leaveTrap named suppress).lpOf l =
      if Mask.has (g.tlanes.setWidth 32) l then named (sget Lp.none g.trapLp l) else sget Lp.none g.trapLp l := by
  refine (Group.lpOf_mapLp { g with lp := g.trapLp, trapLp := [], wset := [] } _ (fun _ e => named e) l).trans ?_
  exact if_congr (and_iff_right hl) rfl rfl

theorem Group.leaveTrap_left (g : Group) (named : Lp → Lp) (suppress : Bool) : Left g (g.leaveTrap named suppress) named where
  mode := rfl
  lp _ hl := g.lpOf_leaveTrap named suppress hl
  low := g.exchange_low
  high := g.exchange_high
  status := ⟨rfl, rfl⟩

/-- Leaving depends on the trap registers, the shadow and the registers alone. -/
theorem Left.congr {a b g' : Group} {named : Lp → Lp} (h : Left a g' named) (regs : b.SameRegs a) (trap : b.SameTrap a) :
    Left b g' named := by
  obtain ⟨hv, hg, hp, _, _⟩ := regs
  obtain ⟨_, trapLp, _, _, _, tlanes, _, _, shV, shG, shP, shFsr, shFcr⟩ := trap
  have kept := h.high
  simp only [Group.rdV, Group.rdG, Group.rdP, hv, hg, hp] at kept
  exact ⟨h.mode, by rw [← trapLp, ← tlanes]; exact h.lp, by rw [← shV, ← shG, ← shP]; exact h.low, kept,
    by rw [← shFsr, ← shFcr]; exact h.status⟩

theorem Group.outOfHandler_left (g : Group) :
    Left g g.outOfHandler fun e => { e with st := .exited, pc := g.tpc.setWidth 48 } :=
  have left := g.leaveTrap_left (fun e => { e with st := .exited, pc := g.tpc.setWidth 48 }) false
  ⟨left.mode, left.lp, left.low, left.high, left.status⟩

/-- The named lanes of a group that leaves its handler are exited in the snapshot too. -/
theorem Group.snap_outOfHandler (g : Group) {l : Nat} (hl : l < 32) : (sget Lp.none g.outOfHandler.snap l).st =
    if Mask.has (g.tlanes.setWidth 32) l then .exited else (sget Lp.none g.snap l).st := by
  have lanes := foldl_sset_lanes (d := Lp.none) (fun _ e => { e with st := .exited }) l (Mask.lanes (g.tlanes.setWidth 32)) g.snap
    (Mask.nodup_lanes _)
  refine (congrArg Lp.st lanes).trans ?_
  rw [apply_ite Lp.st]
  exact if_congr (Mask.mem_lanes.trans (and_iff_right hl)) rfl rfl

/-! ## Frames of the crew -/

theorem QuietFrame.trans {a b c : State} {w : Who} (h : QuietFrame a b w) (k : QuietFrame b c w) : QuietFrame a c w where
  toIssueFrame := h.toIssueFrame.trans k.toIssueFrame
  cores i := (k.cores i).trans (congrArg (fun x : Core => { x with
    perf := (c.core i).perf, lastWho := (c.core i).lastWho, runLen := (c.core i).runLen, lastCyc := (c.core i).lastCyc }) (h.cores i))

/-- A change of the crew that leaves its groups. -/
theorem QuietFrame.updCrew {s : State} {w : Who} {f : Crew → Crew} {c : Crew} (hc : s.crew? w.crew = some c)
    (id : ∀ c, (f c).id = c.id) (groups : ∀ c, (f c).groups = c.groups) : QuietFrame s (s.updCrew w.crew f) w where
  rest := rfl
  svcWait := List.prefix_refl _
  crews _ e := State.crew?_updCrew_ne id e
  groups j _ := by simp only [State.group?, State.crew?_updCrew id hc, hc, Option.bind_some, groups]
  win _ _ := rfl
  flight := List.prefix_refl _
  net := List.prefix_refl _
  cores _ := rfl

theorem State.group?_updCrew {s : State} {w : Who} {f : Crew → Crew} {g : Group} (id : ∀ c, (f c).id = c.id)
    (groups : ∀ c, (f c).groups = c.groups) (hg : s.group? w = some g) : (s.updCrew w.crew f).group? w = some g := by
  obtain ⟨c, hc, hj⟩ := State.group?_some hg
  rw [State.group?, State.crew?_updCrew id hc]
  exact (congrArg (·[w.grp]?) (groups c)).trans hj

theorem Crew.countsAgain_eq (c : Crew) (grp : Nat) : ∃ bars, c.countsAgain grp = { c with bars := bars } := by
  unfold Crew.countsAgain
  generalize List.range c.bars.length = ks
  induction ks generalizing c with
  | nil => exact ⟨_, rfl⟩
  | cons k ks ih =>
    rw [List.foldl_cons]
    split
    · obtain ⟨bars, e⟩ := ih (c.barCheck k false)
      exact ⟨bars, e⟩
    · exact ih c

theorem State.group?_congr {s t : State} (h : t.crews = s.crews) (w : Who) : t.group? w = s.group? w := by
  rw [State.group?, State.group?, State.crew?, State.crew?, h]

/-! ## Committing held stores (09 R220) -/

theorem IssueFrame.same {s t : State} {w : Who} (rest : t = { s with cores := t.cores, net := t.net, flight := t.flight, fresh := t.fresh })
    (flight : s.flight <+: t.flight) (net : s.net <+: t.net) : IssueFrame s t w where
  rest := rest.trans (congrArg (fun t : State => { s with
    crews := t.crews, cores := t.cores, win := t.win, stop := t.stop, flight := t.flight, net := t.net, ptr := t.ptr
    svcWait := t.svcWait, fresh := t.fresh }) rest).symm
  svcWait := by rw [rest]
  crews _ _ := by rw [rest]; rfl
  groups _ _ := by rw [rest]; rfl
  win _ _ := by rw [rest]; rfl
  flight := flight
  net := net

theorem IssueFrame.send (s : State) (e : Instr) (w : Who) : IssueFrame s (s.send e) w := by
  unfold State.send State.sendFrom
  split
  · exact .same rfl (List.prefix_append _ _) (List.prefix_refl _)
  · dsimp only
    split
    · exact .same rfl (List.prefix_append _ _) (List.prefix_refl _)
    · exact .same rfl (List.prefix_append _ _) (List.prefix_refl _)
    · exact .same rfl (List.prefix_append _ _) (List.prefix_refl _)
    · exact .same rfl (List.prefix_append _ _) (List.prefix_refl _)
    · exact .same rfl (List.prefix_refl _) ((List.prefix_append _ _).trans (List.prefix_append _ _))

/-- A group's stores leave: nothing changes but what an issue may, L1 lines, and of the group the buffer, as given, and the parts
that leave later. -/
structure Commits (s t : State) (w : Who) (buffer : List SbEntry → List SbEntry) : Prop where
  frame : IssueFrame s t w
  group : ∀ g, s.group? w = some g → ∃ later, t.group? w = some { g with sb := buffer g.sb, later := later }

theorem Commits.trans {s t u : State} {w : Who} {f k : List SbEntry → List SbEntry} (h : Commits s t w f) (i : Commits t u w k) :
    Commits s u w (k ∘ f) where
  frame := h.frame.trans i.frame
  group g hg := by
    obtain ⟨_, hg⟩ := h.group g hg
    exact i.group _ hg

/-- What changes no crew. -/
theorem Commits.still {s t : State} {w : Who} (frame : IssueFrame s t w) (crews : t.crews = s.crews) : Commits s t w id where
  frame := frame
  group g hg := ⟨g.later, (State.group?_congr crews w).trans hg⟩

theorem Commits.updGroup (s : State) (w : Who) {f : Group → Group} {buffer : List SbEntry → List SbEntry}
    (hf : ∀ g : Group, f g = { g with sb := buffer g.sb, later := (f g).later }) : Commits s (s.updGroup w f) w buffer where
  frame := (Spends.updGroup s w f 0 0).frame
  group g hg := ⟨(f g).later, hf g ▸ State.group?_updGroup hg⟩

theorem Commits.newTag (s : State) (w : Who) : Commits s s.newTag.2 w id :=
  .still (.same rfl (List.prefix_refl _) (List.prefix_refl _)) rfl

theorem Commits.foldl_send (w : Who) : ∀ (l : List Instr) (s : State), Commits s (l.foldl State.send s) w id
  | [], s => .still (.refl s w) rfl
  | e :: l, s => (Commits.still (.send s e w) (State.send_crews s e)).trans (foldl_send w l (s.send e))

theorem Commits.sendParts (s : State) (w : Who) (inOrder : Bool) (l : List Instr) :
    Commits s (s.sendParts w inOrder l State.send) w id :=
  (Commits.updGroup s w (buffer := id) fun _ => rfl).trans (.foldl_send w _ _)

/-- The buffer once an entry is committed. -/
def commitMark (sb : List SbEntry) (e : SbEntry) : List SbEntry := sb.map fun x => if x.id = e.id then { x with committed := true } else x

theorem Commits.commitEntry (s : State) (w : Who) (e : SbEntry) : Commits s (s.commitEntry w e) w (commitMark · e) := by
  unfold State.commitEntry
  split
  · next hc => exact ⟨.refl s w, fun g hg => by obtain ⟨c, hc', _⟩ := State.group?_some hg; simp [hc] at hc'⟩
  · next c hc =>
    have marked : Commits s (s.updGroup w fun g => { g with
        sb := g.sb.map fun x => if x.id = e.id then { x with committed := true } else x }) w (commitMark · e) :=
      .updGroup s w fun _ => rfl
    have dropped (t : State) : Commits t (if e.cp = .home then t.updCore c.core fun co => { co with
        l1 := co.l1.filter fun b => !(e.parts.any fun p => b.holds c.asid p.va) } else t) w id := by
      split
      · exact .still (.same rfl (List.prefix_refl _) (List.prefix_refl _)) rfl
      · exact .still (.refl t w) rfl
    exact (((marked.trans (.newTag _ w)).trans (.sendParts _ w e.inOrder _)).trans (dropped _)).trans
      (.still (Spends.perfAdd _ w c.core c.vf 0x0C 1).frame (by rw [State.perfAdd_frame]))

theorem Commits.foldl_commitEntry (w : Who) : ∀ (es : List SbEntry) (s : State),
    Commits s (es.foldl (fun s e => s.commitEntry w e) s) w fun sb => es.foldl commitMark sb
  | [], s => .still (.refl s w) rfl
  | e :: es, s => (Commits.commitEntry s w e).trans (foldl_commitEntry w es (s.commitEntry w e))

/-- The held entries of a group that may leave now. -/
def Group.leaving (g : Group) : List SbEntry := (g.sb.filter (!·.committed)).take (256 - g.sbCommitted)

theorem Commits.commitHeld {s : State} {w : Who} {g : Group} (hg : s.group? w = some g) :
    Commits s (s.commitHeld w) w fun sb => g.leaving.foldl commitMark sb := by
  unfold State.commitHeld
  rw [hg]
  exact .foldl_commitEntry w g.leaving s

theorem foldl_commitMark : ∀ (es sb : List SbEntry), es.foldl commitMark sb =
    sb.map fun x => if es.any (·.id == x.id) then { x with committed := true } else x
  | [], sb => by simp
  | e :: es, sb => by
    rw [List.foldl_cons, foldl_commitMark es, commitMark, List.map_map]
    refine List.map_congr_left fun x _ => ?_
    by_cases h : x.id = e.id
    · simp [h]
    · simp [h, Ne.symm h]

/-- A buffer of at most 256 stores commits whole. -/
theorem Group.leaving_all {g : Group} (h : g.sb.length ≤ 256) : g.leaving = g.sb.filter (!·.committed) := by
  have parts : g.sb.length = (g.sb.filter (·.committed)).length + (g.sb.filter (!·.committed)).length := by
    rw [← List.countP_eq_length_filter, ← List.countP_eq_length_filter]
    simpa using List.length_eq_countP_add_countP (fun x : SbEntry => x.committed) (l := g.sb)
  refine List.take_of_length_le ?_
  rw [Group.sbCommitted]
  omega

theorem Group.none_held {g g' : Group} (h : g.sb.length ≤ 256) (sb : g'.sb = g.leaving.foldl commitMark g.sb) :
    g'.hasHeld = false ∧ g'.sb.length = g.sb.length := by
  rw [Group.hasHeld, sb, foldl_commitMark, Group.leaving_all h]
  refine ⟨?_, List.length_map _⟩
  rw [List.any_eq_false]
  intro y hy
  obtain ⟨x, hx, rfl⟩ := List.mem_map.mp hy
  cases held : x.committed with
  | true => split <;> simp [held]
  | false =>
    have own : (g.sb.filter (!·.committed)).any (·.id == x.id) = true :=
      List.any_eq_true.mpr ⟨x, List.mem_filter.mpr ⟨hx, by simp [held]⟩, by simp⟩
    simp [own]

/-- Without a held entry there is nothing to commit. -/
theorem State.commitHeld_none {s : State} {w : Who} {g : Group} (hg : s.group? w = some g) (h : g.hasHeld = false) :
    s.commitHeld w = s := by
  have none : g.sb.filter (!·.committed) = [] := List.filter_eq_nil_iff.mpr (List.any_eq_false.mp h)
  unfold State.commitHeld
  rw [hg]
  simp only [none, List.take_nil, List.foldl_nil]

/-! ## What the end of a crew keeps of a group -/

/-- The lanes, the mode and the snapshot are as before. -/
def Group.SameSnap (g g' : Group) : Prop := g'.lp = g.lp ∧ g'.handler = g.handler ∧ g'.snap = g.snap

theorem Group.SameSnap.trans {a b c : Group} (h : a.SameSnap b) (k : b.SameSnap c) : a.SameSnap c :=
  ⟨k.1.trans h.1, k.2.1.trans h.2.1, k.2.2.trans h.2.2⟩

theorem Crew.finishBars_groups (c : Crew) : c.finishBars.groups = c.groups := by
  have key : ∀ (ks : List Nat) (c : Crew), (ks.foldl (fun c k => c.barCheck k false) c).groups = c.groups := by
    intro ks
    induction ks with
    | nil => exact fun _ => rfl
    | cons k ks ih => exact fun c => ih (c.barCheck k false)
  exact key _ c

theorem Crew.undrain_groups (c : Crew) (t : Nat) : (c.undrain t).groups = c.groups := by
  unfold Crew.undrain
  split <;> rfl

theorem Crew.streamRead_groups (c : Crew) : c.streamRead.groups = c.groups := by
  unfold Crew.streamRead
  split
  · exact Crew.undrain_groups _ _
  · rfl

theorem Crew.closing_groups (c : Crew) : ({ c.dropPlanes.cancelArms with st := .closing } : Crew).groups = c.groups :=
  (Crew.undrain_groups _ _).trans (Crew.undrain_groups _ _)

/-- An abandoned matrix instruction changes flags of its group alone. -/
theorem Crew.matAbandon_groups (c : Crew) : c.matAbandon.groups = (c.updGroup (fld c.mprog 59 4) Group.matFlags).groups := by
  have key : ∀ (l : List (Nat × List Byte)) (c : Crew), ∃ m,
      l.foldl (fun (c : Crew) p => { c with scratch := c.scratch.write p.1 p.2 }) c = { c with scratch := m } := by
    intro l
    induction l with
    | nil => exact fun c => ⟨_, rfl⟩
    | cons p l ih => exact fun c => ih { c with scratch := c.scratch.write p.1 p.2 }
  obtain ⟨m, written⟩ := key c.mout c
  unfold Crew.matAbandon
  rw [written]
  dsimp only
  split
  · rfl
  · exact Crew.streamRead_groups _

theorem Crew.matAbandon_snap {c : Crew} {j : Nat} {g : Group} (h : c.groups[j]? = some g) :
    ∃ g', c.matAbandon.groups[j]? = some g' ∧ g.SameSnap g' := by
  rw [Crew.matAbandon_groups, Crew.updGroup, lupd_getElem?, h]
  split
  · exact ⟨g.matFlags, rfl, rfl, rfl, rfl⟩
  · exact ⟨g, rfl, rfl, rfl, rfl⟩

/-- The held entries of a crew's groups commit. -/
theorem State.foldl_commitHeld_snap (w : Who) : ∀ (js : List Nat) (s : State) (g : Group), s.group? w = some g →
    ∃ g', (js.foldl (fun s j => s.commitHeld { crew := w.crew, grp := j }) s).group? w = some g' ∧ g.SameSnap g'
  | [], s, g, hg => ⟨g, hg, rfl, rfl, rfl⟩
  | j :: js, s, g, hg => by
    have step : ∃ g', (s.commitHeld { crew := w.crew, grp := j }).group? w = some g' ∧ g.SameSnap g' := by
      cases hj : s.group? { crew := w.crew, grp := j } with
      | none =>
        have idle : s.commitHeld { crew := w.crew, grp := j } = s := by simp [State.commitHeld, hj]
        exact ⟨g, by rw [idle]; exact hg, rfl, rfl, rfl⟩
      | some k =>
        have commits := Commits.commitHeld hj
        by_cases e : w.grp = j
        · subst e
          obtain ⟨later, hg'⟩ := commits.group g hg
          exact ⟨_, hg', rfl, rfl, rfl⟩
        · exact ⟨g, (commits.frame.groups w.grp e).trans hg, rfl, rfl, rfl⟩
    obtain ⟨g₁, hg₁, snap₁⟩ := step
    obtain ⟨g₂, hg₂, snap₂⟩ := foldl_commitHeld_snap w js _ g₁ hg₁
    exact ⟨g₂, hg₂, snap₁.trans snap₂⟩

theorem State.crewClosing_snap {s : State} {w : Who} {g : Group} (hg : s.group? w = some g) :
    ∃ g', (s.crewClosing w.crew).group? w = some g' ∧ g.SameSnap g' := by
  unfold State.crewClosing
  split
  · exact ⟨g, hg, rfl, rfl, rfl⟩
  · split
    · exact State.foldl_commitHeld_snap w _ _ g
        (State.group?_updCrew (fun c => (Crew.KeepsLanes.closing c).1) Crew.closing_groups hg)
    · exact ⟨g, hg, rfl, rfl, rfl⟩

/-- What follows where a group has finished. -/
theorem State.groupOver_snap {s : State} {w : Who} {g : Group} (hg : s.group? w = some g) :
    ∃ g', (s.groupOver w).group? w = some g' ∧ g.SameSnap g' := by
  unfold State.groupOver
  rw [hg]
  dsimp only
  split
  · exact ⟨g, hg, rfl, rfl, rfl⟩
  · obtain ⟨c, hc, hj⟩ := State.group?_some hg
    have barred : c.finishBars.groups[w.grp]? = some g := by rw [Crew.finishBars_groups, hj]
    have ended : ∃ g', (s.updCrew w.crew fun c => if c.finishBars.ownMat w.grp then c.finishBars.matAbandon
        else c.finishBars).group? w = some g' ∧ g.SameSnap g' := by
      rw [State.group?, State.crew?_updCrew (fun c => ?_) hc, Option.bind_some]
      · split
        · exact Crew.matAbandon_snap barred
        · exact ⟨g, barred, rfl, rfl, rfl⟩
      · split
        · exact (Crew.KeepsLanes.matAbandon _).1.trans (Crew.KeepsLanes.finishBars c).1
        · exact (Crew.KeepsLanes.finishBars c).1
    obtain ⟨g₁, hg₁, snap₁⟩ := ended
    obtain ⟨g₂, hg₂, snap₂⟩ := State.crewClosing_snap hg₁
    exact ⟨g₂, hg₂, snap₁.trans snap₂⟩

/-! ## The last lanes of a handler -/

/-- The state once a group has left its handler. -/
def State.handlerOver (s : State) (w : Who) : State := (s.updGroup w Group.outOfHandler).updCrew w.crew (·.countsAgain w.grp)

theorem State.handlerOver_group {s : State} {w : Who} {g : Group} (hg : s.group? w = some g) :
    (s.handlerOver w).group? w = some g.outOfHandler ∧ QuietFrame s (s.handlerOver w) w := by
  have id (c : Crew) : (c.countsAgain w.grp).id = c.id := (Crew.KeepsLanes.countsAgain c w.grp).1
  have groups (c : Crew) : (c.countsAgain w.grp).groups = c.groups := by
    obtain ⟨bars, e⟩ := c.countsAgain_eq w.grp
    rw [e]
  obtain ⟨c, hc, _⟩ := State.group?_some hg
  exact ⟨State.group?_updCrew id groups (State.group?_updGroup hg),
    (Spends.updGroup s w Group.outOfHandler 0 0).quiet.trans (.updCrew (State.crew?_updGroup hc) id groups)⟩

/-- Where lanes of a group are left nothing follows. -/
theorem State.groupOver_remain {s : State} {w : Who} {g : Group} (hg : s.group? w = some g) (h : g.remain ≠ 0) :
    s.groupOver w = s := by
  have finished : g.finished = false := by rw [Group.finished, beq_eq_false_iff_ne.mpr h, Bool.and_false]
  unfold State.groupOver
  rw [hg]
  simp only [finished, Bool.not_false, if_true]

/-- The lanes of a handler are gone: the group leaves it, and ends where no lane of the trap LP is left. -/
theorem State.lanesGone_handler {s : State} {w : Who} {g : Group} (hg : s.group? w = some g) (mode : g.handler = true)
    (none : g.remain = 0) : s.lanesGone w = (s.handlerOver w).groupOver w := by
  have gone : g.handlerGone = true := by rw [Group.handlerGone, mode, none]; rfl
  rw [State.lanesGone_eq, hg, Option.any_some, gone]
  rfl

end Sys2Proof.Machine
end

section
/-! SUPPORT. EXIT and REGION. -/

namespace Sys2Proof.Machine

/-- A lane that has exited is never woken. -/
theorem exited_of_woken {g g' : Group} {act off : Mask} {len l : Nat} (h : (g.exitWord act off len).Woken g') (hl : act.has l = true) :
    (g'.lpOf l).st = .exited := by
  have st : ((g.exitWord act off len).lpOf l).st = .exited := by rw [Group.st_exitWord, if_pos hl]
  rcases h l with e | ⟨e, _⟩
  · exact e.trans st
  · rw [st] at e
    contradiction

section
variable {h : Hdr} {s : State} {x : Ctx} (hx : s.ctx? h = some x)
include hx

/-- The state in which EXIT's issue has ended. -/
theorem execExit_eq : exec (.exit h) s =
    .next (((s.updGroup x.iss.who fun g => g.exitWord x.act x.off x.iss.len).issued x h 0).lanesGone x.iss.who) := by
  change Host.Outcome.next (s.withCtx h _) = _
  rw [State.withCtx_some hx]
  rfl

/-- What the issue of EXIT leaves before the rules of a group without lanes. -/
theorem exit_issued : ∃ g', ((s.updGroup x.iss.who fun g => g.exitWord x.act x.off x.iss.len).issued x h 0).group? x.iss.who = some g' ∧
    Performed s ((s.updGroup x.iss.who fun g => g.exitWord x.act x.off x.iss.len).issued x h 0) x g' ∧
    x.g.SameRegs g' ∧ x.g.SameTrap g' ∧
    (x.g.exitWord x.act x.off x.iss.len).Stands g' ∧ (x.g.exitWord x.act x.off x.iss.len).Woken g' ∧
    (x.g.exitLanes x.act).Hinted g' x.iss 0 h.s h.y ∧ g'.snap = (x.g.exitLanes x.act).snap := by
  obtain ⟨spends, n, hg⟩ := Spends.updGroup_issued hx (fun g => g.exitWord x.act x.off x.iss.len) 0
  obtain ⟨lp, snap, e⟩ := x.g.exitWord_eq x.act x.off x.iss.len
  have stands := (x.g.exitWord x.act x.off x.iss.len).issueDone_stands n x h 0
  refine ⟨_, hg, spends.toPerformed hx hg, ?_, ?_, stands, Group.issueDone_woken _ n x h, ?_, ?_⟩
  · have regs := stands.rest.sameRegs
    rwa [e] at regs ⊢
  · have trap := stands.rest.sameTrap
    rwa [e] at trap ⊢
  · exact (Group.wordDone_hinted { x.g.exitWord x.act x.off x.iss.len with lastIssue := n } x h).congr
      (fun l => Group.advance_lpOf_st ..) rfl
  · have kept := congrArg Group.snap stands.rest
    exact kept

/-- EXIT that leaves lanes (07 R158). -/
theorem exit_leaves (left : x.g.remain &&& ~~~x.act ≠ 0) :
    ∃ t g', exec (.exit h) s = .next t ∧ Performed s t x g' ∧ x.g.SameRegs g' ∧ x.g.SameTrap g' ∧
      (∀ l, l < 32 → x.act.has l = true → (g'.lpOf l).st = .exited ∧ (g'.lpOf l).pc = (x.g.lpOf l).pc) ∧
      (∀ l, l < 32 → x.act.has l = false →
        (g'.lpOf l).pc = (x.g.lpOf l).pc + (if x.off.has l then BitVec.ofNat 48 x.iss.len else 0)) ∧
      (x.g.exitLanes x.act).Hinted g' x.iss 0 h.s h.y ∧
      ∀ l, l < 32 → (sget Lp.none g'.snap l).st =
        if x.act.has l && !x.g.handler then .exited else (sget Lp.none x.g.snap l).st := by
  obtain ⟨g', hg, performed, regs, trap, stands, woken, hinted, snap⟩ := exit_issued hx
  have remain : g'.remain ≠ 0 := by rwa [Ne, stands.remain_eq_zero_iff, Group.remain_exitWord]
  refine ⟨_, g', (execExit_eq hx).trans (congrArg _ (State.lanesGone_remain hg remain)), performed, regs, trap, fun l _ hl => ⟨?_, ?_⟩,
    fun l _ _ => ?_, hinted, fun l _ => ?_⟩
  · exact exited_of_woken woken hl
  · rw [stands.pc, Group.pc_exitWord, State.ctx?_apart hx hl]
    exact BitVec.add_zero _
  · rw [stands.pc, Group.pc_exitWord]
  · rw [snap, Group.snap_exitLanes]

/-- EXIT of a program's last lanes: the group is finished (02 R45). -/
theorem exit_finishes (mode : x.g.handler = false) (last : x.g.remain &&& ~~~x.act = 0) :
    ∃ t g', exec (.exit h) s = .next t ∧ t.group? x.iss.who = some g' ∧ g'.finished = true ∧
      ∀ l, l < 32 → x.act.has l = true → (g'.lpOf l).st = .exited := by
  obtain ⟨g₁, hg₁, _, _, trap, stands, woken, _, _⟩ := exit_issued hx
  have none : g₁.remain = 0 := by rwa [stands.remain_eq_zero_iff, Group.remain_exitWord]
  obtain ⟨g₂, hg₂, _, kept⟩ := State.lanesGone_none hg₁ none
  obtain ⟨finished, lp⟩ := kept (trap.1.trans mode)
  refine ⟨_, g₂, execExit_eq hx, hg₂, finished, fun l _ hl => ?_⟩
  rw [Group.lpOf, lp]
  exact exited_of_woken woken hl

/-- EXIT of a handler's last lanes: the group leaves handler mode, and is finished where no lane of the trap LP is left (20 R453). -/
theorem exit_leavesHandler (mode : x.g.handler = true) (last : x.g.remain &&& ~~~x.act = 0) :
    let named (l : Nat) : Bool := Mask.has (x.g.tlanes.setWidth 32) l
    let left := ∃ l, l < 32 ∧ named l = false ∧ (sget Lp.none x.g.trapLp l).st.remaining = true
    ∃ t g', exec (.exit h) s = .next t ∧ t.group? x.iss.who = some g' ∧ g'.handler = false ∧
      (∀ l, l < 32 → g'.lpOf l = if named l then
          { sget Lp.none x.g.trapLp l with st := .exited, pc := x.g.tpc.setWidth 48 }
        else sget Lp.none x.g.trapLp l) ∧
      (∀ l, l < 32 → (sget Lp.none g'.snap l).st = if named l then .exited else (sget Lp.none x.g.snap l).st) ∧
      (left → QuietFrame s t x.iss.who ∧
        Left x.g g' fun e => { e with st := .exited, pc := x.g.tpc.setWidth 48 }) ∧
      (¬left → g'.finished = true) := by
  intro named left
  obtain ⟨g₁, hg₁, performed, regs, trap, stands, _, _, snap⟩ := exit_issued hx
  have none : g₁.remain = 0 := by rwa [stands.remain_eq_zero_iff, Group.remain_exitWord]
  have run := (execExit_eq hx).trans (congrArg _ (State.lanesGone_handler hg₁ (trap.1.trans mode) none))
  obtain ⟨hg₂, quiet⟩ := State.handlerOver_group hg₁
  have ⟨_, _, _, tpc, _, tlanes, _⟩ := trap
  have out : Left x.g g₁.outOfHandler fun e => { e with st := .exited, pc := x.g.tpc.setWidth 48 } :=
    (tpc ▸ g₁.outOfHandler_left).congr regs trap
  have snapped {l : Nat} (hl : l < 32) : (sget Lp.none g₁.outOfHandler.snap l).st =
      if named l then .exited else (sget Lp.none x.g.snap l).st := by
    rw [Group.snap_outOfHandler g₁ hl, snap, Group.snap_exitLanes, mode, tlanes]
    simp [named]
  have remains : left ↔ g₁.outOfHandler.remain ≠ 0 := by
    rw [Ne, Group.remain_eq_zero_iff]
    simp only [left, not_forall, Bool.not_eq_false, exists_prop]
    refine exists_congr fun l => and_congr_right fun hl => ?_
    rw [out.lp l hl]
    cases e : named l with
    | true => simp [named] at e; simp [e, LSt.remaining]
    | false => simp [named] at e; simp [e]
  obtain ⟨g₂, hg₃, lp, hmode, hsnap⟩ := State.groupOver_snap hg₂
  by_cases hleft : left
  · have goes : (State.handlerOver _ x.iss.who).groupOver x.iss.who = _ := State.groupOver_remain hg₂ (remains.mp hleft)
    rw [goes] at run
    exact ⟨_, _, run, hg₂, rfl, out.lp, fun l hl => snapped hl, fun _ => ⟨performed.frame.trans quiet, out⟩, fun k => absurd hleft k⟩
  · have ended : g₂.remain = 0 := (Group.remain_congr lp).trans (not_not.mp (mt remains.mpr hleft))
    refine ⟨_, g₂, run, hg₃, hmode, fun l hl => ?_, fun l hl => ?_, fun k => absurd k hleft, fun _ => ?_⟩
    · rw [Group.lpOf, lp]
      exact out.lp l hl
    · rw [hsnap]
      exact snapped hl
    · rw [Group.finished, hmode, ended]
      rfl

end

/-! ## REGION (07 R159, R160) -/

/-- The group with the boundary that REGION records, and its tag. -/
def Group.regionMark (g : Group) (act : Mask) (pc : Pc) (len : Nat) (tag : BitVec 16) : Group :=
  { g.boundary act pc len with regionTag := tag }

theorem Group.regionMark_eq (g : Group) (act : Mask) (pc : Pc) (len : Nat) (tag : BitVec 16) :
    ∃ snap ports, g.regionMark act pc len tag = { g with snap := snap, portSnap := ports, regionTag := tag } := by
  unfold Group.regionMark Group.boundary
  split
  · exact ⟨_, _, rfl⟩
  · exact ⟨_, _, rfl⟩

/-- A boundary of active lanes is recorded. -/
theorem Group.recorded_boundary (x : Ctx) (h : x.act ≠ 0) {g' : Group} (snap : g'.snap = (x.g.boundary x.act x.iss.pc x.iss.len).snap)
    (ports : g'.portSnap = (x.g.boundary x.act x.iss.pc x.iss.len).portSnap) : Recorded x g' := by
  have act : (x.act == 0) = false := beq_eq_false_iff_ne.mpr h
  refine ⟨fun mode => ?_, fun mode => ?_⟩
  · rw [snap, ports, Group.boundary, mode]
    exact ⟨rfl, rfl⟩
  · rw [snap, ports, Group.boundary, mode, act]
    refine ⟨fun l hl => ?_, fun _ => rfl⟩
    refine (foldl_sset_lanes (d := Lp.none)
      (fun l _ => { st := .live, depth := (x.g.lpOf l).depth, pc := x.iss.pc + BitVec.ofNat 48 x.iss.len }) l
      x.act.lanes x.g.snap (Mask.nodup_lanes x.act)).trans ?_
    exact if_congr (Mask.mem_lanes.trans (and_iff_right hl)) rfl rfl

/-- A word whose context is there in a later state too. -/
theorem State.again_eq {s : State} {x : Ctx} {c : Crew} {g : Group} (hc : s.crew? x.iss.who.crew = some c)
    (hg : s.group? x.iss.who = some g) : s.again x = { x with c := c, g := g } := by
  rw [State.again, hc, hg]

/-- A word goes on where no entry is held any more (09 R220). -/
theorem State.commitGate_go {s : State} {x : Ctx} {k : State → Ctx → State} {c : Crew} {g : Group}
    (hc : (s.commitHeld x.iss.who).crew? x.iss.who.crew = some c) (hg : (s.commitHeld x.iss.who).group? x.iss.who = some g)
    (held : g.hasHeld = false) : s.commitGate x true k = k (s.commitHeld x.iss.who) { x with c := c, g := g } := by
  have free : ¬g.hasHeld = true := by rw [held]; exact Bool.false_ne_true
  refine (if_neg Bool.false_ne_true).trans ?_
  dsimp only
  rw [State.again_eq hc hg]
  exact if_neg free

/-- The state and the context in which REGION performs, where no entry is held any more. -/
theorem execRegion_eq {h : Hdr} {tag : BitVec 16} {s : State} {x : Ctx} (hx : s.ctx? h = some x) (act : x.act ≠ 0) {c : Crew}
    {g : Group} (hc : (s.commitHeld x.iss.who).crew? x.iss.who.crew = some c)
    (hg : (s.commitHeld x.iss.who).group? x.iss.who = some g) (held : g.hasHeld = false) :
    exec (.region h tag) s =
      .next (((s.commitHeld x.iss.who).updGroup x.iss.who fun g => g.regionMark x.act x.iss.pc x.iss.len tag).retire
        { x with c := c, g := g } h) := by
  change Host.Outcome.next (s.withCtx h _) = _
  rw [State.withCtx_some hx, if_neg act]
  rw [State.commitGate_go hc hg held, State.again_eq (x := { x with c := c, g := g }) hc hg]
  rfl

/-- What REGION's issue leaves of the group in which it performs. -/
theorem region_issued {h : Hdr} {tag : BitVec 16} {s : State} {x : Ctx} {c : Crew} {g : Group} (hc : s.crew? x.iss.who.crew = some c)
    (hg : s.group? x.iss.who = some g) :
    let t := (s.updGroup x.iss.who fun g => g.regionMark x.act x.iss.pc x.iss.len tag).retire x h
    Spends s t x.iss.who c.core c.vf ∧ ∃ g', t.group? x.iss.who = some g' ∧ g.WentOn g' x.iss.set x.iss.len ∧
      (g.regionMark x.act x.iss.pc x.iss.len tag).IssueRest g' := by
  intro t
  obtain ⟨spends, g', hg', lanes, rest⟩ := Spends.retire
    (State.crew?_updGroup (f := fun g => g.regionMark x.act x.iss.pc x.iss.len tag) hc) (State.group?_updGroup hg) h
  obtain ⟨snap, ports, e⟩ := g.regionMark_eq x.act x.iss.pc x.iss.len tag
  refine ⟨(Spends.updGroup s _ _ _ _).trans spends, g', hg', ?_, rest⟩
  rw [e] at lanes
  exact ⟨lanes.pc, lanes.depth, lanes.gone, lanes.remain⟩

/-- REGION of a group without a held entry. -/
theorem region_records {h : Hdr} {tag : BitVec 16} {s : State} {x : Ctx} (hx : s.ctx? h = some x) (act : x.act ≠ 0)
    (held : x.g.hasHeld = false) :
    ∃ t g', exec (.region h tag) s = .next t ∧ Performed s t x g' ∧ x.g.SameRegs g' ∧ x.g.SameTrap g' ∧
      x.g.WentOn g' x.iss.set x.iss.len ∧ Recorded x g' ∧ g'.regionTag = tag ∧ g'.ports = x.g.ports ∧ g'.sb = x.g.sb := by
  obtain ⟨_, hc, hg, _, _⟩ := State.ctx?_some hx
  have still := State.commitHeld_none hg held
  have run := execRegion_eq (tag := tag) hx act (still.symm ▸ hc) (still.symm ▸ hg) held
  rw [still] at run
  obtain ⟨spends, g', hg', lanes, rest⟩ := region_issued (h := h) (tag := tag) hc hg
  have regs := rest.sameRegs
  have trap := rest.sameTrap
  have snap : g'.snap = (x.g.boundary x.act x.iss.pc x.iss.len).snap := (congrArg Group.snap rest :)
  have portSnap : g'.portSnap = (x.g.boundary x.act x.iss.pc x.iss.len).portSnap := (congrArg Group.portSnap rest :)
  have ports := congrArg Group.ports rest
  have sb := congrArg Group.sb rest
  obtain ⟨snap', ports', e⟩ := x.g.regionMark_eq x.act x.iss.pc x.iss.len tag
  rw [e] at regs trap ports sb
  exact ⟨_, g', run, spends.toPerformed hx hg', regs, trap, lanes, Group.recorded_boundary x act snap portSnap,
    congrArg Group.regionTag rest, ports, sb⟩

/-- REGION commits a buffer of at most 256 stores whole. -/
theorem region_commits {h : Hdr} {tag : BitVec 16} {s : State} {x : Ctx} (hx : s.ctx? h = some x) (act : x.act ≠ 0)
    (few : x.g.sb.length ≤ 256) :
    ∃ t g', exec (.region h tag) s = .next t ∧ IssueFrame s t x.iss.who ∧ t.group? x.iss.who = some g' ∧
      x.g.SameRegs g' ∧ g'.hasHeld = false ∧ g'.sb.length = x.g.sb.length ∧ g'.regionTag = tag ∧
      x.g.WentOn g' x.iss.set x.iss.len := by
  obtain ⟨_, _, hg, _, _⟩ := State.ctx?_some hx
  have commits := Commits.commitHeld hg
  obtain ⟨later, hg₁⟩ := commits.group _ hg
  obtain ⟨none, length⟩ := Group.none_held (g' := { x.g with sb := x.g.leaving.foldl commitMark x.g.sb, later := later }) few rfl
  generalize hu : ({ x.g with sb := x.g.leaving.foldl commitMark x.g.sb, later := later } : Group) = u at hg₁ none length
  obtain ⟨c, hc, _⟩ := State.group?_some hg₁
  have run := execRegion_eq (tag := tag) hx act hc hg₁ none
  obtain ⟨spends, g', hg', lanes, rest⟩ := region_issued (x := { x with c := c, g := u }) (h := h) (tag := tag) hc hg₁
  obtain ⟨snap, ports, e⟩ := u.regionMark_eq x.act x.iss.pc x.iss.len tag
  have tagged := congrArg Group.regionTag rest
  rw [e] at rest
  have sb : g'.sb = u.sb := (congrArg Group.sb rest :)
  have regs := rest.sameRegs
  refine ⟨_, g', run, commits.frame.trans spends.frame, hg', ?_, ?_, ?_, tagged, ?_⟩
  · rw [← hu] at regs
    exact regs
  · rw [Group.hasHeld, sb]
    exact none
  · rw [sb, length]
  · rw [← hu] at lanes
    exact ⟨lanes.pc, lanes.depth, lanes.gone, lanes.remain⟩

/-- Settles O16: EXIT by the lanes that it leaves (`exit_leaves`, `exit_leavesHandler`, `exit_finishes`), REGION by the stores that it
has to commit (`region_records`, `region_commits`). -/
theorem exitAndRegionWords : Obligations.ExitAndRegionWords :=
  ⟨⟨fun _ _ _ => exit_leaves, fun _ _ _ => exit_leavesHandler, fun _ _ _ => exit_finishes⟩,
    fun _ _ _ _ => region_records, fun _ _ _ _ => region_commits⟩

end Sys2Proof.Machine
end

section
/-! SUPPORT. What the homes change as they read and write their words, and the words that they write. -/

namespace Sys2Proof.Machine

/-! ## The frame of the homes -/

/-- Crews, queues and the cycle are as before: all that a home does is of caches, memory, controllers and messages. -/
def HomeOnly (s t : State) : Prop := (t.crews, t.queues, t.cycle) = (s.crews, s.queues, s.cycle)

namespace HomeOnly

variable {s t u : State}

theorem refl (s : State) : HomeOnly s s := rfl

theorem same (h : HomeOnly s t) (e : (u.crews, u.queues, u.cycle) = (t.crews, t.queues, t.cycle)) : HomeOnly s u := e.trans h

theorem crews (h : HomeOnly s t) : t.crews = s.crews := congrArg (·.1) h

theorem queues (h : HomeOnly s t) : t.queues = s.queues := congrArg (·.2.1) h

theorem cycle (h : HomeOnly s t) : t.cycle = s.cycle := congrArg (·.2.2) h

theorem ite {c : Prop} [Decidable c] (ht : HomeOnly s t) (hu : HomeOnly s u) : HomeOnly s (if c then t else u) := by
  split
  · exact ht
  · exact hu

theorem fst {α : Type} {p : State × α} {a : α} (h : HomeOnly s p.1) (e : p = (t, a)) : HomeOnly s t := by
  subst e
  exact h

theorem foldl {α : Type} {f : State → α → State} (hf : ∀ t a, HomeOnly s t → HomeOnly s (f t a)) {l : List α} (h : HomeOnly s t) :
    HomeOnly s (l.foldl f t) := by
  induction l generalizing t with
  | nil => exact h
  | cons a l ih => exact ih (hf t a h)

theorem send (h : HomeOnly s t) {e : Instr} : HomeOnly s (t.send e) := h.same (by simp)

theorem updCtrl (h : HomeOnly s t) {i : Nat} {f : Ctrl → Ctrl} : HomeOnly s (t.updCtrl i f) := h.same rfl

theorem updSlice (h : HomeOnly s t) {i : Nat} {f : Slice → Slice} : HomeOnly s (t.updSlice i f) := h.same rfl

theorem setHbm64 (h : HomeOnly s t) {pa : Nat} {v : Word} : HomeOnly s (t.setHbm64 pa v) := h.same rfl

theorem newTag (h : HomeOnly s t) : HomeOnly s t.newTag.2 := h.same rfl

theorem escort (h : HomeOnly s t) {node bytes : Nat} {up : Bool} : HomeOnly s (t.escort node bytes up) := by
  unfold State.escort
  dsimp only
  split <;> exact h.same rfl

theorem walkFill (h : HomeOnly s t) {c asid va : Nat} {rights : Attr → Bool} {wr : Bool} :
    HomeOnly s (t.walkFill c asid va rights wr).1 := by
  unfold State.walkFill
  split
  · exact h
  · exact h
  · dsimp only
    split
    · exact h
    · dsimp only
      exact .updCtrl <| .ite h h.setHbm64

theorem translate (h : HomeOnly s t) {c asid va : Nat} {rights : Attr → Bool} {wr : Bool} {held : Attr → Bool} :
    HomeOnly s (t.translate c asid va rights wr held).1 := by
  unfold State.translate
  split
  · exact h.walkFill
  · dsimp only
    split
    · dsimp only
      exact h.updCtrl
    · exact .walkFill h.updCtrl

theorem countAcc (h : HomeOnly s t) {c asid va : Nat} {wr : Bool} : HomeOnly s (t.countAcc c asid va wr) :=
  .ite h <| .ite (.send (h.same (by rfl))) (h.same (by rfl))

theorem backWrite (h : HomeOnly s t) {ap : Apt} {pa : Nat} {bs : List Byte} : HomeOnly s (t.backWrite ap pa bs) :=
  .ite (h.same rfl) (h.same rfl)

theorem setPoison (h : HomeOnly s t) {ap : Apt} {pa : Nat} {b : Bool} : HomeOnly s (t.setPoison ap pa b) :=
  .ite (h.same rfl) (h.same rfl)

theorem writeBack (h : HomeOnly s t) {b : Blk} : HomeOnly s (t.writeBack b) :=
  .foldl (fun _ _ h => h.backWrite.setPoison) <| .ite h.escort h

theorem foldl_writeBack (h : HomeOnly s t) {bs : List Blk} : HomeOnly s (bs.foldl State.writeBack t) :=
  .foldl (fun _ _ h => h.writeBack) h

theorem cleanHome (h : HomeOnly s t) {q : Blk → Bool} : HomeOnly s (t.cleanHome q) :=
  .same (.foldl (fun _ _ h => h.foldl_writeBack) h) (by rfl)

theorem dropHome (h : HomeOnly s t) {q : Blk → Bool} : HomeOnly s (t.dropHome q) := .same h.cleanHome (by rfl)

theorem reclaimDir (h : HomeOnly s t) {keep : DirEnt → Bool} : HomeOnly s (t.reclaimDir keep) := by
  unfold State.reclaimDir
  split
  · exact h
  · exact .same h.dropHome (by dsimp only; rfl)

theorem dirFill (h : HomeOnly s t) {pa n : Nat} : HomeOnly s (t.dirFill pa n) :=
  .foldl (fun _ _ h => .ite (h.same (by rfl)) <| .same (.ite h h.reclaimDir) (by rfl)) (h.same (by rfl))

theorem fillSlice (h : HomeOnly s t) {i : Nat} {loc : Bool} {nb : Blk} {hf hl lo hi : Nat} :
    HomeOnly s (t.fillSlice i loc nb hf hl lo hi) := by
  unfold State.fillSlice
  exact .ite (.updSlice h.newTag) <| .ite (.updSlice h.newTag) <| .updSlice <| .foldl_writeBack (.updSlice h.newTag)

theorem fillHome (h : HomeOnly s t) {asid va first last : Nat} {y : Xl} : HomeOnly s (t.fillHome asid va first last y) := by
  have filled : HomeOnly s (if y.attr.ap = .host then t.dirFill (y.pa - va % 512 + 16 * first) (16 * (last + 1 - first)) else t) :=
    .ite h.dirFill h
  exact .fillSlice <| .ite (.foldl (fun _ _ h => h.same (by rfl)) filled) filled

theorem follow (h : HomeOnly s t) {asid va : Nat} {y : Xl} : HomeOnly s (t.follow asid va y) := by
  unfold State.follow
  split
  · exact h
  · exact .ite h <| .ite h.dropHome <| .ite (.dirFill (h.same (by rfl))) (h.same (by rfl))

theorem ensureHome (h : HomeOnly s t) {asid va : Nat} {y : Xl} {wr : Bool} : HomeOnly s (t.ensureHome asid va y wr) := by
  have asked : HomeOnly s (if y.attr.ap = .host then t.escort (sliceNode (homeOf va))
      (16 * ((t.homeRun asid va (wordOf va) (wordOf va)).2 + 1 - (t.homeRun asid va (wordOf va) (wordOf va)).1)) false else t) :=
    .ite h.escort h
  exact .ite (.ite h.follow h) <| .ite h <| .fillHome <| .ite asked.countAcc asked

theorem storeBlk (h : HomeOnly s t) {asid va : Nat} {bs : List Byte} {clk : Nat} {b : Blk} {victim : Bool} {access : Nat} :
    HomeOnly s (t.storeBlk asid va bs clk b victim access).2 := .updSlice <| .updSlice h.newTag

end HomeOnly

/-! ## A write of the home itself (15 R522) -/

/-- The pieces of a write are translated, there at their homes, and stored, one after the other. -/
theorem State.homeWritePieces_cons {s : State} {asid clk va : Nat} {bs : List Byte} {access : Nat} {c : Nat × Nat} {ps : List (Nat × Nat)}
    {wt : Nat} {r : Nat × State} (e : s.homeWritePieces asid clk va bs access (c :: ps) wt = some r) :
    ∃ u x b, s.translate (ctrlOf (homeOf c.1)) asid c.1 (·.w) true = (u, .ok x) ∧
      (u.ensureHome asid c.1 x true).homeBlk asid c.1 = some b ∧
      let w := (u.ensureHome asid c.1 x true).storeBlk asid c.1 ((bs.drop (c.1 - va)).take c.2) clk b false access
      w.2.homeWritePieces asid clk va bs access ps (max wt w.1) = some r := by
  unfold State.homeWritePieces at e
  split at e
  next u x heq =>
    dsimp only at e
    split at e
    · cases e
    next b hb => exact ⟨u, x, b, heq, hb, e⟩
  · cases e

theorem HomeOnly.homeWritePieces {s t : State} {asid clk va : Nat} {bs : List Byte} {access : Nat} {ps : List (Nat × Nat)}
    {wt : Nat} {r : Nat × State} (h : HomeOnly s t) (e : t.homeWritePieces asid clk va bs access ps wt = some r) : HomeOnly s r.2 := by
  induction ps generalizing t wt with
  | nil =>
    cases e
    exact h
  | cons c ps ih =>
    obtain ⟨u, x, b, heq, _, e⟩ := State.homeWritePieces_cons e
    exact ih (.storeBlk (.ensureHome (h.translate.fst heq))) e

theorem HomeOnly.homeWrite {s : State} {asid va : Nat} {bs : List Byte} {clk : Nat} {r : Nat × State}
    (e : s.homeWrite asid va bs clk = some r) : HomeOnly s r.2 := (HomeOnly.refl s).newTag.homeWritePieces e

/-! ## Blocks of a home that is written -/

theorem find?_lupdFirst {α : Type} {p q : α → Bool} {f : α → α} (hq : ∀ y, q (f y) = q y) {x : α} :
    ∀ {l : List α}, l.find? q = some x → (lupdFirst p f l).find? q = some x ∨ (lupdFirst p f l).find? q = some (f x)
  | y :: l, h => by
    rw [List.find?_cons] at h
    unfold lupdFirst
    cases hy : q y with
    | true =>
      obtain rfl : y = x := by simpa [hy] using h
      split
      · exact .inr (by rw [List.find?_cons, hq, hy])
      · exact .inl (by rw [List.find?_cons, hy])
    | false =>
      rw [hy] at h
      split
      · exact .inl (by rw [List.find?_cons, hq, hy]; exact h)
      · rw [List.find?_cons, hy]
        exact find?_lupdFirst hq h

/-- A block whose times are raised to a BASE. -/
def Blk.raised (m : Nat) (b : Blk) : Blk := { b with wt := max b.wt m, le := max b.le m }

/-- The home blocks of a slice after a write time has come (13 R328). -/
theorem Slice.home_rebase (sl : Slice) {wt : Nat} (h : 0 < wt) : ∃ m < wt, (sl.rebase wt).home = sl.home.map (Blk.raised m) := by
  unfold Slice.rebase
  split
  · refine ⟨0, h, ?_⟩
    have idle : Blk.raised 0 = id := by
      funext b
      simp [Blk.raised]
    rw [idle, List.map_id]
  · exact ⟨wt - 2 ^ 23, by omega, rfl⟩

/-- What a store makes of the home block of a word. -/
theorem State.homeBlk_storeBlk {s : State} {asid va : Nat} {bs : List Byte} {clk : Nat} {b : Blk} {victim : Bool} {access : Nat} :
    ∃ (m : Nat) (f : Blk → Blk), m < max clk (b.le + 1) ∧
      (∀ b : Blk, f b = { b.store va bs (max clk (b.le + 1)) access with used := s.fresh, victim := b.victim || victim }) ∧
      ∀ k v, (s.storeBlk asid va bs clk b victim access).2.homeBlk k v =
        if homeOf v = homeOf va then findBlk (updBlk ((s.slice (homeOf va)).home.map (Blk.raised m)) asid va f) k v
        else s.homeBlk k v := by
  obtain ⟨m, hm, home⟩ := (s.slice (homeOf va)).home_rebase (wt := max clk (b.le + 1)) (by omega)
  refine ⟨m, fun b => { b.store va bs (max clk (b.le + 1)) access with used := s.fresh, victim := b.victim || victim }, hm,
    fun _ => rfl, fun k v => ?_⟩
  split
  · next e =>
    rw [State.homeBlk, e, ← home]
    unfold State.storeBlk State.setHome
    dsimp only
    rw [State.slice_updSlice, State.slice_updSlice]
    rfl
  · next e =>
    unfold State.storeBlk State.setHome State.homeBlk
    dsimp only
    rw [State.slice_updSlice_ne e, State.slice_updSlice_ne e]
    rfl

theorem findBlk_map {f : Blk → Blk} {asid va : Nat} (hf : ∀ b, (f b).holds asid va = b.holds asid va) (l : List Blk) :
    findBlk (l.map f) asid va = (findBlk l asid va).map f := by
  rw [findBlk, List.find?_map]
  exact congrArg (Option.map f ·) (congrArg (List.find? · l) (funext hf))

/-- A store leaves every home block in its place: it, or another, changes its bytes as the store says or keeps them; dirty words stay
dirty. -/
theorem State.homeBlk_stored {s : State} {asid va : Nat} {bs : List Byte} {clk : Nat} {b c : Blk} {victim : Bool} {access k v : Nat}
    (hc : s.homeBlk k v = some c) : ∃ c', (s.storeBlk asid va bs clk b victim access).2.homeBlk k v = some c' ∧
      (c'.data = c.data ∨ c'.data = Memory.write c.data (va % 512) bs) ∧ (c.dirty ≠ 0 → c'.dirty ≠ 0) := by
  obtain ⟨m, f, _, hf, found⟩ := s.homeBlk_storeBlk (asid := asid) (va := va) (bs := bs) (clk := clk) (b := b) (victim := victim)
    (access := access)
  rw [found]
  split
  · next e =>
    have old : findBlk ((s.slice (homeOf va)).home.map (Blk.raised m)) k v = some (c.raised m) := by
      rw [findBlk_map (f := Blk.raised m) (fun _ => rfl), ← e]
      exact congrArg (Option.map _) hc
    rcases find?_lupdFirst (p := fun b => b.holds asid va) (f := f) (fun y => by rw [hf]; rfl) old with h | h
    · exact ⟨_, h, .inl rfl, id⟩
    · refine ⟨_, h, .inr (by rw [hf]; rfl), fun hd => ?_⟩
      rw [hf]
      exact fun z => hd (BitVec.or_eq_zero_iff.mp z).1
  · exact ⟨c, hc, .inl rfl, id⟩

/-- The home block of the word that a store has written. -/
theorem State.homeBlk_written {s : State} {asid va : Nat} {bs : List Byte} {clk : Nat} {b : Blk} {victim : Bool} {access : Nat}
    (hb : s.homeBlk asid va = some b) :
    ∃ b', (s.storeBlk asid va bs clk b victim access).2.homeBlk asid va = some b' ∧ b'.read va bs.length = bs ∧
      b'.wt = (s.storeBlk asid va bs clk b victim access).1 := by
  obtain ⟨m, f, hm, hf, found⟩ := s.homeBlk_storeBlk (asid := asid) (va := va) (bs := bs) (clk := clk) (b := b) (victim := victim)
    (access := access)
  have old : findBlk ((s.slice (homeOf va)).home.map (Blk.raised m)) asid va = some (b.raised m) := by
    rw [findBlk_map (f := Blk.raised m) (fun _ => rfl)]
    exact congrArg (Option.map _) hb
  refine ⟨f (b.raised m), ?_, ?_, ?_⟩
  · rw [found, if_pos rfl]
    exact find?_lupdFirst_same (fun y hy => by rw [hf]; exact hy) old
  · rw [hf]
    exact Memory.read_write b.data (va % 512) bs
  · rw [hf]
    change max clk (max b.le m + 1) = max clk (b.le + 1)
    omega

theorem Memory.read_write_apart (m : Memory) {a j n : Nat} (bs : List Byte) (h : j + n ≤ a ∨ a + bs.length ≤ j) :
    (m.write a bs).read j n = m.read j n := by
  refine List.map_congr_left fun k hk => Memory.get_write_out bs ?_
  have := List.mem_range.mp hk
  omega

/-! ## Records in their slots -/

/-- Bytes at their home. -/
def State.holdsBytes (s : State) (asid va : Nat) (bs : List Byte) : Prop :=
  ∃ b, s.homeBlk asid va = some b ∧ b.read va bs.length = bs

theorem State.holdsBytes_stored {s : State} {asid va : Nat} {bs : List Byte} {clk : Nat} {b : Blk} {victim : Bool} {access k v : Nat}
    {cs : List Byte} (h : s.holdsBytes k v cs) (words : wordOf v ≠ wordOf va) (hv : v % 16 + cs.length ≤ 16)
    (ha : va % 16 + bs.length ≤ 16) : (s.storeBlk asid va bs clk b victim access).2.holdsBytes k v cs := by
  obtain ⟨c, hc, hr⟩ := h
  obtain ⟨c', hc', data, _⟩ := State.homeBlk_stored (bs := bs) (asid := asid) (va := va) (clk := clk) (b := b) (victim := victim)
    (access := access) hc
  refine ⟨c', hc', ?_⟩
  rcases data with e | e
  · rw [Blk.read, e]
    exact hr
  · rw [Blk.read, e, Memory.read_write_apart]
    · exact hr
    · unfold wordOf at words
      omega

/-- Translation touches no cache. -/
theorem State.translate_slices {s u : State} {c asid va : Nat} {rights : Attr → Bool} {wr : Bool} {x : XOut}
    (e : s.translate c asid va rights wr = (u, x)) : u.slices = s.slices := by
  have walk (s : State) : (s.walkFill c asid va rights wr).1.slices = s.slices := by
    have marked (q : Prop) [Decidable q] (pa : Nat) (v : Word) : (if q then s else s.setHbm64 pa v).slices = s.slices := by
      split <;> rfl
    unfold State.walkFill
    split
    · rfl
    · rfl
    · dsimp only
      split
      · rfl
      · dsimp only
        exact (State.updCtrl_slices ..).trans (marked _ _ _)
  have key : (s.translate c asid va rights wr).1.slices = s.slices := by
    unfold State.translate
    split
    · exact walk s
    · dsimp only
      split
      · dsimp only
        exact State.updCtrl_slices ..
      · exact (walk _).trans (State.updCtrl_slices ..)
  rw [e] at key
  exact key

theorem State.homeBlk_congr {s t : State} (h : t.slices = s.slices) (asid va : Nat) : t.homeBlk asid va = s.homeBlk asid va := by
  rw [State.homeBlk, State.homeBlk, State.slice, State.slice, h]

/-- A dirty home block stands for its frame as it is (15 R386). -/
theorem State.ensureHome_dirty {s : State} {asid va : Nat} {x : Xl} {b : Blk} (hb : s.homeBlk asid va = some b) (hd : b.dirty ≠ 0) :
    s.ensureHome asid va x true = s := by
  unfold State.ensureHome State.follow
  rw [hb]
  simp only [Option.isSome_some, if_true]
  exact if_pos (.inl hd)

/-! ## The pieces of a record -/

/-- Pieces that lie in one word each, and in different words of their spans. -/
structure Pieces (va n : Nat) (ps : List (Nat × Nat)) : Prop where
  bound : ∀ c ∈ ps, va ≤ c.1 ∧ c.1 + c.2 ≤ va + n ∧ c.1 % 16 + c.2 ≤ 16
  apart : ps.Pairwise fun c d => wordOf c.1 ≠ wordOf d.1

theorem Pieces.tail {va n : Nat} {c : Nat × Nat} {ps : List (Nat × Nat)} (h : Pieces va n (c :: ps)) : Pieces va n ps :=
  ⟨fun d hd => h.bound d (List.mem_cons_of_mem _ hd), (List.pairwise_cons.mp h.apart).2⟩

theorem pieces_wordPieces {va n : Nat} (h : n ≤ 256) : Pieces va n (wordPieces va n) where
  bound c hc := by
    obtain ⟨k, hk, rfl⟩ := List.mem_map.mp hc
    have := List.mem_range.mp hk
    dsimp only
    omega
  apart := by
    refine List.pairwise_map.mpr (List.nodup_range.imp_of_mem fun {j k} hj hk ne => ?_)
    have hj := List.mem_range.mp hj
    have hk := List.mem_range.mp hk
    unfold wordOf
    dsimp only
    omega

/-- Bytes of one word are one piece. -/
theorem wordPieces_one {va n : Nat} (h0 : 0 < n) (h : va % 16 + n ≤ 16) : wordPieces va n = [(va, n)] := by
  have one : (va + n + 15) / 16 - va / 16 = 1 := by omega
  have first : max va ((va / 16 + 0) * 16) = va := by omega
  have last : min (va + n) ((va / 16 + 0 + 1) * 16) - va = n := by omega
  rw [wordPieces, one, List.range_one, List.map_singleton, first]
  exact congrArg (fun k => [(va, k)]) last

/-- The bytes of a record that a piece holds. -/
def pieceBytes (va : Nat) (bs : List Byte) (c : Nat × Nat) : List Byte := (bs.drop (c.1 - va)).take c.2

theorem length_pieceBytes {va : Nat} {bs : List Byte} {c : Nat × Nat} {ps : List (Nat × Nat)} (h : Pieces va bs.length ps) (hc : c ∈ ps) :
    (pieceBytes va bs c).length = c.2 := by
  obtain ⟨_, _, _⟩ := h.bound c hc
  rw [pieceBytes, List.length_take, List.length_drop]
  omega

/-- Every piece's words stand dirty at their homes. -/
def State.dirtyAt (s : State) (asid : Nat) (ps : List (Nat × Nat)) : Prop := ∀ c ∈ ps, ∃ b, s.homeBlk asid c.1 = some b ∧ b.dirty ≠ 0

section
variable {asid clk va access : Nat} {bs : List Byte}

/-- Pieces whose words stand dirty at their homes are stored there and nowhere else: the state before the first store is the one that the
translation leaves. -/
theorem State.homeWritePieces_dirty {s : State} {c : Nat × Nat} {ps : List (Nat × Nat)} {wt : Nat} {r : Nat × State}
    (e : s.homeWritePieces asid clk va bs access (c :: ps) wt = some r) (hd : s.dirtyAt asid (c :: ps)) :
    ∃ (u : State) (b : Blk), (∀ k v, u.homeBlk k v = s.homeBlk k v) ∧ u.homeBlk asid c.1 = some b ∧
      let w := u.storeBlk asid c.1 (pieceBytes va bs c) clk b false access
      w.2.dirtyAt asid ps ∧ w.2.homeWritePieces asid clk va bs access ps (max wt w.1) = some r := by
  obtain ⟨u, x, b, heq, hb, e⟩ := State.homeWritePieces_cons e
  have home (k v : Nat) : u.homeBlk k v = s.homeBlk k v := State.homeBlk_congr (State.translate_slices heq) k v
  obtain ⟨b₀, hb₀, dirty⟩ := hd c (List.mem_cons_self)
  rw [State.ensureHome_dirty ((home _ _).trans hb₀) dirty] at hb e
  refine ⟨u, b, home, hb, fun d hdp => ?_, e⟩
  obtain ⟨b₁, hb₁, dirty₁⟩ := hd d (List.mem_cons_of_mem _ hdp)
  obtain ⟨b', hb', _, keeps⟩ := State.homeBlk_stored (asid := asid) (va := c.1) (bs := pieceBytes va bs c) (clk := clk) (b := b)
    (victim := false) (access := access) ((home _ _).trans hb₁)
  exact ⟨b', hb', keeps dirty₁⟩

/-- Bytes in other words stay. -/
theorem State.homeWritePieces_keeps {ps : List (Nat × Nat)} (hp : Pieces va bs.length ps) {d : Nat} {cs : List Byte}
    (hd : d % 16 + cs.length ≤ 16) (apart : ∀ c ∈ ps, wordOf d ≠ wordOf c.1) : ∀ {s : State} {wt : Nat} {r : Nat × State},
    s.homeWritePieces asid clk va bs access ps wt = some r → s.dirtyAt asid ps → s.holdsBytes asid d cs → r.2.holdsBytes asid d cs := by
  induction ps with
  | nil =>
    intro s wt r e _ held
    cases e
    exact held
  | cons c ps ih =>
    intro s wt r e dirty held
    obtain ⟨u, b, home, hb, dirty', e'⟩ := State.homeWritePieces_dirty e dirty
    refine ih hp.tail (fun c hc => apart c (List.mem_cons_of_mem _ hc)) e' dirty' ?_
    obtain ⟨b₀, hb₀, hr⟩ := held
    refine State.holdsBytes_stored ⟨b₀, (home _ _).trans hb₀, hr⟩ (apart c List.mem_cons_self) hd ?_
    rw [length_pieceBytes hp List.mem_cons_self]
    exact (hp.bound c List.mem_cons_self).2.2

/-- Every piece reads back at its home. -/
theorem State.homeWritePieces_readBack {ps : List (Nat × Nat)} (hp : Pieces va bs.length ps) : ∀ {s : State} {wt : Nat} {r : Nat × State},
    s.homeWritePieces asid clk va bs access ps wt = some r → s.dirtyAt asid ps →
    ∀ c ∈ ps, r.2.holdsBytes asid c.1 (pieceBytes va bs c) := by
  induction ps with
  | nil => exact fun _ _ _ hc => nomatch hc
  | cons p ps ih =>
    intro s wt r e dirty c hc
    obtain ⟨u, b, _, hb, dirty', e'⟩ := State.homeWritePieces_dirty e dirty
    rcases List.mem_cons.mp hc with rfl | hc
    · obtain ⟨b', hb', hr, _⟩ := State.homeBlk_written (bs := pieceBytes va bs c) (clk := clk) (victim := false) (access := access) hb
      refine State.homeWritePieces_keeps hp.tail ?_ (List.pairwise_cons.mp hp.apart).1 e' dirty' ⟨b', hb', hr⟩
      rw [length_pieceBytes hp List.mem_cons_self]
      exact (hp.bound c List.mem_cons_self).2.2
    · exact ih hp.tail e' dirty' c hc

end

/-- A record of one word reads back at its home, with the write's time. -/
theorem State.homeWrite_oneWord {s : State} {asid va clk : Nat} {bs : List Byte} {r : Nat × State}
    (e : s.homeWrite asid va bs clk = some r) (some_ : bs ≠ []) (one : va % 16 + bs.length ≤ 16) :
    ∃ b, r.2.homeBlk asid va = some b ∧ b.read va bs.length = bs ∧ b.wt = r.1 := by
  have e : s.newTag.2.homeWritePieces asid clk va bs (s.newTag.1 + 1) (wordPieces va bs.length) 0 = some r := e
  rw [wordPieces_one (List.length_pos_iff.mpr some_) one] at e
  obtain ⟨u, x, b, _, hb, e⟩ := State.homeWritePieces_cons e
  obtain ⟨b', hb', hr, hw⟩ := State.homeBlk_written (bs := (bs.drop (va - va)).take bs.length) (clk := clk) (victim := false)
    (access := s.newTag.1 + 1) hb
  have all : (bs.drop (va - va)).take bs.length = bs := by simp
  cases e
  rw [all] at hr
  exact ⟨b', hb', hr, hw.trans (Nat.zero_max _).symm⟩

/-- A record whose words stand dirty at their homes reads back there. -/
theorem State.homeWrite_dirty {s : State} {asid va clk : Nat} {bs : List Byte} {r : Nat × State}
    (e : s.homeWrite asid va bs clk = some r) (size : bs.length ≤ 256) (dirty : s.dirtyAt asid (wordPieces va bs.length)) :
    ∀ c ∈ wordPieces va bs.length, ∃ b, r.2.homeBlk asid c.1 = some b ∧ b.read c.1 c.2 = (bs.drop (c.1 - va)).take c.2 := by
  intro c hc
  have e : s.newTag.2.homeWritePieces asid clk va bs (s.newTag.1 + 1) (wordPieces va bs.length) 0 = some r := e
  have pieces := pieces_wordPieces (va := va) size
  obtain ⟨b, hb, hr⟩ := State.homeWritePieces_readBack pieces e dirty c hc
  rw [length_pieceBytes pieces hc] at hr
  exact ⟨b, hb, hr⟩

end Sys2Proof.Machine
end

section
/-! SUPPORT. What an append does to its queue (10 R253, 14 R356). -/

namespace Sys2Proof.Machine

/-! ## Queues by their number -/

theorem State.queue?_congr {s t : State} (h : t.queues = s.queues) (n : Nat) : t.queue? n = s.queue? n := by
  rw [State.queue?, State.queue?, h]

theorem State.queue?_num {s : State} {n : Nat} {q : Queue} (h : s.queue? n = some q) : q.num = n := by
  simpa using List.find?_some h

theorem State.queue?_updQueue {s : State} {n : Nat} {f : Queue → Queue} {q : Queue} (hf : ∀ q, (f q).num = q.num)
    (h : s.queue? n = some q) : (s.updQueue n f).queue? n = some (f q) :=
  find?_lupdFirst_same (by intro y hy; simpa [hf y] using hy) h

/-! ## Queues whose slots cannot be written -/

section
variable {s : State} {q : Queue} (e : Instr) (k : State)

theorem State.unlessShut_moves (h : s.queueMoves q = true) : s.unlessShut q e k = { s with sliceWait := s.sliceWait ++ [e] } := if_pos h

theorem State.unlessShut_shut (still : s.queueMoves q = false) (h : s.queueShut q = true) :
    s.unlessShut q e k = { s with flight := s.flight ++ [e] } := by
  rw [State.unlessShut, still, if_neg Bool.false_ne_true, if_pos h]

theorem State.unlessShut_open (h : s.queueShut q = false) : s.unlessShut q e k = k := by
  have still : s.queueMoves q = false := (Bool.or_eq_false_iff.mp h).1
  rw [State.unlessShut, still, h, if_neg Bool.false_ne_true, if_neg Bool.false_ne_true]

theorem State.unlessAny_open {num : Nat} (h : ∀ q, s.queue? num = some q → s.queueShut q = false) : s.unlessAny num e k = k := by
  unfold State.unlessAny
  split
  next q hq => exact State.unlessShut_open e k (h q hq)
  · rfl

end

/-! ## What an append leaves -/

/-- From one state to the next, as records come to a queue: crews stay, and slots of its pannier go out of service and do not come back. -/
structure Takes (num : Nat) (s t : State) : Prop where
  crews : t.crews = s.crews
  bad : ∀ q, s.queue? num = some q → ∃ q', t.queue? num = some q' ∧ q.panBad <+: q'.panBad

namespace Takes

variable {num : Nat} {s t u : State}

theorem refl (s : State) : Takes num s s := ⟨rfl, fun q h => ⟨q, h, q.panBad.prefix_rfl⟩⟩

theorem trans (h : Takes num s t) (h' : Takes num t u) : Takes num s u where
  crews := h'.crews.trans h.crews
  bad q hq := by
    obtain ⟨q₁, hq₁, p⟩ := h.bad q hq
    obtain ⟨q₂, hq₂, p'⟩ := h'.bad q₁ hq₁
    exact ⟨q₂, hq₂, p.trans p'⟩

theorem home (h : HomeOnly s t) : Takes num s t :=
  ⟨h.crews, fun q hq => ⟨q, (State.queue?_congr h.queues num).trans hq, q.panBad.prefix_rfl⟩⟩

theorem updQueue (h : Takes num s t) {f : Queue → Queue} (hf : ∀ q, (f q).num = q.num := by intro; rfl)
    (hb : ∀ q, q.panBad <+: (f q).panBad := by intro q; exact q.panBad.prefix_rfl) : Takes num s (t.updQueue num f) :=
  h.trans ⟨rfl, fun q hq => ⟨f q, State.queue?_updQueue hf hq, hb q⟩⟩

theorem panPlace {asid clk seq : Nat} {bs : List Byte} {k : Nat} : ∀ {s : State} {pos : Nat},
    Takes num s (s.panPlace num asid clk bs seq k pos).1 := by
  induction k with
  | zero => exact refl _
  | succ k ih =>
    intro s pos
    unfold State.panPlace
    split
    · exact refl _
    · dsimp only
      split
      · exact ih
      · split
        · exact ((refl s).updQueue (hb := by intro q; exact q.panBad.prefix_append _)).trans ih
        next wt u e => exact .updQueue (.home (HomeOnly.homeWrite e))

theorem append {bs : List Byte} {clk : Nat} : Takes num s (s.append num bs clk).1 := by
  unfold State.append
  split
  · exact refl _
  next q hq =>
    dsimp only
    split
    next wt u e =>
      have e : s.homeWrite q.asid (q.slotVa q.next) bs clk = some (wt, u) := (Option.ite_none_right_eq_some.mp e).2
      dsimp only
      exact .updQueue (.updQueue (.home (HomeOnly.homeWrite e)))
    · have placed := panPlace (s := s) (num := num) (asid := q.asid) (clk := clk) (bs := bs) (seq := q.next) (k := q.pancnt)
        (pos := q.panPos)
      split
      next u wt e =>
        rw [e] at placed
        exact .updQueue placed
      next u e =>
        rw [e] at placed
        exact placed

end Takes

/-! ## The records of a word -/

section
variable {s : State} {num clk : Nat} {waits : Bool} {r : Rec} {rs : List Rec} {q : Queue}

theorem State.appendLanes_gone (h : s.queue? num = none) :
    s.appendLanes num clk waits (r :: rs) = (s, (r :: rs).map fun r => (r.lane, .refused 2)) := by
  rw [State.appendLanes, h]

theorem State.appendLanes_refused {n : Nat} (h : s.queue? num = some q) (no : q.refusal true waits 0 = some n) :
    s.appendLanes num clk waits (r :: rs) =
      ((s.appendLanes num clk waits rs).1, (r.lane, .refused n) :: (s.appendLanes num clk waits rs).2) := by
  rw [State.appendLanes, h]
  dsimp only
  rw [no]

theorem State.appendLanes_noRoom {u : State} (h : s.queue? num = some q) (yes : q.refusal true waits 0 = none)
    (e : s.append num r.bytes clk = (u, none)) :
    s.appendLanes num clk waits (r :: rs) = (u, (r.lane, .noRoom num) :: rs.map fun r => (r.lane, .notDone)) := by
  rw [State.appendLanes, h]
  dsimp only
  rw [yes, e]

theorem State.appendLanes_accepted {u : State} {seq wt : Nat} (h : s.queue? num = some q) (yes : q.refusal true waits 0 = none)
    (e : s.append num r.bytes clk = (u, some (seq, wt))) :
    s.appendLanes num clk waits (r :: rs) =
      ((u.appendLanes num clk waits rs).1, (r.lane, .accepted seq) :: (u.appendLanes num clk waits rs).2) := by
  rw [State.appendLanes, h]
  dsimp only
  rw [yes, e]

end

/-- Each lane has its answer, in its order, and the queue has what it took. -/
theorem State.appendLanes_takes {num clk : Nat} {waits : Bool} {rs : List Rec} : ∀ {s : State},
    Takes num s (s.appendLanes num clk waits rs).1 ∧ (s.appendLanes num clk waits rs).2.map (·.1) = rs.map (·.lane) := by
  induction rs with
  | nil => exact ⟨.refl _, rfl⟩
  | cons r rs ih =>
    intro s
    cases hq : s.queue? num with
    | none =>
      rw [State.appendLanes_gone hq]
      exact ⟨.refl _, by simp⟩
    | some q =>
      cases no : q.refusal true waits 0 with
      | some n =>
        rw [State.appendLanes_refused hq no]
        exact ⟨ih.1, congrArg (r.lane :: ·) ih.2⟩
      | none =>
        have took := Takes.append (num := num) (s := s) (bs := r.bytes) (clk := clk)
        rcases e : s.append num r.bytes clk with ⟨u, _ | ⟨seq, wt⟩⟩
        · rw [e] at took
          rw [State.appendLanes_noRoom hq no e]
          exact ⟨took, by simp⟩
        · rw [e] at took
          rw [State.appendLanes_accepted hq no e]
          exact ⟨took.trans ih.1, congrArg (r.lane :: ·) ih.2⟩

/-- A record that finds its window slot free is written there and takes the next sequence number. -/
theorem State.append_window {s : State} {num clk : Nat} {bs : List Byte} {q : Queue} {p : Nat × State} (hq : s.queue? num = some q)
    (pan : q.pan = []) (free : q.slotFree q.next = true) (e : s.homeWrite q.asid (q.slotVa q.next) bs clk = some p) :
    ∃ t, s.append num bs clk = (t, some (q.next, p.1)) ∧ t.crews = s.crews ∧ t.slices = p.2.slices ∧
      t.queue? num = some { q with
        next := q.next + 1, backlog := q.backlog + 1, win := q.win ++ [{ seq := q.next, wt := p.1, at_ := s.cycle }]
        busy := q.busy ++ [q.next] } := by
  have at_ := HomeOnly.homeWrite e
  have took : (if (q.pan.isEmpty && q.slotFree q.next) = true then s.homeWrite q.asid (q.slotVa q.next) bs clk else none) = some p := by
    rw [pan, free]
    exact e
  rw [State.append, hq]
  dsimp only
  rw [took]
  refine ⟨_, rfl, at_.crews, rfl, ?_⟩
  rw [← at_.cycle]
  exact State.queue?_updQueue (by intro; rfl) (State.queue?_updQueue (by intro; rfl) ((State.queue?_congr at_.queues num).trans hq))

theorem Queue.refusal_eq_none {q : Queue} {program waits : Bool} {n : Nat} : q.refusal program waits n = none ↔
    (program && q.role == .receive) = false ∧ q.stopped = false ∧ if waits then n ≤ q.lq else q.backlog < q.lq := by
  unfold Queue.refusal
  cases waits <;> grind

end Sys2Proof.Machine
end

section
/-! SUPPORT. QUEUE_APPEND_AT_HOME and QUEUE_ANSWER, by where the records come from and what the queue answers. -/

namespace Sys2Proof.Machine

/-! ## A group's records at a queue -/

section
variable {s : State} {w : Who} {wait sp : Bool} {k : Nat} {r : Rec} {rs : List Rec} {q : Queue}

/-- The append waits while the slots of its queue cannot be written. -/
theorem exec_append_group (hq : s.queue? r.queue = some q) :
    ∃ u, exec (.queueAppendAtHome { src := .group w wait sp k, recs := r :: rs }) s =
      .next (s.unlessShut q (.queueAppendAtHome { src := .group w wait sp k, recs := r :: rs }) u) := by
  simp only [exec, execQueueAppendAtHome, hq]
  exact ⟨_, rfl⟩

variable (hq : s.queue? r.queue = some q)
include hq

/-- ENQW at a queue that refuses: every lane has the refusal. -/
theorem exec_append_refuses {n : Nat} (opened : s.queueShut q = false) (no : q.refusal true true (rs.length + 1) = some n) :
    exec (.queueAppendAtHome { src := .group w true sp k, recs := r :: rs }) s = .next (s.send (.queueAnswer {
      who := w, lanes := (r :: rs).map fun r => (r.lane, .refused n), home := q.home })) := by
  simp only [exec, execQueueAppendAtHome, hq, State.unlessShut_open _ _ opened, List.length_cons, no, if_true]

/-- ENQW at a queue that has no room for its records waits there. -/
theorem exec_append_waits (opened : s.queueShut q = false) (yes : q.refusal true true (rs.length + 1) = none)
    (full : q.lq < q.backlog + (rs.length + 1)) :
    exec (.queueAppendAtHome { src := .group w true sp k, recs := r :: rs }) s = .next { s with
      waitq := s.waitq ++ [{ src := .group w true sp k, recs := r :: rs }] } := by
  simp only [exec, execQueueAppendAtHome, hq, State.unlessShut_open _ _ opened, List.length_cons, yes, if_true, Bool.true_and,
    decide_eq_true full]

/-- Else the records are appended in turn. -/
theorem exec_append_lanes (opened : s.queueShut q = false)
    (yes : wait = true → q.refusal true true (rs.length + 1) = none ∧ q.backlog + (rs.length + 1) ≤ q.lq) :
    exec (.queueAppendAtHome { src := .group w wait sp k, recs := r :: rs }) s = .next (
      let out := s.appendLanes r.queue k wait (r :: rs)
      let bad := ((out.1.queue? r.queue).map (·.panBad)).getD q.panBad
      if anyNoRoom out.2 && bad.isEmpty then
        { s with flight := s.flight ++ [.queueAppendAtHome { src := .group w wait sp k, recs := r :: rs }] }
      else if wait && anyNoRoom out.2 then (s.updQueue r.queue fun q => { q with panBad := bad }).send (.queueAnswer {
        who := w, lanes := (r :: rs).map fun x => (x.lane, .noRoom r.queue), home := q.home })
      else out.1.send (.queueAnswer { who := w, lanes := out.2, home := q.home })) := by
  cases wait with
  | false =>
    simp only [exec, execQueueAppendAtHome, hq, State.unlessShut_open _ _ opened, Bool.false_eq_true, if_false, Bool.false_and]
  | true =>
    obtain ⟨takes, room⟩ := yes rfl
    simp only [exec, execQueueAppendAtHome, hq, State.unlessShut_open _ _ opened, List.length_cons, takes, if_true, Bool.true_and,
      decide_eq_false (Nat.not_lt.mpr room), Bool.false_eq_true, if_false]

end

theorem exec_append_gone {s : State} {w : Who} {wait sp : Bool} {k : Nat} {r : Rec} {rs : List Rec} (hq : s.queue? r.queue = none) :
    exec (.queueAppendAtHome { src := .group w wait sp k, recs := r :: rs }) s = .next (s.send (.queueAnswer {
      who := w, lanes := (r :: rs).map fun r => (r.lane, .refused 2), home := 0 })) := by
  simp only [exec, execQueueAppendAtHome, hq]

/-- A record that is written in its window slot has its number, whether its word would wait or not. -/
theorem exec_append_window {s : State} {w : Who} {wait sp : Bool} {k : Nat} {r : Rec} {q : Queue} {u : State} {wt : Nat}
    (hq : s.queue? r.queue = some q) (opened : s.queueShut q = false) (yes : q.refusal true false 0 = none)
    (e : s.append r.queue r.bytes k = (u, some (q.next, wt))) :
    exec (.queueAppendAtHome { src := .group w wait sp k, recs := [r] }) s = .next (u.send (.queueAnswer {
      who := w, lanes := [(r.lane, .accepted q.next)], home := q.home })) := by
  obtain ⟨member, runs, room⟩ := Queue.refusal_eq_none.mp yes
  have room : q.backlog < q.lq := room
  have enqw (n : Nat) (h : n ≤ q.lq) : q.refusal true true n = none := Queue.refusal_eq_none.mpr ⟨member, runs, h⟩
  have now : q.refusal true wait 0 = none := by
    cases wait with
    | false => exact yes
    | true => exact enqw 0 (Nat.zero_le _)
  rw [exec_append_lanes (rs := []) hq opened fun _ => ⟨enqw 1 (by omega), room⟩, State.appendLanes_accepted hq now e]
  simp [State.appendLanes, anyNoRoom]

/-- One record that does not wait has its refusal. -/
theorem exec_append_refused {s : State} {w : Who} {sp : Bool} {k n : Nat} {r : Rec} {q : Queue} (hq : s.queue? r.queue = some q)
    (opened : s.queueShut q = false) (no : q.refusal true false 0 = some n) :
    exec (.queueAppendAtHome { src := .group w false sp k, recs := [r] }) s = .next (s.send (.queueAnswer {
      who := w, lanes := [(r.lane, .refused n)], home := q.home })) := by
  rw [exec_append_lanes (rs := []) hq opened Bool.noConfusion, State.appendLanes_refused hq no]
  simp [State.appendLanes, anyNoRoom]

/-- What the records of a word come to: an answer of each lane is on its way, or ENQW waits, or, while no slot of the pannier is out of
service, the append is tried again. -/
theorem exec_append_ends {s : State} {w : Who} {wait sp : Bool} {k : Nat} {r : Rec} {rs : List Rec} {i : Append}
    (hi : i = { src := .group w wait sp k, recs := r :: rs }) (opened : ∀ q, s.queue? r.queue = some q → s.queueShut q = false) :
    ∃ t, exec (.queueAppendAtHome i) s = .next t ∧ t.crews = s.crews ∧
      ((∃ a : EnqAns, Instr.queueAnswer a ∈ t.flying ∧ a.who = w ∧ a.lanes.map (·.1) = (r :: rs).map (·.lane)) ∨
        (wait = true ∧ t.waitq = s.waitq ++ [i]) ∨
        ((∀ q, s.queue? r.queue = some q → q.panBad = []) ∧ t = { s with flight := s.flight ++ [.queueAppendAtHome i] })) := by
  subst hi
  have same (x : EnqRes) : ((r :: rs).map fun r => (r.lane, x)).map (·.1) = (r :: rs).map (·.lane) := by simp
  have sent {u : State} {l : List (Nat × EnqRes)} (n : Nat) (hu : u.crews = s.crews) (hl : l.map (·.1) = (r :: rs).map (·.lane)) :
      (u.send (.queueAnswer { who := w, lanes := l, home := n })).crews = s.crews ∧
        ∃ a : EnqAns, Instr.queueAnswer a ∈ (u.send (.queueAnswer { who := w, lanes := l, home := n })).flying ∧ a.who = w ∧
          a.lanes.map (·.1) = (r :: rs).map (·.lane) :=
    ⟨(State.send_crews ..).trans hu, _, State.mem_send .., rfl, hl⟩
  cases hq : s.queue? r.queue with
  | none =>
    obtain ⟨crews, answer⟩ := sent 0 rfl (same (.refused 2))
    exact ⟨_, exec_append_gone hq, crews, .inl answer⟩
  | some q =>
    have opened := opened q hq
    have inOrder : (wait = true → q.refusal true true (rs.length + 1) = none ∧ q.backlog + (rs.length + 1) ≤ q.lq) ∨
        wait = true ∧ ((∃ n, q.refusal true true (rs.length + 1) = some n) ∨
          q.refusal true true (rs.length + 1) = none ∧ q.lq < q.backlog + (rs.length + 1)) := by
      cases wait with
      | false => exact .inl (fun h => nomatch h)
      | true =>
        cases q.refusal true true (rs.length + 1) with
        | some n => exact .inr ⟨rfl, .inl ⟨n, rfl⟩⟩
        | none =>
          rcases Nat.lt_or_ge q.lq (q.backlog + (rs.length + 1)) with full | room
          · exact .inr ⟨rfl, .inr ⟨rfl, full⟩⟩
          · exact .inl fun _ => ⟨rfl, room⟩
    rcases inOrder with yes | ⟨rfl, ⟨n, no⟩ | ⟨yes, full⟩⟩
    · obtain ⟨took, lanes⟩ := State.appendLanes_takes (num := r.queue) (clk := k) (waits := wait) (rs := r :: rs) (s := s)
      refine ⟨_, exec_append_lanes hq opened yes, ?_⟩
      dsimp only
      split
      next again =>
        refine ⟨rfl, .inr (.inr ⟨fun q₀ h₀ => ?_, rfl⟩)⟩
        obtain ⟨q', hq', kept⟩ := took.bad q₀ (hq ▸ h₀)
        rw [hq', Bool.and_eq_true] at again
        exact List.prefix_nil.mp (List.isEmpty_iff.mp again.2 ▸ kept)
      · split
        · exact (sent (u := s.updQueue r.queue _) q.home rfl (same (.noRoom r.queue))).imp_right .inl
        · exact (sent q.home took.crews lanes).imp_right .inl
    · obtain ⟨crews, answer⟩ := sent q.home rfl (same (.refused n))
      exact ⟨_, exec_append_refuses hq opened no, crews, .inl answer⟩
    · exact ⟨_, exec_append_waits hq opened yes full, rfl, .inr (.inl ⟨rfl, rfl⟩)⟩

/-! ## HENQ's record (14 R358) -/

/-- HENQ ends with what its record came to, in HSTAT. -/
theorem exec_append_henq {s u : State} {vf : Nat} {r : Rec} {res : EnqRes}
    (opened : ∀ q, s.queue? r.queue = some q → s.queueShut q = false) (e : s.appendOutside r.queue r.bytes true = (u, res)) :
    exec (.queueAppendAtHome { src := .henq vf, recs := [r] }) s = .next (match res with
      | .accepted n => u.hstat vf 0 0 n
      | .refused n => u.hstat vf 1 n 0
      | _ => u.hstat vf 1 5 0) := by
  simp only [exec, execQueueAppendAtHome, State.unlessAny_open _ _ opened, e]
  cases res <;> rfl

/-! ## The answer (10 R255) -/

theorem sget_foldl_sset_out {α : Type} {f : α → Nat} {k : Nat} : ∀ {l : List (Nat × α)} {m : SMap Nat}, k ∉ l.map (·.1) →
    sget 0 (l.foldl (fun a p => sset 0 a p.1 (f p.2)) m) k = sget 0 m k
  | [], _, _ => rfl
  | p :: l, m, h => by
    exact (sget_foldl_sset_out (List.not_mem_of_not_mem_cons h)).trans (sget_sset_ne _ (List.ne_of_not_mem_cons h))

/-- Lanes that are named once keep what is set for them. -/
theorem sget_foldl_sset {α : Type} {f : α → Nat} : ∀ {l : List (Nat × α)} {m : SMap Nat}, (l.map (·.1)).Nodup → ∀ p ∈ l,
    sget 0 (l.foldl (fun a p => sset 0 a p.1 (f p.2)) m) p.1 = f p.2
  | [], _, _, _, hp => nomatch hp
  | x :: l, m, once, p, hp => by
    obtain ⟨out, once⟩ := List.nodup_cons.mp once
    rcases List.mem_cons.mp hp with rfl | hp
    · exact (sget_foldl_sset_out out).trans (sget_sset_same ..)
    · exact sget_foldl_sset once p hp

theorem exec_queueAnswer {s : State} {m : EnqAns} {g : Group} (hg : s.group? m.who = some g) (once : (m.lanes.map (·.1)).Nodup) :
    ∃ t g', exec (.queueAnswer m) s = .next t ∧ t.group? m.who = some g' ∧
      g' = { g with wait := .none, answers := g'.answers } ∧ t = { s with crews := t.crews } ∧
      ∀ p ∈ m.lanes, sget 0 g'.answers p.1 = EnqRes.key p.2 :=
  ⟨_, _, rfl, State.group?_updGroup hg, rfl, rfl, sget_foldl_sset once⟩

end Sys2Proof.Machine
end

section
/-! SUPPORT. CLAIM_AT_HOME, by the stage's input and by what claims (02 R32, R33, 14 R357). -/

namespace Sys2Proof.Machine

theorem State.stage?_congr {s t : State} (h : t.stages = s.stages) (n : Nat) : t.stage? n = s.stage? n := by
  rw [State.stage?, State.stage?, h]

theorem State.stage?_lupdFirst {s t : State} {n : Nat} {f : Stage → Stage} {st : Stage}
    (h : t.stages = lupdFirst (fun y => y.num == n) f s.stages) (hf : ∀ y, (f y).num = y.num) (hs : s.stage? n = some st) :
    t.stage? n = some (f st) := by
  rw [State.stage?, h]
  exact find?_lupdFirst_same (by intro y hy; simpa [hf y] using hy) hs

section
variable {s : State} {m : Claim} {st : Stage}

section
variable {ex ey ez : Nat} (hs : s.stage? m.stage = some st) (inp : st.inp = .range ex ey ez)
include hs inp

theorem exec_claim_index (left : st.ctr < ex * ey * ez) :
    exec (.claimAtHome m) s = .next (({ s with stages := lupdFirst (fun y => y.num == m.stage) (fun y =>
      { y with ctr := y.ctr + 1, wt := max m.sclk (st.le + 1), le := max m.sclk (st.le + 1) }) s.stages } : State).send
        (.claimReply { claim := m, seqs := [], idx := some st.ctr, wt := max m.sclk (st.le + 1) })) := by
  simp only [exec, execClaimAtHome, hs, inp, if_pos left]

theorem exec_claim_noIndex (none_ : ex * ey * ez ≤ st.ctr) :
    exec (.claimAtHome m) s = .next (s.send (.claimReply { claim := m, seqs := [], idx := none, wt := st.wt })) := by
  simp only [exec, execClaimAtHome, hs, inp, if_neg (Nat.not_lt.mpr none_)]

end

section
variable {n : Nat} {q : Queue} (hs : s.stage? m.stage = some st) (inp : st.inp = .queue n) (hq : s.queue? n = some q)
include hs inp hq

/-- DEQ takes the oldest records of the window, which belong to its crew from then on. -/
theorem exec_claim_deq {w : Who} {out : Nat} {lanes : Mask} {c : Crew} (kind : m.kind = .deq w out lanes)
    (hc : s.crew? w.crew = some c) :
    let take := q.win.take (min lanes.count (4096 - c.recs.length))
    exec (.claimAtHome m) s = .next (((s.updQueue n fun q => { q with win := q.win.drop take.length }).updCrew w.crew fun c =>
      { c with recs := c.recs ++ take.map fun r => { queue := n, seq := r.seq } }).send
        (.claimReply { claim := m, seqs := take.map (·.seq), idx := none, wt := (take.map (·.wt)).foldl max 0 })) := by
  simp [exec, execClaimAtHome, hs, inp, hq, kind, Claim.most, hc]

/-- A launch for which the window holds too few of the records that the pannier has waits. -/
theorem exec_claim_waits {core id : Nat} (kind : m.kind = .launch core id)
    (few : q.win.length < min (q.win.length + q.pan.length) (32 * st.shape.groups)) :
    exec (.claimAtHome m) s = .next { s with claims := s.claims ++ [{ claim := m, queue := n }] } := by
  simp only [exec, execClaimAtHome, hs, inp, hq, kind, Bool.true_and, decide_eq_true few, if_true]

/-- A launch takes the oldest records of the window, and with any the next crew number of its stage (log 81). -/
theorem exec_claim_launch {core id : Nat} (kind : m.kind = .launch core id)
    (all : min (q.win.length + q.pan.length) (32 * st.shape.groups) ≤ q.win.length) :
    let take := q.win.take (32 * st.shape.groups)
    let u := s.updQueue n fun q => { q with win := q.win.drop take.length }
    exec (.claimAtHome m) s = .next ((if take = [] then u else
      { u with stages := lupdFirst (fun y => y.num == m.stage) (fun y => { y with nextCrew := y.nextCrew + 1 }) u.stages }).send
        (.claimReply { claim := m, seqs := take.map (·.seq), idx := if take = [] then none else some st.nextCrew
                       wt := (take.map (·.wt)).foldl max 0 })) := by
  dsimp only
  simp only [exec, execClaimAtHome, hs, inp, hq, kind, Bool.true_and, decide_eq_false (Nat.not_lt.mpr all), Bool.false_eq_true,
    if_false, Claim.most]
  generalize hx : q.win.take (32 * st.shape.groups) = take
  cases take <;> simp

end
end

/-! ## The claims' effects -/

section
variable {s : State} {m : Claim} {st : Stage}

/-- A claim of a range stage takes the next index of it (02 R32). -/
theorem exec_claim_range {ex ey ez : Nat} (hs : s.stage? m.stage = some st) (inp : st.inp = .range ex ey ez)
    (left : st.ctr < ex * ey * ez) :
    ∃ t wt, exec (.claimAtHome m) s = .next t ∧ wt = max m.sclk (st.le + 1) ∧
      t.stage? m.stage = some { st with ctr := st.ctr + 1, wt := wt, le := wt } ∧
      Instr.claimReply { claim := m, seqs := [], idx := some st.ctr, wt := wt } ∈ t.flying ∧
      t.crews = s.crews ∧ t.queues = s.queues :=
  ⟨_, _, exec_claim_index hs inp left, rfl,
    (State.stage?_congr (State.send_stages ..) _).trans (State.stage?_lupdFirst (f := fun y => { y with
      ctr := y.ctr + 1, wt := max m.sclk (st.le + 1), le := max m.sclk (st.le + 1) }) rfl (fun _ => rfl) hs), State.mem_send ..,
    State.send_crews .., State.send_queues ..⟩

variable {n : Nat} {q : Queue}

/-- The records of a DEQ are its crew's (10 R260). -/
theorem exec_claim_deq_takes {w : Who} {out : Nat} {lanes : Mask} {c : Crew} (hs : s.stage? m.stage = some st)
    (inp : st.inp = .queue n) (hq : s.queue? n = some q) (kind : m.kind = .deq w out lanes) (hc : s.crew? w.crew = some c) :
    let take := q.win.take (min lanes.count (4096 - c.recs.length))
    ∃ t c', exec (.claimAtHome m) s = .next t ∧ t.queue? n = some { q with win := q.win.drop take.length } ∧
      t.crew? w.crew = some c' ∧ c' = { c with recs := c.recs ++ take.map fun r => { queue := n, seq := r.seq } } ∧
      Instr.claimReply { claim := m, seqs := take.map (·.seq), idx := none, wt := (take.map (·.wt)).foldl max 0 } ∈ t.flying := by
  refine ⟨_, _, exec_claim_deq hs inp hq kind hc, ?_, ?_, rfl, State.mem_send ..⟩
  · exact (State.queue?_congr (State.send_queues ..) n).trans (State.queue?_updQueue (fun _ => rfl) hq)
  · rw [State.crew?, State.send_crews]
    exact State.crew?_updCrew (fun _ => rfl) hc

/-- A launch that the window serves. -/
theorem exec_claim_launch_takes {core id : Nat} (hs : s.stage? m.stage = some st) (inp : st.inp = .queue n)
    (hq : s.queue? n = some q) (kind : m.kind = .launch core id)
    (all : min (q.win.length + q.pan.length) (32 * st.shape.groups) ≤ q.win.length) :
    let take := q.win.take (32 * st.shape.groups)
    ∃ t, exec (.claimAtHome m) s = .next t ∧ t.queue? n = some { q with win := q.win.drop take.length } ∧
      (take ≠ [] → t.stage? m.stage = some { st with nextCrew := st.nextCrew + 1 }) ∧
      Instr.claimReply { claim := m, seqs := take.map (·.seq), idx := if take = [] then none else some st.nextCrew
                         wt := (take.map (·.wt)).foldl max 0 } ∈ t.flying ∧ t.crews = s.crews := by
  refine ⟨_, exec_claim_launch hs inp hq kind all, ?_, fun any => ?_, State.mem_send .., ?_⟩
  · rw [State.queue?_congr (State.send_queues ..)]
    split <;> exact State.queue?_updQueue (fun _ => rfl) hq
  · rw [State.stage?_congr (State.send_stages ..), if_neg any]
    exact State.stage?_lupdFirst (f := fun y => { y with nextCrew := y.nextCrew + 1 }) rfl (fun _ => rfl) hs
  · rw [State.send_crews]
    split <;> rfl

end

/-! ## The end of a stopped graph (10 R269) -/

/-- A group that has its answer. -/
def Group.told (g : Group) (v : Word) : Group := { g with wait := .none, phase := 2, answers := sset 0 [] 0 v.toNat }

section
variable {s : State} {w u : Who} {v : Word} {g : Group}

theorem State.group?_giveAnswer (hg : s.group? w = some g) (waits : g.wait = .answer) :
    (s.giveAnswer w v).group? w = some (g.told v) := by
  rw [State.giveAnswer, State.group?_updGroup hg, waits]
  rfl

theorem State.group?_giveAnswer_ne (h : w ≠ u) : (s.giveAnswer u v).group? w = s.group? w := State.group?_updGroup_ne h

/-- An answer is for a group that waits for it. -/
theorem State.group?_giveAnswer_idle (hg : s.group? w = some g) (idle : g.wait = .none) : (s.giveAnswer u v).group? w = some g := by
  by_cases h : w = u
  · subst h
    rw [State.giveAnswer, State.group?_updGroup hg, idle]
  · rw [State.group?_giveAnswer_ne h, hg]

end

/-- Several groups are answered. -/
def State.giveAnswers (s : State) (ws : List Who) (v : Word) : State := ws.foldl (fun s w => s.giveAnswer w v) s

theorem State.giveAnswers_cons (s : State) (u : Who) (ws : List Who) (v : Word) :
    s.giveAnswers (u :: ws) v = (s.giveAnswer u v).giveAnswers ws v := rfl

section
variable {w : Who} {v : Word} {ws : List Who} {g : Group}

theorem State.giveAnswers_graphs : ∀ {s : State}, let t := s.giveAnswers ws v
    (t.graphs, t.stages, t.queues, t.keepers) = (s.graphs, s.stages, s.queues, s.keepers) := by
  induction ws with
  | nil => exact rfl
  | cons u ws ih => exact ih.trans rfl

theorem State.group?_giveAnswers_idle (idle : g.wait = .none) : ∀ {s : State}, s.group? w = some g →
    (s.giveAnswers ws v).group? w = some g := by
  induction ws with
  | nil => exact id
  | cons u ws ih => exact fun hg => ih (State.group?_giveAnswer_idle hg idle)

/-- Each group that waits for the answer has it, and has it once. -/
theorem State.group?_giveAnswers (waits : g.wait = .answer) (hw : w ∈ ws) : ∀ {s : State}, s.group? w = some g →
    (s.giveAnswers ws v).group? w = some (g.told v) := by
  induction ws with
  | nil => nomatch hw
  | cons u ws ih =>
    intro s hg
    rw [State.giveAnswers_cons]
    by_cases h : w = u
    · subst h
      exact State.group?_giveAnswers_idle (g := g.told v) rfl (State.group?_giveAnswer hg waits)
    · exact ih ((List.mem_cons.mp hw).resolve_left h) ((State.group?_giveAnswer_ne h).trans hg)

end

/-- GRAPH_STOP_COMPLETE frees what is of the graph, and answers those who wait. -/
theorem exec_graphStopComplete {s : State} {n : Nat} {g : Graph} (hg : s.graph? n = some g) :
    ∃ u t : State, exec (.graphStopComplete n) s = .next t ∧ t = u.giveAnswers g.waiters 0 ∧ u.crews = s.crews ∧
      u.graphs = s.graphs.filter (fun y => y.handle != n) ∧ u.stages = s.stages.filter (fun y => y.graph != n) ∧
      u.queues = s.queues.filter (fun y => y.graph != n) ∧ u.keepers = s.keepers.filter (fun y => y.graph != n) := by
  simp only [exec, execGraphStopComplete, hg]
  exact ⟨_, _, rfl, rfl, rfl, rfl, rfl, rfl, rfl⟩

theorem exec_graphStopComplete_frees {s : State} {n : Nat} {g : Graph} (hg : s.graph? n = some g) :
    ∃ t, exec (.graphStopComplete n) s = .next t ∧ t.graph? n = none ∧
      t.stages = s.stages.filter (fun y => y.graph != n) ∧ t.queues = s.queues.filter (fun y => y.graph != n) ∧
      t.keepers = s.keepers.filter (fun y => y.graph != n) ∧
      ∀ w y, w ∈ g.waiters → s.group? w = some y → y.wait = .answer → ∃ y', t.group? w = some y' ∧ y'.wait = .none ∧
        y'.phase = 2 ∧ sget 0 y'.answers 0 = 0 ∧ y.SameRegs y' := by
  obtain ⟨u, t, run, rfl, crews, graphs, stages, queues, keepers⟩ := exec_graphStopComplete hg
  obtain ⟨graphs', stages', queues', keepers'⟩ : _ ∧ _ ∧ _ ∧ _ := by
    simpa only [Prod.mk.injEq] using State.giveAnswers_graphs (s := u) (ws := g.waiters) (v := 0)
  refine ⟨_, run, ?_, stages'.trans stages, queues'.trans queues, keepers'.trans keepers, fun w y hw hy waits => ?_⟩
  · rw [State.graph?, graphs', graphs]
    simp
  · refine ⟨y.told 0, State.group?_giveAnswers waits hw ((State.group?_congr crews w).trans hy), rfl, rfl, by simp [Group.told], ?_⟩
    exact ⟨rfl, rfl, rfl, rfl, rfl⟩

end Sys2Proof.Machine
end

section
/-! The queue events as a whole. -/

namespace Sys2Proof.Machine

/-- A record that is written in its window slot: the queue after it, and its bytes at their home. -/
theorem exec_append_readsBack {s : State} {w : Who} {r : Rec} {k : Nat} {wait sp : Bool} {q : Queue} {p : Nat × State}
    (hq : s.queue? r.queue = some q) (takes : q.refusal true false 0 = none) (pan : q.pan = []) (free : q.slotFree q.next = true)
    (opened : s.queueShut q = false) (put : s.homeWrite q.asid (q.slotVa q.next) r.bytes k = some p) :
    ∃ t q', exec (.queueAppendAtHome { src := .group w wait sp k, recs := [r] }) s = .next t ∧
      Instr.queueAnswer { who := w, lanes := [(r.lane, .accepted q.next)], home := q.home } ∈ t.flying ∧
      t.queue? r.queue = some q' ∧ q' = { q with
        next := q.next + 1, backlog := q.backlog + 1, win := q.win ++ [{ seq := q.next, wt := p.1, at_ := s.cycle }]
        busy := q.busy ++ [q.next] } ∧ t.crews = s.crews ∧ ∀ asid va, t.homeBlk asid va = p.2.homeBlk asid va := by
  obtain ⟨u, e, crews, slices, queue⟩ := State.append_window hq pan free put
  exact ⟨_, _, exec_append_window hq opened takes e, State.mem_send .., (State.queue?_congr (State.send_queues ..) _).trans queue, rfl,
    (State.send_crews ..).trans crews, State.homeBlk_congr ((State.send_slices ..).trans slices)⟩

/-- Settles O45: the append in its window slot, its refusals and its waits, the answer, and the claims, each by the lemma of its case;
every waiter of a stopped graph is answered once. -/
theorem queueEvents : Obligations.QueueEvents := by
  unfold Obligations.QueueEvents
  refine ⟨fun s w r k wait sp q p hq takes pan free opened put => ?_, fun s w r k n sp q hq no opened => ?_,
    fun s w rs r k sp q hq yes full opened => ?_, fun s w r rs wait sp k i hi opened => exec_append_ends hi opened,
    fun s r rs w wait sp k q i hi hq => ?_, fun s u vf n r res opened e => ?_, fun s m g hg once => exec_queueAnswer hg once,
    fun s m st ex ey ez hs inp => ?_, fun s m st n q hs inp hq => ?_, fun s n g hg => exec_graphStopComplete_frees hg⟩
  · obtain ⟨t, q', run, sent, queue, took, crews, home⟩ := exec_append_readsBack (w := w) (wait := wait) (sp := sp) hq takes pan free
      opened put
    refine ⟨t, q', run, sent, queue, took, crews, fun any one => ?_, fun size dirty c hc => ?_⟩
    · rw [home]
      exact State.homeWrite_oneWord put any one
    · rw [home]
      exact State.homeWrite_dirty put size dirty c hc
  · exact ⟨_, exec_append_refused hq opened no, rfl⟩
  · exact ⟨_, exec_append_waits hq opened yes full, rfl⟩
  · subst hi
    obtain ⟨k, run⟩ := exec_append_group (w := w) (wait := wait) (sp := sp) (k := k) (rs := rs) hq
    rw [run]
    exact ⟨fun moves => ⟨_, rfl, State.unlessShut_moves _ _ moves⟩, fun still shut => ⟨_, rfl, State.unlessShut_shut _ _ still shut⟩⟩
  · have run := exec_append_henq (vf := vf) opened e
    constructor
    · rintro rfl
      exact ⟨_, run, by simp [State.hstat]⟩
    · rintro rfl
      exact ⟨_, run, by simp [State.hstat]⟩
  · exact ⟨exec_claim_range hs inp, fun none_ => ⟨_, exec_claim_noIndex hs inp none_, rfl⟩⟩
  · exact ⟨fun w out lanes c kind hc => exec_claim_deq_takes hs inp hq kind hc, fun core id kind =>
      ⟨exec_claim_launch_takes hs inp hq kind, fun few => ⟨_, exec_claim_waits hs inp hq kind few, rfl⟩⟩⟩

end Sys2Proof.Machine
end

section
/-! SUPPORT. The lane states that the hints S and Y of a word leave, whatever lanes they act on (03 R61 to R63). -/

namespace Sys2Proof.Machine

/-! ## Masks -/

theorem Mask.has_and (a b : Mask) (l : Nat) : (a &&& b).has l = (a.has l && b.has l) := BitVec.getLsbD_and ..

theorem Mask.has_not (a : Mask) {l : Nat} (hl : l < 32) : (~~~a : Mask).has l = !a.has l := by
  rw [Mask.has, BitVec.getLsbD_not, decide_eq_true hl, Bool.true_and]
  rfl

@[simp] theorem Mask.has_none (l : Nat) : Mask.has 0#32 l = false := BitVec.getLsbD_zero

theorem Mask.ext_has {a b : Mask} (h : ∀ l, l < 32 → a.has l = b.has l) : a = b := BitVec.eq_of_getLsbD_eq h

/-! ## S and Y (03 R61, R63) -/

/-- Where some lanes move to a state that is not live, the others stay live. -/
theorem Group.live_moved {g g' : Group} {m : Mask} {st : LSt} (hst : st ≠ .live)
    (moved : ∀ l, l < 32 → (g'.lpOf l).st = if m.has l then st else (g.lpOf l).st) : g'.live = g.live &&& ~~~m := by
  refine Mask.ext_has fun l hl => ?_
  rw [Mask.has_and, Mask.has_not m hl, Group.live, Group.has_lanesIn, Group.live, Group.has_lanesIn, moved l hl]
  cases m.has l with
  | false => simp
  | true => simp [hst]

/-- The lanes that S parks. -/
def Group.parkSet (g : Group) (sh : Bool) (hint : Mask) : Mask := if sh then hint &&& g.outLanes &&& g.live else 0

theorem Group.st_parkHint (g : Group) (sh : Bool) (hint : Mask) {l : Nat} (hl : l < 32) :
    ((if sh then g.parkS hint else g).lpOf l).st = if (g.parkSet sh hint).has l then .parked else (g.lpOf l).st := by
  cases sh with
  | false => simp [Group.parkSet]
  | true =>
    simp only [Group.parkSet, if_true, Group.parkS, Group.lpOf_mapLp, hl, true_and]
    split <;> rfl

theorem Group.wset_parkHint (g : Group) (sh : Bool) (hint : Mask) : (if sh then g.parkS hint else g).wset = g.wset := by
  split <;> rfl

/-- The wait set that Y gives the lanes that yield. -/
def Group.yieldWait (g : Group) (yh : Bool) (hint held : Mask) : Mask :=
  g.live &&& ~~~held &&& ~~~(if yh then hint &&& g.live else 0)

/-- The lanes that Y makes yield: none where they would wait for none. -/
def Group.yieldSet (g : Group) (yh : Bool) (hint held : Mask) : Mask :=
  if g.yieldWait yh hint held = 0 then 0 else if yh then hint &&& g.live else 0

/-- Lanes yield one after the other. -/
theorem Group.foldl_yield (w : Mask) (k : Nat) : ∀ (ls : List Nat) (g : Group),
    let g' := ls.foldl (fun g l => { g.setLp l { g.lpOf l with st := .yielded } with wset := sset 0 g.wset l w }) g
    (g'.lpOf k).st = (if k ∈ ls then .yielded else (g.lpOf k).st) ∧ sget 0 g'.wset k = if k ∈ ls then w else sget 0 g.wset k
  | [], g => by simp
  | l :: ls, g => by
    obtain ⟨st, ws⟩ := Group.foldl_yield w k ls { g.setLp l { g.lpOf l with st := .yielded } with wset := sset 0 g.wset l w }
    rw [List.foldl_cons]
    refine ⟨st.trans ?_, ws.trans ?_⟩
    · have here : (({ g.setLp l { g.lpOf l with st := .yielded } with wset := sset 0 g.wset l w } : Group).lpOf k).st =
          if k = l then .yielded else (g.lpOf k).st := by
        refine (congrArg Lp.st (Group.lpOf_setLp g l { g.lpOf l with st := .yielded } k)).trans ?_
        split <;> rfl
      rw [here]
      by_cases e : k = l <;> simp [e]
    · rw [sget_sset]
      by_cases e : k = l <;> simp [e]

theorem Group.yieldHint_lane (g : Group) (yh : Bool) (hint held : Mask) {l : Nat} (hl : l < 32) :
    let g' := if yh then g.yieldY hint held else g
    (g'.lpOf l).st = (if (g.yieldSet yh hint held).has l then .yielded else (g.lpOf l).st) ∧
      sget 0 g'.wset l = if (g.yieldSet yh hint held).has l then g.yieldWait yh hint held else sget 0 g.wset l := by
  cases yh with
  | false => simp [Group.yieldSet]
  | true =>
    simp only [if_true, Group.yieldY]
    by_cases hw : g.live &&& ~~~held &&& ~~~(hint &&& g.live) = 0
    · simp [hw, Group.yieldSet, Group.yieldWait]
    · have lane := Group.foldl_yield (g.live &&& ~~~held &&& ~~~(hint &&& g.live)) l (hint &&& g.live).lanes g
      rw [if_neg hw]
      simp only [Mask.mem_lanes, hl, true_and] at lane
      simpa only [Group.yieldSet, Group.yieldWait, if_true, if_neg hw] using lane

/-- The lanes that yield do so until others have issued: their wait set holds no lane that yields. -/
theorem Group.yieldWait_stays (g : Group) (yh : Bool) (hint held : Mask) :
    g.yieldWait yh hint held &&& (g.live &&& ~~~g.yieldSet yh hint held) = g.yieldWait yh hint held := by
  refine Mask.ext_has fun l hl => ?_
  have none : (g.yieldWait yh hint held).has l = true → g.live.has l = true ∧ (g.yieldSet yh hint held).has l = false := by
    intro h
    have hset : (g.yieldSet yh hint held).has l = true → (if yh then hint &&& g.live else 0 : Mask).has l = true := by
      unfold Group.yieldSet
      split
      · simp
      · exact id
    simp only [Group.yieldWait, Mask.has_and, Mask.has_not _ hl, Bool.and_eq_true, Bool.not_eq_true'] at h
    obtain ⟨⟨live, _⟩, out⟩ := h
    exact ⟨live, Bool.eq_false_iff.mpr fun k => Bool.noConfusion (out.symm.trans (hset k))⟩
  rw [Mask.has_and, Mask.has_and, Mask.has_not _ hl]
  cases h : (g.yieldWait yh hint held).has l with
  | false => rfl
  | true => simp [none h]

/-! ## The hints of a word that has performed -/

/-- The lanes of a group from where settling and S have left them: those that yield, and the others once they have settled again. -/
theorem Group.yield_settle (g : Group) (yh : Bool) (hint held : Mask) {l : Nat} (hl : l < 32) :
    let g' := (if yh then g.yieldY hint held else g).settle 0
    let now := g.yieldSet yh hint held
    (g'.lpOf l).st = (if now.has l then .yielded
      else if (g.lpOf l).st = .yielded ∧ sget 0 g.wset l &&& (g.live &&& ~~~now) = 0 then .live else (g.lpOf l).st) ∧
      (now.has l = true → sget 0 g'.wset l = g.yieldWait yh hint held) := by
  intro g' now
  have lane {k : Nat} (hk : k < 32) := g.yieldHint_lane yh hint held hk
  have live : (if yh then g.yieldY hint held else g).live = g.live &&& ~~~now := Group.live_moved (by decide) fun k hk => (lane hk).1
  obtain ⟨st, ws⟩ := Group.settle_lane (if yh then g.yieldY hint held else g) 0 hl
  rw [Group.waits, live, Mask.and_not_zero, (lane hl).1, (lane hl).2] at st ws
  change (g'.lpOf l).st = _ at st
  change sget 0 g'.wset l = _ at ws
  rw [st, ws]
  cases hn : now.has l with
  | false => simp
  | true =>
    have some : g.yieldWait yh hint held ≠ 0#32 := by
      intro none
      have empty : now = 0#32 := if_pos none
      rw [empty, Mask.has_none] at hn
      contradiction
    have stays : g.yieldWait yh hint held &&& (g.live &&& ~~~now) = g.yieldWait yh hint held := g.yieldWait_stays yh hint held
    simp [stays, some]

/-- A word that has performed leaves the lane states that its hints S and Y give. -/
theorem Group.wordDone_hints (g : Group) (x : Ctx) (h : Hdr) (hint : Mask) :
    g.Hinted (g.wordDone x h hint) x.iss hint h.s h.y := by
  have start : (g.unsuppress x.iss).lp = g.lp ∧ (g.unsuppress x.iss).wset = g.wset := by
    unfold Group.unsuppress
    split <;> exact ⟨rfl, rfl⟩
  have outs : (g.wordDone x h hint).outLanes = ((g.unsuppress x.iss).settle (x.iss.set ||| x.iss.held)).outLanes := by
    have settled := (g.unsuppress_stands x.iss).trans (Group.settle_stands _ (x.iss.set ||| x.iss.held)).1
    unfold Group.outLanes
    rw [(g.wordDone_stands x h hint).rest, settled.rest]
  have done : g.wordDone x h hint = ((if h.y then
      (if h.s then ((g.unsuppress x.iss).settle (x.iss.set ||| x.iss.held)).parkS hint
        else (g.unsuppress x.iss).settle (x.iss.set ||| x.iss.held)).yieldY hint x.iss.held
      else if h.s then ((g.unsuppress x.iss).settle (x.iss.set ||| x.iss.held)).parkS hint
        else (g.unsuppress x.iss).settle (x.iss.set ||| x.iss.held)).settle 0).headDone := rfl
  generalize g.wordDone x h hint = g' at outs done
  generalize g.unsuppress x.iss = g₀ at start outs done
  refine Group.Hinted.congr (a := g₀) ⟨fun l hl => ?_⟩ (fun l => by rw [Group.lpOf, start.1]; rfl) start.2
  intro old rest woke park live ys w now
  have settled {k : Nat} (hk : k < 32) := g₀.settle_lane (x.iss.set ||| x.iss.held) hk
  have live₁ : (g₀.settle (x.iss.set ||| x.iss.held)).live = g₀.live ||| woke := g₀.live_settle _
  generalize g₀.settle (x.iss.set ||| x.iss.held) = g₁ at outs done settled live₁
  have hpark : g₁.parkSet h.s hint = park := by
    simp only [Group.parkSet, park, live₁, outs]
  have parked {k : Nat} (hk : k < 32) := g₁.st_parkHint h.s hint hk
  have live₂ := Group.live_moved (by decide) fun k hk => parked (k := k) hk
  have ws₂ := g₁.wset_parkHint h.s hint
  rw [hpark, live₁] at live₂
  rw [hpark] at parked
  generalize (if h.s then g₁.parkS hint else g₁) = g₂ at done parked live₂ ws₂
  have hw : g₂.yieldWait h.y hint x.iss.held = w := by simp only [Group.yieldWait, live₂]; rfl
  have hnow : g₂.yieldSet h.y hint x.iss.held = now := by simp only [Group.yieldSet, hw, live₂]; rfl
  obtain ⟨st, ws⟩ := g₂.yield_settle h.y hint x.iss.held hl
  rw [hw, hnow] at ws
  rw [hnow, live₂, ws₂, parked hl, (settled hl).1, (settled hl).2] at st
  rw [done]
  refine ⟨st.trans ?_, ws⟩
  have inLive : live.has l = ((g₂.lpOf l).st == .live) := by
    have := Group.has_lanesIn g₂ (· == .live) l
    rw [decide_eq_true hl, Bool.true_and] at this
    exact (congrArg (Mask.has · l) live₂.symm).trans this
  have within : now.has l = true → live.has l = true := by
    simp only [now, ys]
    split
    · simp
    · split
      · rw [Mask.has_and]
        simp
      · simp
  rw [parked hl, (settled hl).1] at inLive
  change _ = (_ : LSt)
  by_cases hp : park.has l = true
  · have out : now.has l = false := Bool.eq_false_iff.mpr fun k => by simp [within k, hp] at inLive
    simp [hp, out]
  · by_cases hn : now.has l = true
    · simp [hp, hn]
    · simp only [if_neg hp] at inLive
      rw [if_neg hn, if_neg hp, if_neg hn, if_neg hp]
      by_cases woken : (g₀.lpOf l).st = .yielded ∧ g₀.waits (x.iss.set ||| x.iss.held) l = 0
      · rw [if_pos woken] at inLive ⊢
        rw [if_neg fun e => nomatch e.1]
        exact (if_pos inLive).symm
      · rw [if_neg woken] at inLive ⊢
        by_cases hy : (g₀.lpOf l).st = .yielded
        · rw [hy] at inLive
          have hold : old l = true := beq_iff_eq.mpr hy
          have notLive : live.has l ≠ true := by rw [inLive]; decide
          rw [if_neg notLive, if_pos hold, if_pos hy, hy]
          exact if_congr (and_iff_right rfl) rfl rfl
        · have hold : old l ≠ true := fun e => hy (beq_iff_eq.mp e)
          rw [if_neg hold, if_neg fun e => hy e.1]
          split
          · next live => exact beq_iff_eq.mp (inLive.symm.trans live)
          · rfl

theorem Group.issueDone_hints (g : Group) (n : Nat) (x : Ctx) (h : Hdr) (hint : Mask) :
    g.Hinted (g.issueDone n x h hint) x.iss hint h.s h.y :=
  Group.Hinted.congr (Group.wordDone_hints { g with lastIssue := n } x h hint) (fun _ => rfl) rfl

/-- Hints of an issue whose lanes had gone on before. -/
theorem Group.Hinted.ofAdvance {g g' : Group} {set : Mask} {len : Nat} {iss : Issue} {hint : Mask} {sh yh : Bool}
    (h : (g.advance set len).Hinted g' iss hint sh yh) : g.Hinted g' iss hint sh yh :=
  h.congr (fun l => g.advance_lpOf_st set len l) rfl

/-- The end of a word that goes on: what it spends, its group, whose lanes are behind the word and as its hints leave them. -/
theorem Spends.retire_hints {s : State} {x : Ctx} {c : Crew} {g : Group} (hc : s.crew? x.iss.who.crew = some c)
    (hg : s.group? x.iss.who = some g) (h : Hdr) : Spends s (s.retire x h) x.iss.who c.core c.vf ∧
      ∃ g', (s.retire x h).group? x.iss.who = some g' ∧ g.WentOn g' x.iss.set x.iss.len ∧ g.IssueRest g' ∧
        g.Hinted g' x.iss x.act h.s h.y := by
  obtain ⟨n, hn⟩ := State.group?_issued (State.group?_updGroup (f := fun g => g.advance x.iss.set x.iss.len) hg) h x.act
  have stands := (g.advance x.iss.set x.iss.len).issueDone_stands n x h x.act
  exact ⟨(Spends.updGroup s _ _ _ _).trans (.issued (State.crew?_updGroup hc) h x.act), _, hn, stands.wentOn,
    .trans (b := g.advance x.iss.set x.iss.len) rfl stands.rest, .ofAdvance (Group.issueDone_hints _ n x h x.act)⟩

end Sys2Proof.Machine
end

section
/-! SUPPORT. NOP, JOIN, YIELD and the branches. -/

namespace Sys2Proof.Machine

/-! ## Words that only go on (07 R157) -/

/-- The retirement of a word under the hints of `k`, in the issue that the context of `h` stands for. -/
theorem State.retire_performs {s : State} {x : Ctx} {h : Hdr} (hx : s.ctx? h = some x) (k : Hdr) :
    ∃ g', Performed s (s.retire x k) x g' ∧ x.g.WentOn g' x.iss.set x.iss.len ∧ x.g.IssueRest g' ∧
      x.g.Hinted g' x.iss x.act k.s k.y := by
  obtain ⟨_, hc, hg, _, _⟩ := State.ctx?_some hx
  obtain ⟨spends, g', hg', lanes, rest, hints⟩ := Spends.retire_hints hc hg k
  exact ⟨g', spends.toPerformed hx hg', lanes, rest, hints⟩

/-- Settles O13: each of the three words retires, YIELD as with its hint Y set (`State.retire_performs`). -/
theorem plainWords : Obligations.PlainWords := by
  unfold Obligations.PlainWords
  rintro i h (rfl | rfl | rfl) s x hx
  · have other : (Instr.nop h == Instr.yield h) = false := beq_eq_false_iff_ne.mpr nofun
    rw [other, Bool.or_false]
    obtain ⟨g', done⟩ := State.retire_performs hx h
    exact ⟨s.retire x h, g', congrArg _ (State.withCtx_some hx), done⟩
  · have other : (Instr.join h == Instr.yield h) = false := beq_eq_false_iff_ne.mpr nofun
    rw [other, Bool.or_false]
    obtain ⟨g', done⟩ := State.retire_performs hx h
    exact ⟨s.retire x h, g', congrArg _ (State.withCtx_some hx), done⟩
  · rw [beq_self_eq_true, Bool.or_true]
    obtain ⟨g', done⟩ := State.retire_performs hx { h with y := true }
    exact ⟨s.retire x { h with y := true }, g', congrArg _ (State.withCtx_some hx), done⟩

/-! ## Branches (07 R154, R156) -/

/-- Targets that can all be taken raise no cause. -/
theorem State.targetGate_go {s : State} {x : Ctx} {t : Nat → Word} {k : Unit → State} (ok : x.targetsOk t = true) :
    s.targetGate x t k = k () := by
  have none : (Mask.ofFn fun l => x.act.has l && badTarget (t l)).low = none :=
    Mask.low_eq_none_iff.mpr (Mask.ofFn_none fun l hl => by simpa using Mask.all_lanes ok hl)
  unfold State.targetGate
  dsimp only
  rw [none]

/-- Lanes that do not stand at the depth raise no cause. -/
theorem State.depthGate_go {s : State} {x : Ctx} {limit : BitVec 12} {k : Unit → State} (ok : x.depthsOk limit = true) :
    s.depthGate x limit k = k () :=
  if_pos (Mask.ofFn_none fun l hl => by simpa [bne] using Mask.all_lanes ok hl)

/-- The active lanes at their targets with their depth moved, the others of the issue set behind the word. -/
def Group.jumpLanes (g : Group) (x : Ctx) (t : Nat → Word) (depth : BitVec 12) : Group :=
  (g.mapLp x.act fun l e => { e with pc := (t l).setWidth 48, depth := e.depth + depth }).advance x.off x.iss.len

theorem Group.lpOf_jumpLanes (g : Group) {s : State} {h : Hdr} {x : Ctx} (hx : s.ctx? h = some x) (t : Nat → Word) (depth : BitVec 12)
    {l : Nat} (hl : l < 32) : (g.jumpLanes x t depth).lpOf l =
      if x.act.has l then { g.lpOf l with pc := (t l).setWidth 48, depth := (g.lpOf l).depth + depth }
      else if x.off.has l then { g.lpOf l with pc := (g.lpOf l).pc + BitVec.ofNat 48 x.iss.len } else g.lpOf l := by
  rw [Group.jumpLanes, Group.lpOf_advance, Group.lpOf_mapLp]
  simp only [hl, true_and]
  by_cases ha : x.act.has l = true
  · rw [if_neg (by simp [State.ctx?_apart hx ha]), if_pos ha, if_pos ha]
  · simp only [if_neg ha]

/-- A branch without a destination register has performed. -/
theorem State.jump_performs {s : State} {x : Ctx} {h : Hdr} (hx : s.ctx? h = some x) (t : Nat → Word) (depth : BitVec 12) :
    ∃ g', Performed s (s.jump x h none t depth) x g' ∧ x.g.IssueRest g' ∧ x.g.Hinted g' x.iss x.act h.s h.y ∧
      Jumped x g' t depth := by
  obtain ⟨spends, n, hg⟩ := Spends.updGroup_issued hx (fun g => g.jumpLanes x t depth) x.act
  have stands := (x.g.jumpLanes x t depth).issueDone_stands n x h x.act
  have hints := (x.g.jumpLanes x t depth).issueDone_hints n x h x.act
  have st (l : Nat) : ((x.g.jumpLanes x t depth).lpOf l).st = (x.g.lpOf l).st := by
    rw [Group.jumpLanes, Group.advance_lpOf_st, Group.lpOf_mapLp]
    split <;> rfl
  refine ⟨_, spends.toPerformed hx hg, .trans (b := x.g.jumpLanes x t depth) rfl stands.rest, hints.congr st rfl, fun l hl => ?_⟩
  rw [stands.pc, stands.depth, Group.lpOf_jumpLanes x.g hx t depth hl]
  by_cases ha : x.act.has l = true
  · simp only [if_pos ha, and_self]
  · simp only [if_neg ha]
    split
    · exact ⟨rfl, rfl⟩
    · exact ⟨rfl, rfl⟩

theorem exec_bra {s : State} {x : Ctx} {h : Hdr} {ofs : BitVec 32} (hx : s.ctx? h = some x)
    (ok : x.targetsOk (fun _ => relTarget x.iss.pc ofs) = true) :
    exec (.bra h ofs) s = .next (s.jump x h none (fun _ => relTarget x.iss.pc ofs) 0) := by
  change execBra h ofs s = _
  rw [execBra, State.withCtx_some hx, State.targetGate_go ok]

theorem exec_brx {s : State} {x : Ctx} {h : Hdr} {a : Opnd} (hx : s.ctx? h = some x) (ha : x.holds [(1, a)] = true)
    (ok : x.targetsOk (x.src a) = true) : exec (.brx h a) s = .next (s.jump x h none (x.src a) 0) := by
  change execBrx h a s = _
  rw [execBrx, State.withCtx_some hx, State.checked_go ha (by simp), State.targetGate_go ok]

theorem exec_ret {s : State} {x : Ctx} {h : Hdr} {a : Opnd} (hx : s.ctx? h = some x) (ha : x.holds [(1, a)] = true)
    (deep : x.depthsOk 0 = true) (ok : x.targetsOk (x.src a) = true) :
    exec (.ret h a) s = .next (s.jump x h none (x.src a) (-1)) := by
  change execRet h a s = _
  rw [execRet, State.withCtx_some hx, State.checked_go ha (by simp), State.depthGate_go deep, State.targetGate_go ok]

/-- Settles O14: past its gates each of the three words is a jump (`State.jump_performs`). -/
theorem branchWords : Obligations.BranchWords := by
  unfold Obligations.BranchWords
  refine ⟨fun h ofs s x hx ok => ?_, fun h a s x hx ha ok => ?_, fun h a s x hx ha deep ok => ?_⟩
  · obtain ⟨g', done⟩ := State.jump_performs hx (fun _ => relTarget x.iss.pc ofs) 0
    exact ⟨_, g', exec_bra hx ok, done⟩
  · obtain ⟨g', done⟩ := State.jump_performs hx (x.src a) 0
    exact ⟨_, g', exec_brx hx ha ok, done⟩
  · obtain ⟨g', done⟩ := State.jump_performs hx (x.src a) (-1)
    exact ⟨_, g', exec_ret hx ha deep ok, done⟩

/-! ## CALL (07 R155) -/

/-- A group of one live lane at address 0 that keeps V0 in its first reuse latch (05 R112). -/
def latchedGroup : Group where
  lp := [(0, { st := .live, depth := 0, pc := 0 })]
  latchA := some (.v 0)

/-- The issue of a word of that group, in its one lane. -/
def latchedIssue : Issue where
  who := { crew := 0, grp := 0 }
  pc := 0
  set := 1
  act := 1
  held := 0
  hi := 0
  len := 12

/-- A module whose one crew has that group, and the word in hand. -/
def latchedState : State :=
  { State.reset with crews := [{ id := 0, groups := [latchedGroup] }], cur := some latchedIssue }

/-- The header of a word that every lane runs, without hints. -/
def plainHdr : Hdr where
  pg := 15
  pn := false
  y := false
  k := 0
  s := false
  e := 0

/-- The context of the word. -/
def latchedCtx : Ctx where
  iss := latchedIssue
  c := { id := 0, groups := [latchedGroup] }
  g := latchedGroup
  act := 1
  off := 0

/-- The write of V0 clears the reuse latch that holds it. -/
theorem call_clearsLatch : ∀ t, exec (.call plainHdr (.v 0) 0) latchedState = .next t →
    (t.group? latchedIssue.who).map Group.latchA = some none := by
  rintro t ⟨⟩
  decide +kernel

/-- Refutes O15: a CALL whose destination is a register in a reuse latch clears the latch (05 R112), which `Group.IssueRest` keeps. -/
theorem not_callWords : ¬ Obligations.CallWords := by
  unfold Obligations.CallWords
  rintro ⟨call, -⟩
  obtain ⟨t, g', run, done, -, rest, -⟩ := call plainHdr 0 0 latchedState latchedCtx rfl rfl rfl rfl
  have cleared := call_clearsLatch t run
  rw [show latchedIssue.who = latchedCtx.iss.who from rfl, done.group] at cleared
  have kept : g'.latchA = some (.v 0) := congrArg Group.latchA rest
  simp [kept] at cleared

end Sys2Proof.Machine
end

section
/-! SUPPORT. The destinations of a vector word: registers, predicates, ports and the bytes that a port writes. -/

namespace Sys2Proof

/-! ## Bytes of a value -/

theorem length_bytesOf : ∀ (n w : Nat), (bytesOf w n).length = n
  | 0, _ => rfl
  | n + 1, w => congrArg (· + 1) (length_bytesOf n (w / 256))

theorem getD_bytesOf : ∀ (n w k : Nat), k < n → (bytesOf w n).getD k 0 = BitVec.ofNat 8 (w / 256 ^ k)
  | 0, _, _, h => absurd h (Nat.not_lt_zero _)
  | n + 1, w, 0, _ => by simp [bytesOf]
  | n + 1, w, k + 1, h => by
    rw [bytesOf, List.getD_cons_succ, getD_bytesOf n (w / 256) k (by omega), Nat.div_div_eq_div_mul, ← Nat.pow_succ']

/-- A byte of a word of 64 bits. -/
theorem getD_bytesOf_word (v : Word) {k : Nat} (h : k < 8) : (bytesOf v.toNat 8).getD k 0 = v.extractLsb' (8 * k) 8 := by
  rw [getD_bytesOf 8 v.toNat k h]
  apply BitVec.eq_of_toNat_eq
  rw [BitVec.extractLsb'_toNat, BitVec.toNat_ofNat, Nat.shiftRight_eq_div_pow, Nat.pow_mul]

theorem nodup_eraseDups {α : Type} [BEq α] [LawfulBEq α] : ∀ l : List α, l.eraseDups.Nodup
  | [] => List.nodup_nil
  | a :: l => by
    rw [List.eraseDups_cons, List.nodup_cons]
    refine ⟨fun h => ?_, nodup_eraseDups _⟩
    have := List.mem_eraseDups.mp h
    simp at this
termination_by l => l.length
decreasing_by exact Nat.lt_succ_of_le (List.length_filter_le _ _)

/-- Only the low bytes of a value are written. -/
theorem bytesOf_mod : ∀ (n w : Nat), bytesOf (w % 256 ^ n) n = bytesOf w n
  | 0, _ => rfl
  | n + 1, w => by
    rw [bytesOf, bytesOf, Nat.pow_succ', Nat.mod_mul_right_div_self, bytesOf_mod n]
    refine congrArg (· :: _) (BitVec.eq_of_toNat_eq ?_)
    rw [BitVec.toNat_ofNat, BitVec.toNat_ofNat]
    exact Nat.mod_mul_right_mod w 256 _

/-- The value of the bytes of a value. -/
theorem leNat_bytesOf : ∀ (n w : Nat), leNat (bytesOf w n) = w % 256 ^ n
  | 0, w => (Nat.mod_one w).symm
  | n + 1, w => by
    rw [bytesOf, leNat, leNat_bytesOf n, BitVec.toNat_ofNat,
      show 256 ^ (n + 1) = 256 * 256 ^ n from Nat.pow_succ']
    exact (Nat.mod_mul (a := 256)).symm

/-! ## Bytes of several lanes -/

theorem Mask.sorted_lanes (m : Mask) : m.lanes.Pairwise (· < ·) := List.Pairwise.filter _ List.pairwise_lt_range

/-- The lanes of a list write their bytes, one after the other. -/
def Memory.putLanes (m : Memory) (va : Nat → Nat) (bs : Nat → List Byte) (ls : List Nat) : Memory :=
  ls.foldl (fun m l => m.write (va l) (bs l)) m

theorem Memory.get_putLanes_out {va : Nat → Nat} {bs : Nat → List Byte} {a : Nat} : ∀ (ls : List Nat) (m : Memory),
    (∀ l ∈ ls, a < va l ∨ va l + (bs l).length ≤ a) → (m.putLanes va bs ls).get a = m.get a
  | [], _, _ => rfl
  | l :: ls, m, h => by
    rw [Memory.putLanes, List.foldl_cons, ← Memory.putLanes, get_putLanes_out ls _ fun k hk => h k (List.mem_cons_of_mem _ hk)]
    exact Memory.get_write_out _ (h l List.mem_cons_self)

/-- A byte of a lane is in the memory where no later lane writes it. -/
theorem Memory.get_putLanes_in {va : Nat → Nat} {bs : Nat → List Byte} {l k : Nat} (hk : k < (bs l).length) :
    ∀ (ls : List Nat) (m : Memory), ls.Pairwise (· < ·) → l ∈ ls →
      (∀ j ∈ ls, l < j → va l + k < va j ∨ va j + (bs j).length ≤ va l + k) →
      (m.putLanes va bs ls).get (va l + k) = (bs l).getD k 0
  | [], _, _, h, _ => absurd h List.not_mem_nil
  | i :: ls, m, hs, h, later => by
    obtain ⟨first, hs⟩ := List.pairwise_cons.mp hs
    have later' := fun j (hj : j ∈ ls) => later j (List.mem_cons_of_mem _ hj)
    rw [Memory.putLanes, List.foldl_cons, ← Memory.putLanes]
    rcases List.mem_cons.mp h with rfl | h
    · rw [Memory.get_putLanes_out ls _ fun j hj => later' j hj (first j hj), Memory.get_write_in _ hk]
    · exact Memory.get_putLanes_in hk ls _ hs h later'

end Sys2Proof

namespace Sys2Proof.Machine

/-! ## Register destinations (07 R150, 05 R105) -/

@[simp] theorem Group.rdV_wrG (g : Group) (n : Nat) (v : Word) (k l : Nat) : (g.wrG n v).rdV k l = g.rdV k l := rfl

@[simp] theorem Group.rdP_wrG (g : Group) (n : Nat) (v : Word) (k : Nat) : (g.wrG n v).rdP k = g.rdP k := rfl

@[simp] theorem Group.rdG_wrV (g : Group) (n : Nat) (m : Mask) (f : Nat → Word) (k : Nat) : (g.wrV n m f).rdG k = g.rdG k := rfl

@[simp] theorem Group.rdP_wrV (g : Group) (n : Nat) (m : Mask) (f : Nat → Word) (k : Nat) : (g.wrV n m f).rdP k = g.rdP k := rfl

@[simp] theorem Group.rdV_wrP (g : Group) (n : Nat) (m p : Mask) (k l : Nat) : (g.wrP n m p).rdV k l = g.rdV k l := by
  unfold Group.wrP
  split <;> rfl

@[simp] theorem Group.rdG_wrP (g : Group) (n : Nat) (m p : Mask) (k : Nat) : (g.wrP n m p).rdG k = g.rdG k := by
  unfold Group.wrP
  split <;> rfl

/-- A lane of a predicate after a write of lanes of another, or the same, predicate. -/
theorem Group.has_rdP_wrP (g : Group) (n : Nat) (m p : Mask) {k : Nat} (hk : k ≠ 15) (l : Nat) :
    ((g.wrP n m p).rdP k).has l = if m.has l && n == k then p.has l else (g.rdP k).has l := by
  rw [Group.rdP_wrP]
  by_cases e : n = k
  · subst e
    rw [if_pos ⟨rfl, hk⟩, beq_self_eq_true, Bool.and_true]
    by_cases hl : l < 32
    · change ((g.rdP n &&& ~~~m) ||| (p &&& m) : Mask).getLsbD l = _
      rw [BitVec.getLsbD_or]
      change ((g.rdP n &&& ~~~m).has l || (p &&& m).has l) = _
      rw [Mask.has_and, Mask.has_and, Mask.has_not m hl]
      cases m.has l <;> simp
    · have beyond (q : Mask) : q.has l = false := Bool.eq_false_iff.mpr fun h => hl (Mask.lt_of_has h)
      rw [beyond, beyond, if_neg Bool.false_ne_true]
      exact (beyond _).symm
  · rw [if_neg fun h => e h.1.symm, beq_eq_false_iff_ne.mpr e, Bool.and_false]
    rfl

section
variable (g : Group) (act : Mask) (o : Opnd) (d : Nat → Word) (pb : Nat → Bool)

/-- A V register after the write of a destination. -/
theorem Group.rdV_wrDst (n : Nat) {l : Nat} (hl : l < 32) :
    (g.wrDst act o d pb).rdV n l = if act.has l && o.isV n then d l else g.rdV n l := by
  cases o with
  | v k =>
    rw [Group.wrDst, Group.rdV_wrV _ _ _ _ _ _ hl]
    refine if_congr ?_ rfl rfl
    rw [Bool.and_eq_true, Opnd.isV, beq_iff_eq]
    exact ⟨fun h => ⟨h.2, h.1.symm⟩, fun h => ⟨h.2.symm, h.1⟩⟩
  | g k => cases h : act.low <;> simp [Group.wrDst, Opnd.isV, h]
  | _ => simp [Group.wrDst, Opnd.isV]

/-- A G register takes the lowest active lane's value. -/
theorem Group.rdG_wrDst (n : Nat) : (g.wrDst act o d pb).rdG n = match act.low with
    | none => g.rdG n
    | some l => if o.isG n then d l else g.rdG n := by
  cases o with
  | g k =>
    cases h : act.low with
    | none => simp [Group.wrDst, h]
    | some l =>
      simp only [Group.wrDst, h, Group.rdG_wrG, Opnd.isG, beq_iff_eq]
      exact if_congr eq_comm rfl rfl
  | _ => cases h : act.low <;> simp [Group.wrDst, Opnd.isG]

/-- A predicate takes the active lanes' bits. -/
theorem Group.has_rdP_wrDst {n : Nat} (hn : n ≠ 15) (l : Nat) :
    ((g.wrDst act o d pb).rdP n).has l = if act.has l && o.isP n then pb l else (g.rdP n).has l := by
  cases o with
  | p k =>
    rw [Group.wrDst, Group.has_rdP_wrP _ _ _ _ hn, Mask.has_ofFn, Opnd.isP]
    split
    · next h =>
      simp only [Bool.and_eq_true] at h
      simp [Mask.lt_of_has h.1]
    · rfl
  | g k => cases h : act.low <;> simp [Group.wrDst, Opnd.isP, h]
  | _ => simp [Group.wrDst, Opnd.isP]

/-- The write of a destination changes registers and the reuse latches that hold them. -/
theorem Group.wrDst_only : ∃ v r p la lb, g.wrDst act o d pb = { g with v := v, g := r, p := p, latchA := la, latchB := lb } := by
  cases o with
  | v k => exact ⟨_, _, _, _, _, rfl⟩
  | g k =>
    unfold Group.wrDst
    dsimp only
    split
    · exact ⟨_, _, _, _, _, rfl⟩
    · exact ⟨_, _, _, _, _, rfl⟩
  | p k =>
    unfold Group.wrDst Group.wrP
    dsimp only
    split
    · exact ⟨_, _, _, _, _, rfl⟩
    · exact ⟨_, _, _, _, _, rfl⟩
  | _ => exact ⟨_, _, _, _, _, rfl⟩

end

/-! ## Stream ports (09 R246) -/

/-- Each port of a list of different ports moves on by one. -/
theorem sget_foldl_bump (n : Nat) : ∀ (ns : List Nat) (m : SMap Port), ns.Nodup →
    sget Port.none (ns.foldl (fun m n =>
      let p := sget Port.none m n
      sset Port.none m n { p with pos := p.pos + 1 }) m) n =
    if n ∈ ns then { sget Port.none m n with pos := (sget Port.none m n).pos + 1 } else sget Port.none m n
  | [], _, _ => by simp
  | k :: ns, m, h => by
    obtain ⟨hk, hn⟩ := List.nodup_cons.mp h
    rw [List.foldl_cons, sget_foldl_bump n ns _ hn]
    by_cases e : n = k
    · subst e
      simp [hk]
    · simp [sget_sset_ne _ e, e]

theorem Group.port_bumpPorts (g : Group) (us : List PUse) (n : Nat) : (g.bumpPorts us).port n =
    if n ∈ us.map (·.n) then { g.port n with pos := (g.port n).pos + 1 } else g.port n := by
  rw [Group.port, Group.bumpPorts, sget_foldl_bump n _ _ (nodup_eraseDups _)]
  exact if_congr List.mem_eraseDups rfl rfl

/-- The ports that a word uses are those among its operands. -/
theorem mem_portUses (srcs dsts : List Opnd) (n : Nat) :
    n ∈ (portUses srcs dsts).map (·.n) ↔ (dsts ++ srcs).any (fun o => o.isSp n) = true := by
  have use (wr : Bool) (os : List Opnd) : (∃ u ∈ os.filterMap fun o => match o with
      | .sp n => some ({ n := n.toNat, wr := wr } : PUse)
      | _ => none, u.n = n) ↔ os.any (fun o => o.isSp n) = true := by
    simp only [List.mem_filterMap, List.any_eq_true]
    constructor
    · rintro ⟨u, ⟨o, ho, e⟩, rfl⟩
      refine ⟨o, ho, ?_⟩
      cases o with
      | sp k =>
        cases e
        exact beq_self_eq_true _
      | _ => contradiction
    · rintro ⟨o, ho, e⟩
      cases o with
      | sp k => exact ⟨_, ⟨_, ho, rfl⟩, beq_iff_eq.mp e⟩
      | _ => contradiction
  rw [List.any_append, Bool.or_eq_true, ← use true dsts, ← use false srcs, List.mem_map]
  simp only [portUses, List.mem_eraseDups, List.mem_append]
  constructor
  · rintro ⟨u, hu | hu, e⟩
    · exact .inr ⟨u, hu, e⟩
    · exact .inl ⟨u, hu, e⟩
  · rintro (⟨u, hu, e⟩ | ⟨u, hu, e⟩)
    · exact ⟨u, .inr hu, e⟩
    · exact ⟨u, .inl hu, e⟩

/-- Lanes that write the scratchpad one after the other. -/
theorem Crew.foldl_wrScratch (va : Nat → Nat) (bs : Nat → List Byte) : ∀ (ls : List Nat) (c : Crew),
    ls.foldl (fun c l => c.wrScratch (va l) (bs l)) c = { c with scratch := c.scratch.putLanes va bs ls }
  | [], _ => rfl
  | _ :: ls, _ => foldl_wrScratch va bs ls _

/-- A port that a word writes takes the bytes of its lanes. -/
theorem Crew.wrPort_sp (c : Crew) (g : Group) (act : Mask) (n : BitVec 3) (d : Nat → Word) :
    c.wrPort g act (.sp n) d = { c with
      scratch := c.scratch.putLanes (fun l => c.portAddr (g.port n.toNat) + 8 * l) (fun l => bytesOf (d l).toNat 8) act.lanes } := by
  have key : ∀ (ls : List Nat) (c : Crew), ls.foldl (fun c l =>
      Crew.wrScratch c (c.portAddr (g.port n.toNat) + 8 * l) (bytesOf (d l).toNat 8)) c =
      { c with scratch := c.scratch.putLanes (fun l => c.portAddr (g.port n.toNat) + 8 * l) (fun l => bytesOf (d l).toNat 8) ls } := by
    intro ls
    induction ls with
    | nil => intro c; rfl
    | cons l ls ih => intro c; exact ih _
  exact key act.lanes c

theorem Crew.wrPort_only (c : Crew) (g : Group) (act : Mask) (o : Opnd) (d : Nat → Word) :
    ∃ m, c.wrPort g act o d = { c with scratch := m } := by
  cases o with
  | sp n => exact ⟨_, Crew.wrPort_sp c g act n d⟩
  | _ => exact ⟨_, rfl⟩

end Sys2Proof.Machine
end

section
/-! SUPPORT. A vector word that issues normally: past its gates, its writes, its completion. -/

namespace Sys2Proof.Machine

/-! ## The gates of a vector word -/

/-- Ports that can all be used raise no cause and are waited for by no one. -/
theorem State.portGate_go {s : State} {x : Ctx} {us : List PUse} {k : Unit → State} (ready : portsReady s x us = true) :
    s.portGate x us k = k () := by
  unfold State.portGate
  by_cases idle : (us.isEmpty || x.act == 0) = true
  · rw [if_pos idle]
  rw [if_neg idle]
  have all : ∀ u ∈ us, (x.c.tile (x.g.port u.n).tile).gone = false ∧ (x.g.port u.n).exhausted u.wr = false ∧
      (x.c.tile (x.g.port u.n).tile).waits u.wr = false ∧ (x.g.handler = true ∨ ∀ l, x.act.has l = true →
        x.g.suppressed x.iss.pc l = true ∨
          watchHit (s.core x.c.core) true (!u.wr) u.wr (x.c.portAddr (x.g.port u.n) + 8 * l) 8 = none) := by
    rw [portsReady, Bool.eq_false_iff.mpr idle, Bool.false_or, List.all_eq_true] at ready
    intro u hu
    have h := ready u hu
    simp only [Bool.and_eq_true, Bool.or_eq_true, Bool.not_eq_true'] at h
    obtain ⟨⟨⟨gone, open_⟩, still⟩, watch⟩ := h
    refine ⟨gone, open_, still, watch.imp id fun w l hl => ?_⟩
    simpa using Mask.all_lanes w hl
  have gone : us.find? (fun u => let p := x.g.port u.n; p.count != 0 && (x.c.tile p.tile).gone) = none :=
    List.find?_eq_none.mpr fun u hu => by simp [(all u hu).1]
  have ended : us.find? (fun u => (x.g.port u.n).exhausted u.wr) = none :=
    List.find?_eq_none.mpr fun u hu => by simp [(all u hu).2.1]
  have waits : us.any (fun u => (x.c.tile (x.g.port u.n).tile).waits u.wr) = false :=
    List.any_eq_false.mpr fun u hu => by simp [(all u hu).2.2.1]
  rw [gone]
  dsimp only
  rw [ended]
  dsimp only
  have watched : (Mask.ofFn fun l => x.act.has l && Option.isSome (
      if x.g.handler || x.g.suppressed x.iss.pc l then none
      else us.findSome? fun u =>
        (watchHit (s.core x.c.core) true (!u.wr) u.wr (x.c.portAddr (x.g.port u.n) + 8 * l) 8).map fun w => (w, u))) = 0 := by
    refine Mask.ofFn_none fun l hl => ?_
    split
    · rfl
    · next free =>
      rw [Bool.or_eq_true, not_or] at free
      rw [List.findSome?_eq_none_iff.mpr fun u hu => ?_]
      · rfl
      · rcases (all u hu).2.2.2 with mode | none
        · exact absurd mode free.1
        · rw [(none l hl).resolve_left free.2]
          rfl
  rw [watched, Mask.low_eq_none_iff.mpr rfl]
  dsimp only [Option.bind]
  rw [waits]
  rfl

/-- Flags of which none is enabled raise no cause. -/
theorem State.fpGate_go {s : State} {x : Ctx} {m : Mask} {f : Nat → Fl} {k : Unit → State}
    (calm : m.lanes.all (fun l => !enabledFl x.g.fcr (f l)) = true) : s.fpGate x m f k = k () :=
  if_pos (Mask.ofFn_none fun l hl => by simpa using Mask.all_lanes calm hl)

/-- Without a mismatch to strike it, a word is not executed again. -/
theorem State.residGate_go {s : State} {x : Ctx} {checked : Bool} {f : Nat → Fl} {k : State → State}
    (right : (!checked || x.act == 0 || (s.core x.c.core).resid.isEmpty) = true)
    (calm : x.act.lanes.all (fun l => !enabledFl x.g.fcr (f l)) = true) : s.residGate x checked f k = k s := by
  have pass : s.fpGate x x.act f (fun _ => k s) = k s := State.fpGate_go calm
  unfold State.residGate
  split
  · next st found =>
    exfalso
    simp only [Bool.not_true, Bool.false_or, Bool.or_eq_true, beq_iff_eq, List.isEmpty_iff] at right
    rcases right with idle | none
    · have hits := List.find?_some found
      simp [Strike.strikes, idle] at hits
    · rw [none] at found
      contradiction
  · exact pass

/-- A vector word that issues normally comes to its writes. -/
theorem State.vexec_go {s : State} {w : VWord} {f : Ctx → Nat → LaneOut} {x : Ctx} (hx : s.ctx? w.h = some x)
    (ready : vReady s x w (f x) = true) : s.vexec w f = s.vwrite x w (f x) := by
  simp only [vReady, Bool.and_eq_true] at ready
  obtain ⟨⟨⟨⟨holds, rights⟩, ports⟩, right⟩, calm⟩ := ready
  rw [State.vexec, State.withCtx_some hx,
    State.checked_go holds fun super => by simpa [super] using rights, State.portGate_go ports, State.residGate_go right calm]

/-! ## The writes of a vector word -/

/-- The ports that a vector word uses: none without an active lane. -/
def VWord.uses (w : VWord) (act : Mask) : List PUse := if act = 0 then [] else portUses w.srcs [w.d]

/-- The group with the results of a vector word. -/
def VWord.put (w : VWord) (act : Mask) (f : Nat → LaneOut) (g : Group) : Group :=
  let g := g.bumpPorts (w.uses act)
  let g := g.wrDst act w.d (fun l => (f l).d) (fun l => (f l).pb)
  let g := g.wrDst act (w.d2.getD (.imm 0)) (fun l => (f l).d2) (fun _ => false)
  let g := match w.pout with
    | some n => g.wrP n.toNat act (Mask.ofFn fun l => (f l).pout)
    | none => g
  g.orFsr (lanesFl act fun l => (f l).fl)

theorem State.vwrite_eq (s : State) (x : Ctx) (w : VWord) (f : Nat → LaneOut) : s.vwrite x w f =
    (s.updCrew x.iss.who.crew fun c =>
      (c.wrPort x.g x.act w.d fun l => (f l).d).updGroup x.iss.who.grp (w.put x.act f)).retire x w.h := by
  unfold State.vwrite VWord.put
  cases w.d2 <;> rfl

section
variable (w : VWord) (act : Mask) (f : Nat → LaneOut) (g : Group)

theorem VWord.rdV_put (n : Nat) {l : Nat} (hl : l < 32) : (w.put act f g).rdV n l =
    if act.has l && (w.d2.getD (.imm 0)).isV n then (f l).d2 else if act.has l && w.d.isV n then (f l).d else g.rdV n l := by
  have two : ((((g.bumpPorts (w.uses act)).wrDst act w.d (fun l => (f l).d) (fun l => (f l).pb)).wrDst act
      (w.d2.getD (.imm 0)) (fun l => (f l).d2) (fun _ => false)).rdV n l) =
      if act.has l && (w.d2.getD (.imm 0)).isV n then (f l).d2 else if act.has l && w.d.isV n then (f l).d else g.rdV n l := by
    rw [Group.rdV_wrDst _ _ _ _ _ n hl, Group.rdV_wrDst _ _ _ _ _ n hl]
    rfl
  cases hp : w.pout with
  | none =>
    simp only [VWord.put, hp]
    exact two
  | some k =>
    simp only [VWord.put, hp]
    exact (Group.rdV_wrP ..).trans two

theorem VWord.rdG_put (n : Nat) : (w.put act f g).rdG n = match act.low with
    | none => g.rdG n
    | some l => if (w.d2.getD (.imm 0)).isG n then (f l).d2 else if w.d.isG n then (f l).d else g.rdG n := by
  have two : ((((g.bumpPorts (w.uses act)).wrDst act w.d (fun l => (f l).d) (fun l => (f l).pb)).wrDst act
      (w.d2.getD (.imm 0)) (fun l => (f l).d2) (fun _ => false)).rdG n) = match act.low with
    | none => g.rdG n
    | some l => if (w.d2.getD (.imm 0)).isG n then (f l).d2 else if w.d.isG n then (f l).d else g.rdG n := by
    rw [Group.rdG_wrDst, Group.rdG_wrDst]
    cases act.low <;> rfl
  cases hp : w.pout with
  | none =>
    simp only [VWord.put, hp]
    exact two
  | some k =>
    simp only [VWord.put, hp]
    exact (Group.rdG_wrP ..).trans two

theorem VWord.has_rdP_put {n : Nat} (hn : n ≠ 15) (l : Nat) : ((w.put act f g).rdP n).has l =
    if !act.has l then (g.rdP n).has l
    else if w.pout.any (fun k => k.toNat == n) then (f l).pout
    else if (w.d2.getD (.imm 0)).isP n then false
    else if w.d.isP n then (f l).pb else (g.rdP n).has l := by
  have two : ((((g.bumpPorts (w.uses act)).wrDst act w.d (fun l => (f l).d) (fun l => (f l).pb)).wrDst act
      (w.d2.getD (.imm 0)) (fun l => (f l).d2) (fun _ => false)).rdP n).has l =
      if act.has l && (w.d2.getD (.imm 0)).isP n then false else if act.has l && w.d.isP n then (f l).pb else (g.rdP n).has l := by
    rw [Group.has_rdP_wrDst _ _ _ _ _ hn, Group.has_rdP_wrDst _ _ _ _ _ hn]
    rfl
  cases hp : w.pout with
  | none =>
    simp only [VWord.put, hp]
    refine two.trans ?_
    cases act.has l <;> simp
  | some k =>
    simp only [VWord.put, hp]
    refine (Group.has_rdP_wrP _ _ _ _ hn l).trans ?_
    rw [two, Mask.has_ofFn, Option.any_some]
    cases ha : act.has l with
    | false => simp
    | true => simp [Mask.lt_of_has ha]

/-- Nothing else of the group has changed than registers, reuse latches, ports and FSR. -/
theorem VWord.put_only : ∃ v r p la lb, w.put act f g = { g with
    v := v, g := r, p := p, latchA := la, latchB := lb, ports := (g.bumpPorts (w.uses act)).ports
    fsr := g.fsr ||| lanesFl act fun l => (f l).fl } := by
  obtain ⟨_, _, _, _, _, e₁⟩ := (g.bumpPorts (w.uses act)).wrDst_only act w.d (fun l => (f l).d) fun l => (f l).pb
  unfold VWord.put
  dsimp only
  rw [e₁]
  obtain ⟨_, _, _, _, _, e₂⟩ := Group.wrDst_only { g.bumpPorts (w.uses act) with v := _, g := _, p := _, latchA := _, latchB := _ } act
    (w.d2.getD (.imm 0)) (fun l => (f l).d2) fun _ => false
  rw [e₂]
  cases w.pout with
  | none => exact ⟨_, _, _, _, _, rfl⟩
  | some k =>
    unfold Group.wrP
    dsimp only
    split
    · exact ⟨_, _, _, _, _, rfl⟩
    · exact ⟨_, _, _, _, _, rfl⟩

end

/-! ## The crew of a word -/

/-- A change of the crew of a word that keeps its number and its other groups. -/
theorem IssueFrame.updCrewGroup {s : State} {w : Who} {c : Crew} (hc : s.crew? w.crew = some c) {f : Crew → Crew} (hid : ∀ c, (f c).id = c.id)
    (hg : ∀ j, j ≠ w.grp → (f c).groups[j]? = c.groups[j]?) : IssueFrame s (s.updCrew w.crew f) w := by
  refine ⟨rfl, List.prefix_refl _, fun _ e => State.crew?_updCrew_ne hid e, fun j e => ?_, fun _ _ => rfl, List.prefix_refl _,
    List.prefix_refl _⟩
  simp only [State.group?, State.crew?_updCrew hid hc, hc, Option.bind_some, hg j e]

theorem QuietFrame.updCrewGroup {s : State} {w : Who} {c : Crew} (hc : s.crew? w.crew = some c) {f : Crew → Crew} (hid : ∀ c, (f c).id = c.id)
    (hg : ∀ j, j ≠ w.grp → (f c).groups[j]? = c.groups[j]?) : QuietFrame s (s.updCrew w.crew f) w :=
  ⟨.updCrewGroup hc hid hg, fun _ => rfl⟩

/-! ## The completion of a vector word -/

theorem VScratch.wrPort {x : Ctx} (w : VWord) (f : Nat → LaneOut) {c' : Crew}
    (kept : c'.scratch = (x.c.wrPort x.g x.act w.d fun l => (f l).d).scratch) : VScratch x w f c' := by
  have lane {l : Nat} (hl : x.act.has l = true) : l ∈ x.act.lanes := Mask.mem_lanes.mpr ⟨Mask.lt_of_has hl, hl⟩
  cases hd : w.d with
  | sp n =>
    rw [hd, Crew.wrPort_sp] at kept
    have len (l : Nat) : (bytesOf (f l).d.toNat 8).length = 8 := length_bytesOf _ _
    refine ⟨fun m l k hm hl hk => ?_, fun a ha => ?_⟩
    · rw [hd] at hm
      rw [kept, ← beq_iff_eq.mp hm, ← getD_bytesOf_word _ hk]
      refine Memory.get_putLanes_in ((len l).symm ▸ hk) _ _ (Mask.sorted_lanes _) (lane hl) fun j _ later => .inl ?_
      omega
    · rw [kept]
      refine Memory.get_putLanes_out _ _ fun l hl => ?_
      rw [len]
      refine ha n.toNat l ?_ (Mask.mem_lanes.mp hl).2
      rw [hd]
      exact beq_self_eq_true _
  | _ =>
    rw [hd] at kept
    refine ⟨fun m l k hm => ?_, fun a _ => by rw [kept]; rfl⟩
    rw [hd] at hm
    contradiction

/-- The group of a vector word at the end of its issue. -/
theorem VGroup.retired {x : Ctx} (w : VWord) (f : Nat → LaneOut) {g' : Group} (rest : (w.put x.act f x.g).IssueRest g')
    (lanes : (w.put x.act f x.g).WentOn g' x.iss.set x.iss.len) (hints : (w.put x.act f x.g).Hinted g' x.iss x.act w.h.s w.h.y) :
    VGroup x w f g' := by
  have regs := rest.sameRegs
  have port : g'.ports = (w.put x.act f x.g).ports := (congrArg Group.ports (show g' = _ from rest)).trans rfl
  have bumped := fun n => x.g.port_bumpPorts (w.uses x.act) n
  have vregs := fun n l hl => w.rdV_put x.act f x.g n (l := l) hl
  have gregs := w.rdG_put x.act f x.g
  have preds := fun n l (hn : n ≠ 15) => w.has_rdP_put x.act f x.g hn l
  obtain ⟨v, r, p, la, lb, only⟩ := w.put_only x.act f x.g
  rw [only] at rest lanes hints regs port vregs gregs preds
  obtain ⟨hv, hr, hp, hfsr, -⟩ := regs
  refine ⟨fun n l hl => ?_, fun n => ?_, fun n l hn => ?_, hfsr, fun n => ?_, ⟨lanes.pc, lanes.depth, lanes.gone, lanes.remain⟩,
    hints.congr (fun _ => rfl) rfl, ?_⟩
  · rw [← vregs n l hl, Group.rdV, hv]
    rfl
  · exact (congrArg (sget 0 · n) hr).trans (gregs n)
  · rw [← preds n l hn, Group.rdP, hp]
    rfl
  · rw [Group.port, port]
    refine (bumped n).trans (if_congr ?_ rfl rfl)
    unfold VWord.uses
    by_cases idle : x.act = 0
    · simp [idle]
    · rw [if_neg idle, mem_portUses, bne, beq_eq_false_iff_ne.mpr idle]
      rfl
  · rw [rest]

/-- The writes of a vector word and its retirement are what `VDone` says. -/
theorem State.vwrite_done {s : State} {x : Ctx} {w : VWord} (hx : s.ctx? w.h = some x) (f : Nat → LaneOut) :
    VDone s (s.vwrite x w f) x w f := by
  obtain ⟨_, hc, hg, _, _⟩ := State.ctx?_some hx
  obtain ⟨m, only⟩ := x.c.wrPort_only x.g x.act w.d fun l => (f l).d
  have id (c : Crew) : ((c.wrPort x.g x.act w.d fun l => (f l).d).updGroup x.iss.who.grp (w.put x.act f)).id = c.id := by
    obtain ⟨_, e⟩ := c.wrPort_only x.g x.act w.d fun l => (f l).d
    rw [e]
    rfl
  have crew := State.crew?_updCrew id hc
  have grp : x.c.groups[x.iss.who.grp]? = some x.g := by
    simpa [State.group?, hc] using hg
  have group : (s.updCrew x.iss.who.crew fun c => (c.wrPort x.g x.act w.d fun l => (f l).d).updGroup x.iss.who.grp
      (w.put x.act f)).group? x.iss.who = some (w.put x.act f x.g) := by
    rw [State.group?, crew, only]
    simp [Crew.updGroup, lupd_getElem?, grp]
  have put : QuietFrame s (s.updCrew x.iss.who.crew fun c => (c.wrPort x.g x.act w.d fun l => (f l).d).updGroup x.iss.who.grp
      (w.put x.act f)) x.iss.who := by
    refine .updCrewGroup hc id fun j hj => ?_
    rw [only]
    simp [Crew.updGroup, lupd_getElem?, Ne.symm hj]
  obtain ⟨spends, g', hg', lanes, rest, hints⟩ := Spends.retire_hints crew group w.h
  obtain ⟨gs, hc'⟩ := spends.crew _ crew
  rw [State.vwrite_eq]
  refine ⟨put.trans spends.quiet, _, g', hc', hg', ?_, .wrPort w f rfl, .retired w f rest lanes hints⟩
  rw [only]
  rfl

/-- A word whose meaning is a vector word completes with its effect where it issues normally. -/
theorem VCompletes.of_vexec {i : Instr} {w : VWord} {f : State → Ctx → Nat → LaneOut} (run : ∀ s, exec i s = .next (s.vexec w (f s))) :
    VCompletes i w f := by
  intro s x hx ready
  exact ⟨_, (run s).trans (congrArg _ (State.vexec_go hx ready)), State.vwrite_done hx (f s x)⟩

end Sys2Proof.Machine
end

section
/-! PROPERTY. The vector words complete with their effect and frame: each is the one vector executor on its own fields and lanes. -/

namespace Sys2Proof.Machine

/-- Settles O1: each arithmetic word of the integer family is a vector word. -/
theorem integerArithmeticWords : Obligations.IntegerArithmeticWords := by
  unfold Obligations.IntegerArithmeticWords
  and_intros <;> intros <;> exact .of_vexec fun _ => rfl

/-- Settles O2: each bit word of the integer family is a vector word. -/
theorem integerBitWords : Obligations.IntegerBitWords := by
  unfold Obligations.IntegerBitWords
  and_intros <;> intros <;> exact .of_vexec fun _ => rfl

/-- Settles O3: each floating word is a vector word. -/
theorem floatWords : Obligations.FloatWords := by
  unfold Obligations.FloatWords
  and_intros <;> intros <;> exact .of_vexec fun _ => rfl

/-- Settles O4: each conversion and packing word is a vector word; CVTEF has the residual as its second destination. -/
theorem convertWords : Obligations.ConvertWords := by
  unfold Obligations.ConvertWords
  and_intros <;> intros <;> exact .of_vexec fun _ => rfl

/-- Settles O5: each special function is a vector word, and the tandem word one with two destinations. -/
theorem specialFunctionAndTandemWords : Obligations.SpecialFunctionAndTandemWords := by
  unfold Obligations.SpecialFunctionAndTandemWords
  and_intros <;> intros <;> exact .of_vexec fun _ => rfl

/-- Settles O6: each move and lane word is a vector word; SRD and LPR read the machine's state for their lanes. -/
theorem moveAndLaneWords : Obligations.MoveAndLaneWords := by
  unfold Obligations.MoveAndLaneWords
  and_intros <;> intros <;> exact .of_vexec fun _ => rfl

end Sys2Proof.Machine
end

section
/-! PROPERTY. What a step runs: the word of the group that issues, or an event (03 R71, 21 R481). -/

namespace Sys2Proof.Machine

theorem step_of_run {s t : State} {i : Instr} (h : s.nextAct bootEvent State.cycleEnd = .run i t) : step s = exec i t := by
  rw [step, h]

/-- Events that follow at once run first, in their order. -/
theorem State.nextAct_todo {s : State} {e : Instr} {rest : List Instr} (boot : Instr) (cycleEnd : State → State)
    (on : s.over = false) (next : s.todo = e :: rest) :
    s.nextAct boot cycleEnd = .run e { s with todo := rest, cur := none } := by
  rw [State.nextAct, on, next]
  rfl

/-- An input runs where no event follows at once. -/
theorem State.nextAct_inbox {s : State} {e : Instr} {rest : List Instr} (boot : Instr) (cycleEnd : State → State)
    (on : s.over = false) (idle : s.todo = []) (next : s.inbox = e :: rest) :
    s.nextAct boot cycleEnd = .run e { s with inbox := rest, cur := none } := by
  rw [State.nextAct, on, idle, next]
  rfl

/-- With nothing else due, the machine issues. -/
theorem State.nextAct_issue {s : State} (boot : Instr) (cycleEnd : State → State) (on : s.over = false) (todo : s.todo = [])
    (inbox : s.inbox = []) (up : s.ready = true) (flight : s.flight = []) (net : s.net = []) :
    s.nextAct boot cycleEnd = s.issueAct cycleEnd := by
  rw [State.nextAct, on, todo, inbox, up, flight, net]
  rfl

/-- The issue is that of the group that arbitration picks. -/
theorem State.issueAct_picked {s : State} {r : Ready} {c : Crew} {g : Group} (cycleEnd : State → State) (calm : s.convFaults = [])
    (pick : s.arbitrate s.readyGroups = some r) (hc : s.crew? r.who.crew = some c) (hg : s.group? r.who = some g) :
    s.issueAct cycleEnd = s.issue r.who c g r.sel := by
  rw [State.issueAct, calm]
  dsimp only [List.head?]
  rw [pick]
  dsimp only
  rw [hc, hg]

/-- The issue in hand of a word that a group has fetched (03 R57, R58). -/
def Issue.fetched (w : Who) (g : Group) (e : Sel) (bs : List Byte) : Issue where
  who := w
  pc := e.pc
  set := e.set
  act := e.set &&& g.guard (Raw.ofBytes bs).h
  held := e.held
  hi := BitVec.ofNat 32 ((Raw.ofBytes bs).pack.toNat / 2 ^ 64)
  len := opLen (Raw.ofBytes bs).op
  raw := leNat bs

/-- A group with no word under way and no asynchronous cause runs the word that it fetches and decodes. -/
theorem State.issue_decoded {s : State} {w : Who} {c : Crew} {g : Group} {e : Sel} {bs : List Byte} {i : Instr} (head : g.head = none)
    (calm : g.asyncNext = none) (fetch : s.fetchWord c g e.pc = .ok bs) (word : decodeBytes bs = .ok i) :
    s.issue w c g e = .run i (
      let u := ({ s with cur := some (Issue.fetched w g e bs) } : State).updGroup w fun g => g.latch (Raw.ofBytes bs).h i
      if e.conv then u.updGroup w fun g =>
        { g.mapLp (e.set &&& g.lanesIn (· == .yielded)) (fun _ p => { p with st := .live }) with wset := [] } else u) := by
  rw [State.issue, State.headWord, head, calm, fetch]
  dsimp only [Option.isSome]
  rw [word]
  rfl

/-- Settles O56: the step goes to the issue of the group that arbitration picks, and to the head of each list of events. -/
theorem stepRunsDecodedWord : Obligations.StepRunsDecodedWord := by
  unfold Obligations.StepRunsDecodedWord
  refine ⟨?issue, ?follows, ?input⟩
  case issue =>
    intro s r c g bs i on todo inbox up flight net calm pick hc hg head async fetch word
    have run := step_of_run <| (State.nextAct_issue bootEvent State.cycleEnd on todo inbox up flight net).trans <|
      (State.issueAct_picked State.cycleEnd calm pick hc hg).trans <| State.issue_decoded (w := r.who) head async fetch word
    refine ⟨fun conv => ?_, fun conv => ?_⟩
    · rw [run, conv]
      rfl
    · rw [run, conv]
      rfl
  case follows => exact fun s e rest on next => step_of_run (State.nextAct_todo _ _ on next)
  case input => exact fun s e rest on idle next => step_of_run (State.nextAct_inbox _ _ on idle next)

end Sys2Proof.Machine
end

section
/-! PROPERTY. A trap that waits, a trap in a handler, and an access without translation (20 R447, R452, R455). -/

namespace Sys2Proof

/-- A map of the values of a sparse map, where the default value stays. -/
theorem sget_map_values {α : Type} {d : α} (f : α → α) (hf : f d = d) (k : Nat) : ∀ m : SMap α,
    sget d (m.map fun p => (p.1, f p.2)) k = f (sget d m k)
  | [] => hf.symm
  | p :: m => by
    rw [List.map_cons, sget, sget]
    dsimp only
    split
    · rfl
    · exact sget_map_values f hf k m

end Sys2Proof

namespace Sys2Proof.Machine

/-! ## Crews that are stopped -/

/-- A crew that is stopped to be saved in a state. -/
def Crew.stopped (c : Crew) (st : CrewSt) : Crew :=
  if c.st == .running || (c.st == .closing && st != .saved) then { c with st := .stopping, stopTo := st }
  else if c.st == .stopping then { c with stopTo := c.stopTo.stronger st }
  else if c.st == .saved || c.st == .held then { c with st := c.st.stronger st }
  else c

theorem State.stopCrew_eq (s : State) (crew : Nat) (st : CrewSt) : s.stopCrew crew st = s.updCrew crew (·.stopped st) := rfl

theorem Crew.stopped_only (c : Crew) (st : CrewSt) : ∃ now goal, c.stopped st = { c with st := now, stopTo := goal } := by
  unfold Crew.stopped
  split
  · exact ⟨_, _, rfl⟩
  split
  · exact ⟨_, _, rfl⟩
  split
  · exact ⟨_, _, rfl⟩
  · exact ⟨_, _, rfl⟩

theorem Crew.stopped_id (c : Crew) (st : CrewSt) : (c.stopped st).id = c.id := by
  obtain ⟨_, _, e⟩ := c.stopped_only st
  rw [e]

theorem Crew.stopped_groups (c : Crew) (st : CrewSt) : (c.stopped st).groups = c.groups := by
  obtain ⟨_, _, e⟩ := c.stopped_only st
  rw [e]

/-- A resident crew is stopping, to become the stronger of two states where it was stopping already. -/
theorem Crew.stopped_resident {c : Crew} {st : CrewSt} (on : c.resident = true) (hst : st ≠ .saved) :
    (c.stopped st).st = .stopping ∧ (c.stopped st).stopTo = if c.st = .stopping then c.stopTo.stronger st else st := by
  unfold Crew.resident at on
  unfold Crew.stopped
  cases h : c.st with
  | stopping => exact ⟨rfl, rfl⟩
  | running => exact ⟨rfl, rfl⟩
  | closing =>
    rw [show (st != CrewSt.saved) = true from bne_iff_ne.mpr hst]
    exact ⟨rfl, rfl⟩
  | _ => rw [h] at on; contradiction

/-- A crew whose context is written takes the state at once. -/
theorem Crew.stopped_saved {c : Crew} (st : CrewSt) (h : c.st = .saved ∨ c.st = .held) : (c.stopped st).st = c.st.stronger st := by
  unfold Crew.stopped
  rcases h with h | h
  · rw [h]
    rfl
  · rw [h]
    rfl

theorem CrewSt.stronger_frozen (a : CrewSt) : a.stronger .frozen = .frozen := by
  cases a <;> rfl

/-! ## Traps that wait, and traps in a handler -/

/-- The group of a double trap. -/
def Group.doubled (t : TrapRec) (g : Group) : Group :=
  { g.headDone with
    frozen := true
    tcause := BitVec.ofNat 64 (t.cause + (if t.async then 2 ^ 8 else 0) + 2 ^ 9) }

section
variable {s : State} {w : Who} {t : TrapRec} {c : Crew} {g : Group}

/-- The stop on any trap, where one is armed for the group's partition (17 R425). -/
def State.trapStop (s : State) (c : Crew) (g : Group) (t : TrapRec) : State :=
  if s.stopArmed c.core g.part 2 then s.freeze c.core g.part 2 t.pc.toNat t.cause none else s

theorem State.doubleTrap_eq (hc : s.crew? w.crew = some c) (hg : s.group? w = some g) : s.doubleTrap w t =
    ((((s.trapStop c g t).updGroup w (Group.doubled t)).stopCrew w.crew .frozen).postFlt (fltOf c g w 0x21 0 0xFF t.pc)) := by
  rw [State.doubleTrap, hc, hg]
  rfl

theorem State.trapStop_crews (s : State) (c : Crew) (g : Group) (t : TrapRec) : (s.trapStop c g t).crews = s.crews := by
  unfold State.trapStop
  split <;> rfl

/-- The crew of a double trap is stopped to be frozen. -/
theorem State.doubleTrap_crew (hc : s.crew? w.crew = some c) (hg : s.group? w = some g) :
    (s.doubleTrap w t).crew? w.crew = some ((c.updGroup w.grp (Group.doubled t)).stopped .frozen) := by
  rw [State.doubleTrap_eq hc hg]
  refine State.crew?_updCrew (fun c => c.stopped_id .frozen) (State.crew?_updGroup ?_)
  rw [State.crew?, State.trapStop_crews]
  exact hc

/-- The group of a double trap is frozen. -/
theorem State.doubleTrap_group (hc : s.crew? w.crew = some c) (hg : s.group? w = some g) :
    (s.doubleTrap w t).group? w = some (g.doubled t) := by
  rw [State.doubleTrap_eq hc hg]
  refine State.group?_updCrew (fun c => c.stopped_id .frozen) (fun c => c.stopped_groups .frozen) (State.group?_updGroup ?_)
  rw [State.group?_congr (s.trapStop_crews c g t)]
  exact hg

/-- TRAPCAUSE of a double trap has DOUBLE and the cause. -/
theorem Group.doubled_tcause (g : Group) (h : t.cause < 256) :
    (g.doubled t).tcause.getLsbD 9 = true ∧ (g.doubled t).tcause.setWidth 8 = BitVec.ofNat 8 t.cause := by
  have low : t.cause + (if t.async then 2 ^ 8 else 0) < 2 ^ 9 := by
    split <;> omega
  constructor
  · rw [Group.doubled, BitVec.getLsbD_ofNat, Nat.add_comm, Nat.testBit_two_pow_add_eq, Nat.testBit_lt_two_pow low]
    rfl
  · apply BitVec.eq_of_toNat_eq
    rw [Group.doubled, BitVec.toNat_setWidth, BitVec.toNat_ofNat, BitVec.toNat_ofNat]
    split <;> omega

end

/-- Settles O22: a trap of a group with an outstanding result changes its head alone; in a handler the three writes of a double
trap follow one another. -/
theorem trapWaits : Obligations.TrapWaits := by
  unfold Obligations.TrapWaits
  refine ⟨?waits, ?double, ?stop⟩
  case waits =>
    intro s w r c g hc hg mode busy
    rw [State.takeTrap_waits hc hg mode busy]
    exact ⟨_, State.group?_updGroup hg, rfl, ⟨rfl, rfl, rfl, rfl, rfl⟩,
      ⟨rfl, rfl, rfl, rfl, rfl, rfl, rfl, rfl, rfl, rfl, rfl, rfl, rfl⟩, rfl⟩
  case double =>
    intro s w r c g hc hg mode cause free
    rw [State.takeTrap_double hc hg mode]
    have still : s.trapStop c g r = s := by rw [State.trapStop, free]; rfl
    have eq := State.doubleTrap_eq (t := r) hc hg
    rw [still] at eq
    obtain ⟨double, code⟩ := g.doubled_tcause cause
    refine ⟨_, _, State.doubleTrap_crew hc hg, State.doubleTrap_group hc hg, fun on => ?_, fun saved => ?_, rfl, double, code, ?_, ?_⟩
    · obtain ⟨now, goal⟩ := Crew.stopped_resident (c := c.updGroup w.grp (Group.doubled r)) (st := .frozen) on (by decide)
      refine ⟨now, goal.trans ?_⟩
      rw [CrewSt.stronger_frozen]
      exact ite_self _
    · exact (Crew.stopped_saved (c := c.updGroup w.grp (Group.doubled r)) .frozen saved).trans (CrewSt.stronger_frozen _)
    · rw [eq]
      rfl
    · rw [eq]
      exact ⟨_, rfl, rfl, rfl⟩
  case stop =>
    intro s w r c g hc hg mode armed
    rw [State.takeTrap_double hc hg mode]
    have eq := State.doubleTrap_eq (t := r) hc hg
    rw [State.trapStop, armed] at eq
    refine ⟨_, _, by rw [eq]; rfl, rfl, rfl, rfl, rfl, rfl, rfl, State.doubleTrap_group hc hg, rfl⟩

/-! ## Abort and requeue -/

theorem Crew.finishBars_only (c : Crew) : ∃ bars, c.finishBars = { c with bars := bars } := by
  have key : ∀ (ks : List Nat) (c : Crew), ∃ bars, ks.foldl (fun c k => c.barCheck k false) c = { c with bars := bars } := by
    intro ks
    induction ks with
    | nil => exact fun c => ⟨_, rfl⟩
    | cons k ks ih => exact fun c => ih (c.barCheck k false)
  exact key _ c

theorem Crew.streamRead_only (c : Crew) : ∃ tiles mtile, c.streamRead = { c with tiles := tiles, mtile := mtile } := by
  unfold Crew.streamRead
  split
  · unfold Crew.undrain
    split
    · exact ⟨_, _, rfl⟩
    · exact ⟨_, _, rfl⟩
  · exact ⟨_, _, rfl⟩

/-- An abandoned matrix instruction leaves the crew's state, its number and what it is stopped for. -/
theorem Crew.matAbandon_only (c : Crew) : ∃ groups scratch mprog mskip mout tiles mtile, c.matAbandon = { c with
    groups := groups, scratch := scratch, mprog := mprog, mskip := mskip, mout := mout, tiles := tiles, mtile := mtile } := by
  have key : ∀ (l : List (Nat × List Byte)) (c : Crew), ∃ m,
      l.foldl (fun (c : Crew) p => { c with scratch := c.scratch.write p.1 p.2 }) c = { c with scratch := m } := by
    intro l
    induction l with
    | nil => exact fun c => ⟨_, rfl⟩
    | cons p l ih => exact fun c => ih { c with scratch := c.scratch.write p.1 p.2 }
  obtain ⟨m, written⟩ := key c.mout c
  unfold Crew.matAbandon
  rw [written]
  dsimp only
  split
  · exact ⟨_, _, _, _, _, _, _, rfl⟩
  · obtain ⟨_, _, e⟩ := Crew.streamRead_only { ({ c with scratch := m } : Crew).updGroup (fld c.mprog 59 4) Group.matFlags with
      mprog := c.mprog &&& 0x7FFF_FFFF_FFFF_FFFF, mskip := false, mout := [] }
    exact ⟨_, _, _, _, _, _, _, e⟩

/-- A group whose lanes, held stores and ports are those of another. -/
def Group.SameHeld (g g' : Group) : Prop := g'.lp = g.lp ∧ g'.sb = g.sb ∧ g'.ports = g.ports

/-- The crew of an access without translation, before it is stopped (20 R455 steps 1 and 2). -/
def Crew.rewound (c : Crew) (grp : Nat) (ends : Bool) (cyc : Nat) : Crew :=
  let c := { c.updGroup grp Group.rewind with abortAt := some cyc }
  if ends then
    let c := c.finishBars
    if c.ownMat grp then c.matAbandon else c
  else c

/-- The rewound crew keeps its state and its number. -/
theorem Crew.rewound_kept (c : Crew) (grp : Nat) (ends : Bool) (cyc : Nat) : (c.rewound grp ends cyc).id = c.id ∧
    (c.rewound grp ends cyc).st = c.st ∧ (c.rewound grp ends cyc).stopTo = c.stopTo ∧ (c.rewound grp ends cyc).abortAt = some cyc := by
  unfold Crew.rewound
  dsimp only
  split
  · obtain ⟨_, bars⟩ := Crew.finishBars_only { c.updGroup grp Group.rewind with abortAt := some cyc }
    rw [bars]
    split
    · obtain ⟨_, _, _, _, _, _, _, e⟩ := Crew.matAbandon_only { c.updGroup grp Group.rewind with abortAt := some cyc, bars := _ }
      rw [e]
      exact ⟨rfl, rfl, rfl, rfl⟩
    · exact ⟨rfl, rfl, rfl, rfl⟩
  · exact ⟨rfl, rfl, rfl, rfl⟩

/-- The group of the rewound crew is rewound; the flags of its matrix instruction may enter its FSR. -/
theorem Crew.rewound_group {c : Crew} {grp : Nat} {g : Group} (hg : c.groups[grp]? = some g) (ends : Bool) (cyc : Nat) :
    ∃ g', (c.rewound grp ends cyc).groups[grp]? = some g' ∧ g.rewind.SameHeld g' := by
  have rewound : (c.updGroup grp Group.rewind).groups[grp]? = some g.rewind := by
    simp [Crew.updGroup, lupd_getElem?, hg]
  unfold Crew.rewound
  dsimp only
  split
  · have finished : (Crew.finishBars { c.updGroup grp Group.rewind with abortAt := some cyc }).groups[grp]? = some g.rewind := by
      rw [Crew.finishBars_groups]
      exact rewound
    split
    · rw [Crew.matAbandon_groups, Crew.updGroup, lupd_getElem?, finished]
      split
      · exact ⟨_, rfl, rfl, rfl, rfl⟩
      · exact ⟨_, rfl, rfl, rfl, rfl⟩
    · exact ⟨_, finished, rfl, rfl, rfl⟩
  · exact ⟨_, rewound, rfl, rfl, rfl⟩

/-- A rewound lane stands where the snapshot has it, live where it remains. -/
theorem Group.lpOf_rewind (g : Group) (l : Nat) : (g.rewind.lpOf l).pc = (sget Lp.none g.snap l).pc ∧
    (g.rewind.lpOf l).st = if (sget Lp.none g.snap l).st.remaining then .live else (sget Lp.none g.snap l).st := by
  have e : g.rewind.lpOf l = if (sget Lp.none g.snap l).st.remaining then { sget Lp.none g.snap l with st := .live }
      else sget Lp.none g.snap l :=
    sget_map_values (d := Lp.none) (fun p => if p.st.remaining then { p with st := .live } else p) rfl l g.snap
  rw [e]
  split
  · exact ⟨rfl, rfl⟩
  · exact ⟨rfl, rfl⟩

theorem State.abort_eq {s : State} {w : Who} {c : Crew} {g : Group} (hc : s.crew? w.crew = some c) (hg : s.group? w = some g)
    (mode : g.handler = false) (addr : Word) (acc : Nat) (pc : Pc) : s.abort w addr acc pc =
      (((s.updCrew w.crew fun c => c.rewound w.grp (!g.finished && g.rewind.finished) s.cycle).stopCrew w.crew .held).postAbort
        (fltOf c g w 0x10 addr acc pc)) := by
  rw [State.abort, hc, hg]
  dsimp only
  rw [mode]
  rfl

/-- Settles O24: the crew is rewound, then stopped to be held, then the record stands before those of higher groups. -/
theorem abortRequeue : Obligations.AbortRequeue := by
  unfold Obligations.AbortRequeue
  intro s w addr acc pc c g hc hg mode
  obtain ⟨c₀, hc₀, grp⟩ := State.group?_some hg
  obtain rfl : c = c₀ := Option.some.inj (hc.symm.trans hc₀)
  rw [State.abort_eq hc hg mode]
  generalize (!g.finished && g.rewind.finished) = ends
  obtain ⟨g', hg', lp, sb, ports⟩ := Crew.rewound_group grp ends s.cycle
  have kept := fun c : Crew => c.rewound_kept w.grp ends s.cycle
  obtain ⟨-, st, stopTo, abortAt⟩ := kept c
  have crew := State.crew?_updCrew (fun c => c.stopped_id .held) (State.crew?_updCrew (fun c => (kept c).1) hc)
  have lanes (l : Nat) : g'.lpOf l = g.rewind.lpOf l := congrArg (sget Lp.none · l) lp
  refine ⟨_, g', { fltOf c g w 0x10 addr acc pc with at_ := s.cycle }, crew, ?group, fun on => ?_, fun saved => ?_, sb, ports,
    fun l => ?_, rfl, rfl, rfl, rfl, rfl, rfl, rfl, ?_⟩
  case group =>
    refine State.group?_updCrew (fun c => c.stopped_id .held) (fun c => c.stopped_groups .held) ?_
    rw [State.group?, State.crew?_updCrew (fun c => (kept c).1) hc]
    exact hg'
  · have on : (c.rewound w.grp ends s.cycle).resident = true := by
      rw [Crew.resident, st]
      exact on
    obtain ⟨now, goal⟩ := Crew.stopped_resident (st := .held) on (by decide)
    rw [st, stopTo] at goal
    exact ⟨now, goal⟩
  · refine (Crew.stopped_saved .held (.inl (st.trans saved))).trans ?_
    rw [st, saved]
    rfl
  · rw [lanes]
    exact g.lpOf_rewind l
  · obtain ⟨_, _, e⟩ := (c.rewound w.grp ends s.cycle).stopped_only .held
    rw [e]
    exact abortAt

end Sys2Proof.Machine
end

section
/-! PROPERTY. The scratchpad words: the gates of a memory word, the results that a core gives itself, and the bytes (09 R211, R223, R234). -/

namespace Sys2Proof

/-! ## Words in lane order (09 R223) -/

section
variable (n : Nat) (va : Nat → Nat) (f : Nat → Nat → Nat)

/-- The memory after a read and write by each lane, in order. -/
def Memory.atomLanes : List Nat → Memory → Memory
  | [], m => m
  | l :: ls, m => atomLanes ls (m.write (va l) (bytesOf (f l (leNat (m.read (va l) n))) n))

/-- What a lane reads. -/
def Memory.atomOld : List Nat → Memory → Nat → Nat
  | [], _, _ => 0
  | l :: ls, m, k => if k = l then leNat (m.read (va l) n)
      else atomOld ls (m.write (va l) (bytesOf (f l (leNat (m.read (va l) n))) n)) k

/-- Lanes whose words are the same or apart. -/
def Aligned (ls : List Nat) : Prop := ∀ l ∈ ls, va l % n = 0

variable {n va f}

theorem Aligned.apart {ls : List Nat} (h : Aligned n va ls) {j k : Nat} (hj : j ∈ ls) (hk : k ∈ ls) (ne : va j ≠ va k) :
    va j + n ≤ va k ∨ va k + n ≤ va j := by
  obtain ⟨a, ha⟩ := Nat.dvd_of_mod_eq_zero (h j hj)
  obtain ⟨b, hb⟩ := Nat.dvd_of_mod_eq_zero (h k hk)
  rw [ha, hb] at ne ⊢
  rcases Nat.lt_or_gt_of_ne (fun e : a = b => ne (e ▸ rfl)) with lt | lt
  · exact .inl (Nat.mul_le_mul_left n lt)
  · exact .inr (Nat.mul_le_mul_left n lt)

theorem Aligned.tail {l : Nat} {ls : List Nat} (h : Aligned n va (l :: ls)) : Aligned n va ls := fun k hk => h k (List.mem_cons_of_mem _ hk)

theorem Memory.get_atomLanes_out {a : Nat} : ∀ (ls : List Nat) (m : Memory), (∀ l ∈ ls, a < va l ∨ va l + n ≤ a) →
    (m.atomLanes n va f ls).get a = m.get a
  | [], _, _ => rfl
  | l :: ls, m, h => by
    rw [Memory.atomLanes, get_atomLanes_out ls _ fun k hk => h k (List.mem_cons_of_mem _ hk)]
    refine Memory.get_write_out _ ?_
    rw [length_bytesOf]
    exact h l List.mem_cons_self

/-- A word apart from those of all lanes is read as before. -/
theorem Memory.read_atomLanes_out {a k : Nat} (ls : List Nat) (m : Memory) (h : ∀ l ∈ ls, a + k ≤ va l ∨ va l + n ≤ a) :
    (m.atomLanes n va f ls).read a k = m.read a k :=
  List.map_congr_left fun i hi => Memory.get_atomLanes_out (a := a + i) ls m fun l hl => by
    have := List.mem_range.mp hi
    have := h l hl
    omega

/-- The word of a lane that it writes. -/
theorem Memory.read_atom (m : Memory) (l : Nat) : (m.write (va l) (bytesOf (f l (leNat (m.read (va l) n))) n)).read (va l) n =
    bytesOf (f l (leNat (m.read (va l) n))) n := by
  have h := Memory.read_write m (va l) (bytesOf (f l (leNat (m.read (va l) n))) n)
  rwa [length_bytesOf] at h

/-- The first lane of a word reads what the memory had. -/
theorem Memory.atomOld_first {l : Nat} : ∀ (ls : List Nat) (m : Memory), Aligned n va ls → ls.Pairwise (· < ·) → l ∈ ls →
    (∀ j ∈ ls, j < l → va j ≠ va l) → m.atomOld n va f ls l = leNat (m.read (va l) n)
  | [], _, _, _, h, _ => absurd h List.not_mem_nil
  | i :: ls, m, al, hs, h, first => by
    obtain ⟨before, sorted⟩ := List.pairwise_cons.mp hs
    rw [Memory.atomOld]
    rcases List.mem_cons.mp h with rfl | hl
    · rw [if_pos rfl]
    · rw [if_neg (Nat.ne_of_gt (before l hl)),
        atomOld_first ls _ al.tail sorted hl fun j hj => first j (List.mem_cons_of_mem _ hj)]
      refine congrArg leNat (Machine.Memory.read_write_apart _ _ ?_)
      rw [length_bytesOf]
      exact (al.apart List.mem_cons_self h (first i List.mem_cons_self (before l hl))).symm

/-- A lane reads what the lane before it in the same word has written. -/
theorem Memory.atomOld_next {k l : Nat} (lt : k < l) (same : va k = va l) : ∀ (ls : List Nat) (m : Memory), Aligned n va ls →
    ls.Pairwise (· < ·) → k ∈ ls → l ∈ ls → (∀ j ∈ ls, k < j → j < l → va j ≠ va l) →
    m.atomOld n va f ls l = f k (m.atomOld n va f ls k) % 256 ^ n
  | [], _, _, _, h, _, _ => absurd h List.not_mem_nil
  | i :: ls, m, al, hs, hk, hl, between => by
    obtain ⟨before, sorted⟩ := List.pairwise_cons.mp hs
    have between' := fun j (hj : j ∈ ls) => between j (List.mem_cons_of_mem _ hj)
    rcases List.mem_cons.mp hk with rfl | hk
    · have hl := (List.mem_cons.mp hl).resolve_left (Nat.ne_of_gt lt)
      rw [Memory.atomOld, Memory.atomOld, if_neg (Nat.ne_of_gt lt), if_pos rfl,
        Memory.atomOld_first ls _ al.tail sorted hl fun j hj => between' j hj (before j hj), ← same, Memory.read_atom, leNat_bytesOf]
    · have hl := (List.mem_cons.mp hl).resolve_left (Nat.ne_of_gt (Nat.lt_trans (before k hk) lt))
      rw [Memory.atomOld, Memory.atomOld, if_neg (Nat.ne_of_gt (before l hl)), if_neg (Nat.ne_of_gt (before k hk))]
      exact atomOld_next lt same ls _ al.tail sorted hk hl between'

/-- The last lane of a word leaves its value. -/
theorem Memory.read_atomLanes_last {l : Nat} : ∀ (ls : List Nat) (m : Memory), Aligned n va ls → ls.Pairwise (· < ·) → l ∈ ls →
    (∀ j ∈ ls, l < j → va j ≠ va l) → (m.atomLanes n va f ls).read (va l) n = bytesOf (f l (m.atomOld n va f ls l)) n
  | [], _, _, _, h, _ => absurd h List.not_mem_nil
  | i :: ls, m, al, hs, h, last => by
    obtain ⟨before, sorted⟩ := List.pairwise_cons.mp hs
    have last' := fun j (hj : j ∈ ls) => last j (List.mem_cons_of_mem _ hj)
    rw [Memory.atomLanes, Memory.atomOld]
    rcases List.mem_cons.mp h with rfl | hl
    · rw [if_pos rfl, Memory.read_atomLanes_out ls _ fun j hj =>
        al.apart h (List.mem_cons_of_mem _ hj) (Ne.symm (last' j hj (before j hj))), Memory.read_atom]
    · rw [if_neg (Nat.ne_of_gt (before l hl))]
      exact read_atomLanes_last ls _ al.tail sorted hl last'

end

end Sys2Proof

namespace Sys2Proof.Machine

/-! ## The gates of a memory word (20 R459) -/

section
variable {s : State} {x : Ctx} {k : Unit → State}

theorem State.memChecked_go {n : Nat} {d : Opnd} {fs : List (Nat × Opnd)} (h : x.holdsRun d (valueRegs n) ((0, d) :: fs) = true) :
    s.memChecked x n d fs k = k () := by
  rw [Ctx.holdsRun, Bool.and_eq_true, Bool.not_eq_true'] at h
  rw [State.memChecked, State.runChecked, h.1]
  exact State.checked_go h.2 (by simp)

theorem State.lanesGate_go {cause : Nat} {info : Word} {as : List Access} {bad : Access → Option Nat} (h : ∀ a ∈ as, bad a = none) :
    s.lanesGate x cause info as bad k = k () := by
  rw [State.lanesGate, List.findSome?_eq_none_iff.mpr h]

theorem State.watchGate_go {sp rd wr : Bool} {as : List Access} (h : ∀ a ∈ as, x.g.handler = true ∨ x.g.suppressed x.iss.pc a.lane = true ∨
    watchHit (s.core x.c.core) sp rd wr a.va a.n = none) : s.watchGate x sp rd wr as k = k () := by
  unfold State.watchGate
  split
  · rfl
  · next mode =>
    have none : as.filter (fun a => !x.g.suppressed x.iss.pc a.lane && (watchHit (s.core x.c.core) sp rd wr a.va a.n).isSome) = [] := by
      refine List.filter_eq_nil_iff.mpr fun a ha => ?_
      rcases (h a ha).resolve_left mode with free | free
      · simp [free]
      · simp [free]
    dsimp only
    rw [none]
    rfl

theorem Access.fails_none {bad : Access → Bool} {a : Access} (h : bad a = false) : Access.fails bad a = none := by
  rw [Access.fails, h]
  rfl

/-- Scratchpad accesses that meet nothing raise no cause and wait for nothing. -/
theorem State.scratchGate_go {field : Nat × Opnd} {rd wr : Bool} {align : Nat} {as : List Access}
    (ready : scratchReady s x rd wr align as = true) : s.scratchGate x field rd wr align as k = k () := by
  have all : ∀ a ∈ as, (∃ t, x.c.tileAt a.va a.n = some t ∧ (x.c.tile t).gone = false ∧ (x.c.tile t).waits wr = false) ∧
      a.va % align = 0 ∧ (x.g.handler = true ∨ x.g.suppressed x.iss.pc a.lane = true ∨
        watchHit (s.core x.c.core) true rd wr a.va a.n = none) := by
    intro a ha
    have h := List.all_eq_true.mp ready a ha
    simp only [Bool.and_eq_true, Bool.or_eq_true, beq_iff_eq, Option.isNone_iff_eq_none, or_assoc] at h
    obtain ⟨⟨tile, aligned⟩, watch⟩ := h
    refine ⟨?_, aligned, watch⟩
    cases ht : x.c.tileAt a.va a.n with
    | none => rw [ht] at tile; contradiction
    | some t =>
      rw [ht] at tile
      simp only [Bool.and_eq_true, Bool.not_eq_true'] at tile
      exact ⟨t, rfl, tile⟩
  unfold State.scratchGate
  dsimp only
  split
  · next a first =>
    exfalso
    obtain ⟨ha, gone⟩ := List.mem_filter.mp (List.mem_of_mem_head? first)
    obtain ⟨⟨t, ht, there, -⟩, -⟩ := all a ha
    simp [ht, there] at gone
  · rw [State.lanesGate_go, State.lanesGate_go, State.watchGate_go]
    · refine if_neg fun waits => ?_
      obtain ⟨a, ha, waits⟩ := List.any_eq_true.mp waits
      obtain ⟨⟨t, ht, -, free⟩, -⟩ := all a ha
      simp [ht, free] at waits
    · exact fun a ha => (all a ha).2.2
    · exact fun a ha => Access.fails_none (by simp [(all a ha).2.1])
    · intro a ha
      obtain ⟨⟨t, ht, -⟩, -⟩ := all a ha
      exact Access.fails_none (by simp [ht])

end

/-! ## The end of a word that goes on -/

/-- A word has retired in a state `u` in which its crew and its group are as given. -/
structure Finishes (u t : State) (x : Ctx) (h : Hdr) (c : Crew) (g g' : Group) : Prop where
  spends : Spends u t x.iss.who c.core c.vf
  group : t.group? x.iss.who = some g'
  crew : ∃ gs, t.crew? x.iss.who.crew = some { c with groups := gs }
  lanes : g.WentOn g' x.iss.set x.iss.len
  rest : g.IssueRest g'
  hints : g.Hinted g' x.iss x.act h.s h.y

theorem State.retire_finishes {u : State} {x : Ctx} {c : Crew} {g : Group} (hc : u.crew? x.iss.who.crew = some c)
    (hg : u.group? x.iss.who = some g) (h : Hdr) : ∃ g', Finishes u (u.retire x h) x h c g g' := by
  obtain ⟨spends, g', hg', lanes, rest, hints⟩ := Spends.retire_hints hc hg h
  exact ⟨g', spends, hg', spends.crew _ hc, lanes, rest, hints⟩

/-- The end of a word asks its context for its issue alone. -/
@[simp] theorem State.retire_again (s u : State) (x : Ctx) (h : Hdr) : s.retire (u.again x) h = s.retire x h := by
  unfold State.again
  split <;> rfl

end Sys2Proof.Machine
end

section
/-! PROPERTY. LDS, STS and ATOMS complete with their effect and frame (09 R217, R218, R223 to R226). -/

namespace Sys2Proof.Machine

/-! ## Messages that stay inside a core -/

theorem QuietFrame.setFresh (s : State) (n : Nat) (w : Who) : QuietFrame s { s with fresh := n } w where
  toIssueFrame := .same rfl (List.prefix_refl _) (List.prefix_refl _)
  cores _ := rfl

theorem QuietFrame.append (s : State) (es : List Instr) (w : Who) : QuietFrame s { s with flight := s.flight ++ es } w where
  toIssueFrame := .same rfl (List.prefix_append _ _) (List.prefix_refl _)
  cores _ := rfl

/-- Messages without a way between nodes stand in flight in their order. -/
theorem State.foldl_send_local {msg : Nat → Instr} (own : ∀ (s : State) l, s.carry (msg l) = none) : ∀ (ls : List Nat) (s : State),
    ls.foldl (fun s l => s.send (msg l)) s = { s with flight := s.flight ++ ls.map msg }
  | [], s => by simp
  | l :: ls, s => by
    have one : s.send (msg l) = { s with flight := s.flight ++ [msg l] } := by
      rw [State.send, State.sendFrom, own s l]
    rw [List.foldl_cons, one, foldl_send_local own ls]
    simp

/-! ## Results that a core gives itself (03 R60) -/

/-- The outstanding result of a core's own answer. -/
def Ctx.ownOut (x : Ctx) (id : Nat) (kind : OutKind) (d : Opnd) : Out where
  id := id
  pc := x.iss.pc.toNat
  kind := kind
  dst := d
  dst2 := .absent
  pred := 0
  lanes := x.act
  gl := x.glOf
  left := x.act.lanes.map fun l => (24 * l, l + 1)
  got := []
  cancel := 0

/-- A lane's part of a core's own answer. -/
def Ctx.ownPart (x : Ctx) (id : Nat) (bs : Nat → List Byte) (l : Nat) : LdRep where
  req := { origin := .group x.iss.who id l, core := x.c.core, vf := x.c.vf, asid := x.c.asid, va := l, n := 0, lclk := 0
           len := 0, first := 0, last := 0, pc := x.iss.pc.toNat, cp := .dflt, ldc := true, e0 := false, renew := false
           pref := false, atLocal := false, own := true }
  data := bs l
  poison := false
  wt := 0
  fill := none

def Group.addOut (o : Out) (g : Group) : Group := { g with outs := g.outs ++ [o] }

section
variable {s : State} {x : Ctx} {c : Crew} {g : Group} (kind : OutKind) (d : Opnd) (bs : Nat → List Byte)

theorem State.ownResult_eq : s.ownResult x kind d bs =
    let u := ({ s with fresh := s.fresh + 1 } : State).updGroup x.iss.who (Group.addOut (x.ownOut s.fresh kind d))
    { u with flight := u.flight ++ x.act.lanes.map fun l => .loadResultReturn (x.ownPart s.fresh bs l) } :=
  State.foldl_send_local (msg := fun l => .loadResultReturn (x.ownPart s.fresh bs l)) (fun _ _ => rfl) _ _

theorem State.ownResult_quiet : QuietFrame s (s.ownResult x kind d bs) x.iss.who := by
  rw [State.ownResult_eq]
  exact ((QuietFrame.setFresh s _ _).trans (Spends.updGroup _ _ _ 0 0).quiet).trans (.append _ _ _)

theorem State.ownResult_crew (hc : s.crew? x.iss.who.crew = some c) :
    (s.ownResult x kind d bs).crew? x.iss.who.crew = some (c.updGroup x.iss.who.grp (Group.addOut (x.ownOut s.fresh kind d))) := by
  rw [State.ownResult_eq]
  exact State.crew?_updGroup (s := { s with fresh := s.fresh + 1 }) hc

theorem State.ownResult_group (hg : s.group? x.iss.who = some g) :
    (s.ownResult x kind d bs).group? x.iss.who = some (g.addOut (x.ownOut s.fresh kind d)) := by
  rw [State.ownResult_eq]
  exact State.group?_updGroup (s := { s with fresh := s.fresh + 1 }) hg

theorem State.ownResult_part {l : Nat} (hl : x.act.has l = true) :
    Instr.loadResultReturn (x.ownPart s.fresh bs l) ∈ (s.ownResult x kind d bs).flight := by
  rw [State.ownResult_eq]
  exact List.mem_append_right _ (List.mem_map.mpr ⟨l, Mask.mem_lanes.mpr ⟨Mask.lt_of_has hl, hl⟩, rfl⟩)

end

/-- What a group that has an outstanding result more keeps in the issue of its word. -/
theorem Finishes.outs {u t : State} {x : Ctx} {h : Hdr} {c : Crew} {g g' : Group} {o : Out}
    (done : Finishes u t x h c (g.addOut o) g') : g.IssueRest { g' with outs := g.outs } ∧ g.Hinted g' x.iss x.act h.s h.y ∧
      g.WentOn g' x.iss.set x.iss.len ∧ g'.outs = g.outs ++ [o] := by
  have rest : g' = { g.addOut o with
    lp := g'.lp, wset := g'.wset, suppress := g'.suppress, wait := g'.wait, phase := g'.phase, head := g'.head
    probed := g'.probed, answers := g'.answers, recs := g'.recs, lastIssue := g'.lastIssue } := done.rest
  exact ⟨(congrArg (fun k : Group => { k with outs := g.outs }) rest :), done.hints.congr (fun _ => rfl) rfl,
    ⟨done.lanes.pc, done.lanes.depth, done.lanes.gone, done.lanes.remain⟩, (congrArg Group.outs rest :)⟩

/-! ## LDS -/

theorem execLds_go {h : Hdr} {w : MW} {sx : Bool} {d : Opnd} {ad : Addr} {s : State} {x : Ctx} (hx : s.ctx? h = some x)
    (holds : x.holdsRun d (valueRegs w.bytes) ((0, d) :: addrFields ad) = true)
    (ready : scratchReady s x true false 1 (x.accesses ad w.bytes .load) = true) :
    exec (.lds h w sx d ad) s = .next (if x.act = 0 then s.retire x h else
      let u := s.ownResult x (.load w.bytes sx) d fun l => x.c.scratch.read (x.addr ad l) w.bytes
      u.retire x h) := by
  change execLds h w sx d ad s = _
  rw [execLds, State.withCtx_some hx, State.memChecked_go holds, State.scratchGate_go ready]
  simp only [State.retire_again]

/-! ## STS -/

theorem MW.length_storeBytes (w : MW) (x : Ctx) (d : Opnd) (l : Nat) : (x.storeBytes w.bytes d l).length = w.bytes := by
  have long : (x.storeBytes 16 d l).length = 16 := by
    unfold Ctx.storeBytes
    cases d <;> simp [length_bytesOf]
  cases w with
  | b128 => exact long
  | _ => exact length_bytesOf _ _

theorem execSts_go {h : Hdr} {w : MW} {d : Opnd} {ad : Addr} {s : State} {x : Ctx} (hx : s.ctx? h = some x)
    (holds : x.holdsRun d (valueRegs w.bytes) ((0, d) :: addrFields ad) = true)
    (ready : scratchReady s x false true 1 (x.accesses ad w.bytes .store) = true) :
    exec (.sts h w d ad) s = .next (
      let u := s.updCrew x.iss.who.crew fun c => { c with
        scratch := c.scratch.putLanes (x.addr ad) (x.storeBytes w.bytes d) x.act.lanes }
      u.retire x h) := by
  change execSts h w d ad s = _
  have stores : (fun c : Crew => (x.accesses ad w.bytes .store).foldl
      (fun c a => c.wrScratch a.va (x.storeBytes w.bytes d a.lane)) c) = fun c => { c with
        scratch := c.scratch.putLanes (x.addr ad) (x.storeBytes w.bytes d) x.act.lanes } := by
    funext c
    rw [Ctx.accesses, List.foldl_map]
    exact Crew.foldl_wrScratch _ _ _ c
  rw [execSts, State.withCtx_some hx, State.memChecked_go holds, State.scratchGate_go ready, stores]
  simp only [State.retire_again]

/-- A change of the scratchpad of the word's crew. -/
theorem State.updScratch {s : State} {x : Ctx} {h : Hdr} (hx : s.ctx? h = some x) (f : Memory → Memory) :
    let u := s.updCrew x.iss.who.crew fun c => { c with scratch := f c.scratch }
    QuietFrame s u x.iss.who ∧ u.crew? x.iss.who.crew = some { x.c with scratch := f x.c.scratch } ∧
      u.group? x.iss.who = some x.g := by
  obtain ⟨_, hc, hg, _, _⟩ := State.ctx?_some hx
  exact ⟨.updCrew hc (fun _ => rfl) fun _ => rfl, State.crew?_updCrew (fun _ => rfl) hc,
    State.group?_updCrew (fun _ => rfl) (fun _ => rfl) hg⟩

/-! ## ATOMS -/

/-- The value that a lane of ATOMS writes. -/
def Ctx.atomWrites (x : Ctx) (n : Nat) (op : AOp) (b : Opnd) (l old : Nat) : Nat :=
  atomNew op (8 * n) old ((x.srcI (8 * n) b l).toNat % 2 ^ (8 * n))

/-- One lane of ATOMS. -/
def Ctx.atomStep (x : Ctx) (n : Nat) (op : AOp) (b : Opnd) (q : Crew × SMap Word) (a : Access) : Crew × SMap Word :=
  (q.1.wrScratch a.va (bytesOf (x.atomWrites n op b a.lane (q.1.rdScratch a.va n)) n),
    sset 0 q.2 a.lane (BitVec.ofNat 64 (q.1.rdScratch a.va n)))

/-- The lanes of ATOMS in their order: the scratchpad after them, and what each of them has read. -/
theorem Ctx.foldl_atomStep (x : Ctx) (n : Nat) (op : AOp) (b : Opnd) (va : Nat → Nat) : ∀ (ls : List Nat) (c : Crew) (m : SMap Word),
    ls.Nodup → ∃ m', (ls.map fun l => ({ lane := l, va := va l, n := n, acc := .atomic } : Access)).foldl (x.atomStep n op b) (c, m) =
        ({ c with scratch := c.scratch.atomLanes n va (x.atomWrites n op b) ls }, m') ∧
      ∀ l, sget 0 m' l = if l ∈ ls then BitVec.ofNat 64 (c.scratch.atomOld n va (x.atomWrites n op b) ls l) else sget 0 m l
  | [], c, m, _ => ⟨m, rfl, fun _ => by simp⟩
  | i :: ls, c, m, once => by
    obtain ⟨new, once⟩ := List.nodup_cons.mp once
    obtain ⟨m', run, old⟩ := foldl_atomStep x n op b va ls
      (c.wrScratch (va i) (bytesOf (x.atomWrites n op b i (c.rdScratch (va i) n)) n))
      (sset 0 m i (BitVec.ofNat 64 (c.rdScratch (va i) n))) once
    refine ⟨m', run, fun l => (old l).trans ?_⟩
    by_cases e : l = i
    · subst e
      rw [if_neg new, if_pos List.mem_cons_self, sget_sset_same, Memory.atomOld, if_pos rfl]
      rfl
    · rw [sget_sset_ne _ e, Memory.atomOld, if_neg e]
      exact if_congr (by simp [e]) rfl rfl

theorem lupdFirst_const {α : Type} {p : α → Bool} (f : α → α) {y : α} : ∀ {l : List α}, l.find? p = some y →
    lupdFirst p (fun _ => f y) l = lupdFirst p f l
  | [], h => nomatch h
  | z :: l, h => by
    rw [List.find?_cons] at h
    unfold lupdFirst
    cases hz : p z with
    | true =>
      rw [hz] at h
      rw [Option.some.inj h]
      rfl
    | false =>
      rw [hz] at h
      exact congrArg (z :: ·) (lupdFirst_const f h)

theorem State.updCrew_const {s : State} {id : Nat} {c : Crew} (hc : s.crew? id = some c) (f : Crew → Crew) :
    s.updCrew id (fun _ => f c) = s.updCrew id f := by
  rw [State.updCrew, lupdFirst_const f hc]
  rfl

theorem execAtoms_go {h : Hdr} {wide : Bool} {op : AOp} {d a b : Opnd} {ofs : BitVec 28} {s : State} {x : Ctx} (hx : s.ctx? h = some x)
    (holds : x.holdsRun d 1 [(0, d), (1, a), (2, b)] = true) :
    let n := if wide then 8 else 4
    let run := x.c.scratch.atomOld n (x.addr (.o a ofs)) (x.atomWrites n op b) x.act.lanes
    let u := s.updCrew x.iss.who.crew fun c => { c with
      scratch := c.scratch.atomLanes n (x.addr (.o a ofs)) (x.atomWrites n op b) x.act.lanes }
    scratchReady s x true true n (x.accesses (.o a ofs) n .atomic) = true →
    ∃ bs, exec (.atoms h wide op d a ofs b) s = .next (if x.act = 0 then u.retire x h else (u.ownResult x .atom d bs).retire x h) ∧
      ∀ l, x.act.has l = true → bs l = bytesOf (run l) 8 := by
  intro n run u ready
  obtain ⟨_, hc, -, -, -⟩ := State.ctx?_some hx
  obtain ⟨m, lanes, old⟩ := x.foldl_atomStep n op b (x.addr (.o a ofs)) x.act.lanes x.c [] (Mask.nodup_lanes _)
  refine ⟨fun l => bytesOf (sget 0 m l).toNat 8, ?_, fun l hl => ?_⟩
  · change execAtoms h wide op d a ofs b s = _
    rw [execAtoms, State.withCtx_some hx, State.memChecked_go holds, State.scratchGate_go ready]
    change Host.Outcome.next (
      let r := (x.accesses (.o a ofs) n .atomic).foldl (x.atomStep n op b) (x.c, [])
      let u := s.updCrew x.iss.who.crew fun _ => r.1
      if x.act = 0 then u.retire x h
      else
        let v := u.ownResult x .atom d fun l => bytesOf (sget 0 r.2 l).toNat 8
        v.retire (v.again x) h) = _
    rw [Ctx.accesses, lanes]
    simp only [State.retire_again]
    rw [State.updCrew_const hc fun c => { c with
      scratch := c.scratch.atomLanes n (x.addr (.o a ofs)) (x.atomWrites n op b) x.act.lanes }]
  · dsimp only
    rw [old, if_pos (Mask.mem_lanes.mpr ⟨Mask.lt_of_has hl, hl⟩), BitVec.toNat_ofNat]
    exact bytesOf_mod 8 _

/-! ## The three words -/

section
variable {h : Hdr} {s : State} {x : Ctx} (hx : s.ctx? h = some x)
include hx

theorem lds_completes {w : MW} {sx : Bool} {d : Opnd} {ad : Addr}
    (holds : x.holdsRun d (valueRegs w.bytes) ((0, d) :: addrFields ad) = true)
    (ready : scratchReady s x true false 1 (x.accesses ad w.bytes .load) = true) (act : x.act ≠ 0) :
    ∃ t g' o, exec (.lds h w sx d ad) s = .next t ∧ Performed s t x g' ∧
      x.g.IssueRest { g' with outs := x.g.outs } ∧ x.g.Hinted g' x.iss x.act h.s h.y ∧
      x.g.WentOn g' x.iss.set x.iss.len ∧ g'.outs = x.g.outs ++ [o] ∧ o.id = s.fresh ∧ o.kind = .load w.bytes sx ∧
      o.dst = d ∧ o.lanes = x.act ∧ ∀ l, x.act.has l = true → ∃ m : LdRep, Instr.loadResultReturn m ∈ t.flight ∧
        m.req.origin = .group x.iss.who s.fresh l ∧ m.data = x.c.scratch.read (x.addr ad l) w.bytes ∧ m.poison = false := by
  obtain ⟨_, hc, hg, _, _⟩ := State.ctx?_some hx
  have quiet := s.ownResult_quiet (x := x) (.load w.bytes sx) d fun l => x.c.scratch.read (x.addr ad l) w.bytes
  obtain ⟨g', done⟩ := State.retire_finishes (State.ownResult_crew (.load w.bytes sx) d (fun l => x.c.scratch.read (x.addr ad l) w.bytes) hc)
    (State.ownResult_group (.load w.bytes sx) d (fun l => x.c.scratch.read (x.addr ad l) w.bytes) hg) h
  obtain ⟨rest, hints, lanes, outs⟩ := done.outs
  obtain ⟨gs, crew⟩ := done.crew
  exact ⟨_, g', _, (execLds_go hx holds ready).trans (congrArg _ (if_neg act)), ⟨quiet.trans done.spends.quiet, done.group, _, crew, rfl⟩, rest, hints,
    lanes, outs, rfl, rfl, rfl, rfl, fun l hl =>
      ⟨_, done.spends.frame.flight.subset (State.ownResult_part _ _ _ hl), rfl, rfl, rfl⟩⟩

theorem sts_completes {w : MW} {d : Opnd} {ad : Addr} (holds : x.holdsRun d (valueRegs w.bytes) ((0, d) :: addrFields ad) = true)
    (ready : scratchReady s x false true 1 (x.accesses ad w.bytes .store) = true) :
    ∃ t g' c', exec (.sts h w d ad) s = .next t ∧ QuietFrame s t x.iss.who ∧ t.crew? x.iss.who.crew = some c' ∧
      t.group? x.iss.who = some g' ∧ x.c.GroupsOnly c' ∧ x.g.IssueRest g' ∧ x.g.WentOn g' x.iss.set x.iss.len ∧
      x.g.Hinted g' x.iss x.act h.s h.y ∧ c'.scratch = x.c.scratch.putLanes (x.addr ad) (x.storeBytes w.bytes d) x.act.lanes := by
  obtain ⟨quiet, hc, hg⟩ := State.updScratch hx fun m => m.putLanes (x.addr ad) (x.storeBytes w.bytes d) x.act.lanes
  obtain ⟨g', done⟩ := State.retire_finishes hc hg h
  obtain ⟨gs, crew⟩ := done.crew
  exact ⟨_, g', _, execSts_go hx holds ready, quiet.trans done.spends.quiet, crew, done.group, rfl, done.rest, done.lanes, done.hints, rfl⟩

theorem atoms_completes {n : Nat} {va : Nat → Nat} {f : Nat → Nat → Nat} {d : Opnd} {bs : Nat → List Byte} :
    let u := s.updCrew x.iss.who.crew fun c => { c with scratch := c.scratch.atomLanes n va f x.act.lanes }
    let t := (u.ownResult x .atom d bs).retire x h
    ∃ g' c' o, QuietFrame s t x.iss.who ∧ t.crew? x.iss.who.crew = some c' ∧ t.group? x.iss.who = some g' ∧ x.c.GroupsOnly c' ∧
      x.g.IssueRest { g' with outs := x.g.outs } ∧ x.g.Hinted g' x.iss x.act h.s h.y ∧ x.g.WentOn g' x.iss.set x.iss.len ∧
      g'.outs = x.g.outs ++ [o] ∧ o.id = s.fresh ∧ o.kind = .atom ∧ o.dst = d ∧ o.lanes = x.act ∧
      (∀ l, x.act.has l = true → ∃ m : LdRep, Instr.loadResultReturn m ∈ t.flight ∧
        m.req.origin = .group x.iss.who s.fresh l ∧ m.data = bs l ∧ m.poison = false) ∧
      c'.scratch = x.c.scratch.atomLanes n va f x.act.lanes := by
  obtain ⟨quiet, hc, hg⟩ := State.updScratch hx fun m => m.atomLanes n va f x.act.lanes
  intro u t
  have result := u.ownResult_quiet (x := x) .atom d bs
  obtain ⟨g', done⟩ := State.retire_finishes (State.ownResult_crew .atom d bs hc) (State.ownResult_group .atom d bs hg) h
  obtain ⟨rest, hints, lanes, outs⟩ := done.outs
  obtain ⟨gs, crew⟩ := done.crew
  exact ⟨g', _, _, (quiet.trans result).trans done.spends.quiet, crew, done.group, rfl, rest, hints, lanes, outs, rfl, rfl, rfl, rfl,
    fun l hl => ⟨_, done.spends.frame.flight.subset (State.ownResult_part _ _ _ hl), rfl, rfl, rfl⟩, rfl⟩

end

/-- Settles O25: LDS and ATOMS answer themselves, and the lanes of STS and ATOMS write the scratchpad in their order
(`Memory.putLanes`, `Memory.atomLanes`). -/
theorem scratchWords : Obligations.ScratchWords := by
  unfold Obligations.ScratchWords
  refine ⟨?lds, ?sts, ?atoms⟩
  case lds =>
    intro h w sx d ad s x hx holds ready
    refine ⟨fun idle => ⟨_, ?_, State.retire_passed hx⟩, fun act => lds_completes hx holds ready act⟩
    exact (execLds_go hx holds ready).trans (congrArg _ (if_pos idle))
  case sts =>
    intro h w d ad s x hx holds ready
    obtain ⟨t, g', c', run, quiet, crew, group, only, rest, lanes, hints, scratch⟩ := sts_completes hx holds ready
    have len (l : Nat) : (x.storeBytes w.bytes d l).length = w.bytes := MW.length_storeBytes w x d l
    refine ⟨t, g', c', run, quiet, crew, group, only, rest, lanes, hints, fun b apart => ?_, fun l k hl hk last => ?_⟩
    · rw [scratch]
      refine Memory.get_putLanes_out _ _ fun l hl => ?_
      rw [len]
      exact apart l (Mask.mem_lanes.mp hl).2
    · rw [scratch]
      refine Memory.get_putLanes_in ((len l).symm ▸ hk) _ _ (Mask.sorted_lanes _) (Mask.mem_lanes.mpr ⟨Mask.lt_of_has hl, hl⟩) fun m hm later => ?_
      rw [len]
      exact last m later (Mask.mem_lanes.mp hm).2
  case atoms =>
    intro h wide op d a b ofs s x hx holds n va new ready
    obtain ⟨bs, run, data⟩ := execAtoms_go (op := op) hx holds ready
    have aligned : Aligned n va x.act.lanes := fun l hl => by
      have h := List.all_eq_true.mp ready _ (List.mem_map.mpr ⟨l, hl, rfl⟩)
      simp only [Bool.and_eq_true, beq_iff_eq] at h
      exact h.1.2
    have mem {l : Nat} (hl : x.act.has l = true) : l ∈ x.act.lanes := Mask.mem_lanes.mpr ⟨Mask.lt_of_has hl, hl⟩
    have has {l : Nat} (hl : l ∈ x.act.lanes) : x.act.has l = true := (Mask.mem_lanes.mp hl).2
    have sorted := x.act.sorted_lanes
    have low (l old : Nat) : new l old = x.atomWrites n op b l old % 256 ^ n := congrArg (_ % ·) (Nat.pow_mul 2 8 n)
    refine ⟨fun idle => ?_, fun act => ?_⟩
    · obtain ⟨quiet, hc, hg⟩ := State.updScratch hx fun m => m.atomLanes n va (x.atomWrites n op b) x.act.lanes
      have still : x.c.scratch.atomLanes n va (x.atomWrites n op b) x.act.lanes = x.c.scratch := by
        rw [idle, Mask.lanes_zero]
        rfl
      obtain ⟨g', done⟩ := State.retire_finishes (c := x.c) (hc.trans (congrArg (fun m => some { x.c with scratch := m }) still)) hg h
      obtain ⟨gs, crew⟩ := done.crew
      exact ⟨_, run.trans (congrArg _ (if_pos idle)), g', ⟨quiet.trans done.spends.quiet, done.group, _, crew, rfl⟩, done.lanes, done.rest⟩
    · obtain ⟨g', c', o, quiet, crew, group, only, rest, hints, lanes, outs, id, kind, dst, active, parts, scratch⟩ :=
        atoms_completes hx (n := n) (va := va) (f := x.atomWrites n op b) (d := d) (bs := bs)
      refine ⟨_, g', c', o, x.c.scratch.atomOld n va (x.atomWrites n op b) x.act.lanes, run.trans (congrArg _ (if_neg act)), quiet, crew,
        group, only, rest, hints, lanes, outs, id, kind, dst, active, fun l hl => ?_, fun l hl first => ?_,
        fun m l lt hm hl same between => ?_, fun l hl last => ?_, fun k apart => ?_⟩
      · obtain ⟨m, sent, origin, bytes, clean⟩ := parts l hl
        exact ⟨m, sent, origin, bytes.trans (data l hl), clean⟩
      · exact Memory.atomOld_first _ _ aligned sorted (mem hl) fun j hj before => first j before (has hj)
      · rw [low]
        exact Memory.atomOld_next lt same _ _ aligned sorted (mem hm) (mem hl) fun j hj after before => between j after before (has hj)
      · rw [scratch, low, bytesOf_mod]
        exact Memory.read_atomLanes_last _ _ aligned sorted (mem hl) fun j hj after => last j after (has hj)
      · rw [scratch]
        exact Memory.get_atomLanes_out _ _ fun l hl => apart l (has hl)

end Sys2Proof.Machine
end

section
/-! SUPPORT. A word under way: the steps that it takes between its gates and its end, and what it leaves. -/

namespace Sys2Proof.Machine

/-! ## Registers -/

theorem Group.rdP_fifteen (g : Group) : g.rdP 15 = BitVec.allOnes 32 := rfl

/-- A destination's write leaves the other registers. -/
theorem Group.SameBut.wrDst (g : Group) (act : Mask) (o : Opnd) (d : Nat → Word) (pb : Nat → Bool) :
    g.SameBut (g.wrDst act o d pb) [o] := by
  obtain ⟨_, _, _, _, _, only⟩ := g.wrDst_only act o d pb
  refine ⟨fun n l hl other => ?_, fun n other => ?_, fun n other => ?_, by rw [only], by rw [only]⟩
  · have other : o.isV n = false := by simpa using other
    rw [Group.rdV_wrDst g act o d pb n hl, other, Bool.and_false]
    rfl
  · have other : o.isG n = false := by simpa using other
    rw [Group.rdG_wrDst, other]
    cases act.low <;> rfl
  · have other : o.isP n = false := by simpa using other
    by_cases e : n = 15
    · subst e
      rfl
    · refine Mask.ext_has fun l _ => ?_
      rw [Group.has_rdP_wrDst g act o d pb e, other, Bool.and_false]
      rfl

/-- Registers that are read as before. -/
theorem Group.SameBut.congr {g g₁ g' : Group} {ds : List Opnd} (h : g.SameBut g₁ ds) (regs : g₁.SameRegs g') : g.SameBut g' ds := by
  obtain ⟨hv, hg, hp, hfsr, hfcr⟩ := regs
  refine ⟨fun n l hl other => ?_, fun n other => ?_, fun n other => ?_, hfsr.trans h.fsr, hfcr.trans h.fcr⟩
  · rw [← h.vregs n l hl other, Group.rdV, hv]
    rfl
  · rw [← h.gregs n other, Group.rdG, hg]
    rfl
  · rw [← h.preds n other, Group.rdP, hp]
    rfl

/-- The active lanes of a predicate that a word has written. -/
theorem Group.rdP_wrDst_act (g : Group) (act : Mask) (d : Nat → Word) (b : Bool) {n : BitVec 4} (h : n ≠ 15) :
    (g.wrDst act (.p n) d fun _ => b).rdP n.toNat &&& act = if b then act else 0 := by
  have hn : n.toNat ≠ 15 := fun e => h (BitVec.eq_of_toNat_eq e)
  refine Mask.ext_has fun l _ => ?_
  rw [Mask.has_and, Group.has_rdP_wrDst g act _ d _ hn, Opnd.isP, beq_self_eq_true, Bool.and_true]
  cases b with
  | true => cases ha : act.has l <;> simp [ha]
  | false => cases act.has l <;> simp

/-! ## Boundaries -/

theorem Group.boundary_only (g : Group) (act : Mask) (pc : Pc) (len : Nat) :
    ∃ snap ports, g.boundary act pc len = { g with snap := snap, portSnap := ports } := by
  unfold Group.boundary
  split
  · exact ⟨_, _, rfl⟩
  · exact ⟨_, _, rfl⟩

/-- The boundary of a group whose lanes and ports are those of another. -/
theorem Group.boundary_marks {g k : Group} (handler : k.handler = g.handler) (lp : k.lp = g.lp) (snap : k.snap = g.snap)
    (portSnap : k.portSnap = g.portSnap) (ports : k.ports = g.ports) (act : Mask) (pc : Pc) (len : Nat) :
    (k.boundary act pc len).snap = (g.boundary act pc len).snap ∧ (k.boundary act pc len).portSnap = (g.boundary act pc len).portSnap := by
  unfold Group.boundary Group.lpOf
  rw [handler, lp, snap, ports]
  split
  · exact ⟨snap, portSnap⟩
  · exact ⟨rfl, rfl⟩

/-! ## Frames -/

theorem QuietFrame.send (s : State) (e : Instr) (w : Who) : QuietFrame s (s.send e) w where
  toIssueFrame := .send s e w
  cores k := by
    have same : (s.send e).core k = s.core k := by rw [State.core, State.core, State.send_cores]
    rw [same]
    rfl

/-- What is under way stays under way in an issue. -/
theorem IssueFrame.flying {s t : State} {w : Who} (h : IssueFrame s t w) {e : Instr} (he : e ∈ s.flying) : e ∈ t.flying := by
  rw [State.flying, List.mem_append] at he ⊢
  exact he.imp (h.flight.subset ·) fun he => (h.net.filterMap _).subset he

/-- An issue of a state in which the queues are others. -/
theorem QuietFrame.ofQueues {s t : State} {w : Who} {qs : List Queue} (h : QuietFrame { s with queues := qs } t w) :
    QuietFrame s { t with queues := s.queues } w where
  rest := (congrArg (fun t : State => { t with queues := s.queues }) h.rest :)
  svcWait := h.svcWait
  crews := h.crews
  groups := h.groups
  win := h.win
  flight := h.flight
  net := h.net
  cores := h.cores

/-! ## A word under way -/

/-- A state that a word of context `x` has reached from `s`, in which its group is `g`. -/
structure Midway (s u : State) (x : Ctx) (g : Group) : Prop where
  quiet : QuietFrame s u x.iss.who
  crew : ∃ gs, u.crew? x.iss.who.crew = some { x.c with groups := gs }
  group : u.group? x.iss.who = some g

section
variable {s u : State} {x : Ctx} {g : Group}

theorem Midway.start {h : Hdr} (hx : s.ctx? h = some x) : Midway s s x x.g := by
  obtain ⟨_, hc, hg, _, _⟩ := State.ctx?_some hx
  exact ⟨⟨.refl s _, fun _ => rfl⟩, ⟨_, hc⟩, hg⟩

theorem Midway.updGroup (m : Midway s u x g) (f : Group → Group) : Midway s (u.updGroup x.iss.who f) x (f g) := by
  obtain ⟨gs, hc⟩ := m.crew
  exact ⟨m.quiet.trans (Spends.updGroup u _ f 0 0).quiet, ⟨_, State.crew?_updGroup (c := { x.c with groups := gs }) hc⟩,
    State.group?_updGroup m.group⟩

theorem Midway.setFresh (m : Midway s u x g) (n : Nat) : Midway s { u with fresh := n } x g :=
  ⟨m.quiet.trans (.setFresh u n _), m.crew, m.group⟩

theorem Midway.send (m : Midway s u x g) (e : Instr) : Midway s (u.send e) x g := by
  obtain ⟨gs, hc⟩ := m.crew
  refine ⟨m.quiet.trans (.send u e _), ⟨gs, ?_⟩, (State.group?_congr (State.send_crews u e) _).trans m.group⟩
  rw [State.crew?, State.send_crews]
  exact hc

theorem Midway.foldl_send (msg : Nat × Queue → Instr) : ∀ (l : List (Nat × Queue)) {u : State}, Midway s u x g →
    Midway s (l.foldl (fun u p => u.send (msg p)) u) x g
  | [], _, m => m
  | p :: l, _, m => foldl_send msg l (m.send (msg p))

/-- The context of the word is as before, but for its groups. -/
theorem Midway.again (m : Midway s u x g) : ∃ gs, u.again x = { x with c := { x.c with groups := gs }, g := g } := by
  obtain ⟨gs, hc⟩ := m.crew
  exact ⟨gs, State.again_eq hc m.group⟩

/-- The end of a word that goes on. -/
theorem Midway.retire (m : Midway s u x g) (h : Hdr) : ∃ g', Performed s (u.retire x h) x g' ∧ g.WentOn g' x.iss.set x.iss.len ∧
    g.IssueRest g' ∧ g.Hinted g' x.iss x.act h.s h.y ∧ ∀ e ∈ u.flying, e ∈ (u.retire x h).flying := by
  obtain ⟨gs, hc⟩ := m.crew
  obtain ⟨g', done⟩ := State.retire_finishes hc m.group h
  obtain ⟨gs', hc'⟩ := done.crew
  exact ⟨g', ⟨m.quiet.trans done.spends.quiet, done.group, _, hc', rfl⟩, done.lanes, done.rest, done.hints,
    fun e he => done.spends.frame.flying he⟩

end

/-- Lanes of a group that have not moved before the end of its word. -/
theorem Group.WentOn.ofLp {g g₁ g' : Group} {set : Mask} {len : Nat} (h : g₁.WentOn g' set len) (lp : g₁.lp = g.lp) :
    g.WentOn g' set len := by
  have same (l : Nat) : g₁.lpOf l = g.lpOf l := congrArg (sget Lp.none · l) lp
  refine ⟨fun l => ?_, fun l => ?_, fun l => ?_, fun l => ?_⟩
  · rw [← same]
    exact h.pc l
  · rw [← same]
    exact h.depth l
  · rw [← same]
    exact h.gone l
  · rw [← same]
    exact h.remain l

/-- A word goes on at once where nothing is held (09 R220). -/
theorem State.commitGate_none {s : State} {x : Ctx} (hc : s.crew? x.iss.who.crew = some x.c) (hg : s.group? x.iss.who = some x.g)
    (held : x.g.hasHeld = false) (on : Bool) (k : State → Ctx → State) : s.commitGate x on k = k s x := by
  cases on with
  | false => rfl
  | true =>
    have still := State.commitHeld_none hg held
    rw [State.commitGate_go (still.symm ▸ hc) (still.symm ▸ hg) held, still]

/-! ## Pages -/

/-- Pages that all have their rights. -/
def State.pagesOk (s : State) (x : Ctx) (as : List Access) : Prop :=
  ∀ a ∈ as, ∀ va ∈ a.pages, ∃ t, lookAttr (s.core x.c.core) x.g x.c.asid a.acc va = .ok t

section
variable {s : State} {x : Ctx} {as : List Access} {k : Unit → State}

theorem State.pagesOk.looks (h : s.pagesOk x as) {q : Access × Nat × Look} (hq : q ∈ s.looks x as) : ∃ t, q.2.2 = .ok t := by
  obtain ⟨l, hl, hq⟩ := List.mem_flatten.mp hq
  obtain ⟨a, ha, rfl⟩ := List.mem_map.mp hl
  obtain ⟨va, hva, rfl⟩ := List.mem_map.mp hq
  exact h a ha va hva

/-- No page has another look. -/
theorem State.pagesOk.none (h : s.pagesOk x as) {l : Look} (hl : ∀ t, Look.ok t ≠ l) :
    (s.looks x as).filter (fun t => t.2.2 == l) = [] := by
  refine List.filter_eq_nil_iff.mpr fun q hq => ?_
  obtain ⟨t, e⟩ := h.looks hq
  rw [e, beq_iff_eq]
  exact hl t

theorem State.probeGate_go (h : s.pagesOk x as) : s.probeGate x as k = k () := by
  unfold State.probeGate
  rw [h.none (l := .probe) nofun]
  rfl

theorem State.lookTrap_go (h : s.pagesOk x as) {l : Look} (hl : ∀ t, Look.ok t ≠ l) {cause : Nat} {info : Word} :
    s.lookTrap x as l cause info k = k () := by
  unfold State.lookTrap
  rw [h.none hl]
  rfl

theorem State.pagesOk.translated (h : s.pagesOk x as) : (s.looks x as).find? (fun t => t.2.2 == .noTrans) = .none := by
  rw [← List.head?_filter, h.none (l := .noTrans) nofun]
  rfl

/-- Pages that have their rights raise no cause and are not asked for. -/
theorem State.attrGate_go (h : s.pagesOk x as) : s.attrGate x as k = k () := by
  rw [State.attrGate, State.probeGate_go h, State.pageFaults, h.translated]
  exact (State.lookTrap_go h (l := .perm) nofun).trans (State.lookTrap_go h (l := .expired) nofun)

/-- Pages that can all be reached raise no cause. -/
theorem State.reachGate_go (h : s.pagesOk x as) (near : ∀ a ∈ as, ∀ va ∈ a.units, s.farByte x.c.asid va = false)
    (units : ∀ a ∈ as, ∀ va ∈ a.units, lookAttr (s.core x.c.core) x.g x.c.asid a.acc va ≠ .perm) : s.reachGate x as k = k () := by
  have none : as.findSome? (fun a => a.units.findSome? fun va =>
      if lookAttr (s.core x.c.core) x.g x.c.asid a.acc va = .perm then some (va, false)
      else if s.farByte x.c.asid va then some (va, true) else Option.none) = .none :=
    List.findSome?_eq_none_iff.mpr fun a ha => List.findSome?_eq_none_iff.mpr fun va hva => by
      rw [if_neg (units a ha va hva), near a ha va hva]
      rfl
  rw [State.reachGate, h.translated]
  dsimp only
  rw [none]
  exact State.lookTrap_go h (l := .expired) nofun

end

end Sys2Proof.Machine
end

section
/-! PROPERTY. DEQ, QLEN and ARM complete with their effect and frame (10 R257, R260 to R262). -/

namespace Sys2Proof.Machine

section
variable {h : Hdr} {s : State} {x : Ctx} (hx : s.ctx? h = some x)
include hx

/-! ## DEQ (10 R260) -/

/-- DEQ of a range stage records the boundary and writes its predicate. -/
theorem execDeq_range {vd vs p : Opnd} (act : x.act ≠ 0) (held : x.g.hasHeld = false)
    (holds : x.holds ([(0, vd)] ++ (if vs = .absent then [] else [(2, vs)]) ++ [(3, p)]) = true)
    (range : ∀ st q, s.stage? x.c.stage = some st → st.inp ≠ .queue q) :
    exec (.deq h vd vs p) s = .next (((s.updGroup x.iss.who fun g => g.boundary x.act x.iss.pc x.iss.len).updGroup x.iss.who fun g =>
      g.wrDst x.act p (fun _ => 0) fun _ => false).retire x h) := by
  obtain ⟨_, hc, hg, _, _⟩ := State.ctx?_some hx
  change execDeq h vd vs p s = _
  unfold execDeq
  rw [State.withCtx_some hx, State.checked_go holds (by simp), if_neg act, State.commitGate_none hc hg held]
  dsimp only
  rw [if_pos, State.retire_again]
  split
  · next st found =>
    split
    · rfl
    · next q inp => exact absurd inp (range st q found)
  · rfl

/-- The outstanding result of DEQ. -/
def Ctx.deqOut (x : Ctx) (id : Nat) (vd vs p : Opnd) : Out where
  id := id
  pc := x.iss.pc.toNat
  kind := .deq
  dst := vd
  dst2 := vs
  pred := match p with
    | .p n => n
    | _ => 15
  lanes := x.act
  gl := 0
  left := x.act.lanes.map fun l => (24 * l, 1)
  got := []
  cancel := 0

/-- DEQ of a queue stage records the boundary, and its claim sets out. -/
theorem execDeq_queue {vd vs p : Opnd} (act : x.act ≠ 0) (held : x.g.hasHeld = false)
    (holds : x.holds ([(0, vd)] ++ (if vs = .absent then [] else [(2, vs)]) ++ [(3, p)]) = true)
    (queue : ∃ st q, s.stage? x.c.stage = some st ∧ st.inp = .queue q) :
    exec (.deq h vd vs p) s = .next (
      let u := s.updGroup x.iss.who fun g => g.boundary x.act x.iss.pc x.iss.len
      let u := ({ u with fresh := s.fresh + 1 } : State).updGroup x.iss.who (Group.addOut (x.deqOut s.fresh vd vs p))
      (u.send (.claimAtHome { stage := x.c.stage, kind := .deq x.iss.who s.fresh x.act, sclk := x.c.sclk })).retire x h) := by
  obtain ⟨_, hc, hg, _, _⟩ := State.ctx?_some hx
  obtain ⟨st, q, hst, inp⟩ := queue
  change execDeq h vd vs p s = _
  unfold execDeq
  rw [State.withCtx_some hx, State.checked_go holds (by simp), if_neg act, State.commitGate_none hc hg held]
  dsimp only
  rw [if_neg, State.retire_again]
  · rfl
  · split
    · next st' found =>
      obtain rfl : st = st' := Option.some.inj (hst.symm.trans found)
      rw [inp]
      exact Bool.false_ne_true
    · next none => exact nomatch hst.symm.trans none

theorem deq_range {vd vs p : Opnd} (act : x.act ≠ 0) (held : x.g.hasHeld = false)
    (holds : x.holds ([(0, vd)] ++ (if vs = .absent then [] else [(2, vs)]) ++ [(3, p)]) = true)
    (range : ∀ st q, s.stage? x.c.stage = some st → st.inp ≠ .queue q) :
    ∃ t g', exec (.deq h vd vs p) s = .next t ∧ Performed s t x g' ∧ x.g.SameBut g' [p] ∧ x.g.SameTrap g' ∧
      Recorded x g' ∧ x.g.WentOn g' x.iss.set x.iss.len ∧ ∀ n, p.isP n = true → n ≠ 15 → g'.rdP n &&& x.act = 0 := by
  obtain ⟨g', done, lanes, rest, -, -⟩ := (((Midway.start hx).updGroup fun g => g.boundary x.act x.iss.pc x.iss.len).updGroup fun g =>
    g.wrDst x.act p (fun _ => 0) fun _ => false).retire h
  have regs := rest.sameRegs
  have trap := rest.sameTrap
  have snap : g'.snap = _ := (congrArg Group.snap (show g' = _ from rest) :)
  have ports : g'.portSnap = _ := (congrArg Group.portSnap (show g' = _ from rest) :)
  have but := (Group.SameBut.wrDst (x.g.boundary x.act x.iss.pc x.iss.len) x.act p (fun _ => 0) fun _ => false).congr regs
  have pred (n : BitVec 4) (hp : p = .p n) (hn : n ≠ 15) : g'.rdP n.toNat &&& x.act = 0 := by
    subst hp
    have e : g'.rdP n.toNat = _ := (congrArg (fun m => if n.toNat = 15 then BitVec.allOnes 32 else sget 0 m n.toNat) regs.2.2.1 :)
    rw [e]
    exact Group.rdP_wrDst_act _ x.act _ false hn
  obtain ⟨_, _, _, _, _, wrote⟩ := (x.g.boundary x.act x.iss.pc x.iss.len).wrDst_only x.act p (fun _ => 0) fun _ => false
  rw [wrote] at lanes trap snap ports
  obtain ⟨_, _, marked⟩ := x.g.boundary_only x.act x.iss.pc x.iss.len
  refine ⟨_, g', execDeq_range hx act held holds range, done, ?_, ?_, Group.recorded_boundary x act snap ports, ?_, fun n hp hn => ?_⟩
  · rw [marked] at but
    exact ⟨but.vregs, but.gregs, but.preds, but.fsr, but.fcr⟩
  · rw [marked] at trap
    exact trap
  · rw [marked] at lanes
    exact lanes.ofLp rfl
  · cases p with
    | p k =>
      have e : k.toNat = n := beq_iff_eq.mp hp
      subst e
      exact pred k rfl fun e => hn (congrArg BitVec.toNat e)
    | _ => contradiction

theorem deq_queue {vd vs p : Opnd} (act : x.act ≠ 0) (held : x.g.hasHeld = false)
    (holds : x.holds ([(0, vd)] ++ (if vs = .absent then [] else [(2, vs)]) ++ [(3, p)]) = true)
    (queue : ∃ st q, s.stage? x.c.stage = some st ∧ st.inp = .queue q) :
    ∃ t g' o, exec (.deq h vd vs p) s = .next t ∧ Performed s t x g' ∧ x.g.SameRegs g' ∧ x.g.SameTrap g' ∧
      Recorded x g' ∧ x.g.WentOn g' x.iss.set x.iss.len ∧ g'.outs = x.g.outs ++ [o] ∧ o.id = s.fresh ∧ o.kind = .deq ∧
      o.lanes = x.act ∧ o.dst = vd ∧ o.dst2 = vs ∧ (∀ n, p = .p n → o.pred = n) ∧
      Instr.claimAtHome { stage := x.c.stage, kind := .deq x.iss.who s.fresh x.act, sclk := x.c.sclk } ∈ t.flying := by
  obtain ⟨g', done, lanes, rest, -, flying⟩ := (((((Midway.start hx).updGroup fun g => g.boundary x.act x.iss.pc x.iss.len).setFresh
    (s.fresh + 1)).updGroup (Group.addOut (x.deqOut s.fresh vd vs p))).send
      (.claimAtHome { stage := x.c.stage, kind := .deq x.iss.who s.fresh x.act, sclk := x.c.sclk })).retire h
  have snap : g'.snap = (x.g.boundary x.act x.iss.pc x.iss.len).snap := (congrArg Group.snap (show g' = _ from rest) :)
  have ports : g'.portSnap = (x.g.boundary x.act x.iss.pc x.iss.len).portSnap := (congrArg Group.portSnap (show g' = _ from rest) :)
  have outs : g'.outs = (x.g.boundary x.act x.iss.pc x.iss.len).outs ++ [x.deqOut s.fresh vd vs p] :=
    (congrArg Group.outs (show g' = _ from rest) :)
  obtain ⟨_, _, marked⟩ := x.g.boundary_only x.act x.iss.pc x.iss.len
  have recorded := Group.recorded_boundary x act snap ports
  rw [marked] at lanes rest outs
  refine ⟨_, g', _, execDeq_queue hx act held holds queue, done, rest.sameRegs, rest.sameTrap, recorded, lanes.ofLp rfl,
    outs, rfl, rfl, rfl, rfl, rfl, fun n hp => ?_, flying _ (State.mem_send _ _)⟩
  subst hp
  rfl

end

/-! ## QLEN (10 R261) -/

theorem State.handleGate_go {s : State} {x : Ctx} {q : Opnd} {k : List (Nat × Queue) → State}
    (valid : x.act.lanes.all (fun l => (s.handle? x.c.graph x.c.vf (x.src q l)).isSome) = true) :
    s.handleGate x q k = k (x.act.lanes.filterMap fun l => (s.handle? x.c.graph x.c.vf (x.src q l)).map fun r => (l, r)) := by
  have none : (x.act.lanes.map fun l => (l, s.handle? x.c.graph x.c.vf (x.src q l))).find? (fun p => p.2.isNone) = .none := by
    refine List.find?_eq_none.mpr fun p hp => ?_
    obtain ⟨l, hl, rfl⟩ := List.mem_map.mp hp
    have := List.all_eq_true.mp valid l hl
    simp [Option.isSome_iff_ne_none.mp this]
  unfold State.handleGate
  dsimp only
  rw [none]
  dsimp only
  rw [List.filterMap_map]
  rfl

/-- The outstanding result of QLEN. -/
def Ctx.qlenOut (x : Ctx) (id : Nat) (d : Opnd) (qs : List (Nat × Queue)) : Out where
  id := id
  pc := x.iss.pc.toNat
  kind := .qlen
  dst := d
  dst2 := .absent
  pred := 0
  lanes := x.act
  gl := x.glOf
  left := qs.map fun p => (24 * p.1, p.1 + 1)
  got := []
  cancel := 0

/-- A lane's request of a backlog. -/
def Ctx.qlenReq (x : Ctx) (id : Nat) (p : Nat × Queue) : LdReq where
  origin := .group x.iss.who id p.1
  core := x.c.core
  vf := x.c.vf
  asid := x.c.asid
  va := p.1
  n := 8
  lclk := 0
  len := 0
  first := 0
  last := 0
  pc := x.iss.pc.toNat
  cp := .dflt
  ldc := true
  e0 := false
  renew := false
  pref := false
  atLocal := false
  qlen := some p.2.num

/-- What sets out for a lane: the kept backlog, or a request to the home. -/
def State.qlenMsg (s : State) (x : Ctx) (id : Nat) (exact : Bool) (p : Nat × Queue) : Instr :=
  match s.qlenSum x.c.core exact p.2 with
  | some n => .loadResultReturn {
      req := { x.qlenReq id p with own := true }, data := bytesOf (qlenWord p.2.lq n) 8, poison := false, wt := 0, fill := none }
  | none => .loadRequestAtHome (x.qlenReq id p)

theorem State.qlenMsg_congr {s u : State} (cores : u.cores = s.cores) (stages : u.stages = s.stages) (x : Ctx) (id : Nat) (exact : Bool)
    (p : Nat × Queue) : u.qlenMsg x id exact p = s.qlenMsg x id exact p := by
  unfold State.qlenMsg State.qlenSum State.stage? State.core
  rw [cores, stages]

/-- The messages of all lanes are those of the state at the issue. -/
theorem State.foldl_qlenMsg {s : State} {x : Ctx} {id : Nat} {exact : Bool} : ∀ (l : List (Nat × Queue)) {u : State},
    u.cores = s.cores → u.stages = s.stages →
    l.foldl (fun u p => u.send (u.qlenMsg x id exact p)) u = l.foldl (fun u p => u.send (s.qlenMsg x id exact p)) u
  | [], _, _, _ => rfl
  | p :: l, u, cores, stages => by
    rw [List.foldl_cons, List.foldl_cons, State.qlenMsg_congr cores stages]
    exact foldl_qlenMsg l ((State.send_cores ..).trans cores) ((State.send_stages ..).trans stages)

/-- What sets out in turn is under way. -/
theorem State.mem_foldl_send {α : Type} {msg : α → Instr} {e : Instr} : ∀ (l : List α) {u : State},
    e ∈ u.flying ∨ (∃ p ∈ l, e = msg p) → e ∈ (l.foldl (fun u p => u.send (msg p)) u).flying
  | [], _, h => h.resolve_right nofun
  | p :: l, u, h => by
    refine mem_foldl_send l ?_
    rcases h with h | ⟨q, hq, rfl⟩
    · exact .inl (State.send_keeps u _ _ h)
    · rcases List.mem_cons.mp hq with rfl | hq
      · exact .inl (State.mem_send _ _)
      · exact .inr ⟨q, hq, rfl⟩

section
variable {h : Hdr} {s : State} {x : Ctx} (hx : s.ctx? h = some x)
include hx

theorem execQlen_go {exact : Bool} {d q : Opnd} (act : x.act ≠ 0) (holds : x.holds [(0, d), (1, q)] = true)
    (valid : x.act.lanes.all (fun l => (s.handle? x.c.graph x.c.vf (x.src q l)).isSome) = true) :
    exec (.qlen h exact d q) s = .next (
      let qs := x.act.lanes.filterMap fun l => (s.handle? x.c.graph x.c.vf (x.src q l)).map fun r => (l, r)
      let u := ({ s with fresh := s.fresh + 1 } : State).updGroup x.iss.who (Group.addOut (x.qlenOut s.fresh d qs))
      (qs.foldl (fun u p => u.send (s.qlenMsg x s.fresh exact p)) u).retire x h) := by
  change execQlen h exact d q s = _
  unfold execQlen
  rw [State.withCtx_some hx, State.checked_go holds (by simp), State.handleGate_go valid, if_neg act]
  dsimp only [State.newTag]
  rw [State.retire_again]
  refine congrArg (fun u => Host.Outcome.next (State.retire u x h)) (Eq.trans ?_ (State.foldl_qlenMsg _ (s := s) rfl rfl))
  refine congrArg (fun f => List.foldl f _ _) (funext fun u => funext fun p => ?_)
  unfold State.qlenMsg
  cases u.qlenSum x.c.core exact p.2 with
  | none => rfl
  | some n => rfl

theorem qlen_completes {exact : Bool} {d q : Opnd} (act : x.act ≠ 0) (holds : x.holds [(0, d), (1, q)] = true)
    (valid : x.act.lanes.all (fun l => (s.handle? x.c.graph x.c.vf (x.src q l)).isSome) = true) :
    ∃ t g' o, exec (.qlen h exact d q) s = .next t ∧ Performed s t x g' ∧ x.g.SameRegs g' ∧ x.g.SameTrap g' ∧
      x.g.WentOn g' x.iss.set x.iss.len ∧ g'.outs = x.g.outs ++ [o] ∧ o.id = s.fresh ∧ o.kind = .qlen ∧ o.dst = d ∧
      o.lanes = x.act ∧ ∀ l r, x.act.has l = true → s.handle? x.c.graph x.c.vf (x.src q l) = some r →
        s.qlenMsg x s.fresh exact (l, r) ∈ t.flying := by
  generalize hqs : x.act.lanes.filterMap (fun l => (s.handle? x.c.graph x.c.vf (x.src q l)).map fun r => (l, r)) = qs
  obtain ⟨g', done, lanes, rest, -, flying⟩ := (Midway.foldl_send (s.qlenMsg x s.fresh exact) qs
    (((Midway.start hx).setFresh (s.fresh + 1)).updGroup (Group.addOut (x.qlenOut s.fresh d qs)))).retire h
  have outs : g'.outs = x.g.outs ++ [x.qlenOut s.fresh d qs] := (congrArg Group.outs (show g' = _ from rest) :)
  refine ⟨_, g', _, (execQlen_go hx act holds valid).trans (by rw [hqs]), done, rest.sameRegs, rest.sameTrap, lanes.ofLp rfl, outs,
    rfl, rfl, rfl, rfl, fun l r hl hr => flying _ (State.mem_foldl_send qs (.inr ⟨(l, r), ?_, rfl⟩))⟩
  rw [← hqs, List.mem_filterMap]
  exact ⟨l, Mask.mem_lanes.mpr ⟨Mask.lt_of_has hl, hl⟩, by rw [hr]; rfl⟩

end

/-! ## ARM (10 R262) -/

/-- The queue of a handle stands under its number. -/
theorem State.queue?_handle {s : State} {graph vf : Nat} {w : Word} {r : Queue} (h : s.handle? graph vf w = some r) :
    s.queue? r.num = some r := by
  unfold State.handle? at h
  dsimp only at h
  split at h
  · contradiction
  · obtain ⟨q, hq, own⟩ := Option.bind_eq_some_iff.mp h
    obtain ⟨n, -, hq⟩ := Option.bind_eq_some_iff.mp hq
    split at own
    · obtain rfl : q = r := Option.some.inj own
      rw [State.queue?_num hq]
      exact hq
    · contradiction

/-- The queues after an ARM that is done or not. -/
def State.arm (s : State) (r : Queue) (ok : Bool) (tag base lcnt lslot : Nat) : State :=
  if !ok then s
  else if tag = 0 then s.updQueue r.num fun q => { q with tag := 0 }
  else s.updQueue r.num fun q => { q with tag := tag, land := base, lcnt := lcnt, lslot := lslot, lnext := 0 }

theorem State.arm_only (s : State) (r : Queue) (ok : Bool) (tag base lcnt lslot : Nat) :
    ∃ qs, s.arm r ok tag base lcnt lslot = { s with queues := qs } := by
  unfold State.arm
  split
  · exact ⟨_, rfl⟩
  split
  · exact ⟨_, rfl⟩
  · exact ⟨_, rfl⟩

theorem State.queue?_updQueue_ne {s : State} {n m : Nat} {f : Queue → Queue} (hf : ∀ q, (f q).num = q.num) (h : m ≠ n) :
    (s.updQueue n f).queue? m = s.queue? m :=
  find?_lupdFirst_ne fun y hy => by
    have hy : y.num = n := by simpa using hy
    simp [hf y, hy, Ne.symm h]

/-- The other queues are as before. -/
theorem State.queue?_arm_ne {s : State} {r : Queue} {ok : Bool} {tag base lcnt lslot n : Nat} (h : n ≠ r.num) :
    (s.arm r ok tag base lcnt lslot).queue? n = s.queue? n := by
  unfold State.arm
  split
  · rfl
  split
  · exact State.queue?_updQueue_ne (fun _ => rfl) h
  · exact State.queue?_updQueue_ne (fun _ => rfl) h

section
variable {h : Hdr} {s : State} {x : Ctx} (hx : s.ctx? h = some x)

theorem low_ne_zero {l : Nat} (low : x.act.low = some l) : x.act ≠ 0 := fun e => nomatch low.symm.trans (Mask.low_eq_none_iff.mpr e)

include hx

/-- ARM past its gates: the queues, its predicate and the boundary. -/
theorem execArm_go {pn : BitVec 4} {q tag base : Opnd} {lcnt lslot : BitVec 4} {l : Nat} {r : Queue}
    (holds : x.holds [(0, .p pn), (1, q), (2, tag), (3, base)] = true) (held : x.g.hasHeld = false) (low : x.act.low = some l)
    (valid : x.act.lanes.all (fun l => (s.handle? x.c.graph x.c.vf (x.src q l)).isSome) = true)
    (hr : s.handle? x.c.graph x.c.vf (x.src q l) = some r)
    (pages : (x.scalar tag).toNat ≠ 0 → (x.scalar base).toNat % 4096 = 0 ∧
      ∀ va ∈ runPages (x.scalar base).toNat (2 ^ (lcnt.toNat + lslot.toNat + 6)),
        ∃ t, lookAttr (s.core x.c.core) x.g x.c.asid .queue va = .ok t) :
    let taken := s.queues.any fun y => y.tag == (x.scalar tag).toNat && y.num != r.num
    let ok := (x.scalar tag).toNat == 0 || (!taken && decide (32 ≤ r.size))
    exec (.arm h (.p pn) q tag base lcnt lslot) s = .next (
      ((s.arm r ok (x.scalar tag).toNat (x.scalar base).toNat lcnt.toNat lslot.toNat).updGroup x.iss.who fun g =>
        (g.wrDst x.act (.p pn) (fun _ => 0) fun _ => ok).boundary x.act x.iss.pc x.iss.len).retire x h) := by
  intro taken ok
  obtain ⟨_, hc, hg, _, _⟩ := State.ctx?_some hx
  have first : (x.act.lanes.filterMap fun l => (s.handle? x.c.graph x.c.vf (x.src q l)).map fun r => (l, r)).head? = some (l, r) := by
    obtain ⟨ls, hls⟩ : ∃ ls, x.act.lanes = l :: ls := by
      unfold Mask.low at low
      cases e : x.act.lanes with
      | nil => rw [e] at low; contradiction
      | cons k ls => rw [e] at low; exact ⟨ls, by rw [Option.some.inj low]⟩
    rw [hls, List.filterMap_cons, hr]
    rfl
  change execArm h (.p pn) q tag base lcnt lslot s = _
  unfold execArm
  rw [State.withCtx_some hx, State.checked_go holds (by simp), if_neg (low_ne_zero low)]
  dsimp only
  rw [if_neg fun e => e.2 (pages e.1).1, State.handleGate_go valid]
  refine congrArg Host.Outcome.next ((State.commitGate_none hc hg held true _).trans ((State.attrGate_go ?_).trans ?_))
  · intro a ha va hva
    split at ha
    · exact nomatch ha
    · next on =>
      obtain ⟨as, has, ha⟩ := List.mem_flatten.mp ha
      obtain ⟨v, hv, rfl⟩ := List.mem_map.mp has
      obtain ⟨k, -, rfl⟩ := List.mem_map.mp ha
      have one : va = v := by
        unfold Access.pages at hva
        dsimp only at hva
        rw [if_neg Nat.one_ne_zero, if_neg (by omega)] at hva
        exact List.mem_singleton.mp hva
      subst one
      exact (pages on).2 va hv
  · rw [first]
    dsimp only
    rw [State.retire_again]
    rfl

/-- The group of ARM: its predicate is written, the boundary recorded. -/
theorem arm_issued {pn : BitVec 4} {r : Queue} {ok : Bool} {tag base lcnt lslot : Nat} (act : x.act ≠ 0) :
    let t := ((s.arm r ok tag base lcnt lslot).updGroup x.iss.who fun g =>
      (g.wrDst x.act (.p pn) (fun _ => 0) fun _ => ok).boundary x.act x.iss.pc x.iss.len).retire x h
    ∃ g', QuietFrame s { t with queues := s.queues } x.iss.who ∧ t.group? x.iss.who = some g' ∧ x.g.SameBut g' [.p pn] ∧
      x.g.SameTrap g' ∧ x.g.WentOn g' x.iss.set x.iss.len ∧ Recorded x g' ∧
      (pn ≠ 15 → g'.rdP pn.toNat &&& x.act = if ok then x.act else 0) ∧ t.queues = (s.arm r ok tag base lcnt lslot).queues := by
  intro t
  obtain ⟨qs, armed⟩ := s.arm_only r ok tag base lcnt lslot
  have begun : ({ s with queues := qs } : State).ctx? h = some x := hx
  obtain ⟨g', done, lanes, rest, -, -⟩ := ((Midway.start begun).updGroup fun g =>
    (g.wrDst x.act (.p pn) (fun _ => 0) fun _ => ok).boundary x.act x.iss.pc x.iss.len).retire h
  have quiet := done.frame.ofQueues
  rw [← armed] at done quiet
  have regs := rest.sameRegs
  have trap := rest.sameTrap
  have snap : g'.snap = _ := (congrArg Group.snap (show g' = _ from rest) :)
  have ports : g'.portSnap = _ := (congrArg Group.portSnap (show g' = _ from rest) :)
  have queues : t.queues = (s.arm r ok tag base lcnt lslot).queues := (congrArg State.queues done.frame.rest :)
  have but := Group.SameBut.wrDst x.g x.act (.p pn) (fun _ => 0) fun _ => ok
  have pred : pn ≠ 15 → _ := Group.rdP_wrDst_act x.g x.act (fun _ => 0) ok
  obtain ⟨v, r', p, la, lb, wrote⟩ := x.g.wrDst_only x.act (.p pn) (fun _ => 0) fun _ => ok
  have marks := Group.boundary_marks (g := x.g) (k := x.g.wrDst x.act (.p pn) (fun _ => 0) fun _ => ok) (by rw [wrote]) (by rw [wrote])
    (by rw [wrote]) (by rw [wrote]) (by rw [wrote]) x.act x.iss.pc x.iss.len
  obtain ⟨_, _, marked⟩ := (x.g.wrDst x.act (.p pn) (fun _ => 0) fun _ => ok).boundary_only x.act x.iss.pc x.iss.len
  have recorded := Group.recorded_boundary x act (snap.trans marks.1) (ports.trans marks.2)
  rw [marked] at regs trap lanes
  refine ⟨g', quiet, done.group, but.congr regs, ?_, ?_, recorded, fun hn => ?_, queues⟩
  · rw [wrote] at trap
    exact trap
  · rw [wrote] at lanes
    exact lanes.ofLp rfl
  · have e : g'.rdP pn.toNat = (x.g.wrDst x.act (.p pn) (fun _ => 0) fun _ => ok).rdP pn.toNat :=
      (congrArg (fun m => if pn.toNat = 15 then BitVec.allOnes 32 else sget 0 m pn.toNat) regs.2.2.1 :)
    rw [e]
    exact pred hn

theorem arm_completes {pn : BitVec 4} {q tag base : Opnd} {lcnt lslot : BitVec 4} {l : Nat} {r : Queue}
    (holds : x.holds [(0, .p pn), (1, q), (2, tag), (3, base)] = true) (held : x.g.hasHeld = false) (low : x.act.low = some l)
    (valid : x.act.lanes.all (fun l => (s.handle? x.c.graph x.c.vf (x.src q l)).isSome) = true)
    (hr : s.handle? x.c.graph x.c.vf (x.src q l) = some r)
    (pages : (x.scalar tag).toNat ≠ 0 → (x.scalar base).toNat % 4096 = 0 ∧
      ∀ va ∈ runPages (x.scalar base).toNat (2 ^ (lcnt.toNat + lslot.toNat + 6)),
        ∃ t, lookAttr (s.core x.c.core) x.g x.c.asid .queue va = .ok t) :
    let taken := s.queues.any fun y => y.tag == (x.scalar tag).toNat && y.num != r.num
    let ok := x.scalar tag = 0 ∨ taken = false ∧ 32 ≤ r.size
    ∃ t g', exec (.arm h (.p pn) q tag base lcnt lslot) s = .next t ∧ QuietFrame s { t with queues := s.queues } x.iss.who ∧
      t.group? x.iss.who = some g' ∧ x.g.SameBut g' [.p pn] ∧ x.g.SameTrap g' ∧ x.g.WentOn g' x.iss.set x.iss.len ∧
      Recorded x g' ∧ (ok → pn ≠ 15 → g'.rdP pn.toNat &&& x.act = x.act) ∧
      (¬ok → t.queues = s.queues ∧ (pn ≠ 15 → g'.rdP pn.toNat &&& x.act = 0)) ∧
      (∀ n, n ≠ r.num → t.queue? n = s.queue? n) ∧
      (x.scalar tag = 0 → t.queue? r.num = some { r with tag := 0 }) ∧
      (ok → x.scalar tag ≠ 0 → t.queue? r.num = some { r with
        tag := (x.scalar tag).toNat, land := (x.scalar base).toNat, lcnt := lcnt.toNat, lslot := lslot.toNat, lnext := 0 }) := by
  intro taken ok
  have there := State.queue?_handle hr
  have zero : (x.scalar tag).toNat = 0 ↔ x.scalar tag = 0 := ⟨fun e => BitVec.eq_of_toNat_eq e, fun e => by rw [e]; rfl⟩
  generalize hb : ((x.scalar tag).toNat == 0 || (!taken && decide (32 ≤ r.size))) = done
  have okIff : ok ↔ done = true := by
    rw [← hb, Bool.or_eq_true, beq_iff_eq, zero, Bool.and_eq_true, Bool.not_eq_true', decide_eq_true_iff]
  obtain ⟨g', quiet, group, but, trap, lanes, recorded, pred, queues⟩ := arm_issued (pn := pn) (r := r) (ok := done)
    (tag := (x.scalar tag).toNat) (base := (x.scalar base).toNat) (lcnt := lcnt.toNat) (lslot := lslot.toNat) hx (low_ne_zero low)
  have run := execArm_go hx holds held low valid hr pages
  dsimp only at run
  rw [hb] at run
  refine ⟨_, g', run, quiet, group, but, trap, lanes, recorded, fun yes hn => ?_, fun no => ⟨?_, fun hn => ?_⟩, fun n hn => ?_, fun off => ?_,
    fun yes on => ?_⟩
  · rw [pred hn, okIff.mp yes, if_pos rfl]
  · rw [queues, State.arm, if_pos (by simpa using fun e => no (okIff.mpr e))]
  · rw [pred hn, if_neg fun e => no (okIff.mpr e)]
  · exact (State.queue?_congr queues n).trans (State.queue?_arm_ne hn)
  · have yes : done = true := okIff.mp (.inl off)
    refine (State.queue?_congr queues _).trans ?_
    rw [State.arm, yes, if_neg (by simp), if_pos (zero.mpr off)]
    exact State.queue?_updQueue (fun _ => rfl) there
  · refine (State.queue?_congr queues _).trans ?_
    rw [State.arm, okIff.mp yes, if_neg (by simp), if_neg fun e => on (zero.mp e)]
    exact State.queue?_updQueue (fun _ => rfl) there

end

/-! ## The three words -/

/-- Without an active lane each of the three words only goes on. -/
theorem dequeue_passes {i : Instr} {h : Hdr} {fs : List (Nat × Opnd)} {s : State} {x : Ctx}
    (word : (∃ vd vs p, i = .deq h vd vs p ∧ fs = [(0, vd)] ++ (if vs = .absent then [] else [(2, vs)]) ++ [(3, p)]) ∨
      (∃ e d q, i = .qlen h e d q ∧ fs = [(0, d), (1, q)]) ∨
      ∃ p q tag base lc ls, i = .arm h p q tag base lc ls ∧ fs = [(0, p), (1, q), (2, tag), (3, base)])
    (hx : s.ctx? h = some x) (holds : x.holds fs = true) (idle : x.act = 0) : exec i s = .next (s.retire x h) := by
  obtain ⟨vd, vs, p, rfl, rfl⟩ | ⟨e, d, q, rfl, rfl⟩ | ⟨p, q, tag, base, lc, ls, rfl, rfl⟩ := word
  · change execDeq h vd vs p s = _
    unfold execDeq
    rw [State.withCtx_some hx, State.checked_go holds (by simp), if_pos idle]
  · change execQlen h e d q s = _
    unfold execQlen
    rw [State.withCtx_some hx, State.checked_go holds (by simp),
      State.handleGate_go (by rw [idle, Mask.lanes_zero]; rfl), if_pos idle]
  · change execArm h p q tag base lc ls s = _
    unfold execArm
    rw [State.withCtx_some hx, State.checked_go holds (by simp), if_pos idle]

/-- Settles O36: DEQ by its stage (`deq_range`, `deq_queue`), QLEN by what each lane sends, ARM by its queue. -/
theorem dequeueWords : Obligations.DequeueWords := by
  unfold Obligations.DequeueWords
  refine ⟨?passes, ?deq, ?qlen, ?arm⟩
  case passes => exact fun i h fs s x word hx holds idle => ⟨_, dequeue_passes word hx holds idle, State.retire_passed hx⟩
  case deq => exact fun h vd vs p s x hx act held holds => ⟨deq_range hx act held holds, deq_queue hx act held holds⟩
  case qlen =>
    intro h exact_ d q s x hx act holds valid
    obtain ⟨t, g', o, run, done, regs, trap, lanes, outs, id, kind, dst, active, sent⟩ := qlen_completes hx (exact := exact_) act holds valid
    refine ⟨t, g', o, run, done, regs, trap, lanes, outs, id, kind, dst, active, fun l r hl hr => ?_⟩
    have sent := sent l r hl hr
    unfold State.qlenMsg at sent
    split
    · next n kept =>
      rw [kept] at sent
      exact ⟨_, sent, rfl, rfl⟩
    · next none =>
      rw [none] at sent
      exact ⟨_, sent, rfl, rfl⟩
  case arm =>
    intro h pn q tag base lcnt lslot s x l r hx holds held low valid hr pages
    refine arm_completes hx holds held low valid hr fun on => ?_
    obtain ⟨aligned, ok⟩ := pages fun e => on (by rw [e]; rfl)
    refine ⟨aligned, fun va hva => ?_⟩
    have look := List.all_eq_true.mp ok va hva
    split at look
    · next t e => exact ⟨t, e⟩
    · contradiction

end Sys2Proof.Machine
end

section
/-! PROPERTY. The result of a load whose lane has met a cause before (09 R218, 20 R460). -/

namespace Sys2Proof.Machine

/-- The outstanding result of an eight-byte load to V4 in lane 0 whose last part is on its way: a part before it was not served, so that
the lane is cancelled. -/
def cancelledOut : Out where
  id := 7
  pc := 0
  kind := .load 8 false
  dst := .v 4
  dst2 := .absent
  pred := 0
  lanes := 1
  gl := 0
  left := [(0, 1)]
  got := []
  cancel := 1

/-- The group that waits for it. -/
def cancelledGroup : Group where
  lp := [(0, { st := .live, depth := 0, pc := 0 })]
  outs := [cancelledOut]

/-- A module whose one crew has that group. -/
def cancelledState : State := { State.reset with crews := [{ id := 0, groups := [cancelledGroup] }] }

/-- The last part's answer. -/
def lastPart : LdRep where
  req := { origin := .group { crew := 0, grp := 0 } 7 0, core := 0, vf := 0, asid := 1, va := 0, n := 8, lclk := 0, len := 0
           first := 0, last := 0, pc := 0, cp := .dflt, ldc := false, e0 := false, renew := false, pref := false, atLocal := false }
  data := [5, 0, 0, 0, 0, 0, 0, 0]
  poison := false
  wt := 0
  fill := none

/-- A cancelled lane's register is not written. -/
theorem load_cancelled : ∀ t, exec (.loadResultReturn lastPart) cancelledState = .next t →
    (t.group? { crew := 0, grp := 0 }).map (fun g => g.rdV 4 0) = some 0 := by
  rintro t ⟨⟩
  decide +kernel

/-- Refutes O41: a lane of which an earlier part was not served (20 R460) is written nothing when its last part returns; the clause of
the result that is written asks nothing of the lanes that are cancelled. -/
theorem not_loadEvents : ¬ Obligations.LoadEvents := by
  unfold Obligations.LoadEvents
  rintro ⟨-, -, -, -, written, -⟩
  obtain ⟨t, g', run, group, -, -, value, -⟩ := written lastPart cancelledState { crew := 0, grp := 0 } 7 0 8 false cancelledGroup
    cancelledOut rfl rfl (by decide) rfl rfl rfl rfl rfl nofun rfl rfl rfl (by decide) rfl rfl rfl
  have kept := load_cancelled t run
  rw [group] at kept
  have wrote := (value 4 rfl (by decide)).1
  exact absurd (wrote.symm.trans (Option.some.inj kept)) (by decide)

end Sys2Proof.Machine
end

section
/-! SUPPORT. The parts of an access: they lie in it and cover it (09 R213, 16 R400). -/

namespace Sys2Proof.Machine

/-! ## Parts -/

/-- Runs of bytes lie in a run, none of them empty. -/
def RunsIn (l : List (Nat × Nat)) (va n : Nat) : Prop := ∀ p ∈ l, 0 < p.2 ∧ va ≤ p.1 ∧ p.1 + p.2 ≤ va + n

/-- Each byte of a run lies in one of some runs. -/
def Covers (l : List (Nat × Nat)) (va n : Nat) : Prop := ∀ b, va ≤ b → b < va + n → ∃ p ∈ l, p.1 ≤ b ∧ b < p.1 + p.2

theorem RunsIn.flatten {l : List (Nat × Nat)} {va n : Nat} {f : Nat × Nat → List (Nat × Nat)} (h : RunsIn l va n)
    (hf : ∀ p ∈ l, RunsIn (f p) p.1 p.2) : RunsIn (l.map f).flatten va n := by
  intro q hq
  obtain ⟨_, hm, hq⟩ := List.mem_flatten.mp hq
  obtain ⟨p, hp, rfl⟩ := List.mem_map.mp hm
  have := h p hp
  have := hf p hp q hq
  omega

theorem Covers.flatten {l : List (Nat × Nat)} {va n : Nat} {f : Nat × Nat → List (Nat × Nat)} (h : Covers l va n)
    (hf : ∀ p ∈ l, Covers (f p) p.1 p.2) : Covers (l.map f).flatten va n := by
  intro b lo hi
  obtain ⟨p, hp, lo, hi⟩ := h b lo hi
  obtain ⟨q, hq, at_⟩ := hf p hp b lo hi
  exact ⟨q, List.mem_flatten.mpr ⟨_, List.mem_map.mpr ⟨p, hp, rfl⟩, hq⟩, at_⟩

theorem RunsIn.one {va n : Nat} (h : 0 < n) : RunsIn [(va, n)] va n := by
  intro p hp
  rw [List.mem_singleton] at hp
  subst hp
  exact ⟨h, Nat.le_refl _, Nat.le_refl _⟩

theorem Covers.one (va n : Nat) : Covers [(va, n)] va n := fun _ lo hi => ⟨_, List.mem_singleton_self _, lo, hi⟩

theorem segPieces_in {va n : Nat} (some : 0 < n) : RunsIn (segPieces va n) va n := by
  intro p hp
  obtain ⟨k, hk, rfl⟩ := List.mem_map.mp hp
  have := List.mem_range.mp hk
  dsimp only
  omega

theorem segPieces_covers (va n : Nat) : Covers (segPieces va n) va n := by
  intro b lo hi
  refine ⟨_, List.mem_map.mpr ⟨b / 256 - va / 256, List.mem_range.mpr (by omega), rfl⟩, ?_⟩
  dsimp only
  omega

/-- A naturally aligned part of at most some bytes has at least one. -/
theorem alignedSize_pos_le (a : Nat) {n : Nat} (h : n ≠ 0) :
    let size := ([16, 8, 4, 2].find? fun z => decide (z ≤ n) && a % z == 0).getD 1
    0 < size ∧ size ≤ n := by
  intro size
  cases found : [16, 8, 4, 2].find? fun z => decide (z ≤ n) && a % z == 0 with
  | none =>
    have one : size = 1 := by simp only [size, found, Option.getD_none]
    omega
  | some z =>
    have eq : size = z := by simp only [size, found, Option.getD_some]
    have fits := List.find?_some found
    have listed := List.mem_of_find?_eq_some found
    simp only [Bool.and_eq_true, decide_eq_true_iff, List.mem_cons, List.not_mem_nil, or_false] at fits listed
    omega

theorem cutAligned_in : ∀ k a n, RunsIn (cutAligned k a n) a n
  | 0, _, _ => nofun
  | k + 1, a, n => by
    rw [cutAligned]
    split
    · exact nofun
    · next some =>
      obtain ⟨pos, le⟩ := alignedSize_pos_le a some
      dsimp only at pos le ⊢
      intro p hp
      rcases List.mem_cons.mp hp with rfl | hp
      · exact ⟨pos, Nat.le_refl _, by dsimp only; omega⟩
      · have := cutAligned_in k _ _ p hp
        omega

theorem cutAligned_covers : ∀ k a n, n ≤ k → Covers (cutAligned k a n) a n
  | 0, _, _, h => fun _ lo hi => by omega
  | k + 1, a, n, h => by
    rw [cutAligned]
    split
    · exact fun _ lo hi => by omega
    · next some =>
      obtain ⟨pos, le⟩ := alignedSize_pos_le a some
      dsimp only at pos le ⊢
      intro b lo hi
      generalize ([16, 8, 4, 2].find? fun z => decide (z ≤ n) && a % z == 0).getD 1 = size at *
      by_cases first : b < a + size
      · exact ⟨_, List.mem_cons_self, lo, first⟩
      · obtain ⟨p, hp, at_⟩ := cutAligned_covers k (a + size) (n - size) (by omega) b (by omega) (by omega)
        exact ⟨p, List.mem_cons_of_mem _ hp, at_⟩

section
variable (s : State) (x : Ctx) (a : Access)

theorem State.parts_in (some : 0 < a.n) : RunsIn (s.parts x a) a.va a.n := by
  refine (segPieces_in some).flatten fun r hr => ?_
  have pos := (segPieces_in some r hr).1
  split
  · exact .one pos
  · refine (cutAligned_in 17 r.1 r.2).flatten fun p hp => ?_
    have pos := (cutAligned_in 17 r.1 r.2 p hp).1
    split
    · next halves =>
      intro q hq
      simp only [List.mem_cons, List.not_mem_nil, or_false] at hq
      rcases hq with rfl | rfl
      · dsimp only; omega
      · dsimp only; omega
    · exact .one pos

theorem State.parts_cover (some : 0 < a.n) (few : a.n ≤ 16) : Covers (s.parts x a) a.va a.n := by
  refine (segPieces_covers a.va a.n).flatten fun r hr => ?_
  have fits := segPieces_in some r hr
  split
  · exact .one _ _
  · refine (cutAligned_covers 17 r.1 r.2 (by omega)).flatten fun p _ => ?_
    split
    · next halves =>
      intro b lo hi
      by_cases first : b < p.1 + 4
      · exact ⟨_, List.mem_cons_self, lo, first⟩
      · exact ⟨(p.1 + 4, 4), by simp, by dsimp only; omega, by dsimp only; omega⟩
    · exact .one _ _

end

end Sys2Proof.Machine
end

section
/-! SUPPORT. The requests of a load leave its core: what the look at the L1 changes, and what is asked for (12 R298, 13 R320, R331). -/

namespace Sys2Proof

/-- Two requests ask for the same bytes, for the same lane, with the same clock. -/
structure LdReq.Alike (q r : LdReq) : Prop where
  origin : q.origin = r.origin
  va : q.va = r.va
  n : q.n = r.n
  asid : q.asid = r.asid
  lclk : q.lclk = r.lclk
  ldc : q.ldc = r.ldc

end Sys2Proof

namespace Sys2Proof.Machine

/-! ## The L1 -/

/-- A line without the marks of its use. -/
def Blk.bare (b : Blk) : Blk := { b with used := 0, seen := 0 }

theorem findBlk_map_bare (l : List Blk) (asid va : Nat) : findBlk (l.map Blk.bare) asid va = (findBlk l asid va).map Blk.bare :=
  List.find?_map ..

theorem map_lupdFirst {α β : Type} {p : α → Bool} {f : α → α} {k : α → β} (h : ∀ y, k (f y) = k y) :
    ∀ l : List α, (lupdFirst p f l).map k = l.map k
  | [] => rfl
  | y :: l => by
    rw [lupdFirst]
    split
    · rw [List.map_cons, List.map_cons, h]
    · rw [List.map_cons, List.map_cons, map_lupdFirst h]

/-- Lines that differ in the marks of their use are found alike. -/
theorem findBlk_alike {l k : List Blk} (h : l.map Blk.bare = k.map Blk.bare) {asid va : Nat} {b : Blk}
    (hb : findBlk l asid va = some b) : ∃ b', findBlk k asid va = some b' ∧ b'.bare = b.bare := by
  have e := findBlk_map_bare k asid va
  rw [← h, findBlk_map_bare, hb] at e
  obtain ⟨b', hb', e⟩ := Option.map_eq_some_iff.mp e.symm
  exact ⟨b', hb', e⟩

theorem State.core_congr {s t : State} (h : t.cores = s.cores) (k : Nat) : t.core k = s.core k := by
  rw [State.core, State.core, h]

/-- The L1 lines of a core differ from those of a state in the marks of their use. -/
def State.LinesAlike (s u : State) (core : Nat) : Prop := (u.core core).l1.map Blk.bare = (s.core core).l1.map Blk.bare

/-- What a look at an L1 changes: counts and marks of one core, and what is under way. -/
structure Looks (u v : State) (core : Nat) : Prop where
  frame : ∀ w, IssueFrame u v w
  crews : v.crews = u.crews
  cores : ∀ k, k ≠ core → v.core k = u.core k
  lines : u.LinesAlike v core

theorem Looks.refl (u : State) (core : Nat) : Looks u u core := ⟨.refl u, rfl, fun _ _ => rfl, rfl⟩

section
variable {u v t : State} {core : Nat}

theorem Looks.trans (h : Looks u v core) (k : Looks v t core) : Looks u t core where
  frame w := (h.frame w).trans (k.frame w)
  crews := k.crews.trans h.crews
  cores j e := (k.cores j e).trans (h.cores j e)
  lines := k.lines.trans h.lines

theorem Looks.newTag (u : State) (core : Nat) : Looks u u.newTag.2 core :=
  ⟨fun _ => .same rfl (List.prefix_refl _) (List.prefix_refl _), rfl, fun _ _ => rfl, rfl⟩

theorem Looks.perfAdd (u : State) (core vf ev n : Nat) : Looks u (u.perfAdd core vf ev n) core where
  frame w := (Spends.perfAdd u w core vf ev n).frame
  crews := by rw [State.perfAdd_frame]
  cores := (Spends.perfAdd u ⟨0, 0⟩ core vf ev n).cores
  lines := by
    have only : (u.perfAdd core vf ev n).core core = _ := (Spends.perfAdd u ⟨0, 0⟩ core vf ev n).counts.only
    rw [State.LinesAlike, only]

theorem Looks.send (u : State) (e : Instr) (core : Nat) : Looks u (u.send e) core where
  frame := .send u e
  crews := State.send_crews u e
  cores k _ := State.core_congr (State.send_cores u e) k
  lines := by rw [State.LinesAlike, State.core_congr (State.send_cores u e)]

theorem Looks.updLine (u : State) (core asid va : Nat) {f : Blk → Blk} (hf : ∀ b, (f b).bare = b.bare) :
    Looks u (u.updCore core fun co => { co with l1 := updBlk co.l1 asid va f }) core where
  frame _ := .same rfl (List.prefix_refl _) (List.prefix_refl _)
  crews := rfl
  cores _ e := State.core_updCore_ne e
  lines := by
    rw [State.LinesAlike, State.core_updCore]
    exact map_lupdFirst hf _

end

/-! ## What is asked for -/

/-- The bytes of a request are asked for: a request, or the answer of a line that was in the L1, is under way. -/
def State.Asked (s t : State) (core : Nat) (r : LdReq) : Prop :=
  ∃ q : LdReq, q.Alike r ∧ (Instr.loadRequestAtHome q ∈ t.flying ∨
    ∃ m b, m.req = { q with own := true } ∧ Instr.loadResultReturn m ∈ t.flying ∧
      findBlk (s.core core).l1 r.asid r.va = some b ∧ m.data = b.read r.va r.n ∧ m.wt = b.wt)

theorem State.Asked.mono {s t t' : State} {core : Nat} {r : LdReq} (h : s.Asked t core r) (keeps : ∀ e ∈ t.flying, e ∈ t'.flying) :
    s.Asked t' core r := by
  obtain ⟨q, alike, sent | ⟨m, b, req, sent, line⟩⟩ := h
  · exact ⟨q, alike, .inl (keeps _ sent)⟩
  · exact ⟨q, alike, .inr ⟨m, b, req, keeps _ sent, line⟩⟩

/-- A look at the L1 finds a line there, or sends a request. -/
theorem State.lookL1_cases (s : State) (r : LdReq) :
    (∃ b m f ev, (∀ b, Blk.bare (f b) = b.bare) ∧ findBlk (s.core r.core).l1 r.asid r.va = some b ∧ m.req = { r with own := true } ∧
      m.data = b.read r.va r.n ∧ m.wt = b.wt ∧
      s.lookL1 r = ((s.newTag.2.updCore r.core fun co => { co with l1 := updBlk co.l1 r.asid r.va f }).perfAdd r.core r.vf ev 1).send
        (.loadResultReturn m)) ∨
    ∃ q u, q.Alike r ∧ (u = s ∨ u = s.perfAdd r.core r.vf 0x07 1) ∧ s.lookL1 r = u.newTag.2.send (.loadRequestAtHome q) := by
  unfold State.lookL1
  dsimp only
  split
  · next b hit =>
    refine .inl ⟨b, _, _, _, ?_, ?_, ?_, ?_, ?_, rfl⟩
    · exact fun _ => rfl
    · split at hit
      · contradiction
      · obtain ⟨b', found, fresh⟩ := Option.bind_eq_some_iff.mp hit
        split at fresh
        · rw [found, Option.some.inj fresh]
        · contradiction
    · rfl
    · rfl
    · rfl
  · next miss =>
    refine .inr ⟨_, _, ?_, ?_, rfl⟩
    · exact ⟨rfl, rfl, rfl, rfl, rfl, rfl⟩
    · split
      · exact .inr rfl
      · exact .inl rfl

/-- A look at the L1 asks for the bytes. -/
theorem Looks.lookL1 {s u : State} {core : Nat} (lines : s.LinesAlike u core) {r : LdReq} (hr : r.core = core) :
    Looks u (u.lookL1 r) core ∧ s.Asked (u.lookL1 r) core r := by
  subst hr
  obtain ⟨b, m, f, ev, marks, found, req, data, wt, e⟩ | ⟨q, v, alike, counted, e⟩ := u.lookL1_cases r
  · rw [e]
    obtain ⟨b', found, same⟩ := findBlk_alike lines found
    refine ⟨(((Looks.newTag _ _).trans (.updLine _ _ _ _ marks)).trans (.perfAdd ..)).trans (.send ..),
      r, ⟨rfl, rfl, rfl, rfl, rfl, rfl⟩, .inr ⟨m, b', req, State.mem_send _ _, found, data.trans ?_, wt.trans ?_⟩⟩
    · exact (congrArg (fun b : Blk => b.read r.va r.n) same).symm
    · exact (congrArg Blk.wt same).symm
  · rw [e]
    have counted : Looks u v r.core := by
      rcases counted with rfl | rfl
      · exact .refl ..
      · exact .perfAdd ..
    exact ⟨(counted.trans (.newTag _ _)).trans (.send ..), q, alike, .inl (State.mem_send _ _)⟩

theorem Looks.foldl_lookL1 {s : State} {core : Nat} (l : List LdReq) (hl : ∀ r ∈ l, r.core = core) : ∀ {u : State},
    s.LinesAlike u core → Looks u (l.foldl State.lookL1 u) core ∧ ∀ r ∈ l, s.Asked (l.foldl State.lookL1 u) core r := by
  induction l with
  | nil => exact fun _ => ⟨.refl .., fun _ none => absurd none List.not_mem_nil⟩
  | cons r l ih =>
    intro u lines
    obtain ⟨one, asked⟩ := Looks.lookL1 lines (hl r List.mem_cons_self)
    obtain ⟨all, rest⟩ := ih (fun q hq => hl q (List.mem_cons_of_mem _ hq)) (one.lines.trans lines)
    rw [List.foldl_cons]
    refine ⟨one.trans all, fun q hq => ?_⟩
    rcases List.mem_cons.mp hq with rfl | hq
    · exact asked.mono fun e he => (all.frame ⟨0, 0⟩).flying he
    · exact rest q hq

/-! ## The parts of a load leave -/

/-- Each entry of a list is numbered. -/
theorem mem_numbered {α : Type} {l : List α} {y : α} (h : y ∈ l) : ∃ k, (k, y) ∈ numbered l := by
  obtain ⟨k, hk, rfl⟩ := List.getElem_of_mem h
  refine ⟨k, List.mem_iff_getElem.mpr ⟨k, by simpa [numbered] using hk, ?_⟩⟩
  simp [numbered]

theorem mem_of_numbered {α : Type} {l : List α} {p : Nat × α} (h : p ∈ numbered l) : p.2 ∈ l := (List.of_mem_zip h).2

/-- A load's requests are looked up one after the other. -/
def State.goLoad (s : State) (i : Instr) : State := match i with
  | .loadRequestAtHome r => s.lookL1 r
  | _ => s

theorem State.foldl_goLoad : ∀ (l : List LdReq) (s : State),
    (l.map Instr.loadRequestAtHome).foldl State.goLoad s = l.foldl State.lookL1 s
  | [], _ => rfl
  | _ :: l, _ => foldl_goLoad l _

theorem exists_map_of_subset {α β : Type} {f : α → β} {l : List α} : ∀ {k : List β}, (∀ y ∈ k, y ∈ l.map f) →
    ∃ rs : List α, k = rs.map f ∧ ∀ r ∈ rs, r ∈ l
  | [], _ => ⟨[], rfl, nofun⟩
  | y :: k, h => by
    obtain ⟨r, hr, rfl⟩ := List.mem_map.mp (h y List.mem_cons_self)
    obtain ⟨rs, rfl, hrs⟩ := exists_map_of_subset fun z hz => h z (List.mem_cons_of_mem _ hz)
    refine ⟨r :: rs, rfl, fun q hq => ?_⟩
    rcases List.mem_cons.mp hq with rfl | hq
    · exact hr
    · exact hrs q hq

/-- Parts of an access are kept back (13 R331). -/
def Group.keepBack (later : List Instr) (g : Group) : Group := { g with later := g.later ++ later }

/-- The parts of a load leave: each is asked for, or kept back in an access that orders. -/
theorem State.sendParts_loads {s u : State} {core : Nat} {w : Who} {inOrder : Bool} {rs : List LdReq} (own : ∀ r ∈ rs, r.core = core)
    (lines : s.LinesAlike u core) :
    ∃ later, Looks (u.updGroup w (Group.keepBack later))
        (u.sendParts w inOrder (rs.map .loadRequestAtHome) State.goLoad) core ∧
      ∀ r ∈ rs, s.Asked (u.sendParts w inOrder (rs.map .loadRequestAtHome) State.goLoad) core r ∨
        inOrder = true ∧ Instr.loadRequestAtHome r ∈ later := by
  generalize hl : rs.map Instr.loadRequestAtHome = l
  unfold State.sendParts
  dsimp only
  generalize hnow : ((numbered l).filter fun p => !inOrder || firstPart l p.1).map (·.2) = now
  generalize hlater : ((numbered l).filter fun p => !(!inOrder || firstPart l p.1)).map (·.2) = later
  obtain ⟨ns, rfl, hns⟩ : ∃ ns : List LdReq, now = ns.map .loadRequestAtHome ∧ ∀ r ∈ ns, r ∈ rs := by
    refine exists_map_of_subset fun y hy => ?_
    rw [← hnow] at hy
    obtain ⟨p, hp, rfl⟩ := List.mem_map.mp hy
    rw [hl]
    exact mem_of_numbered (List.mem_filter.mp hp).1
  rw [State.foldl_goLoad]
  have mine : ∀ r ∈ ns, r.core = core := fun r hr => own r (hns r hr)
  have looked := Looks.foldl_lookL1 (s := s) (u := u.updGroup w (Group.keepBack later)) ns mine lines
  refine ⟨later, looked.1, fun r hr => ?_⟩
  obtain ⟨k, hk⟩ := mem_numbered (l := l) (y := .loadRequestAtHome r) (hl ▸ List.mem_map_of_mem hr)
  by_cases first : (!inOrder || firstPart l k) = true
  · have sent : Instr.loadRequestAtHome r ∈ ns.map Instr.loadRequestAtHome := by
      rw [← hnow]
      exact List.mem_map.mpr ⟨_, List.mem_filter.mpr ⟨hk, first⟩, rfl⟩
    obtain ⟨q, hq, e⟩ := List.mem_map.mp sent
    obtain rfl : q = r := Instr.loadRequestAtHome.inj e
    exact .inl (looked.2 q hq)
  · refine .inr ⟨?_, ?_⟩
    · cases inOrder with
      | true => rfl
      | false => exact absurd rfl first
    · rw [← hlater]
      exact List.mem_map.mpr ⟨_, List.mem_filter.mpr ⟨hk, by simpa using first⟩, rfl⟩

end Sys2Proof.Machine
end

section
/-! SUPPORT. A load under way: what it leaves of the state as its steps go on, from the gate of its fence to its end. -/

namespace Sys2Proof.Machine

/-- A word that has performed waits for nothing. -/
theorem State.retire_idle {s : State} {x : Ctx} {g g' : Group} (hg : s.group? x.iss.who = some g) {h : Hdr}
    (hg' : (s.retire x h).group? x.iss.who = some g') : g'.wait = .none := by
  obtain ⟨n, hn⟩ := State.group?_issued (State.group?_updGroup (f := fun g => g.advance x.iss.set x.iss.len) hg) h x.act
  obtain rfl := Option.some.inj (hg'.symm.trans hn)
  rfl

/-- A state that a load of context `x` has reached from `s`, in which its group is `g`. -/
structure Loading (s u : State) (x : Ctx) (g : Group) : Prop where
  frame : IssueFrame s u x.iss.who
  cores : ∀ k, k ≠ x.c.core → u.core k = s.core k
  crew : ∃ gs, u.crew? x.iss.who.crew = some { x.c with groups := gs }
  group : u.group? x.iss.who = some g

section
variable {s u v : State} {x : Ctx} {g g' : Group}

theorem Loading.trans (m : Loading s u x g) (k : Loading u v x g') : Loading s v x g' :=
  ⟨m.frame.trans k.frame, fun j e => (k.cores j e).trans (m.cores j e), k.crew, k.group⟩

/-- The steps from a state on. -/
theorem Loading.here (m : Loading s u x g) : Loading u u x g := ⟨.refl .., fun _ _ => rfl, m.crew, m.group⟩

theorem Loading.updGroup (m : Loading s u x g) (f : Group → Group) : Loading s (u.updGroup x.iss.who f) x (f g) := by
  obtain ⟨gs, hc⟩ := m.crew
  exact ⟨m.frame.trans (Spends.updGroup u _ f 0 0).frame, m.cores, ⟨_, State.crew?_updGroup (c := { x.c with groups := gs }) hc⟩,
    State.group?_updGroup m.group⟩

theorem Loading.looks (m : Loading s u x g) (k : Looks u v x.c.core) : Loading s v x g := by
  obtain ⟨gs, hc⟩ := m.crew
  refine ⟨m.frame.trans (k.frame _), fun j e => (k.cores j e).trans (m.cores j e), ⟨gs, ?_⟩, (State.group?_congr k.crews _).trans m.group⟩
  rw [State.crew?, k.crews]
  exact hc

/-- The end of a load that goes on. -/
theorem Loading.retire (m : Loading s u x g) (h : Hdr) : ∃ g', Loading s (u.retire x h) x g' ∧ g.WentOn g' x.iss.set x.iss.len ∧
    g.IssueRest g' ∧ g.Hinted g' x.iss x.act h.s h.y ∧ g'.wait = .none ∧ ∀ e ∈ u.flying, e ∈ (u.retire x h).flying := by
  obtain ⟨gs, hc⟩ := m.crew
  obtain ⟨g', done⟩ := State.retire_finishes hc m.group h
  obtain ⟨gs', hc'⟩ := done.crew
  exact ⟨g', ⟨m.frame.trans done.spends.frame, fun k e => (done.spends.cores k e).trans (m.cores k e), ⟨gs', hc'⟩, done.group⟩,
    done.lanes, done.rest, done.hints, State.retire_idle m.group done.group, fun e he => done.spends.frame.flying he⟩

end

/-! ## The fence of a load (13 R333) -/

/-- The context of a load whose clocks are set where it orders. -/
def Ctx.fenced (s : State) (x : Ctx) (so : Bool) : Ctx :=
  { x with c := { x.c with lclk := if so then x.synced s .dev else x.c.lclk, sclk := if so then x.synced s .dev else x.c.sclk } }

section
variable {s : State} {x : Ctx}

theorem State.syncClocks_crew {s : State} {n : Nat} {c : Crew} (hc : s.crew? n = some c) (sc : Scope) :
    (s.syncClocks n sc).crew? n = some
      (let t := max (max c.lclk (if sc = .dom ∨ sc = .sys then sget 0 s.floorF (c.core / 72) else 0)) c.sclk
       { c with lclk := t, sclk := t }) :=
  State.crew?_updCrew (fun _ => rfl) hc

theorem State.syncClocks_group {w : Who} {g : Group} (hg : s.group? w = some g) (sc : Scope) :
    (s.syncClocks w.crew sc).group? w = some g := State.group?_updCrew (fun _ => rfl) (fun _ => rfl) hg

theorem State.syncClocks_frame {w : Who} {c : Crew} (hc : s.crew? w.crew = some c) (sc : Scope) :
    IssueFrame s (s.syncClocks w.crew sc) w := by
  refine (QuietFrame.updCrew hc ?_ ?_).toIssueFrame
  · exact fun _ => rfl
  · exact fun _ => rfl

theorem State.syncClocks_groups (s : State) (n : Nat) (sc : Scope) : (s.syncClocks n sc).crews.map (·.groups) = s.crews.map (·.groups) := by
  refine map_lupdFirst ?_ s.crews
  exact fun _ => rfl

/-- A load's fence that waits for nothing sets the clocks of its crew where the load orders, and nothing else. -/
theorem State.fenceGate_load (hc : s.crew? x.iss.who.crew = some x.c) (hg : s.group? x.iss.who = some x.g) {so : Bool}
    (free : so = true → x.g.fenceWaits .dev = false) (k : State → Ctx → State) :
    ∃ cs, s.fenceGate x (if so then some .dev else none) k = k { s with crews := cs } (x.fenced s so) ∧
      Loading s { s with crews := cs } (x.fenced s so) x.g ∧ cs.map (·.groups) = s.crews.map (·.groups) := by
  cases so with
  | false => exact ⟨s.crews, rfl, ⟨.refl .., fun _ _ => rfl, ⟨x.c.groups, hc⟩, hg⟩, rfl⟩
  | true =>
    have again {u : State} {c : Crew} (hu : u.crew? x.iss.who.crew = some c) (hc' : c = x.c ∨ c = (x.fenced s true).c) :
        (u.syncClocks x.iss.who.crew .dev).crew? x.iss.who.crew = some (x.fenced s true).c := by
      rw [State.syncClocks_crew hu]
      rcases hc' with rfl | rfl
      · rfl
      · simp [Ctx.fenced]
    have first : ∃ u c, (if x.g.phase = 0 then s.syncClocks x.iss.who.crew .dev else s) = u ∧ u = { s with crews := u.crews } ∧
        u.crew? x.iss.who.crew = some c ∧ (c = x.c ∨ c = (x.fenced s true).c) ∧ u.group? x.iss.who = some x.g ∧
        IssueFrame s u x.iss.who ∧ u.crews.map (·.groups) = s.crews.map (·.groups) := by
      split
      · exact ⟨_, _, rfl, rfl, again hc (.inl rfl), .inr rfl, State.syncClocks_group hg _, State.syncClocks_frame hc _,
          State.syncClocks_groups ..⟩
      · exact ⟨_, _, rfl, rfl, hc, .inl rfl, hg, .refl .., rfl⟩
    obtain ⟨u, c, hu, only, hc', old, hg', frame, groups⟩ := first
    have crew := again hc' old
    have group := State.syncClocks_group hg' .dev
    have same : u.syncClocks x.iss.who.crew .dev = { s with crews := (u.syncClocks x.iss.who.crew .dev).crews } := by
      conv_lhs => rw [only]
      rfl
    have run : s.fenceGate x (some .dev) k = k (u.syncClocks x.iss.who.crew .dev) (x.fenced s true) := by
      unfold State.fenceGate
      dsimp only
      rw [if_neg (by simp [Scope.far]), hu, free rfl, State.again_eq crew group]
      rfl
    refine ⟨(u.syncClocks x.iss.who.crew .dev).crews, ?_, ?_, (State.syncClocks_groups ..).trans groups⟩
    · rw [← same]
      exact run
    · rw [← same]
      refine ⟨frame.trans (State.syncClocks_frame hc' _), fun j _ => ?_, ⟨_, crew⟩, group⟩
      rw [same]
      rfl

end

end Sys2Proof.Machine
end

section
/-! SUPPORT. The own bytes of a load, its open parts and its outstanding result (09 R213, R221). -/

namespace Sys2Proof

/-! ## Entries of sparse contents -/

theorem mem_sins {α : Type} {k : Nat} {v : α} {q : Nat × α} : ∀ {m : SMap α}, q ∈ sins k v m → q.1 = k ∨ q ∈ m
  | [], h => .inl (congrArg Prod.fst (List.mem_singleton.mp h))
  | p :: m, h => by
    rw [sins] at h
    split at h
    · exact (List.mem_cons.mp h).imp (congrArg Prod.fst) id
    · rcases List.mem_cons.mp h with rfl | h
      · exact .inr List.mem_cons_self
      · exact (mem_sins h).imp_right (List.mem_cons_of_mem _)

theorem mem_sset {α : Type} [DecidableEq α] {d : α} {m : SMap α} {k : Nat} {v : α} {q : Nat × α} (h : q ∈ sset d m k v) :
    (q.1 = k ∧ v ≠ d) ∨ q ∈ m := by
  unfold sset at h
  split at h
  · exact .inr (List.mem_filter.mp h).1
  · next some => exact (mem_sins h).imp (⟨·, some⟩) fun h => (List.mem_filter.mp h).1

/-- Each entry of contents that a list has set is one of the list. -/
theorem mem_foldl_sset {α β : Type} [DecidableEq α] {d : α} {key : β → Nat} {val : β → α} {q : Nat × α} :
    ∀ {l : List β} {m : SMap α}, q ∈ l.foldl (fun m y => sset d m (key y) (val y)) m → (∃ y ∈ l, q.1 = key y) ∨ q ∈ m
  | [], _, h => .inr h
  | y :: l, m, h => by
    rcases mem_foldl_sset (l := l) h with ⟨z, hz, e⟩ | h
    · exact .inl ⟨z, List.mem_cons_of_mem _ hz, e⟩
    · exact (mem_sset h).imp_left fun h => ⟨y, List.mem_cons_self, h.1⟩

/-- A byte that a list sets, to one value, has that value. -/
theorem Memory.get_foldl_set {k : Nat} {b : Byte} : ∀ {l : List (Nat × Byte)} {m : Memory},
    (∀ q ∈ l, q.1 = k → q.2 = b) → ((∃ q ∈ l, q.1 = k) ∨ m.get k = b) →
    Memory.get (l.foldl (fun m q => Memory.set m q.1 q.2) m) k = b
  | [], _, _, h => h.resolve_left nofun
  | p :: l, m, one, h => by
    refine get_foldl_set (l := l) (fun q hq => one q (List.mem_cons_of_mem _ hq)) ?_
    by_cases e : p.1 = k
    · subst e
      exact .inr ((sget_sset_same ..).trans (one p List.mem_cons_self rfl))
    · have keeps : (Memory.set m p.1 p.2).get k = m.get k := sget_sset_ne _ (Ne.symm e)
      rw [keeps]
      refine h.imp_left fun ⟨q, hq, hk⟩ => ⟨q, ?_, hk⟩
      rcases List.mem_cons.mp hq with rfl | hq
      · exact absurd hk e
      · exact hq

theorem MW.bytes_range (w : MW) : 0 < w.bytes ∧ w.bytes ≤ 16 := by cases w <;> decide

/-- The low bytes of a value. -/
theorem leNat_append_mod : ∀ (l k : List Byte), leNat (l ++ k) % 256 ^ l.length = leNat l % 256 ^ l.length
  | [], _ => by simp [Nat.mod_one]
  | b :: l, k => by
    have ih := leNat_append_mod l k
    rw [List.cons_append, leNat, leNat, List.length_cons, Nat.pow_succ', Nat.mod_mul, Nat.mod_mul (a := 256)]
    have low (n : Nat) : (b.toNat + 256 * n) % 256 = b.toNat % 256 ∧ (b.toNat + 256 * n) / 256 = b.toNat / 256 + n := by omega
    rw [(low _).1, (low _).1, (low _).2, (low _).2, Nat.add_mod, ih, ← Nat.add_mod]

end Sys2Proof

namespace Sys2Proof.Machine

/-! ## The accesses of a load -/

/-- Accesses of as many bytes, one of each lane. -/
structure OneEach (as : List Access) (n : Nat) : Prop where
  lanes : (as.map (·.lane)).Nodup
  len : ∀ a ∈ as, a.n = n
  pos : 0 < n
  few : n ≤ 16

theorem OneEach.one {as : List Access} {n : Nat} (h : OneEach as n) {a b : Access} (ha : a ∈ as) (hb : b ∈ as) (e : a.lane = b.lane) :
    a = b := List.inj_on_of_nodup_map h.lanes ha hb e

theorem Ctx.accesses_one (x : Ctx) (ad : Addr) (w : MW) (acc : Acc) : OneEach (x.accesses ad w.bytes acc) w.bytes where
  lanes := by
    rw [Ctx.accesses, List.map_map]
    exact (List.map_id _).symm ▸ Mask.nodup_lanes _
  len a ha := by
    obtain ⟨l, -, rfl⟩ := List.mem_map.mp ha
    rfl
  pos := w.bytes_range.1
  few := w.bytes_range.2

theorem Ctx.mem_accesses {x : Ctx} {ad : Addr} {n : Nat} {acc : Acc} {a : Access} :
    a ∈ x.accesses ad n acc ↔ x.act.has a.lane = true ∧ a = { lane := a.lane, va := x.addr ad a.lane, n := n, acc := acc } := by
  refine List.mem_map.trans ⟨?_, fun ⟨hl, e⟩ => ⟨a.lane, Mask.mem_lanes.mpr ⟨Mask.lt_of_has hl, hl⟩, e.symm⟩⟩
  rintro ⟨l, hl, rfl⟩
  exact ⟨(Mask.mem_lanes.mp hl).2, rfl⟩

/-! ## Own bytes -/

/-- The bytes of a load that stand in its group's own stores, by their place in its result. -/
def Ctx.loadOwn (x : Ctx) (n : Nat) (as : List Access) : List (Nat × Byte) :=
  (as.map fun a => (List.range n).filterMap fun k => (x.g.forward (a.va + k)).map fun b => (24 * a.lane + k, b)).flatten

/-- The parts of a load that lack a byte. -/
def State.loadParts (s : State) (x : Ctx) (n : Nat) (as : List Access) : List (Access × Nat × Nat) :=
  (as.map fun a => ((s.parts x a).filter fun p =>
    !((List.range p.2).all fun k => (x.loadOwn n as).any fun q => q.1 == 24 * a.lane + (p.1 - a.va) + k)).map fun p => (a, p)).flatten

/-- The outstanding result of a load. -/
def State.loadOut (s : State) (x : Ctx) (id n : Nat) (sx : Bool) (d : Opnd) (as : List Access) : Out where
  id := id
  pc := x.iss.pc.toNat
  kind := .load n sx
  dst := d
  dst2 := .absent
  pred := 0
  lanes := x.act
  gl := x.glOf
  left := (s.loadParts x n as).foldl (fun m q => sset 0 m (24 * q.1.lane + (q.2.1 - q.1.va)) (q.2.1 + 1)) []
  got := (x.loadOwn n as).foldl (fun m q => Memory.set m q.1 q.2) []
  own := (x.loadOwn n as).map (·.1)
  cancel := 0

section
variable {s : State} {x : Ctx} {n : Nat} {as : List Access} (one : OneEach as n)

theorem Ctx.mem_loadOwn {q : Nat × Byte} : q ∈ x.loadOwn n as ↔
    ∃ a ∈ as, ∃ k, k < n ∧ q.1 = 24 * a.lane + k ∧ x.g.forward (a.va + k) = some q.2 := by
  simp only [Ctx.loadOwn, List.mem_flatten, List.mem_map, exists_exists_and_eq_and, List.mem_filterMap, List.mem_range,
    Option.map_eq_some_iff]
  constructor
  · rintro ⟨a, ha, k, hk, b, hb, rfl⟩
    exact ⟨a, ha, k, hk, rfl, hb⟩
  · rintro ⟨a, ha, k, hk, e, hb⟩
    exact ⟨a, ha, k, hk, q.2, hb, by rw [← e]⟩

include one

/-- The own bytes of a lane are those of its address. -/
theorem Ctx.loadOwn_at {a : Access} (ha : a ∈ as) {k : Nat} (hk : k < n) (b : Byte) :
    (24 * a.lane + k, b) ∈ x.loadOwn n as ↔ x.g.forward (a.va + k) = some b := by
  refine Ctx.mem_loadOwn.trans ⟨?_, fun h => ⟨a, ha, k, hk, rfl, h⟩⟩
  rintro ⟨c, hc, j, hj, e, h⟩
  have few := one.few
  have lane : a.lane = c.lane := by dsimp only at e; omega
  obtain rfl := one.one ha hc lane
  obtain rfl : k = j := by dsimp only at e; omega
  exact h

theorem Ctx.loadOwn_any {a : Access} (ha : a ∈ as) {k : Nat} (hk : k < n) :
    (x.loadOwn n as).any (fun q => q.1 == 24 * a.lane + k) = (x.g.forward (a.va + k)).isSome := by
  rw [Bool.eq_iff_iff, List.any_eq_true, Option.isSome_iff_exists]
  constructor
  · rintro ⟨q, hq, e⟩
    exact ⟨q.2, (Ctx.loadOwn_at one ha hk q.2).mp (by rw [← beq_iff_eq.mp e]; exact hq)⟩
  · rintro ⟨b, hb⟩
    exact ⟨_, (Ctx.loadOwn_at one ha hk b).mpr hb, beq_self_eq_true _⟩

/-- A lane's own byte stands in the result, and in its list of own bytes. -/
theorem State.loadOut_own {id : Nat} {sx : Bool} {d : Opnd} {a : Access} (ha : a ∈ as) {k : Nat} (hk : k < n) {b : Byte}
    (hb : x.g.forward (a.va + k) = some b) :
    Memory.get (s.loadOut x id n sx d as).got (24 * a.lane + k) = b ∧ (24 * a.lane + k) ∈ (s.loadOut x id n sx d as).own := by
  have there := (Ctx.loadOwn_at one ha hk b).mpr hb
  refine ⟨Memory.get_foldl_set (fun q hq e => ?_) (.inl ⟨_, there, rfl⟩), List.mem_map.mpr ⟨_, there, rfl⟩⟩
  have own := (Ctx.loadOwn_at one ha hk q.2).mp (by rw [← e]; exact hq)
  exact Option.some.inj (own.symm.trans hb)

/-- The open parts of a load are those that lack a byte. -/
theorem State.mem_loadParts {q : Access × Nat × Nat} : q ∈ s.loadParts x n as ↔
    q.1 ∈ as ∧ q.2 ∈ s.parts x q.1 ∧ ∃ k, k < q.2.2 ∧ x.g.forward (q.2.1 + k) = none := by
  obtain ⟨a, p⟩ := q
  simp only [State.loadParts, List.mem_flatten, List.mem_map, exists_exists_and_eq_and, List.mem_filter, Prod.mk.injEq]
  have lacks (ha : a ∈ as) (hp : p ∈ s.parts x a) : (!((List.range p.2).all fun k => (x.loadOwn n as).any fun q =>
      q.1 == 24 * a.lane + (p.1 - a.va) + k)) = true ↔ ∃ k, k < p.2 ∧ x.g.forward (p.1 + k) = none := by
    have within := s.parts_in x a (one.len a ha ▸ one.pos) p hp
    rw [one.len a ha] at within
    simp only [Bool.not_eq_true', List.all_eq_false, List.mem_range]
    refine exists_congr fun k => and_congr_right fun hk => ?_
    rw [Nat.add_assoc, Ctx.loadOwn_any one ha (by omega), show a.va + (p.1 - a.va + k) = p.1 + k by omega]
    simp
  constructor
  · rintro ⟨a', ha, p', ⟨hp, open_⟩, rfl, rfl⟩
    exact ⟨ha, hp, (lacks ha hp).mp open_⟩
  · rintro ⟨ha, hp, open_⟩
    exact ⟨a, ha, p, ⟨hp, (lacks ha hp).mpr open_⟩, rfl, rfl⟩

/-- A lane has an open part where it lacks a byte. -/
theorem State.loadParts_any {a : Access} (ha : a ∈ as) : (s.loadParts x n as).any (fun q => q.1.lane == a.lane) = true ↔
    ∃ k, k < n ∧ x.g.forward (a.va + k) = none := by
  rw [List.any_eq_true]
  constructor
  · rintro ⟨q, hq, e⟩
    obtain ⟨hqa, hp, k, hk, lacks⟩ := (State.mem_loadParts one).mp hq
    obtain rfl := one.one hqa ha (beq_iff_eq.mp e)
    have within := s.parts_in x q.1 (one.len _ ha ▸ one.pos) q.2 hp
    rw [one.len _ ha] at within
    refine ⟨q.2.1 - q.1.va + k, by omega, ?_⟩
    rw [show q.1.va + (q.2.1 - q.1.va + k) = q.2.1 + k by omega]
    exact lacks
  · rintro ⟨k, hk, lacks⟩
    have len := one.len a ha
    obtain ⟨p, hp, lo, hi⟩ := s.parts_cover x a (len ▸ one.pos) (len ▸ one.few) (a.va + k) (Nat.le_add_right ..) (by omega)
    refine ⟨(a, p), (State.mem_loadParts one).mpr ⟨ha, hp, a.va + k - p.1, by dsimp only; omega, ?_⟩, beq_self_eq_true _⟩
    dsimp only
    rw [show p.1 + (a.va + k - p.1) = a.va + k by omega]
    exact lacks

/-- The result waits for parts of lanes with open parts alone. -/
theorem State.loadOut_left {id : Nat} {sx : Bool} {d : Opnd} {p : Nat × Nat} (hp : p ∈ (s.loadOut x id n sx d as).left) :
    ∃ q ∈ s.loadParts x n as, 24 * q.1.lane ≤ p.1 ∧ p.1 < 24 * q.1.lane + 24 := by
  obtain ⟨q, hq, e⟩ := (mem_foldl_sset hp).resolve_right nofun
  refine ⟨q, hq, ?_⟩
  obtain ⟨ha, part, -⟩ := (State.mem_loadParts one).mp hq
  have within := s.parts_in x q.1 (one.len _ ha ▸ one.pos) q.2 part
  rw [one.len _ ha] at within
  have few := one.few
  omega

end

end Sys2Proof.Machine
end

section
/-! SUPPORT. A load passes its gates, and its parts leave (09 R216 to R221, 13 R331, R333). -/

namespace Sys2Proof.Machine

/-! ## Gates -/

theorem lookAttr_perm {co : Core} {g : Group} {asid va : Nat} {acc : Acc} :
    lookAttr co g asid acc va = .perm ↔ 2 ^ 51 ≤ va ∨ sget 0 g.answers (probeKey acc va) = 2 := by
  unfold lookAttr
  split
  · next high => exact iff_of_true rfl (.inl high)
  · next low =>
    rw [or_iff_right low]
    split
    · next e => simp [e]
    · next e => simp [e]
    · next e => simp [e]
    · next other _ =>
      refine iff_of_false ?_ other
      split
      · exact nofun
      · dsimp only
        split
        · exact nofun
        · exact nofun

/-- Bytes of one page are refused alike. -/
theorem lookAttr_page {co : Core} {g : Group} {asid va b : Nat} {acc : Acc} (same : b / 2 ^ 15 = va / 2 ^ 15)
    (h : lookAttr co g asid acc va ≠ .perm) : lookAttr co g asid acc b ≠ .perm := by
  rw [Ne, lookAttr_perm] at h ⊢
  have key : probeKey acc b = probeKey acc va := by
    rw [probeKey, probeKey, pageOf, pageOf, show b % 2 ^ 51 / 2 ^ 15 = va % 2 ^ 51 / 2 ^ 15 by omega]
  rw [key]
  omega

/-- Each 256-byte unit of an access lies in one of its pages. -/
theorem Access.unit_page {a : Access} {b : Nat} (hb : b ∈ a.units) : ∃ va ∈ a.pages, b / 2 ^ 15 = va / 2 ^ 15 := by
  unfold Access.units at hb
  unfold Access.pages
  dsimp only at hb ⊢
  split at hb
  · exact nomatch hb
  · next some =>
    rw [if_neg some]
    have first : ∃ va ∈ (if (a.va / 2 ^ 15 + 1) * 2 ^ 15 < a.va + a.n then [a.va, (a.va / 2 ^ 15 + 1) * 2 ^ 15] else [a.va]),
        a.va / 2 ^ 15 = va / 2 ^ 15 := by
      refine ⟨a.va, ?_, rfl⟩
      split
      · exact List.mem_cons_self
      · exact List.mem_cons_self
    split at hb
    · next two =>
      simp only [List.mem_cons, List.not_mem_nil, or_false] at hb
      rcases hb with rfl | rfl
      · exact first
      · by_cases same : (a.va / 256 + 1) * 256 / 2 ^ 15 = a.va / 2 ^ 15
        · rw [same]
          exact first
        · have next : (a.va / 256 + 1) * 256 = (a.va / 2 ^ 15 + 1) * 2 ^ 15 := by omega
          rw [← next, if_pos two]
          exact ⟨_, List.mem_cons_of_mem _ List.mem_cons_self, rfl⟩
    · rw [List.mem_singleton.mp hb]
      exact first

/-- What `globalReady` says of accesses that are no atomics. -/
theorem globalReady_gates {s : State} {x : Ctx} {rd wr mcOk winOk : Bool} {as : List Access}
    (ready : globalReady s x rd wr mcOk winOk as = true) : (∀ a ∈ as, s.formBad x.c.asid mcOk winOk a = none) ∧
      (∀ a ∈ as, x.g.handler = true ∨ x.g.suppressed x.iss.pc a.lane = true ∨ watchHit (s.core x.c.core) false rd wr a.va a.n = none) ∧
      s.pagesOk x as ∧ (∀ a ∈ as, ∀ va ∈ a.units, s.farByte x.c.asid va = false) := by
  have all : ∀ a ∈ as, s.formBad x.c.asid mcOk winOk a = none ∧ (∀ va ∈ a.units, s.farByte x.c.asid va = false) ∧
      (x.g.handler = true ∨ x.g.suppressed x.iss.pc a.lane = true ∨ watchHit (s.core x.c.core) false rd wr a.va a.n = none) ∧
      ∀ va ∈ a.pages, ∃ t, lookAttr (s.core x.c.core) x.g x.c.asid a.acc va = .ok t := by
    intro a ha
    have h := List.all_eq_true.mp ready a ha
    simp only [Bool.and_eq_true, Bool.or_eq_true, Option.isNone_iff_eq_none, or_assoc] at h
    obtain ⟨⟨⟨⟨form, far⟩, watch⟩, -⟩, pages⟩ := h
    refine ⟨form, fun va hva => ?_, watch, fun va hva => ?_⟩
    · simpa using List.find?_eq_none.mp far va hva
    · have look := List.all_eq_true.mp pages va hva
      split at look
      · next t e => exact ⟨t, e⟩
      · contradiction
  exact ⟨fun a ha => (all a ha).1, fun a ha => (all a ha).2.2.1, fun a ha => (all a ha).2.2.2, fun a ha => (all a ha).2.1⟩

/-- The end of a load whose parts have left: the boundary of a far one, and the wait of one that orders. -/
def State.loadEnd (s : State) (x : Ctx) (h : Hdr) (id : Nat) (far acq : Bool) (sc : Scope) : State :=
  let s := if far then s.updGroup x.iss.who fun g => g.boundary x.act x.iss.pc x.iss.len else s
  let s := s.retire x h
  if acq then s.updGroup x.iss.who fun g => { g with wait := .acq id sc } else s

section
variable {s : State} {x : Ctx} {h : Hdr} {w : MW} {sx ldc : Bool} {ord : Ord} {sc : Scope} {cp : Cp} {d : Opnd} {ad : Addr}

/-- A load that meets nothing comes to its fence. -/
theorem State.loadWord_gates (hx : s.ctx? h = some x)
    (holds : x.holdsRun d (valueRegs w.bytes) ((0, d) :: addrFields ad) = true) :
    let as := x.accesses ad w.bytes .load
    let so := s.anySo x as
    let far := s.anyFar x as
    let acq := so || (ord == .acq && s.ordActs x as)
    globalReady s x true false false true as = true → ((so || far) = true → x.g.hasHeld = false) →
    s.loadWord h w.bytes sx ldc ord sc cp d ad = if x.act = 0 then s.retire x h else
      s.fenceGate x (if so then some .dev else none) fun s x =>
        if !ldc && as.any (fun a => s.awaits x.iss.who a.lane x.c.asid a.va a.n) then s.waitRetry x
        else
          let r := s.loadLanes x h cp ldc sx acq w.bytes d as
          r.2.loadEnd x h r.1 far acq (if so then Scope.wider .dev (if ord == .acq then sc else .dev) else sc) := by
  intro as so far acq ready held
  obtain ⟨_, hc, hg, _, _⟩ := State.ctx?_some hx
  obtain ⟨form, watch, pages, near⟩ := globalReady_gates ready
  have units : ∀ a ∈ as, ∀ va ∈ a.units, lookAttr (s.core x.c.core) x.g x.c.asid a.acc va ≠ .perm := by
    intro a ha b hb
    obtain ⟨va, hva, same⟩ := Access.unit_page hb
    obtain ⟨t, ok⟩ := pages a ha va hva
    exact lookAttr_page same (by rw [ok]; exact nofun)
  have commit (k : State → Ctx → State) : s.commitGate x (so || far) k = k s x := by
    cases on : so || far with
    | false => rfl
    | true => exact State.commitGate_none hc hg (held on) true k
  unfold State.loadWord
  rw [State.withCtx_some hx, State.memChecked_go holds]
  dsimp only
  rw [State.lanesGate_go form, State.watchGate_go watch, State.probeGate_go pages, commit, State.reachGate_go pages near units]
  simp only [State.retire_again]
  rfl

end

end Sys2Proof.Machine
end

section
/-! SUPPORT. The parts of a load leave, and what each asks for (09 R213, 13 R320, R331). -/

namespace Sys2Proof.Machine

section
variable {s₀ s : State} {x : Ctx} {g : Group} {h : Hdr} {cp : Cp} {ldc sx inOrder : Bool} {n : Nat} {d : Opnd} {as : List Access}

/-- The requests of a load. -/
def State.loadReqs (s : State) (x : Ctx) (h : Hdr) (cp : Cp) (ldc : Bool) (n : Nat) (as : List Access) : List LdReq :=
  (s.loadParts x n as).map fun q => s.loadPart x h s.fresh cp ldc q.1 q.2

/-- The lanes of a load all of whose bytes stand in the group's own stores. -/
def State.loadGiven (s : State) (x : Ctx) (n : Nat) (as : List Access) : List Access :=
  as.filter fun a => !((s.loadParts x n as).any fun q => q.1.lane == a.lane)

/-- A load's outstanding result stands in the group, and its parts leave. -/
def State.loadSent (s : State) (x : Ctx) (h : Hdr) (cp : Cp) (ldc sx inOrder : Bool) (n : Nat) (d : Opnd) (as : List Access) : State :=
  (s.newTag.2.updGroup x.iss.who (Group.addOut (s.loadOut x s.fresh n sx d as))).sendParts x.iss.who inOrder
    ((s.loadReqs x h cp ldc n as).map .loadRequestAtHome) State.goLoad

theorem State.loadLanes_eq : s.loadLanes x h cp ldc sx inOrder n d as = (s.fresh,
    (s.loadGiven x n as).foldl (fun u a => u.outBytes x.iss.who s.fresh a.lane 0 []) (s.loadSent x h cp ldc sx inOrder n d as)) := by
  unfold State.loadSent State.loadReqs
  rw [List.map_map]
  rfl

/-- Each open part of a load is asked for, or kept back in an access that orders. -/
theorem Loading.sent (m : Loading s₀ s x g) : ∃ later,
    Loading s₀ (s.loadSent x h cp ldc sx inOrder n d as) x ((g.addOut (s.loadOut x s.fresh n sx d as)).keepBack later) ∧
    ∀ q ∈ s.loadParts x n as,
      s.Asked (s.loadSent x h cp ldc sx inOrder n d as) x.c.core (s.loadPart x h s.fresh cp ldc q.1 q.2) ∨
      inOrder = true ∧ Instr.loadRequestAtHome (s.loadPart x h s.fresh cp ldc q.1 q.2) ∈ later := by
  have own : ∀ r ∈ s.loadReqs x h cp ldc n as, r.core = x.c.core := by
    intro r hr
    obtain ⟨q, -, rfl⟩ := List.mem_map.mp hr
    rfl
  obtain ⟨later, looks, asked⟩ := State.sendParts_loads (s := s) (w := x.iss.who) (inOrder := inOrder) own
    (u := s.newTag.2.updGroup x.iss.who (Group.addOut (s.loadOut x s.fresh n sx d as))) rfl
  exact ⟨later, (((m.looks (.newTag s _)).updGroup _).updGroup _).looks looks, fun q hq => asked _ (List.mem_map_of_mem hq)⟩

end

/-- A part of a load whose result has the next number is asked for: its request is under way or, where the access orders, kept back, or
a line of the L1 answers it (12 R298, 13 R331). -/
def State.PartAsked (s : State) (x : Ctx) (asid lclk : Nat) (ldc acq : Bool) (t : State) (g' : Group) (a : Access) (p : Nat × Nat) : Prop :=
  ∃ r : LdReq, r.origin = .group x.iss.who s.fresh a.lane ∧ r.va = p.1 ∧ r.n = p.2 ∧ r.asid = asid ∧ r.lclk = lclk ∧ r.ldc = ldc ∧
    (Instr.loadRequestAtHome r ∈ t.flying ∨ acq = true ∧ Instr.loadRequestAtHome r ∈ g'.later ∨
      ∃ m b, m.req = { r with own := true } ∧ Instr.loadResultReturn m ∈ t.flying ∧
        findBlk (s.core x.c.core).l1 asid p.1 = some b ∧ m.data = b.read p.1 p.2 ∧ m.wt = b.wt)

theorem State.PartAsked.ofSent {s t : State} {x : Ctx} {h : Hdr} {cp : Cp} {ldc acq : Bool} {g' : Group} {a : Access} {p : Nat × Nat}
    (sent : s.Asked t x.c.core (s.loadPart x h s.fresh cp ldc a p) ∨
      acq = true ∧ Instr.loadRequestAtHome (s.loadPart x h s.fresh cp ldc a p) ∈ g'.later) :
    s.PartAsked x x.c.asid x.c.lclk ldc acq t g' a p := by
  rcases sent with ⟨q, alike, sent⟩ | later
  · refine ⟨q, alike.origin, alike.va, alike.n, alike.asid, alike.lclk, alike.ldc, ?_⟩
    exact sent.imp_right .inr
  · exact ⟨_, rfl, rfl, rfl, rfl, rfl, rfl, .inr (.inl later)⟩

/-! ## The end of a load that no store of its group meets -/

section
variable {s₀ s : State} {x : Ctx} {h : Hdr} {cp : Cp} {ldc sx far acq : Bool} {n : Nat} {d : Opnd} {as : List Access} {sc : Scope}

/-- The group of a load at its end. -/
theorem Loading.ends {g : Group} (m : Loading s₀ s x g) (h : Hdr) (id : Nat) (far acq : Bool) (sc : Scope) : ∃ g₁ g',
    g₁ = (if far then g.boundary x.act x.iss.pc x.iss.len else g) ∧ Loading s₀ (s.loadEnd x h id far acq sc) x g' ∧
    g₁.WentOn g' x.iss.set x.iss.len ∧ g₁.IssueRest g' ∧ g₁.Hinted g' x.iss x.act h.s h.y ∧
    g'.wait = (if acq then .acq id sc else .none) ∧ ∀ e ∈ s.flying, e ∈ (s.loadEnd x h id far acq sc).flying := by
  have marked : ∃ u g₁, (if far then s.updGroup x.iss.who fun g => g.boundary x.act x.iss.pc x.iss.len else s) = u ∧
      g₁ = (if far then g.boundary x.act x.iss.pc x.iss.len else g) ∧ Loading s₀ u x g₁ ∧ u.flying = s.flying := by
    cases far with
    | false => exact ⟨_, _, rfl, rfl, m, rfl⟩
    | true => exact ⟨_, _, rfl, rfl, m.updGroup _, rfl⟩
  obtain ⟨u, g₁, hu, hg₁, m, flying⟩ := marked
  obtain ⟨g', done, lanes, rest, hints, idle, keeps⟩ := m.retire h
  unfold State.loadEnd
  rw [hu]
  cases acq with
  | false => exact ⟨g₁, g', hg₁, done, lanes, rest, hints, idle, fun e he => keeps e (flying ▸ he)⟩
  | true =>
    have waits : g₁.IssueRest { g' with wait := .acq id sc } := (congrArg (fun k : Group => { k with wait := .acq id sc }) rest :)
    exact ⟨g₁, { g' with wait := .acq id sc }, hg₁, done.updGroup _, ⟨lanes.pc, lanes.depth, lanes.gone, lanes.remain⟩, waits,
      ⟨hints.status⟩, rfl, fun e he => keeps e (flying ▸ he)⟩

/-- A load of which no byte stands in a store of its own group. -/
theorem Loading.asks (m : Loading s₀ s x x.g) (act : x.act ≠ 0) (one : OneEach as n)
    (none : ∀ a ∈ as, ∀ k, k < n → x.g.forward (a.va + k) = none) :
    let r := s.loadLanes x h cp ldc sx acq n d as
    let t := r.2.loadEnd x h r.1 far acq sc
    ∃ g', Loading s₀ t x g' ∧ x.g.SameRegs g' ∧ x.g.SameTrap g' ∧ x.g.WentOn g' x.iss.set x.iss.len ∧ x.g.Hinted g' x.iss x.act h.s h.y ∧
      g'.sb = x.g.sb ∧ (far = true → Recorded x g') ∧ (far = false → g'.snap = x.g.snap ∧ g'.portSnap = x.g.portSnap) ∧
      g'.wait = (if acq then .acq s.fresh sc else .none) ∧ g'.outs = x.g.outs ++ [s.loadOut x s.fresh n sx d as] ∧
      ∀ a ∈ as, ∀ p ∈ s.parts x a, s.PartAsked x x.c.asid x.c.lclk ldc acq t g' a p := by
  obtain ⟨later, sent, asked⟩ := m.sent (h := h) (cp := cp) (ldc := ldc) (sx := sx) (inOrder := acq) (n := n) (d := d) (as := as)
  have given : s.loadGiven x n as = [] := by
    refine List.filter_eq_nil_iff.mpr fun a ha => ?_
    rw [(State.loadParts_any one ha).mpr ⟨0, one.pos, none a ha 0 one.pos⟩]
    exact Bool.false_ne_true
  have parts : ∀ a ∈ as, ∀ p ∈ s.parts x a, (a, p) ∈ s.loadParts x n as := by
    intro a ha p hp
    have within := s.parts_in x a (one.len a ha ▸ one.pos) p hp
    rw [one.len a ha] at within
    refine (State.mem_loadParts one).mpr ⟨ha, hp, 0, within.1, ?_⟩
    have lacks := none a ha (p.1 - a.va) (by omega)
    rwa [show a.va + (p.1 - a.va) = p.1 by omega] at lacks
  rw [State.loadLanes_eq, given]
  obtain ⟨g₁, g', hg₁, done, lanes, rest, hints, wait, keeps⟩ := sent.ends h s.fresh far acq sc
  obtain ⟨snap, ports, only⟩ : ∃ snap ports, g₁ = { (x.g.addOut (s.loadOut x s.fresh n sx d as)).keepBack later with
      snap := snap, portSnap := ports } := by
    cases far with
    | false => exact ⟨_, _, hg₁⟩
    | true =>
      obtain ⟨snap, ports, e⟩ := Group.boundary_only ((x.g.addOut (s.loadOut x s.fresh n sx d as)).keepBack later) x.act x.iss.pc x.iss.len
      exact ⟨snap, ports, hg₁.trans e⟩
  have e : g' = _ := rest
  have marks : g'.snap = g₁.snap ∧ g'.portSnap = g₁.portSnap := ⟨(congrArg Group.snap e :), (congrArg Group.portSnap e :)⟩
  have regs := rest.sameRegs
  have trap := rest.sameTrap
  have kept : g'.later = g₁.later := (congrArg Group.later e :)
  have outs : g'.outs = g₁.outs := (congrArg Group.outs e :)
  have sb : g'.sb = g₁.sb := (congrArg Group.sb e :)
  have lane (l : Nat) : g₁.lpOf l = x.g.lpOf l := by rw [only]; rfl
  refine ⟨g', done, by rw [only] at regs; exact regs, by rw [only] at trap; exact trap, lanes.ofLp (by rw [only]; rfl),
    hints.congr (fun l => by rw [lane]) (by rw [only]; rfl), sb.trans (by rw [only]; rfl), fun on => ?_, fun off => ?_, wait,
    outs.trans (by rw [only]; rfl), fun a ha p hp => .ofSent (h := h) (cp := cp) ?_⟩
  · subst on
    obtain ⟨hs, hp⟩ := Group.boundary_marks (g := x.g) (k := (x.g.addOut (s.loadOut x s.fresh n sx d as)).keepBack later)
      rfl rfl rfl rfl rfl x.act x.iss.pc x.iss.len
    rw [hg₁] at marks
    exact Group.recorded_boundary x act (marks.1.trans hs) (marks.2.trans hp)
  · subst off
    rw [hg₁] at marks
    exact marks
  · refine (asked _ (parts a ha p hp)).imp (fun sent => sent.mono keeps) fun ⟨on, kept'⟩ => ⟨on, ?_⟩
    rw [kept, only]
    exact List.mem_append_right _ kept'

end

end Sys2Proof.Machine
end

section
/-! SUPPORT. A load's lanes whose bytes all stand in the group's own stores are written at once (09 R218, R221). -/

namespace Sys2Proof.Machine

/-! ## Registers of one lane -/

theorem Group.SameBut.refl (g : Group) (ds : List Opnd) : g.SameBut g ds :=
  ⟨fun _ _ _ _ => rfl, fun _ _ => rfl, fun _ _ => rfl, rfl, rfl⟩

theorem Group.SameBut.trans {a b c : Group} {ds : List Opnd} (h : a.SameBut b ds) (k : b.SameBut c ds) : a.SameBut c ds where
  vregs n l hl other := (k.vregs n l hl other).trans (h.vregs n l hl other)
  gregs n other := (k.gregs n other).trans (h.gregs n other)
  preds n other := (k.preds n other).trans (h.preds n other)
  fsr := k.fsr.trans h.fsr
  fcr := k.fcr.trans h.fcr

theorem Group.SameBut.mono {a b : Group} {ds es : List Opnd} (h : a.SameBut b ds) (sub : ds ⊆ es) : a.SameBut b es where
  vregs n l hl other := h.vregs n l hl (List.all_eq_true.mpr fun o ho => List.all_eq_true.mp other o (sub ho))
  gregs n other := h.gregs n (List.all_eq_true.mpr fun o ho => List.all_eq_true.mp other o (sub ho))
  preds n other := h.preds n (List.all_eq_true.mpr fun o ho => List.all_eq_true.mp other o (sub ho))
  fsr := h.fsr
  fcr := h.fcr

section
variable (g : Group) (gl l : Nat) (o : Opnd) (v : Word)

theorem Group.wrLane_only : ∃ v' r p la lb, g.wrLane gl l o v = { g with v := v', g := r, p := p, latchA := la, latchB := lb } := by
  cases o with
  | v k => exact ⟨_, _, _, _, _, rfl⟩
  | g k =>
    unfold Group.wrLane
    dsimp only
    split
    · exact ⟨_, _, _, _, _, rfl⟩
    · exact ⟨_, _, _, _, _, rfl⟩
  | p k =>
    unfold Group.wrLane Group.wrP
    dsimp only
    split
    · exact ⟨_, _, _, _, _, rfl⟩
    · exact ⟨_, _, _, _, _, rfl⟩
  | _ => exact ⟨_, _, _, _, _, rfl⟩

theorem Group.SameBut.wrLane : g.SameBut (g.wrLane gl l o v) [o] := by
  cases o with
  | v k =>
    refine ⟨fun n j hj other => ?_, fun _ _ => rfl, fun _ _ => rfl, rfl, rfl⟩
    have other : k.toNat ≠ n := by simpa [Opnd.isV] using other
    exact (Group.rdV_wrV _ _ _ _ _ _ hj).trans (if_neg fun e => other e.1.symm)
  | g k =>
    rw [Group.wrLane]
    split
    · refine ⟨fun _ _ _ _ => rfl, fun n other => ?_, fun _ _ => rfl, rfl, rfl⟩
      have other : k.toNat ≠ n := by simpa [Opnd.isG] using other
      rw [Group.rdG_wrG, if_neg (Ne.symm other)]
    · exact .refl ..
  | p k =>
    obtain ⟨_, _, _, _, _, only⟩ := Group.wrLane_only g gl l (.p k) v
    refine ⟨fun n j _ _ => Group.rdV_wrP .., fun n _ => Group.rdG_wrP .., fun n other => ?_, ?_, ?_⟩
    · have other : k.toNat ≠ n := by simpa [Opnd.isP] using other
      exact (Group.rdP_wrP ..).trans (if_neg fun e => other e.1.symm)
    · rw [only]
    · rw [only]
  | _ => exact .refl ..

end

/-! ## A lane's result -/

/-- The registers that a load writes: a pair for 16 bytes (09 R217). -/
def loadDsts (n : Nat) (d : Opnd) : List Opnd := if n ≤ 8 then [d] else [d, d.next]

section
variable (g : Group) {o : Out} {n : Nat} {sx : Bool} (kind : o.kind = .load n sx) (l : Nat)
include kind

theorem Group.SameBut.wrOut : g.SameBut (g.wrOut o l) (loadDsts n o.dst) := by
  unfold Group.wrOut loadDsts
  rw [kind]
  dsimp only
  split
  · exact .wrLane ..
  · exact ((Group.SameBut.wrLane g o.gl l o.dst (o.word l 0)).mono (by simp)).trans ((Group.SameBut.wrLane ..).mono (by simp))

theorem Group.wrOut_only : ∃ v r p la lb, g.wrOut o l = { g with v := v, g := r, p := p, latchA := la, latchB := lb } := by
  unfold Group.wrOut
  rw [kind]
  dsimp only
  split
  · exact Group.wrLane_only ..
  · obtain ⟨_, _, _, _, _, e⟩ := Group.wrLane_only g o.gl l o.dst (o.word l 0)
    obtain ⟨_, _, _, _, _, e'⟩ := Group.wrLane_only (g.wrLane o.gl l o.dst (o.word l 0)) o.gl l o.dst.next (o.word l 8)
    rw [e', e]
    exact ⟨_, _, _, _, _, rfl⟩

theorem Group.rdV_wrOut {k : BitVec 8} (dst : o.dst = .v k) (small : n ≤ 8) (hl : l < 32) {j : Nat} (hj : j < 32) :
    (g.wrOut o l).rdV k.toNat j = if j = l then loadValue n sx (o.word l 0) else g.rdV k.toNat j := by
  unfold Group.wrOut
  rw [kind, dst]
  dsimp only
  rw [if_pos small, Group.wrLane, Group.rdV_wrV _ _ _ _ _ _ hj, Mask.has_one hl]
  simp [eq_comm]

end

end Sys2Proof.Machine
end

section
/-! SUPPORT. The lanes of a load that its group's own stores answer, one after the other (09 R218, R221). -/

namespace Sys2Proof.Machine

/-! ## Lanes that leave an outstanding result -/

theorem Group.WentOn.still {g g' : Group} (lp : ∀ l, (g'.lpOf l).pc = (g.lpOf l).pc ∧ (g'.lpOf l).depth = (g.lpOf l).depth ∧
    ((g'.lpOf l).st = (g.lpOf l).st ∨ (g.lpOf l).st.remaining = true ∧ (g'.lpOf l).st.remaining = true)) : g.WentOn g' 0 0 where
  pc l := by
    rw [(lp l).1]
    simp [Mask.has]
  depth l := (lp l).2.1
  gone l exited := (lp l).2.2.resolve_right fun h => Bool.false_ne_true (exited.symm.trans h.1)
  remain l there := (lp l).2.2.elim (fun e => e ▸ there) And.right

/-- A word that goes on after its lanes stood where they were. -/
theorem Group.WentOn.after {a b c : Group} {set : Mask} {len : Nat} (h : a.WentOn b 0 0) (k : b.WentOn c set len) :
    a.WentOn c set len where
  pc l := by
    have stands := h.pc l
    rw [k.pc l, stands]
    simp [Mask.has]
  depth l := (k.depth l).trans (h.depth l)
  gone l exited := (k.gone l (by rw [h.gone l exited]; exact exited)).trans (h.gone l exited)
  remain l there := k.remain l (h.remain l there)

theorem Group.outDone_stands (g : Group) (id : Nat) (m : Mask) : g.WentOn (g.outDone id m) 0 0 := by
  refine .still fun l => ?_
  rw [Group.outDone, Group.lpOf_mapLp]
  split
  · next woken =>
    have parked := Group.mem_lanesIn (g := g) (p := (· == .parked)) (Mask.mem_lanes.mpr ⟨woken.1, ?_⟩)
    · refine ⟨rfl, rfl, .inr ⟨?_, rfl⟩⟩
      rw [beq_iff_eq.mp parked]
      rfl
    · have has := woken.2
      simp only [Mask.has_and, Bool.and_eq_true] at has
      exact has.2
  · exact ⟨rfl, rfl, .inl rfl⟩

theorem Group.outDone_only (g : Group) (id : Nat) (m : Mask) : ∃ lp, g.outDone id m = { g with
    lp := lp, outs := (g.outs.map fun o => if o.id = id then { o with lanes := o.lanes &&& ~~~m } else o).filter (·.lanes != 0) } :=
  ⟨_, rfl⟩

/-! ## A load part of whose lanes are answered -/

/-- The group of a load of result `o`, once some of its lanes have been given their own bytes. -/
structure Group.Given (g₀ : Group) (o : Out) (n : Nat) (sx : Bool) (done : List Nat) (g : Group) : Prop where
  only : ∀ q ∈ g.outs, q.id = o.id → q = { o with lanes := q.lanes, left := q.left } ∧ (∀ p ∈ q.left, p ∈ o.left) ∧
    ∀ l, l ∉ done → q.lanes.has l = o.lanes.has l
  there : ∀ l, o.lanes.has l = true → l ∉ done → ∃ q ∈ g.outs, q.id = o.id
  regs : g₀.SameBut g (loadDsts n o.dst)
  trap : g₀.SameTrap g
  lanes : g₀.WentOn g 0 0
  sb : g.sb = g₀.sb
  wait : g.wait = g₀.wait
  value : ∀ k : BitVec 8, o.dst = .v k → n ≤ 8 → ∀ j, j < 32 → g.rdV k.toNat j =
    if j ∈ done then loadValue n sx (o.word j 0) else g₀.rdV k.toNat j

section
variable {g₀ g : Group} {o : Out} {n : Nat} {sx : Bool} {done : List Nat}

/-- A lane's answer without bytes: its part is closed. -/
def Group.closeOut (g : Group) (id l : Nat) : Group :=
  { g with outs := lupdAll (fun o => o.id == id) (fun o => { o with left := sset 0 o.left (24 * l + 0) 0 }) g.outs }

theorem Group.Given.close (h : g₀.Given o n sx done g) (l : Nat) : g₀.Given o n sx done (g.closeOut o.id l) where
  only q hq id := by
    obtain ⟨r, hr, rfl⟩ := List.mem_map.mp hq
    split at id
    · next mine =>
      obtain ⟨e, left, lanes⟩ := h.only r hr (beq_iff_eq.mp mine)
      rw [if_pos mine]
      refine ⟨(congrArg (fun q : Out => { q with left := sset 0 q.left (24 * l + 0) 0 }) e).trans ?_, fun p hp => ?_, lanes⟩
      · rw [e]
      · have hp : p ∈ sset 0 r.left (24 * l + 0) 0 := hp
        exact left p ((mem_sset hp).resolve_left fun e => e.2 rfl)
    · next other => exact absurd (beq_iff_eq.mpr id) other
  there k lane open_ := by
    obtain ⟨q, hq, id⟩ := h.there k lane open_
    refine ⟨_, List.mem_map_of_mem hq, ?_⟩
    split
    · exact id
    · exact id
  regs := ⟨h.regs.vregs, h.regs.gregs, h.regs.preds, h.regs.fsr, h.regs.fcr⟩
  trap := h.trap
  lanes := ⟨h.lanes.pc, h.lanes.depth, h.lanes.gone, h.lanes.remain⟩
  sb := h.sb
  wait := h.wait
  value := h.value

/-- A lane is given its own bytes. -/
theorem Group.Given.give (h : g₀.Given o n sx done g) (kind : o.kind = .load n sx) {q : Out} (hq : q ∈ g.outs) (id : q.id = o.id)
    {l : Nat} (hl : l < 32) : g₀.Given o n sx (l :: done) ((g.wrOut q l).outDone o.id (Mask.one l)) := by
  obtain ⟨e, -, -⟩ := h.only q hq id
  have kind' : q.kind = .load n sx := by rw [e]; exact kind
  have dst : q.dst = o.dst := by rw [e]
  have word (j : Nat) : q.word j 0 = o.word j 0 := by rw [e]; rfl
  have regs := Group.SameBut.wrOut g kind' l
  rw [dst] at regs
  have value (k : BitVec 8) (hk : o.dst = .v k) (small : n ≤ 8) := fun j hj =>
    Group.rdV_wrOut g kind' l (dst.trans hk) small hl (j := j) hj
  obtain ⟨_, _, _, _, _, wrote⟩ := Group.wrOut_only g kind' l
  have stands := (g.wrOut q l).outDone_stands o.id (Mask.one l)
  obtain ⟨lp, ended⟩ := (g.wrOut q l).outDone_only o.id (Mask.one l)
  rw [ended] at stands ⊢
  constructor
  case only =>
    intro r hr rid
    rw [wrote] at hr
    obtain ⟨r', hr', rfl⟩ := List.mem_map.mp (List.mem_filter.mp hr).1
    split at rid
    · next mine =>
      obtain ⟨e, left, lanes⟩ := h.only r' hr' mine
      rw [if_pos mine]
      refine ⟨(congrArg (fun q : Out => { q with lanes := q.lanes &&& ~~~Mask.one l }) e).trans ?_, left, fun j hj => ?_⟩
      · rw [e]
      · obtain ⟨other, open_⟩ := not_or.mp (fun h => hj (List.mem_cons.mpr h))
        rw [Mask.has_and, lanes j open_]
        by_cases hj : j < 32
        · rw [Mask.has_not _ hj, Mask.has_one hl]
          simp [Ne.symm other]
        · have beyond : o.lanes.has j = false := Bool.eq_false_iff.mpr fun h => hj (Mask.lt_of_has h)
          rw [beyond]
          rfl
    · next other => exact absurd rid other
  case there =>
    intro j lane open_
    obtain ⟨other, open_⟩ := not_or.mp (fun h => open_ (List.mem_cons.mpr h))
    obtain ⟨r, hr, rid⟩ := h.there j lane open_
    obtain ⟨-, -, lanes⟩ := h.only r hr rid
    refine ⟨{ r with lanes := r.lanes &&& ~~~Mask.one l }, List.mem_filter.mpr ⟨List.mem_map.mpr ⟨r, ?_, if_pos rid⟩, ?_⟩, rid⟩
    · rw [wrote]
      exact hr
    · have still : (r.lanes &&& ~~~Mask.one l).has j = true := by
        rw [Mask.has_and, lanes j open_, lane, Mask.has_not _ (Mask.lt_of_has lane), Mask.has_one hl]
        simp [Ne.symm other]
      refine bne_iff_ne.mpr fun zero => ?_
      have zero : r.lanes &&& ~~~Mask.one l = 0 := zero
      rw [zero] at still
      simp [Mask.has] at still
  case regs =>
    have both := h.regs.trans regs
    exact ⟨both.vregs, both.gregs, both.preds, both.fsr, both.fcr⟩
  case trap =>
    have trap := h.trap
    rw [wrote]
    exact trap
  case lanes =>
    refine h.lanes.after (b := g) ?_
    rw [wrote] at stands ⊢
    exact ⟨stands.pc, stands.depth, stands.gone, stands.remain⟩
  case sb =>
    rw [wrote]
    exact h.sb
  case wait =>
    rw [wrote]
    exact h.wait
  case value =>
    intro k hk small j hj
    refine (value k hk small j hj).trans ?_
    rw [word, h.value k hk small j hj]
    by_cases e : j = l
    · rw [if_pos e, if_pos (e ▸ List.mem_cons_self), e]
    · rw [if_neg e]
      exact if_congr (by simp [e]) rfl rfl

/-- Causes that wait for the group's next issue are none of it. -/
theorem Group.Given.fails (h : g₀.Given o n sx done g) (async : List Async) (fails : List Fail) :
    g₀.Given o n sx done { g with async := async, fails := fails } where
  only := h.only
  there := h.there
  regs := ⟨h.regs.vregs, h.regs.gregs, h.regs.preds, h.regs.fsr, h.regs.fcr⟩
  trap := h.trap
  lanes := ⟨h.lanes.pc, h.lanes.depth, h.lanes.gone, h.lanes.remain⟩
  sb := h.sb
  wait := h.wait
  value := h.value

end

/-! ## The same in the state -/

section
variable {s u : State} {x : Ctx} {g : Group}

theorem Loading.failDone (m : Loading s u x g) (id : Nat) : ∃ async fails,
    Loading s (u.failDone x.iss.who id) x { g with async := async, fails := fails } := by
  unfold State.failDone
  rw [m.group]
  dsimp only
  split
  · exact ⟨g.async, g.fails, m⟩
  · have added (mine : List Fail) : ∀ (cs : List Nat) {u : State} {async : List Async} {fails : List Fail},
        Loading s u x { g with async := async, fails := fails } → ∃ async',
          Loading s (cs.foldl (fun s c => match mine.find? fun f => f.cause == c with
            | some f => s.addAsync x.iss.who c f.addr f.info
            | none => s) u) x { g with async := async', fails := fails } := by
      intro cs
      induction cs with
      | nil => exact fun m => ⟨_, m⟩
      | cons c cs ih =>
        intro u async fails m
        rw [List.foldl_cons]
        split
        · exact ih (m.updGroup _)
        · exact ih m
    obtain ⟨async, done⟩ := added _ _ (m.updGroup fun g => { g with fails := g.fails.filter fun f => f.id != id })
    exact ⟨async, _, done⟩

theorem Loading.trapIfClear (m : Loading s u x g) (calm : ∀ r, g.wait ≠ .trap r) : u.trapIfClear x.iss.who = u := by
  obtain ⟨gs, hc⟩ := m.crew
  unfold State.trapIfClear
  rw [hc, m.group]
  dsimp only
  split
  · next r trap => exact absurd trap (calm r)
  · rfl

/-- A lane none of whose parts is open is given its own bytes. -/
theorem Loading.outBytes {g₀ : Group} {o : Out} {n : Nat} {sx : Bool} {done : List Nat} (m : Loading s u x g)
    (given : g₀.Given o n sx done g) (kind : o.kind = .load n sx) (cancel : o.cancel = 0) (calm : ∀ r, g₀.wait ≠ .trap r) {l : Nat}
    (lane : o.lanes.has l = true) (new : l ∉ done) (closed : ∀ p ∈ o.left, ¬(24 * l ≤ p.1 ∧ p.1 < 24 * l + 24)) :
    ∃ g', Loading s (u.outBytes x.iss.who o.id l 0 []) x g' ∧ g₀.Given o n sx (l :: done) g' := by
  have m := m.updGroup (Group.closeOut · o.id l)
  have given := given.close l
  obtain ⟨r, hr, rid⟩ := given.there l lane new
  cases found : (g.closeOut o.id l).outs.find? fun q => q.id == o.id with
  | none =>
    have none := List.find?_eq_none.mp found r hr
    exact absurd (beq_iff_eq.mpr rid) none
  | some q =>
    have hq := List.mem_of_find?_eq_some found
    have qid : q.id = o.id := beq_iff_eq.mp (List.find?_some (p := fun q : Out => q.id == o.id) found)
    obtain ⟨e, left, lanes⟩ := given.only q hq qid
    have out : (u.updGroup x.iss.who (Group.closeOut · o.id l)).out? x.iss.who o.id = some q := by
      rw [State.out?, m.group]
      exact found
    have open_ : q.open l = false := List.any_eq_false.mpr fun p hp => by simpa using closed p (left p hp)
    have wrote := given.give kind hq qid (Mask.lt_of_has lane)
    have whole : q.cancel.has l = false := by
      rw [e]
      change o.cancel.has l = false
      rw [cancel]
      simp [Mask.has]
    obtain ⟨async, fails, failed⟩ := (m.updGroup fun g => (g.wrOut q l).outDone o.id (Mask.one l)).failDone o.id
    refine ⟨_, ?_, wrote.fails async fails⟩
    change Loading s ((u.updGroup x.iss.who (Group.closeOut · o.id l)).outEnd x.iss.who o.id l) x _
    unfold State.outEnd
    rw [out]
    dsimp only
    simp only [open_, lanes l new, lane, whole, Bool.not_true, Bool.or_self, Bool.false_eq_true, if_false]
    rw [failed.trapIfClear fun r => ?_]
    · exact failed
    · exact (wrote.fails async fails).wait ▸ calm r

/-- Lanes none of whose parts is open are given their own bytes, one after the other. -/
theorem Loading.foldl_outBytes {g₀ : Group} {o : Out} {n : Nat} {sx : Bool} (kind : o.kind = .load n sx) (cancel : o.cancel = 0)
    (calm : ∀ r, g₀.wait ≠ .trap r) (as : List Access) (once : (as.map (·.lane)).Nodup)
    (closed : ∀ a ∈ as, o.lanes.has a.lane = true ∧ ∀ p ∈ o.left, ¬(24 * a.lane ≤ p.1 ∧ p.1 < 24 * a.lane + 24)) :
    ∀ {u : State} {g : Group} {done : List Nat}, Loading s u x g → g₀.Given o n sx done g → (∀ a ∈ as, a.lane ∉ done) →
      ∃ g' done', Loading s (as.foldl (fun u a => u.outBytes x.iss.who o.id a.lane 0 []) u) x g' ∧ g₀.Given o n sx done' g' ∧
        ∀ l, l ∈ done' ↔ l ∈ done ∨ ∃ a ∈ as, a.lane = l := by
  induction as with
  | nil => exact fun m given _ => ⟨_, _, m, given, fun l => by simp⟩
  | cons a as ih =>
    intro u g done m given new
    obtain ⟨other, once⟩ := List.nodup_cons.mp once
    obtain ⟨lane, shut⟩ := closed a List.mem_cons_self
    obtain ⟨g₁, m, given⟩ := m.outBytes given kind cancel calm lane (new a List.mem_cons_self) shut
    obtain ⟨g', done', m, given, lanes⟩ := ih once (fun b hb => closed b (List.mem_cons_of_mem _ hb)) m given fun b hb => by
      refine fun h => (List.mem_cons.mp h).elim (fun e => other ?_) (new b (List.mem_cons_of_mem _ hb))
      exact List.mem_map.mpr ⟨b, hb, e⟩
    refine ⟨g', done', m, given, fun l => (lanes l).trans ?_⟩
    simp only [List.mem_cons, exists_eq_or_imp, eq_comm (a := l)]
    tauto

end

end Sys2Proof.Machine
end

section
/-! PROPERTY. LDG and LDC complete with their effect and frame (09 R216 to R222, 13 R331, R333). -/

namespace Sys2Proof.Machine

/-! ## The value of a lane's own bytes -/

/-- The value of a load is of its low bytes. -/
theorem loadValue_low {n : Nat} {sx : Bool} {v v' : Word} (h : v.toNat % 2 ^ (8 * n) = v'.toNat % 2 ^ (8 * n)) :
    loadValue n sx v = loadValue n sx v' := by
  rw [loadValue, loadValue, h]

theorem loadValue_append {n : Nat} (small : n ≤ 8) {sx : Bool} {l k : List Byte} (len : l.length = n) :
    loadValue n sx (BitVec.ofNat 64 (leNat (l ++ k))) = loadValue n sx (BitVec.ofNat 64 (leNat l)) := by
  have low := leNat_append_mod l k
  rw [len, show 256 ^ n = 2 ^ (8 * n) from (Nat.pow_mul 2 8 n).symm] at low
  have fits : 2 ^ (8 * n) ∣ 2 ^ 64 := Nat.pow_dvd_pow 2 (by omega)
  refine loadValue_low ?_
  rw [BitVec.toNat_ofNat, BitVec.toNat_ofNat, Nat.mod_mod_of_dvd _ fits, Nat.mod_mod_of_dvd _ fits, low]

section
variable {s : State} {x : Ctx} {id n : Nat} {sx : Bool} {d : Opnd} {as : List Access}

/-- The value of a lane all of whose bytes are its own. -/
theorem State.loadOut_value (one : OneEach as n) {a : Access} (ha : a ∈ as) (small : n ≤ 8)
    (own : ∀ k, k < n → (x.g.forward (a.va + k)).isSome = true) :
    loadValue n sx ((s.loadOut x id n sx d as).word a.lane 0) =
      loadValue n sx (BitVec.ofNat 64 (leNat ((List.range n).map fun k => (x.g.forward (a.va + k)).getD 0))) := by
  have bytes : Memory.read (s.loadOut x id n sx d as).got (24 * a.lane + 0) 8 =
      ((List.range n).map fun k => (x.g.forward (a.va + k)).getD 0) ++
        (List.range (8 - n)).map fun k => Memory.get (s.loadOut x id n sx d as).got (24 * a.lane + (n + k)) := by
    have cut : List.range 8 = List.range n ++ (List.range (8 - n)).map (n + ·) := by
      rw [← List.range_add, Nat.add_sub_cancel' small]
    have read : Memory.read (s.loadOut x id n sx d as).got (24 * a.lane + 0) 8 =
      (List.range 8).map fun k => Memory.get (s.loadOut x id n sx d as).got (24 * a.lane + k) := rfl
    rw [read, cut, List.map_append, List.map_map]
    refine congrArg (· ++ _) (List.map_congr_left fun k hk => ?_)
    have hk := List.mem_range.mp hk
    obtain ⟨b, hb⟩ := Option.isSome_iff_exists.mp (own k hk)
    rw [hb]
    exact (State.loadOut_own one ha hk hb).1
  rw [Out.word, bytes]
  exact loadValue_append small (by simp)

end

/-! ## A load some of whose bytes stand in its group's own stores -/

section
variable {s₀ s : State} {x : Ctx} {h : Hdr} {cp : Cp} {ldc sx : Bool} {n : Nat} {d : Opnd} {as : List Access} {sc : Scope}

/-- A lane of the load is given its own bytes where it lacks none. -/
theorem State.mem_loadGiven (one : OneEach as n) {a : Access} :
    a ∈ s.loadGiven x n as ↔ a ∈ as ∧ ∀ k, k < n → (x.g.forward (a.va + k)).isSome = true := by
  refine List.mem_filter.trans (and_congr_right fun ha => ?_)
  rw [Bool.not_eq_true', ← Bool.not_eq_true, State.loadParts_any one ha]
  push Not
  exact forall₂_congr fun k _ => Option.isSome_iff_ne_none.symm

/-- The group of a load before a lane is given anything. -/
theorem Group.Given.start (g : Group) (o : Out) (n : Nat) (sx : Bool) (later : List Instr) (fresh : ∀ q ∈ g.outs, q.id ≠ o.id) :
    g.Given o n sx [] ((g.addOut o).keepBack later) where
  only q hq id := by
    rcases List.mem_append.mp hq with old | new
    · exact absurd id (fresh q old)
    · obtain rfl := List.mem_singleton.mp new
      exact ⟨rfl, fun _ hp => hp, fun _ _ => rfl⟩
  there _ _ _ := ⟨o, List.mem_append_right _ (List.mem_singleton_self o), rfl⟩
  regs := ⟨fun _ _ _ _ => rfl, fun _ _ => rfl, fun _ _ => rfl, rfl, rfl⟩
  trap := ⟨rfl, rfl, rfl, rfl, rfl, rfl, rfl, rfl, rfl, rfl, rfl, rfl, rfl⟩
  lanes := .still fun _ => ⟨rfl, rfl, .inl rfl⟩
  sb := rfl
  wait := rfl
  value _ _ _ _ _ := (if_neg List.not_mem_nil).symm

theorem Loading.gives (m : Loading s₀ s x x.g) (one : OneEach as n) (active : ∀ a ∈ as, x.act.has a.lane = true)
    {far acq : Bool} (near : far = false) (plain : acq = false) (fresh : ∀ o ∈ x.g.outs, o.id ≠ s.fresh)
    (calm : ∀ r, x.g.wait ≠ .trap r) :
    let r := s.loadLanes x h cp ldc sx acq n d as
    let t := r.2.loadEnd x h r.1 far acq sc
    ∃ g', Loading s₀ t x g' ∧ x.g.SameBut g' (loadDsts n d) ∧ x.g.SameTrap g' ∧ x.g.WentOn g' x.iss.set x.iss.len ∧
      g'.sb = x.g.sb ∧ g'.wait = .none ∧
      (∀ k : BitVec 8, d = .v k → n ≤ 8 → ∀ l, l < 32 →
        ((∀ a ∈ as, a.lane = l → ∃ k, k < n ∧ x.g.forward (a.va + k) = none) → g'.rdV k.toNat l = x.g.rdV k.toNat l) ∧
        ∀ a ∈ as, a.lane = l → (∀ k, k < n → (x.g.forward (a.va + k)).isSome = true) → g'.rdV k.toNat l =
          loadValue n sx (BitVec.ofNat 64 (leNat ((List.range n).map fun k => (x.g.forward (a.va + k)).getD 0)))) ∧
      ∀ a ∈ as, (∃ k, k < n ∧ x.g.forward (a.va + k) = none) →
        (∃ o ∈ g'.outs, o.id = s.fresh ∧ o.lanes.has a.lane = true ∧ o.dst = d ∧ o.kind = .load n sx ∧
          ∀ k b, k < n → x.g.forward (a.va + k) = some b → Memory.get o.got (24 * a.lane + k) = b ∧ (24 * a.lane + k) ∈ o.own) ∧
        ∀ p ∈ s.parts x a, (∃ k, k < p.2 ∧ x.g.forward (p.1 + k) = none) → s.PartAsked x x.c.asid x.c.lclk ldc acq t g' a p := by
  subst near plain
  obtain ⟨later, sent, asked⟩ := m.sent (h := h) (cp := cp) (ldc := ldc) (sx := sx) (inOrder := false) (n := n) (d := d) (as := as)
  rw [State.loadLanes_eq]
  generalize s.loadSent x h cp ldc sx false n d as = v at *
  have closed : ∀ a ∈ s.loadGiven x n as, x.act.has a.lane = true ∧
      ∀ p ∈ (s.loadOut x s.fresh n sx d as).left, ¬(24 * a.lane ≤ p.1 ∧ p.1 < 24 * a.lane + 24) := by
    intro a ha
    obtain ⟨ha, none⟩ := List.mem_filter.mp ha
    refine ⟨active a ha, fun p hp at_ => ?_⟩
    obtain ⟨q, hq, lo, hi⟩ := State.loadOut_left one hp
    have same : q.1.lane = a.lane := by omega
    simp only [Bool.not_eq_true', List.any_eq_false, beq_iff_eq] at none
    exact none q hq same
  have once : ((s.loadGiven x n as).map (·.lane)).Nodup := one.lanes.sublist (List.filter_sublist.map _)
  obtain ⟨g₁, done, given', given, lanes⟩ := Loading.foldl_outBytes (o := s.loadOut x s.fresh n sx d as) (n := n) (sx := sx) rfl rfl calm
    (s.loadGiven x n as) once closed sent.here (Group.Given.start x.g _ n sx later fresh) fun _ _ => List.not_mem_nil
  obtain ⟨g₂, g', hg₂, ended, went, rest, -, wait, keeps⟩ := (sent.trans given').ends h s.fresh false false sc
  obtain rfl : g₁ = g₂ := hg₂.symm
  have e : g' = _ := rest
  have sb : g'.sb = g₁.sb := (congrArg Group.sb e :)
  have outs : g'.outs = g₁.outs := (congrArg Group.outs e :)
  have vregs : g'.v = g₁.v := (congrArg Group.v e :)
  have isGiven {a : Access} (ha : a ∈ as) : a.lane ∈ done ↔ ∀ k, k < n → (x.g.forward (a.va + k)).isSome = true := by
    refine (lanes a.lane).trans ⟨fun h => ?_, fun own => .inr ⟨a, (State.mem_loadGiven one).mpr ⟨ha, own⟩, rfl⟩⟩
    obtain ⟨b, hb, same⟩ := h.resolve_left List.not_mem_nil
    obtain ⟨hb, own⟩ := (State.mem_loadGiven one).mp hb
    exact one.one hb ha same ▸ own
  have value (k : BitVec 8) (hk : d = .v k) (small : n ≤ 8) (l : Nat) (hl : l < 32) : g'.rdV k.toNat l =
      if l ∈ done then loadValue n sx ((s.loadOut x s.fresh n sx d as).word l 0) else x.g.rdV k.toNat l := by
    rw [Group.rdV, vregs]
    exact given.value k hk small l hl
  refine ⟨g', ended, given.regs.congr rest.sameRegs, ?_, given.lanes.after went, sb.trans given.sb, wait,
    fun k hk small l hl => ⟨fun lacks => ?_, fun a ha hal own => ?_⟩, fun a ha lacks => ⟨?_, fun p hp open_ => ?_⟩⟩
  · rw [e]
    exact given.trap
  · rw [value k hk small l hl, if_neg]
    intro there
    obtain ⟨a, ha, rfl⟩ := ((lanes l).mp there).resolve_left List.not_mem_nil
    obtain ⟨ha, own⟩ := (State.mem_loadGiven one).mp ha
    obtain ⟨k, hk, none⟩ := lacks a ha rfl
    exact absurd (own k hk) (by rw [none]; exact Bool.false_ne_true)
  · subst hal
    rw [value k hk small a.lane hl, if_pos ((isGiven ha).mpr own)]
    exact State.loadOut_value one ha small own
  · have open_ : a.lane ∉ done := fun there => by
      obtain ⟨k, hk, none⟩ := lacks
      exact absurd ((isGiven ha).mp there k hk) (by rw [none]; exact Bool.false_ne_true)
    obtain ⟨q, hq, id⟩ := given.there a.lane (active a ha) open_
    obtain ⟨only, -, has⟩ := given.only q hq id
    refine ⟨q, outs ▸ hq, id, (has a.lane open_).trans (active a ha), by rw [only]; rfl, by rw [only]; rfl, fun k b hk hb => ?_⟩
    rw [only]
    exact State.loadOut_own (s := s) (id := s.fresh) (sx := sx) (d := d) one ha hk hb
  · refine .ofSent (h := h) (cp := cp) (.inl ?_)
    have sent := (asked (a, p) ((State.mem_loadParts one).mpr ⟨ha, hp, open_⟩)).resolve_right fun h => Bool.false_ne_true h.1
    exact sent.mono fun e he => keeps e (given'.frame.flying he)

end

/-! ## LDG and LDC -/

theorem State.awaits_crews {s : State} {cs : List Crew} {w : Who} (same : ({ s with crews := cs } : State).group? w = s.group? w)
    (groups : cs.map (·.groups) = s.crews.map (·.groups)) (lane asid va n : Nat) :
    ({ s with crews := cs } : State).awaits w lane asid va n = s.awaits w lane asid va n := by
  have laters : ({ s with crews := cs } : State).laters = s.laters := by
    have e := congrArg (fun l : List (List Group) => (l.map fun gs => (gs.map (·.later)).flatten).flatten) groups
    rwa [List.map_map, List.map_map] at e
  unfold State.awaits State.heldAtomic
  rw [same, laters]
  rfl

section
variable {s : State} {x : Ctx} {h : Hdr} {w : MW} {sx ldc : Bool} {ord : Ord} {sc : Scope} {cp : Cp} {d : Opnd} {ad : Addr}

/-- A load that meets nothing and waits for nothing: its fence sets the clocks, then its parts leave. -/
theorem State.loadWord_go (hx : s.ctx? h = some x) (holds : x.holdsRun d (valueRegs w.bytes) ((0, d) :: addrFields ad) = true)
    (act : x.act ≠ 0) :
    let as := x.accesses ad w.bytes .load
    let so := s.anySo x as
    let far := s.anyFar x as
    let acq := so || (ord == .acq && s.ordActs x as)
    globalReady s x true false false true as = true → ((so || far) = true → x.g.hasHeld = false) →
    (so = true → x.g.fenceWaits .dev = false) →
    (ldc = true ∨ as.all (fun a => !s.awaits x.iss.who a.lane x.c.asid a.va a.n) = true) →
    ∃ cs, Loading s { s with crews := cs } (x.fenced s so) x.g ∧ s.loadWord h w.bytes sx ldc ord sc cp d ad =
      let r := ({ s with crews := cs } : State).loadLanes (x.fenced s so) h cp ldc sx acq w.bytes d as
      r.2.loadEnd (x.fenced s so) h r.1 far acq (if so then Scope.wider .dev (if ord == .acq then sc else .dev) else sc) := by
  intro as so far acq ready held free calm
  obtain ⟨_, hc, hg, _, _⟩ := State.ctx?_some hx
  obtain ⟨cs, run, m, groups⟩ := State.fenceGate_load hc hg free fun s x =>
    if !ldc && as.any (fun a => s.awaits x.iss.who a.lane x.c.asid a.va a.n) then s.waitRetry x
    else
      let r := s.loadLanes x h cp ldc sx acq w.bytes d as
      r.2.loadEnd x h r.1 far acq (if so then Scope.wider .dev (if ord == .acq then sc else .dev) else sc)
  refine ⟨cs, m, ((State.loadWord_gates hx holds ready held).trans (if_neg act)).trans (run.trans (if_neg fun waits => ?_))⟩
  obtain ⟨other, waits⟩ := (Bool.and_eq_true _ _).mp waits
  obtain ⟨a, ha, waits⟩ := List.any_eq_true.mp waits
  have same : ({ s with crews := cs } : State).group? x.iss.who = s.group? x.iss.who := m.group.trans hg.symm
  have waits : s.awaits x.iss.who a.lane x.c.asid a.va a.n = true := (State.awaits_crews same groups ..).symm.trans waits
  rcases calm with ldc' | calm
  · rw [ldc'] at other
    contradiction
  · have free := List.all_eq_true.mp calm a ha
    rw [waits] at free
    contradiction

/-- Without an active lane a load only goes on. -/
theorem State.loadWord_idle (hx : s.ctx? h = some x) (holds : x.holdsRun d (valueRegs w.bytes) ((0, d) :: addrFields ad) = true)
    (idle : x.act = 0) : s.loadWord h w.bytes sx ldc ord sc cp d ad = s.retire x h := by
  have none : x.accesses ad w.bytes .load = [] := by rw [Ctx.accesses, idle, Mask.lanes_zero]; rfl
  refine (State.loadWord_gates hx holds ?_ ?_).trans (if_pos idle)
  · rw [none]
    rfl
  · rw [none]
    exact nofun

end

/-- Settles O26: a load asks for the parts that its group's own stores do not hold (`Loading.asks`), and a lane that lacks no byte is
written at once (`Loading.gives`). -/
theorem loadWords : Obligations.LoadWords := by
  unfold Obligations.LoadWords
  intro i h w sx ldc ord sc cp d ad word s x hx holds
  have run : exec i s = .next (s.loadWord h w.bytes sx ldc ord sc cp d ad) := by
    obtain ⟨rfl, rfl⟩ | ⟨a, ofs, rfl, rfl, rfl, rfl, rfl⟩ := word
    · rfl
    · rfl
  have one := x.accesses_one ad w .load
  refine ⟨fun idle => ⟨_, run.trans (congrArg _ (State.loadWord_idle hx holds idle)), State.retire_passed hx⟩, ?_⟩
  intro as so far acq clk own asked act ready held free calm
  obtain ⟨cs, m, go⟩ := State.loadWord_go hx holds act ready held free calm
  rw [run, go]
  refine ⟨fun none => ?_, fun weak near plain fresh awake => ?_⟩
  · have lacks : ∀ a ∈ as, ∀ k, k < w.bytes → x.g.forward (a.va + k) = .none := by
      intro a ha k hk
      obtain ⟨active, e⟩ := Ctx.mem_accesses.mp ha
      rw [e]
      exact none a.lane k active hk
    obtain ⟨g', done, regs, trap, lanes, hints, sb, recorded, kept, wait, outs, sent⟩ := m.asks (h := h) (cp := cp) (ldc := ldc)
      (sx := sx) (far := far) (acq := acq) (d := d) (sc := if so then Scope.wider .dev (if ord == .acq then sc else .dev) else sc)
      act one lacks
    obtain ⟨gs, crew⟩ := done.crew
    exact ⟨_, g', _, _, rfl, done.frame, done.cores, done.group, crew, rfl, regs, trap, lanes, hints, sb, recorded, kept, wait, outs,
      rfl, rfl, rfl, rfl, sent⟩
  · have active : ∀ a ∈ as, x.act.has a.lane = true := fun a ha => (Ctx.mem_accesses.mp ha).1
    have own_at {a : Access} (ha : a ∈ as) (k : Nat) : x.g.forward (a.va + k) = own a.lane k := by
      rw [(Ctx.mem_accesses.mp ha).2]
    obtain ⟨g', done, regs, trap, lanes, sb, wait, value, missing⟩ := m.gives (h := h) (cp := cp) (ldc := ldc) (sx := sx) (d := d)
      (sc := if so then Scope.wider .dev (if ord == .acq then sc else .dev) else sc) one active near plain fresh awake
    refine ⟨_, g', rfl, done.frame, done.cores, done.group, regs, trap, lanes, sb, wait, fun k l hd small hl => ?_, fun a ha lacks => ?_⟩
    · obtain ⟨other, given⟩ := value k hd small l hl
      split
      · next all =>
        obtain ⟨has, all⟩ := (Bool.and_eq_true _ _).mp all
        have mine : ({ lane := l, va := x.addr ad l, n := w.bytes, acc := .load } : Access) ∈ as := Ctx.mem_accesses.mpr ⟨has, rfl⟩
        have whole : ∀ k, k < w.bytes → (x.g.forward (x.addr ad l + k)).isSome = true := fun k hk =>
          List.all_eq_true.mp all k (List.mem_range.mpr hk)
        exact (given _ mine rfl whole :)
      · next some =>
        refine other fun a ha hal => ?_
        by_contra none
        push Not at none
        refine some ((Bool.and_eq_true _ _).mpr ⟨hal ▸ active a ha, List.all_eq_true.mpr fun k hk => ?_⟩)
        rw [← hal, ← own_at ha]
        exact Option.isSome_iff_ne_none.mpr (none k (List.mem_range.mp hk))
    · obtain ⟨k, hk, none⟩ := lacks
      obtain ⟨⟨o, ho, id, has, dst, kind, own'⟩, sent⟩ := missing a ha ⟨k, hk, (own_at ha k).trans none⟩
      exact ⟨⟨o, ho, id, has, dst, kind, fun k b hk hb => own' k b hk ((own_at ha k).trans hb)⟩, sent⟩

end Sys2Proof.Machine
end

section
/-! SUPPORT. The elements of a lane (04 R79, R80): packing and reading back, wrapping and clamping, the flags of a lane. -/

namespace Sys2Proof

/-! ## Packing elements -/

theorem ofElems_lt (w : Nat) : ∀ es : List Nat, ofElems w es < 2 ^ (w * es.length)
  | [] => Nat.two_pow_pos _
  | e :: es => by
    have here : e % 2 ^ w < 2 ^ w := Nat.mod_lt _ (Nat.two_pow_pos w)
    calc ofElems w (e :: es) < 2 ^ w * (ofElems w es + 1) := by rw [ofElems, Nat.mul_add]; omega
      _ ≤ 2 ^ w * 2 ^ (w * es.length) := Nat.mul_le_mul_left _ (ofElems_lt w es)
      _ = 2 ^ (w * (e :: es).length) := by rw [List.length_cons, Nat.mul_succ, Nat.add_comm, Nat.pow_add]

theorem ofElems_shiftRight (w : Nat) : ∀ (es : List Nat) (i : Nat) (hi : i < es.length),
    (ofElems w es >>> (w * i)) % 2 ^ w = es[i] % 2 ^ w
  | e :: es, 0, _ => by
    rw [Nat.mul_zero, Nat.shiftRight_zero, ofElems, Nat.add_mul_mod_self_left, Nat.mod_mod]
    rfl
  | e :: es, i + 1, hi => by
    have rest : ofElems w (e :: es) >>> w = ofElems w es := by
      rw [Nat.shiftRight_eq_div_pow, ofElems, Nat.add_mul_div_left _ _ (Nat.two_pow_pos w),
        Nat.div_eq_of_lt (Nat.mod_lt _ (Nat.two_pow_pos w)), Nat.zero_add]
    rw [Nat.mul_succ, Nat.add_comm, Nat.shiftRight_add, rest]
    exact ofElems_shiftRight w es i (Nat.lt_of_succ_lt_succ hi)

/-- Elements that fill no more than a lane read back as they were packed. -/
theorem elemN_packElems {w i : Nat} {es : List Nat} (fits : w * es.length ≤ 64) (hi : i < es.length) :
    elemN (packElems w es) w i = es[i] % 2 ^ w := by
  have small : ofElems w es < 2 ^ 64 := (ofElems_lt w es).trans_le (Nat.pow_le_pow_right (by decide) fits)
  rw [elemN, packElems, BitVec.toNat_ofNat, Nat.mod_eq_of_lt small, ofElems_shiftRight w es i hi]

theorem elemN_perElem {w i : Nat} (f : Nat → Nat × Fl) (hi : i < 64 / w) : elemN (perElem w f).d w i = (f i).1 % 2 ^ w := by
  refine (elemN_packElems ?_ ?_).trans ?_
  · simpa using Nat.mul_div_le 64 w
  · simpa using hi
  · simp

/-! ## The flags of a lane -/

theorem flOr_cons (a : Fl) (l : List Fl) : flOr (a :: l) = a ||| flOr l := by
  rw [flOr, List.foldl_cons, BitVec.or_comm 0, List.foldl_assoc]
  rfl

/-- Elements that can raise one flag raise it together where one of them does. -/
theorem flOr_map_ite (a : Fl) (p : Nat → Bool) (l : List Nat) :
    flOr (l.map fun i => if p i then a else 0) = if l.any p then a else 0 := by
  induction l with
  | nil => rfl
  | cons i l ih =>
    rw [List.map_cons, flOr_cons, ih, List.any_cons]
    cases p i with
    | false => simp
    | true => cases l.any p <;> simp

/-! ## Wrapping and clamping -/

theorem wrapN_cast (w : Nat) (x : Int) : (wrapN w x : Int) = x % 2 ^ w := by
  have pos : (0 : Int) < 2 ^ w := by positivity
  rw [wrapN, Nat.cast_pow, Nat.cast_ofNat, Int.toNat_of_nonneg (Int.emod_nonneg _ pos.ne')]

theorem wrapN_mod (w : Nat) (x : Int) : wrapN w x % 2 ^ w = wrapN w x := by
  refine Nat.mod_eq_of_lt (Int.ofNat_lt.mp ?_)
  rw [wrapN_cast, Nat.cast_pow]
  exact Int.emod_lt_of_pos x (by positivity)

theorem tmin_le_tmax (w : Nat) (sgn : Bool) : tmin w sgn ≤ tmax w sgn := by
  have half := Nat.two_pow_pos (w - 1)
  have full := Nat.two_pow_pos w
  cases sgn with
  | false => exact Int.le_sub_one_of_lt (Int.ofNat_lt.mpr full)
  | true => exact (Int.neg_nonpos_of_nonneg (Int.natCast_nonneg _)).trans (Int.le_sub_one_of_lt (Int.ofNat_lt.mpr half))

theorem clampI_eq {lo hi : Int} (h : lo ≤ hi) (x : Int) : clampI lo hi x = max lo (min hi x) := by
  unfold clampI
  split
  · omega
  split <;> omega

/-- A value within the limits of its type is read back from its code. -/
theorem toI_wrapN {w : Nat} (hw : 0 < w) {sgn : Bool} {x : Int} (lo : tmin w sgn ≤ x) (hi : x ≤ tmax w sgn) :
    toI w sgn (wrapN w x) = x := by
  have code := wrapN_cast w x
  have whole : (2 : Int) ^ w = 2 * 2 ^ (w - 1) := by rw [← pow_succ', Nat.sub_add_cancel hw]
  have half : (0 : Int) < 2 ^ (w - 1) := by positivity
  cases sgn with
  | false =>
    simp only [tmin, tmax, Bool.false_eq_true, if_false, Nat.cast_pow, Nat.cast_ofNat] at lo hi
    rw [toI, Bool.false_and, if_neg Bool.false_ne_true, code]
    exact Int.emod_eq_of_lt lo (by omega)
  | true =>
    simp only [tmin, tmax, if_true, Nat.cast_pow, Nat.cast_ofNat] at lo hi
    have top : 2 ^ (w - 1) ≤ wrapN w x ↔ (2 : Int) ^ (w - 1) ≤ x % 2 ^ w := by
      rw [← code]
      exact_mod_cast Iff.rfl
    simp only [toI, Bool.true_and, decide_eq_true_eq, top, code, Nat.cast_pow, Nat.cast_ofNat]
    by_cases neg : x < 0
    · have up : x % 2 ^ w = x + 2 ^ w := by
        rw [← Int.add_emod_right]
        exact Int.emod_eq_of_lt (by omega) (by omega)
      rw [up, if_pos (by omega)]
      omega
    · rw [Int.emod_eq_of_lt (by omega) (by omega), if_neg (by omega)]

/-! ## Integer arithmetic (07 R166) -/

/-- The value of an element: wrapped, or clamped to the limits of its type. -/
theorem satWrap_value (w : Nat) (sgn sat : Bool) (x : Int) : (satWrap w sgn sat x).1 =
    wrapN w (if sat then max (tmin w sgn) (min (tmax w sgn) x) else x) := by
  cases sat with
  | false => rfl
  | true =>
    rw [satWrap, Bool.true_and, if_pos rfl, ← clampI_eq (tmin_le_tmax w sgn)]
    split
    · rfl
    · next inside =>
      simp only [Bool.or_eq_true, decide_eq_true_eq, not_or] at inside
      obtain ⟨lo, hi⟩ := inside
      rw [clampI, if_neg lo, if_neg hi]

/-- Is a value beyond the limits of its type? -/
def satOut (w : Nat) (sgn : Bool) (x : Int) : Bool := decide (x < tmin w sgn) || decide (tmax w sgn < x)

theorem satOut_iff {w : Nat} {sgn : Bool} {x : Int} : satOut w sgn x = true ↔ x < tmin w sgn ∨ tmax w sgn < x := by
  simp [satOut]

/-- The flag of an element: SA beyond the limits of its type. -/
theorem satWrap_flag (w : Nat) (sgn sat : Bool) (x : Int) :
    (satWrap w sgn sat x).2 = if sat && satOut w sgn x then Fl.sa else 0 := apply_ite Prod.snd _ _ _

section
variable (w : Nat) (sgn sat : Bool) (f : Int → Int → Int → Int) (a b c : Word)

theorem elemN_intArith {i : Nat} (hi : i < 64 / w) : elemN (intArith w sgn sat f a b c).d w i =
    wrapN w (let y := f (elemI a w sgn i) (elemI b w sgn i) (elemI c w sgn i)
      if sat then max (tmin w sgn) (min (tmax w sgn) y) else y) := by
  rw [intArith, elemN_perElem _ hi, satWrap_value, wrapN_mod]

theorem intArith_fl : (intArith w sgn sat f a b c).fl = if (List.range (64 / w)).any fun i => sat &&
    satOut w sgn (f (elemI a w sgn i) (elemI b w sgn i) (elemI c w sgn i)) then Fl.sa else 0 := by
  rw [← flOr_map_ite]
  exact congrArg flOr (List.map_map.trans (List.map_congr_left fun i _ => satWrap_flag w sgn sat _))

end

theorem EW.bits_pos (w : EW) : 0 < w.bits := by
  cases w <;> decide

end Sys2Proof
end

section
/-! PROPERTY. Integer arithmetic is exact per element, then wrapped or clamped (04 R79, 07 R166). -/

namespace Sys2Proof.Machine

/-- Settles O7: an element wraps or is clamped as `satWrap` has it, and SA is the one flag that an element can raise. -/
theorem integerElements : Obligations.IntegerElements := by
  unfold Obligations.IntegerElements
  intro w sgn f a b c exact
  refine ⟨fun i hi => ?wraps, fun i hi => ?clamps, ?clear, ?flag⟩
  case wraps => exact (congrArg Nat.cast (elemN_intArith w.bits sgn false f a b c hi)).trans (wrapN_cast _ _)
  case clamps =>
    rw [elemI, elemN_intArith w.bits sgn true f a b c hi]
    exact toI_wrapN w.bits_pos (le_max_left _ _) (max_le (tmin_le_tmax _ _) (min_le_left _ _))
  case clear => simp [intArith_fl]
  case flag =>
    have sa : (0 : Fl) ≠ Fl.sa := by decide
    rw [intArith_fl, ite_eq_left_iff]
    simp only [sa, imp_false, not_not, List.any_eq_true, List.mem_range, Bool.true_and, satOut_iff]
    rfl

end Sys2Proof.Machine
end

section
/-! SUPPORT. The handler's entry from an issue (20 R447, R449): what an issue spends before it, and the group after it. -/

namespace Sys2Proof.Machine

/-! ## No stop is armed by an issue (17 R425) -/

theorem State.reg_winCount_ne (s : State) (n : Nat) {o ofs : Nat} (h : o ≠ ofs) : (s.winCount ofs n).reg o = s.reg o :=
  State.reg_setReg_ne h

/-- The lane-cycle record counts in registers of its own. -/
theorem State.reg_lcrCount_stop (s : State) (i : Issue) (g : Group) (core vf : Nat) :
    (s.lcrCount i g core vf).reg 0x900 = s.reg 0x900 := by
  unfold State.lcrCount
  dsimp only
  split
  · rfl
  split
  · exact s.reg_winCount_ne _ (by decide)
  split
  · exact s.reg_winCount_ne _ (by decide)
  · next b hb =>
    have hb : b < 16 := by simpa using List.mem_of_find?_eq_some hb
    rw [State.reg_winCount_ne _ _ (by omega), State.reg_winCount_ne _ _ (by omega), State.reg_winCount_ne _ _ (by omega),
      State.reg_winCount_ne _ _ (by omega)]

theorem State.stopArmed_of_off {s : State} (off : (s.reg 0x900).toNat % 2 = 0) (core part trig : Nat) :
    s.stopArmed core part trig = false := by
  have bit : ((sget 0 s.win 0x900).toNat % 2 == 1) = false :=
    beq_eq_false_iff_ne.mpr fun on => absurd (off.symm.trans on) (by decide)
  simp only [State.stopArmed, bit, Bool.and_false, Bool.false_and]

/-- An issue leaves a stop register that arms nothing as it is. -/
theorem State.reg_spent_stop {s : State} (off : (s.reg 0x900).toNat % 2 = 0) (i : Issue) : (s.spent i).reg 0x900 = s.reg 0x900 := by
  unfold State.spent
  split
  · next g c _ _ =>
    split
    · rfl
    dsimp only
    generalize hu : State.updGroup (s.updCore _ _) i.who _ = u
    obtain ⟨cores, svc, counted⟩ := (u.lcrCount i g c.core c.vf).issueCount_some i c.core c.vf
    have reg : (State.issueCount (u.lcrCount i g c.core c.vf) i c.core c.vf).reg 0x900 = s.reg 0x900 := by
      rw [counted]
      refine (u.reg_lcrCount_stop i g c.core c.vf).trans ?_
      rw [← hu]
      rfl
    split
    · next armed =>
      rw [State.stopArmed_of_off (by rw [← reg] at off; exact off)] at armed
      contradiction
    · exact reg
  · rfl

/-! ## The entry -/

theorem Group.lpOf_enterTrap (g : Group) (trapbase : Word) (t : TrapRec) {l : Nat} (hl : l < 32) :
    (g.enterTrap trapbase t).lpOf l = if (g.lpOf l).st = .absent then g.lpOf l
      else { st := .live, depth := 0, pc := handlerPc trapbase } := by
  have present : l < 32 ∧ (g.lanesIn (· != .absent)).has l = true ↔ ¬(g.lpOf l).st = .absent := by
    simp [g.has_lanesIn, hl]
  exact ((Group.lpOf_mapLp { (g.trapRegs t).exchange with handler := true } _
    (fun _ _ => { st := .live, depth := 0, pc := handlerPc trapbase }) l).trans (if_congr present rfl rfl)).trans (ite_not ..)

/-- The trap LP holds the lanes as they stood, yielded ones as live. -/
theorem Group.trapLp_trapRegs (g : Group) (t : TrapRec) (l : Nat) : sget Lp.none (g.trapRegs t).trapLp l =
    if (g.lpOf l).st == .yielded then { g.lpOf l with st := .live } else g.lpOf l :=
  sget_map_values (d := Lp.none) (fun e => if e.st == .yielded then { e with st := .live } else e) rfl l g.lp

/-- The shadow holds the registers that the handler takes. -/
theorem Group.exchange_shadow (g : Group) : (∀ n l, n < 4 → l < 32 → sget 0 g.exchange.shV (32 * n + l) = g.rdV n l) ∧
    (∀ n, n < 4 → sget 0 g.exchange.shG n = g.rdG n) ∧ ∀ n, n < 4 → sget 0 g.exchange.shP n = g.rdP n := by
  refine ⟨fun n l hn hl => ?_, fun n hn => ?_, fun n hn => ?_⟩
  · exact (sget_filter_key (fun k => decide (k < 128)) _ g.v).trans (if_pos (by simp; omega))
  · exact (sget_filter_key (fun k => decide (k < 4)) n g.g).trans (if_pos (by simpa using hn))
  · rw [Group.rdP, if_neg (by omega)]
    exact (sget_filter_key (fun k => decide (k < 4)) n g.p).trans (if_pos (by simpa using hn))

/-- The entry of R447 leaves the group as `Trapped` says. -/
theorem Group.enterTrap_trapped (g : Group) (trapbase : Word) (t : TrapRec) : Trapped trapbase g (g.enterTrap trapbase t) t where
  cause := rfl
  pc := rfl
  addr := rfl
  lanes := rfl
  info := rfl
  mode := rfl
  lp _ hl := g.lpOf_enterTrap trapbase t hl
  kept l := by
    have held : sget Lp.none (g.enterTrap trapbase t).trapLp l = _ := g.trapLp_trapRegs t l
    rw [held]
    by_cases y : (g.lpOf l).st = .yielded <;> simp [y]
  high := (g.trapRegs t).exchange_high
  low := by
    obtain ⟨lowV, lowG, lowP⟩ := (g.trapRegs t).exchange_low
    obtain ⟨shV, shG, shP⟩ := (g.trapRegs t).exchange_shadow
    exact ⟨fun n l hn hl => ⟨lowV n l hn hl, shV n l hn hl⟩, fun n hn => ⟨lowG n hn, shG n hn⟩,
      fun n hn => ⟨lowP n hn, shP n hn⟩⟩
  status := ⟨rfl, rfl, rfl, rfl⟩
  rest := rfl

/-- The suppressions and the time of the last issue are not the entry's, and the length of RTT.SKIP is not in its registers. -/
theorem Trapped.of_issued {trapbase : Word} {g g' : Group} {t : TrapRec} {suppress : SMap Nat} {n skip : Nat}
    (h : Trapped trapbase { g with suppress := suppress, lastIssue := n } g' { t with skipLen := skip }) : Trapped trapbase g g' t :=
  ⟨h.cause, h.pc, h.addr, h.lanes, h.info, h.mode, h.lp, h.kept, h.high, h.low, h.status, h.rest⟩

/-- The group without the suppressions that its issue ends. -/
theorem Group.unsuppress_only (g : Group) (i : Issue) : ∃ m, g.unsuppress i = { g with suppress := m } := by
  unfold Group.unsuppress
  split
  · exact ⟨_, rfl⟩
  · exact ⟨_, rfl⟩

section
variable {s : State} {x : Ctx}

/-- A trap that is taken at once, in a state in which the issue has spent its cycle. -/
theorem TrapsWith.of_takeTrap {u : State} {t : TrapRec} {suppress : SMap Nat} {n skip : Nat} (hc : s.crew? x.iss.who.crew = some x.c)
    (spends : Spends s u x.iss.who x.c.core x.c.vf)
    (group : u.group? x.iss.who = some { x.g with suppress := suppress, lastIssue := n }) (mode : x.g.handler = false)
    (outs : x.g.outs = []) (off : (u.reg 0x900).toNat % 2 = 0) :
    TrapsWith s (u.takeTrap x.iss.who { t with skipLen := skip }) x t := by
  obtain ⟨gs, crew⟩ := spends.crew _ hc
  rw [State.takeTrap_now crew group mode outs (State.stopArmed_of_off off ..), show u.core x.c.core = _ from spends.counts.only]
  have enters := spends.trans (.updGroup _ x.iss.who (fun g => g.enterTrap (s.core x.c.core).trapbase { t with skipLen := skip }) _ _)
  exact ⟨enters.quiet, _, _, State.group?_updGroup group, State.crew?_updGroup crew, rfl, (Group.enterTrap_trapped ..).of_issued⟩

/-- A trap of the issue in hand is entered at once where nothing holds it up. -/
theorem State.trapIssue_traps {h : Hdr} (hx : s.ctx? h = some x) (ready : trapReady s x = true) (cause : Nat) (lanes : Mask)
    (info addr : Word) : TrapsWith s (s.trapIssue x cause lanes info addr) x
      { cause := cause, lanes := lanes, addr := addr, info := info, pc := x.iss.pc } := by
  obtain ⟨_, hc, hg, _, _⟩ := State.ctx?_some hx
  simp only [trapReady, Bool.and_eq_true, Bool.not_eq_true', List.isEmpty_iff, beq_iff_eq] at ready
  obtain ⟨⟨mode, outs⟩, off⟩ := ready
  let u := s.updGroup x.iss.who fun g => g.unsuppress x.iss
  have spent : Spends u (u.spent x.iss) x.iss.who x.c.core x.c.vf :=
    .spent (c := x.c.updGroup x.iss.who.grp (·.unsuppress x.iss)) (State.crew?_updGroup hc)
  obtain ⟨m, freed⟩ := x.g.unsuppress_only x.iss
  have group : u.group? x.iss.who = some { x.g with suppress := m } := freed ▸ State.group?_updGroup hg
  obtain ⟨n, group⟩ := State.group?_spent group
  have still : ((u.spent x.iss).reg 0x900).toNat % 2 = 0 := by
    rw [State.reg_spent_stop (s := u) off]
    exact off
  exact .of_takeTrap (t := { cause := cause, lanes := lanes, addr := addr, info := info, pc := x.iss.pc }) hc
    ((Spends.updGroup s x.iss.who (·.unsuppress x.iss) _ _).trans spent) group mode outs still

end

end Sys2Proof.Machine
end

section
/-! PROPERTY. What traps a vector word before any effect (05 R126 steps 4 and 5, 04 R97). -/

namespace Sys2Proof.Machine

section
variable {s : State} {x : Ctx}

theorem State.checked_beyond {fs : List (Nat × Opnd)} {super : Bool} {k : Unit → State} {p : Nat × Opnd}
    (past : firstBeyond x.c.shape x.g.handler fs = some p) :
    s.checked x fs super k = s.trapIssue x 0x03 x.iss.set (info03 p) := by
  rw [State.checked, past]

theorem State.checked_rights {fs : List (Nat × Opnd)} {k : Unit → State} (holds : x.holds fs = true)
    (rights : supervisor (s.core x.c.core).trapbase x.c.vf x.g = false) :
    s.checked x fs true k = s.trapIssue x 0x0E x.iss.set (x.iss.hi.setWidth 64) := by
  rw [State.checked, Option.isNone_iff_eq_none.mp holds, rights]
  rfl

/-- Without a pending mismatch the floating-point trap alone is judged. -/
theorem State.residGate_clean {checked : Bool} {f : Nat → Fl} {k : State → State} (clean : (s.core x.c.core).resid = []) :
    s.residGate x checked f k = s.fpGate x x.act f fun _ => k s := by
  unfold State.residGate
  rw [clean]
  cases checked <;> rfl

theorem State.fpGate_enabled {lanes : Mask} {f : Nat → Fl} {k : Unit → State}
    (bad : (Mask.ofFn fun l => lanes.has l && enabledFl x.g.fcr (f l)) ≠ 0) : s.fpGate x lanes f k =
      s.trapIssue x 0x0A (Mask.ofFn fun l => lanes.has l && enabledFl x.g.fcr (f l)) ((lanesFl lanes f).setWidth 64) :=
  if_neg bad

end

/-- Settles O23: each check of a vector word that does not pass is a trap of its issue. -/
theorem wordChecks : Obligations.WordChecks := by
  unfold Obligations.WordChecks
  refine ⟨?beyond, ?rights, ?flags⟩
  case beyond =>
    intro w f s x p hx ready past
    rw [State.vexec, State.withCtx_some hx, State.checked_beyond past]
    exact State.trapIssue_traps hx ready ..
  case rights =>
    intro w f s x hx ready holds super rights
    rw [State.vexec, State.withCtx_some hx, super, State.checked_rights holds rights]
    exact State.trapIssue_traps hx ready ..
  case flags =>
    intro w f s x hx ready holds super ports clean bad
    rw [State.vexec, State.withCtx_some hx, State.checked_go holds (fun h => by rw [super] at h; contradiction), ports,
      State.portGate_go (by rfl), State.residGate_clean clean, State.fpGate_enabled bad]
    exact State.trapIssue_traps hx ready ..

end Sys2Proof.Machine
end

section
/-! SUPPORT. The layouts of the words (05 R107 to R123): the parts of a concatenation, the operand fields, the codes of the
modifiers, and the fields of a word read back from its bytes. -/

namespace Sys2Proof

/-! ## Parts of a concatenation -/

theorem getLsbD_append_of_le {v w k : Nat} {x : BitVec v} {y : BitVec w} (h : w ≤ k) :
    (x ++ y).getLsbD k = x.getLsbD (k - w) := by
  rw [BitVec.getLsbD_append, if_neg (Nat.not_lt.mpr h)]

theorem getLsbD_append_of_lt {v w k : Nat} {x : BitVec v} {y : BitVec w} (h : k < w) :
    (x ++ y).getLsbD k = y.getLsbD k := by
  rw [BitVec.getLsbD_append, if_pos h]

/-- The rules that read a part of a word: a field or a bit of a concatenation lies in its lowest piece or above it. They stand
together, for every layout below is read by them. -/
theorem fieldRules :
    (∀ {v w start len : Nat} {x : BitVec v} {y : BitVec w}, w ≤ start →
      (x ++ y).extractLsb' start len = x.extractLsb' (start - w) len) ∧
    (∀ {v w start len : Nat} {x : BitVec v} {y : BitVec w}, start + len ≤ w →
      (x ++ y).extractLsb' start len = y.extractLsb' start len) ∧
    (∀ {w : Nat} {x : BitVec w}, x.extractLsb' 0 w = x) ∧
    (∀ {v w k : Nat} {x : BitVec v} {y : BitVec w}, w ≤ k → (x ++ y).getLsbD k = x.getLsbD (k - w)) ∧
    (∀ {v w k : Nat} {x : BitVec v} {y : BitVec w}, k < w → (x ++ y).getLsbD k = y.getLsbD k) ∧
    (∀ {b : Bool}, (BitVec.ofBool b).getLsbD 0 = b) :=
  ⟨BitVec.extractLsb'_append_eq_of_le, BitVec.extractLsb'_append_eq_of_add_le, BitVec.extractLsb'_eq_self,
    getLsbD_append_of_le, getLsbD_append_of_lt, fun {b} => by cases b <;> rfl⟩

theorem imm32_parts (imm : BitVec 32) :
    imm.extractLsb' 20 12 ++ imm.extractLsb' 8 12 ++ imm.extractLsb' 0 8 = imm := by
  simp (disch := decide) only [BitVec.extractLsb'_append_extractLsb'_eq_extractLsb']
  exact BitVec.extractLsb'_eq_self

theorem ofs28_parts (ofs : BitVec 28) : ofs.extractLsb' 16 12 ++ ofs.extractLsb' 0 16 = ofs := by
  simp (disch := decide) only [BitVec.extractLsb'_append_extractLsb'_eq_extractLsb']
  exact BitVec.extractLsb'_eq_self

theorem low64_parts (x : BitVec 64) : x.extractLsb' 52 12 ++ x.extractLsb' 40 12 ++ x.extractLsb' 28 12 ++
    x.extractLsb' 16 12 ++ x.extractLsb' 0 16 = x := by
  simp (disch := decide) only [BitVec.extractLsb'_append_extractLsb'_eq_extractLsb']
  exact BitVec.extractLsb'_eq_self

/-! ## Operand fields (05 R107, R108) -/

theorem Opnd.space_v (n : BitVec 8) : (Opnd.v n).code.extractLsb' 10 2 = 0#2 :=
  BitVec.extractLsb'_append_eq_of_le (xhi := 0#4) (xlo := n) (by decide)

theorem Opnd.space_g (n : BitVec 10) : (Opnd.g n).code.extractLsb' 10 2 = 1#2 := BitVec.extractLsb'_append_eq_left

theorem Opnd.space_imm (n : BitVec 10) : (Opnd.imm n).code.extractLsb' 10 2 = 3#2 := BitVec.extractLsb'_append_eq_left

theorem Opnd.index_v (n : BitVec 8) : (Opnd.v n).code.extractLsb' 0 8 = n := BitVec.extractLsb'_append_eq_right

theorem Opnd.index_g (n : BitVec 10) : (Opnd.g n).code.extractLsb' 0 10 = n := BitVec.extractLsb'_append_eq_right

theorem Opnd.index_imm (n : BitVec 10) : (Opnd.imm n).code.extractLsb' 0 10 = n := BitVec.extractLsb'_append_eq_right

/-- A field of the special space: its space and its index. -/
theorem special_space {k : Nat} (lo : 0x800 ≤ k) (hi : k < 0xC00) : (BitVec.ofNat 12 k).extractLsb' 10 2 = 2#2 ∧
    ((BitVec.ofNat 12 k).extractLsb' 0 10).toNat = k - 0x800 := by
  constructor
  · apply BitVec.eq_of_toNat_eq
    simp [BitVec.extractLsb'_toNat, Nat.shiftRight_eq_div_pow]
    omega
  · simp [BitVec.extractLsb'_toNat]
    omega

theorem Opnd.of_code (o : Opnd) : Opnd.of o.code = o := by
  cases o with
  | v n => simp only [Opnd.of, space_v, index_v]
  | g n => simp only [Opnd.of, space_g, index_g]
  | imm n =>
    simp only [Opnd.of, space_imm, index_imm]
    rfl
  | p n | sp n | tile n | bar n | sreg n => revert n; decide

/-- V0 alone has the field 0x000, that of an absent operand (11 R285). -/
theorem Opnd.code_v_beq_zero (n : BitVec 8) : ((Opnd.v n).code == 0) = (n == 0) := by
  revert n; decide

/-- The field of an operand that a class set accepts holds no class that it refuses. -/
theorem classBad_code {o : Opnd} {c : Cls} (ok : o.ok c = true) : classBad c o.code = false := by
  cases o with
  | v n =>
    simp only [Opnd.ok] at ok
    simp only [classBad, Opnd.space_v, Opnd.code_v_beq_zero, ok, Bool.not_true]
  | g n =>
    simp only [Opnd.ok] at ok
    simp only [classBad, Opnd.space_g, ok, Bool.not_true]
  | imm n =>
    simp only [Opnd.ok] at ok
    simp only [classBad, Opnd.space_imm, ok, Bool.not_true]
    rfl
  | p n =>
    obtain ⟨space, index⟩ := special_space (k := 0x800 + n.toNat) (by omega) (by omega)
    simp only [Opnd.ok] at ok
    simp only [classBad, Opnd.code, space, index, ok]
    rw [if_pos (by omega), Bool.not_true]
  | sp n =>
    obtain ⟨space, index⟩ := special_space (k := 0x810 + n.toNat) (by omega) (by omega)
    simp only [Opnd.ok] at ok
    simp only [classBad, Opnd.code, space, index, ok]
    rw [if_neg (by omega), if_pos (by omega), Bool.not_true]
  | tile n =>
    obtain ⟨space, index⟩ := special_space (k := 0x820 + n.toNat) (by omega) (by omega)
    simp only [Opnd.ok] at ok
    simp only [classBad, Opnd.code, space, index, ok]
    rw [if_neg (by omega), if_neg (by omega), if_pos (by omega), Bool.not_true]
  | bar n =>
    obtain ⟨space, index⟩ := special_space (k := 0x8A0 + n.toNat) (by omega) (by omega)
    simp only [Opnd.ok] at ok
    simp only [classBad, Opnd.code, space, index, ok]
    rw [if_neg (by omega), if_neg (by omega), if_neg (by omega), if_pos (by omega), Bool.not_true]
  | sreg n =>
    obtain ⟨space, index⟩ := special_space (k := 0x900 + n.toNat) (by omega) (by omega)
    simp only [Opnd.ok, Bool.and_eq_true] at ok
    obtain ⟨accepted, listed⟩ := ok
    have number : BitVec.ofNat 6 (0x900 + n.toNat - 0x800 - 0x100) = n := by
      rw [show 0x900 + n.toNat - 0x800 - 0x100 = n.toNat by omega, BitVec.ofNat_toNat, BitVec.setWidth_eq]
    simp only [classBad, Opnd.code, space, index, number, accepted]
    rw [if_neg (by omega), if_neg (by omega), if_neg (by omega), if_neg (by omega),
      if_pos ⟨by omega, by omega, listed⟩, Bool.not_true]

/-! ## Codes of the modifiers -/

theorem EW.of_code (w : EW) : EW.of w.code = w := by cases w <;> rfl

theorem FTy.of_code (t : FTy) : FTy.of t.code = t := by cases t <;> rfl

theorem MW.of_code (w : MW) : MW.of w.code = w := by cases w <;> rfl

theorem Rnd.of_code (r : Rnd) : Rnd.of r.code = some r := by cases r <;> rfl

theorem Cmp.of_code (c : Cmp) : Cmp.of c.code = some c := by cases c <;> rfl

theorem FloatTy.of_code (t : FloatTy) : FloatTy.of t.code = some t := by cases t <;> rfl

theorem IntTy.of_code (t : IntTy) : IntTy.of t.code = some t := by
  obtain ⟨w, signed⟩ := t
  cases w <;> cases signed <;> rfl

theorem Ord.of_code (o : Ord) : Ord.of o.code = some o := by cases o <;> rfl

theorem Scope.of_code (s : Scope) : Scope.of s.code = s := by cases s <;> rfl

theorem Cp.of_code (c : Cp) : Cp.of c.code = c := by cases c <;> rfl

theorem AOp.of_code (o : AOp) : AOp.of o.code = some o := by cases o <;> rfl

theorem AFOp.of_code (o : AFOp) : AFOp.of o.code = some o := by cases o <;> rfl

theorem MFmt.of_code (f : MFmt) : MFmt.of f.code = some f := by cases f <;> rfl

theorem FMod.of_code (m : FMod) : FMod.of m.code = some m := by
  simp (disch := decide) only [FMod.of, FMod.code, fieldRules, Nat.reduceSub, Rnd.of_code, Option.map_some]

theorem FoldTy.of_code (t : FoldTy) : FoldTy.of (t.code.getLsbD 4) (t.code.extractLsb' 0 4) = some t := by
  cases t with
  | int t =>
    obtain ⟨w, signed⟩ := t
    cases w <;> cases signed <;> rfl
  | flt t => cases t <;> rfl

theorem PWord.of_code (w : PWord) : PWord.of w.code = w := by
  cases w with
  | val n =>
    simp (disch := decide) only [PWord.of, PWord.code, fieldRules, Nat.reduceSub]
    rfl
  | g n =>
    simp (disch := decide) only [PWord.of, PWord.code, fieldRules, Nat.reduceSub]
    rfl

theorem Params.of_code (p : Params) : Params.of p.code = p := by
  simp (disch := decide) only [Params.of, Params.code, fieldRules, Nat.reduceSub, PWord.of_code]

/-- Every code reads back as what it stands for. The rules stand together, as `fieldRules` do. -/
theorem codeRules :
    (∀ o : Opnd, .of o.code = o) ∧ (∀ w : EW, .of w.code = w) ∧ (∀ t : FTy, .of t.code = t) ∧ (∀ s : Scope, .of s.code = s) ∧
    (∀ c : Cp, .of c.code = c) ∧ (∀ p : Params, .of p.code = p) ∧ (∀ r : Rnd, Rnd.of r.code = some r) ∧
    (∀ c : Cmp, Cmp.of c.code = some c) ∧ (∀ t : FloatTy, FloatTy.of t.code = some t) ∧
    (∀ t : IntTy, IntTy.of t.code = some t) ∧ (∀ o : Ord, Ord.of o.code = some o) ∧ (∀ o : AOp, AOp.of o.code = some o) ∧
    (∀ o : AFOp, AFOp.of o.code = some o) ∧ (∀ f : MFmt, MFmt.of f.code = some f) ∧ (∀ m : FMod, FMod.of m.code = some m) ∧
    (∀ t : FoldTy, FoldTy.of (t.code.getLsbD 4) (t.code.extractLsb' 0 4) = some t) :=
  ⟨Opnd.of_code, EW.of_code, FTy.of_code, Scope.of_code, Cp.of_code, Params.of_code, Rnd.of_code, Cmp.of_code,
    FloatTy.of_code, IntTy.of_code, Ord.of_code, AOp.of_code, AFOp.of_code, MFmt.of_code, FMod.of_code, FoldTy.of_code⟩

/-! ## Fields of the builders of a word -/

theorem mkI_fields (op : Nat) (h : Hdr) (d a : BitVec 12) (imm : BitVec 32) (mod : BitVec 12) (lo : BitVec 8) :
    (mkI op h d a imm mod lo).h = h ∧ (mkI op h d a imm mod lo).d = d ∧ (mkI op h d a imm mod lo).a = a ∧
      (mkI op h d a imm mod lo).mod = mod ∧ (mkI op h d a imm mod lo).imm32 = imm ∧
      (mkI op h d a imm mod lo).mod2 = imm.extractLsb' 0 8 ++ lo := by
  refine ⟨rfl, rfl, rfl, rfl, ?_, rfl⟩
  simp only [mkI, mkRaw, Raw.imm32, BitVec.extractLsb'_append_eq_left, imm32_parts]

theorem mkM_fields (op : Nat) (h : Hdr) (d a b : BitVec 12) (ofs : BitVec 28) (mod : BitVec 12) :
    (mkM op h d a b ofs mod).h = h ∧ (mkM op h d a b ofs mod).d = d ∧ (mkM op h d a b ofs mod).a = a ∧
      (mkM op h d a b ofs mod).b = b ∧ (mkM op h d a b ofs mod).mod = mod ∧ (mkM op h d a b ofs mod).ofs28 = ofs :=
  ⟨rfl, rfl, rfl, rfl, rfl, ofs28_parts ofs⟩

theorem tyMod2_fields (ty : FTy) (lo : BitVec 14) : (tyMod2 ty lo).extractLsb' 14 2 = ty.code ∧
    (tyMod2 ty lo).extractLsb' 0 10 = lo.extractLsb' 0 10 ∧ ∀ k < 14, (tyMod2 ty lo).getLsbD k = lo.getLsbD k :=
  ⟨BitVec.extractLsb'_append_eq_left, BitVec.extractLsb'_append_eq_of_add_le (by decide), fun _ => getLsbD_append_of_lt⟩

theorem cvtMod2_fields (td ts k lo : BitVec 4) : (cvtMod2 td ts k lo).extractLsb' 12 4 = td ∧
    (cvtMod2 td ts k lo).extractLsb' 8 4 = ts ∧ (cvtMod2 td ts k lo).extractLsb' 4 4 = k ∧
      (cvtMod2 td ts k lo).getLsbD 0 = lo.getLsbD 0 := by
  simp (disch := decide) only [cvtMod2, fieldRules, Nat.reduceSub, and_self]

/-- Is the address in the X form (05 R117)? -/
def Addr.isX : Addr → Bool
  | .o .. => false
  | .x .. => true

section
variable (base : Nat) (h : Hdr) (w : MW) (d : Opnd) (ad : Addr) (mod : BitVec 12)

theorem mkLs_op : (mkLs base h w d ad mod).op = BitVec.ofNat 9 (base + 2 * w.code + b2n ad.isX) := by
  cases ad <;> rfl

theorem mkLs_fields : (mkLs base h w d ad mod).h = h ∧ (mkLs base h w d ad mod).d = d.code ∧
    (mkLs base h w d ad mod).mod = mod ∧ (mkLs base h w d ad mod).addr ad.isX = ad := by
  cases ad with
  | o a ofs => simp [mkLs, Addr.isX, Raw.addr, mkM_fields, codeRules]
  | x a b s =>
    simp (disch := decide) only [mkLs, Addr.isX, Raw.addr, if_true, mkM_fields, fieldRules, codeRules, and_self]

theorem mkLs_classes {ad : Addr} (ok : ad.ok = true) :
    ∀ p ∈ (mkLs base h w d ad mod).addrFs ad.isX, classBad p.1 p.2 = false := by
  cases ad with
  | o a ofs => simp [Raw.addrFs, Addr.isX, mkLs, mkM_fields, classBad_code (show a.ok .VG = true from ok)]
  | x a b s =>
    obtain ⟨ha, hb⟩ : a.ok .VG = true ∧ b.ok .VG = true := Bool.and_eq_true_iff.mp ok
    simp [Raw.addrFs, Addr.isX, mkLs, mkM_fields, classBad_code ha, classBad_code hb]

end

/-! ## The bytes of a word (05 R105, R123) -/

theorem Raw.unpack_pack (r : Raw) : Raw.unpack r.pack r.pb = r := by
  simp (disch := decide) only [Raw.unpack, Raw.pack, fieldRules, Nat.reduceSub]

theorem Raw.op_pack (r : Raw) : r.pack.extractLsb' 87 9 = r.op := congrArg Raw.op r.unpack_pack

theorem ofNat_leNat_bytesOf {w n : Nat} (x : BitVec w) (h : w = 8 * n) :
    BitVec.ofNat w (leNat (bytesOf x.toNat n)) = x := by
  have lt : x.toNat < 256 ^ n := by
    rw [show 256 = 2 ^ 8 from rfl, ← pow_mul, ← h]
    exact x.isLt
  rw [leNat_bytesOf, Nat.mod_eq_of_lt lt, BitVec.ofNat_toNat, BitVec.setWidth_eq]

/-- A word without a parameter block has none to lose: `encRaw` leaves it zero. -/
theorem encRaw_pb {i : Instr} (short : longOp (encRaw i).op = false) : (encRaw i).pb = 0 := by
  cases i with
  | mst | copytG2t | copytT2g => cases short
  | iadd _ _ _ _ _ _ b | imul _ _ _ _ _ _ b | icmp _ _ _ _ _ _ _ b | shl _ _ _ _ _ b | shr _ _ _ _ _ b
  | shra _ _ _ _ _ b | rot _ _ _ b | bfx _ _ _ _ b | lea _ _ _ _ b | fadd _ _ _ _ _ b | fmul _ _ _ _ _ b
  | imad _ _ _ _ _ _ b | blut _ _ _ _ b | bfi _ _ _ b | ffma _ _ _ _ _ b => cases b <;> rfl
  | ldg _ _ _ _ _ _ _ ad | stg _ _ _ _ _ _ ad | lds _ _ _ _ ad | sts _ _ _ ad => cases ad <;> rfl
  | mlw _ arg => cases arg <;> rfl
  | _ => rfl

theorem ofBytes_encBytes (i : Instr) : Raw.ofBytes (encBytes i) = encRaw i := by
  have head (l : List Byte) : (bytesOf (encRaw i).pack.toNat 12 ++ l).take 12 = bytesOf (encRaw i).pack.toNat 12 :=
    List.take_left' (length_bytesOf ..)
  have rest (l : List Byte) : (bytesOf (encRaw i).pack.toNat 12 ++ l).drop 12 = l := List.drop_left' (length_bytesOf ..)
  have block : (bytesOf (encRaw i).pb.toNat 16).take 16 = bytesOf (encRaw i).pb.toNat 16 :=
    List.take_of_length_le (length_bytesOf ..).le
  have word : BitVec.ofNat 96 (leNat (bytesOf (encRaw i).pack.toNat 12)) = (encRaw i).pack := ofNat_leNat_bytesOf _ rfl
  simp only [Raw.ofBytes, encBytes, head, rest, word, Raw.op_pack]
  cases long : longOp (encRaw i).op with
  | true =>
    rw [if_pos rfl, if_pos rfl, block, ofNat_leNat_bytesOf (w := 128) _ rfl]
    exact Raw.unpack_pack _
  | false =>
    rw [if_neg Bool.false_ne_true, ← encRaw_pb long]
    exact Raw.unpack_pack _

end Sys2Proof
end

section
/-! SUPPORT. The map's reading of a word (06 R134 to R146): the entry of each range of codes, and the word of every instruction that
is well formed read as that instruction. -/

namespace Sys2Proof

/-! ## The ranges of the code space

A range's entry `n` is found by its code. The typed ranges hold their width, type or address form in the code too. -/

theorem Raw.op_toNat {r : Raw} {k : Nat} (hop : r.op = BitVec.ofNat 9 k) (hk : k < 0x200) : r.op.toNat = k := by
  rw [hop, BitVec.toNat_ofNat, Nat.mod_eq_of_lt hk]

section
variable {r : Raw} {n : Nat} {f : Raw → Cand}

/-- Control (06 R137). -/
theorem candidate_control (hop : r.op = BitVec.ofNat 9 n) (row : controlCodes[n]? = some f) :
    candidate r = some (f r) := by
  have hn : n < 13 := (List.getElem?_eq_some_iff.mp row).1
  simp (disch := omega) only [candidate, Raw.op_toNat hop, if_pos, row, Option.map_some]

/-- Typed integer words (06 R138), whose codes begin at `base`. -/
theorem candidate_intTyped {base : Nat} {w : EW} {f : EW → Raw → Cand} (hop : r.op = BitVec.ofNat 9 (base + w.code.toNat))
    (hbase : base = 0x020 + 4 * ((base - 0x020) / 4)) (row : intTyped[(base - 0x020) / 4]? = some f) :
    candidate r = some (f w r) := by
  have hn : (base - 0x020) / 4 < 12 := (List.getElem?_eq_some_iff.mp row).1
  have hw : w.code.toNat < 4 := w.code.isLt
  have index : (base + w.code.toNat - 0x020) / 4 = (base - 0x020) / 4 := by omega
  have width : BitVec.ofNat 2 (base + w.code.toNat) = w.code := by
    apply BitVec.eq_of_toNat_eq
    rw [BitVec.toNat_ofNat]
    omega
  simp (disch := omega) only [candidate, Raw.op_toNat hop, if_neg, if_pos, index, width, EW.of_code, row, Option.map_some]

/-- Typed floating words (06 R139), whose codes begin at `base`. -/
theorem candidate_fltTyped {base : Nat} {t : FTy} {f : FTy → Raw → Cand} (hop : r.op = BitVec.ofNat 9 (base + t.code.toNat))
    (hbase : base = 0x080 + 4 * ((base - 0x080) / 4)) (row : fltTyped[(base - 0x080) / 4]? = some f) :
    candidate r = some (f t r) := by
  have hn : (base - 0x080) / 4 < 8 := (List.getElem?_eq_some_iff.mp row).1
  have ht : t.code.toNat < 4 := t.code.isLt
  have index : (base + t.code.toNat - 0x080) / 4 = (base - 0x080) / 4 := by omega
  have type : BitVec.ofNat 2 (base + t.code.toNat) = t.code := by
    apply BitVec.eq_of_toNat_eq
    rw [BitVec.toNat_ofNat]
    omega
  simp (disch := omega) only [candidate, Raw.op_toNat hop, if_neg, if_pos, index, type, FTy.of_code, row, Option.map_some]

/-- Loads and stores (06 R142), whose codes begin at `base`. -/
theorem candidate_memTyped {base : Nat} {w : MW} {x : Bool} {f : MW → Bool → Raw → Cand}
    (hop : r.op = BitVec.ofNat 9 (base + 2 * w.code + b2n x)) (hbase : base = 0x120 + 10 * ((base - 0x120) / 10))
    (row : memTyped[(base - 0x120) / 10]? = some f) : candidate r = some (f w x r) := by
  have hn : (base - 0x120) / 10 < 4 := (List.getElem?_eq_some_iff.mp row).1
  have hw : w.code < 5 := by cases w <;> decide
  have hx : b2n x < 2 := by cases x <;> decide
  have index : (base + 2 * w.code + b2n x - 0x120) / 10 = (base - 0x120) / 10 := by omega
  have width : (base + 2 * w.code + b2n x - 0x120) % 10 / 2 = w.code := by omega
  have form : ((base + 2 * w.code + b2n x) % 2 == 1) = x := by
    rw [show (base + 2 * w.code + b2n x) % 2 = b2n x by omega]
    cases x <;> rfl
  simp (disch := omega) only [candidate, Raw.op_toNat hop, if_neg, if_pos, index, width, form, MW.of_code, row,
    Option.map_some]

/-- The immediate forms of the integer words (07 R169). -/
theorem candidate_intImm (hop : r.op = BitVec.ofNat 9 (n + 0x050)) (row : intImm[n]? = some f) :
    candidate r = some (f r) := by
  have hn : n < 12 := (List.getElem?_eq_some_iff.mp row).1
  simp (disch := omega) only [candidate, Raw.op_toNat hop, if_neg, if_pos, Nat.add_sub_cancel, row, Option.map_some]

/-- Untyped integer words (07 R171). -/
theorem candidate_intUntyped (hop : r.op = BitVec.ofNat 9 (n + 0x05C)) (row : intUntyped[n]? = some f) :
    candidate r = some (f r) := by
  have hn : n < 22 := (List.getElem?_eq_some_iff.mp row).1
  simp (disch := omega) only [candidate, Raw.op_toNat hop, if_neg, if_pos, Nat.add_sub_cancel, row, Option.map_some]

/-- The immediate forms of the floating words, and those with a type in MOD2 (08 R179). -/
theorem candidate_fltOther (hop : r.op = BitVec.ofNat 9 (n + 0x0A0)) (row : fltOther[n]? = some f) :
    candidate r = some (f r) := by
  have hn : n < 14 := (List.getElem?_eq_some_iff.mp row).1
  simp (disch := omega) only [candidate, Raw.op_toNat hop, if_neg, if_pos, Nat.add_sub_cancel, row, Option.map_some]

/-- Conversions and special functions (06 R140). -/
theorem candidate_convert (hop : r.op = BitVec.ofNat 9 (n + 0x0E0)) (row : convertCodes[n]? = some f) :
    candidate r = some (f r) := by
  have hn : n < 29 := (List.getElem?_eq_some_iff.mp row).1
  simp (disch := omega) only [candidate, Raw.op_toNat hop, if_neg, if_pos, Nat.add_sub_cancel, row, Option.map_some]

/-- Move and lane (06 R141). -/
theorem candidate_move (hop : r.op = BitVec.ofNat 9 (n + 0x100)) (row : moveCodes[n]? = some f) :
    candidate r = some (f r) := by
  have hn : n < 18 := (List.getElem?_eq_some_iff.mp row).1
  simp (disch := omega) only [candidate, Raw.op_toNat hop, if_neg, if_pos, Nat.add_sub_cancel, row, Option.map_some]

/-- The other memory words (06 R142). -/
theorem candidate_memOther (hop : r.op = BitVec.ofNat 9 (n + 0x148)) (row : memOther[n]? = some f) :
    candidate r = some (f r) := by
  have hn : n < 22 := (List.getElem?_eq_some_iff.mp row).1
  simp (disch := omega) only [candidate, Raw.op_toNat hop, if_neg, if_pos, Nat.add_sub_cancel, row, Option.map_some]

/-- Tile, copy and stream (06 R143). -/
theorem candidate_tile (hop : r.op = BitVec.ofNat 9 (n + 0x160)) (row : tileCodes[n]? = some f) :
    candidate r = some (f r) := by
  have hn : n < 12 := (List.getElem?_eq_some_iff.mp row).1
  simp (disch := omega) only [candidate, Raw.op_toNat hop, if_neg, if_pos, Nat.add_sub_cancel, row, Option.map_some]

/-- Queue, synchronisation and system (06 R144). -/
theorem candidate_queue (hop : r.op = BitVec.ofNat 9 (n + 0x180)) (row : queueCodes[n]? = some f) :
    candidate r = some (f r) := by
  have hn : n < 15 := (List.getElem?_eq_some_iff.mp row).1
  simp (disch := omega) only [candidate, Raw.op_toNat hop, if_neg, if_pos, Nat.add_sub_cancel, row, Option.map_some]

/-- Matrix (06 R145). -/
theorem candidate_matrix (hop : r.op = BitVec.ofNat 9 (n + 0x1A0)) (row : matrixCodes[n]? = some f) :
    candidate r = some (f r) := by
  have hn : n < 11 := (List.getElem?_eq_some_iff.mp row).1
  simp (disch := omega) only [candidate, Raw.op_toNat hop, if_neg, if_pos, Nat.add_sub_cancel, row, Option.map_some]

/-- The tandem word (06 R146). -/
theorem candidate_tandem {opa : BitVec 6} (hop : r.op = 7#3 ++ opa) : candidate r = tandemCode r := by
  have high : 0x1C0 ≤ r.op.toNat := by
    rw [hop, BitVec.toNat_append]
    exact Nat.left_le_or
  simp (disch := omega) only [candidate, if_neg]

end

/-! ## The families of the opcode map -/

/-- The families of words, as the tables of 06 R137 to R146 have them. -/
inductive Family where
  | control | integer | floating | convert | move | memory | tile | queue | matrix | tandem

/-- The family of a word; an event has none. -/
def Instr.family : Instr → Option Family
  | .nop .. | .bra .. | .brx .. | .call .. | .callx .. | .ret .. | .join .. | .yield .. | .exit .. | .region ..
  | .trap .. | .rtt .. | .brk .. => some .control
  | .iadd .. | .isub .. | .imul .. | .imulh .. | .imad .. | .imin .. | .imax .. | .iabs .. | .icmp .. | .shl .. | .shr ..
  | .shra .. | .isad .. | .blut .. | .rot .. | .funnel .. | .popc .. | .clz .. | .ctz .. | .brev .. | .bfx .. | .bfi ..
  | .isel .. | .lea .. | .iaddc .. | .plut .. | .idot4 .. | .idot2 .. => some .integer
  | .fadd .. | .fmul .. | .ffma .. | .fmin .. | .fmax .. | .fminm .. | .fmaxm .. | .fcmp .. | .fclass .. | .fdot2 ..
  | .fdot4 .. | .frnd .. | .fscale .. | .fgetexp .. | .fgetmant .. | .ferr .. => some .floating
  | .cvtFf .. | .cvtFi .. | .cvtIf .. | .cvtIi .. | .cvts .. | .cvtef .. | .cvtsr .. | .packB6 .. | .unpkB6 ..
  | .packTri .. | .unpkTri .. | .bscl .. | .rcp .. | .rsq .. | .sqrt .. | .exp2 .. | .log2 .. | .sin .. | .cos ..
  | .tanh .. => some .convert
  | .mov .. | .movi .. | .movih .. | .lxchIdx .. | .lxchUp .. | .lxchDown .. | .lxchXor .. | .pollAll .. | .pollAny ..
  | .pollMask .. | .foldAdd .. | .foldMinmax .. | .bcast .. | .selem .. | .srd .. | .swr .. | .lpr .. | .lpw .. =>
    some .move
  | .ldg .. | .stg .. | .lds .. | .sts .. | .ldc .. | .atom .. | .atomc .. | .atomf .. | .atoms .. | .red .. | .fence ..
  | .flush .. | .inval .. | .pref .. | .renew .. | .tsadv .. => some .memory
  | .tstate .. | .tstateArm .. | .copyG2t .. | .copyT2g .. | .copyG2g .. | .copytG2t .. | .copytT2g .. | .copys ..
  | .trel .. | .hand .. | .spset .. | .spget .. | .sprst .. => some .tile
  | .enq .. | .enqt .. | .enqw .. | .enqwt .. | .deq .. | .qlen .. | .spawn .. | .arm .. | .bara .. | .barw ..
  | .baraw .. | .sleep .. | .sysc .. | .gload .. | .gstop .. => some .queue
  | .mlw .. | .mswap .. | .mst .. | .mstz .. | .msts .. | .msoft .. | .mrd .. | .mrdt .. | .mzero .. | .msrd ..
  | .mswr .. => some .matrix
  | .tandemWord .. => some .tandem
  | _ => none

theorem Instr.family_isSome (i : Instr) : i.family.isSome = i.isWord := by cases i <;> rfl

/-! ## Each family's words read as themselves

In each family `cases hf` leaves the family's own instructions. The word of each has an entry of the map (`candidate_…`); that entry
gives the instruction back (`fieldRules`, `codeRules`), and the fields that it uses hold the classes that well-formedness admits
(`classBad_code`). Words with one layout share a case. -/

/-- The map reads the word of `i` as `i`, and no field that it uses holds a class that the field refuses. -/
def Instr.Reads (i : Instr) : Prop :=
  ∃ c, candidate (encRaw i) = some c ∧ c.ins = some i ∧ ∀ p ∈ c.fs, classBad p.1 p.2 = false

section
variable {i : Instr} (hw : i.wf = true)
include hw

theorem Instr.reads_of_control (hf : i.family = some .control) : i.Reads := by
  cases i <;> cases hf
  all_goals
    unfold Instr.wf at hw
    unfold Instr.Reads encRaw
    simp only [Bool.and_eq_true] at hw
    refine ⟨_, candidate_control rfl rfl, ?_, ?_⟩
    · simp (disch := decide) only [cand, mkI_fields, mkRaw, fieldRules, codeRules]
    · simp [cand, mkI_fields, mkRaw, classBad_code, hw]

theorem Instr.reads_of_integer (hf : i.family = some .integer) : i.Reads := by
  cases i <;> cases hf
  all_goals
    unfold Instr.wf at hw
    unfold Instr.Reads encRaw
  case isub | imulh | imin | imax | iabs =>
    simp only [Bool.and_eq_true] at hw
    refine ⟨_, candidate_intTyped rfl rfl rfl, ?_, ?_⟩
    · simp (disch := decide) only [cand, mkInt, mkRaw, Raw.sgn, Raw.sat, intMod, fieldRules, codeRules, Nat.reduceSub]
    · simp [cand, mkInt, mkRaw, classBad_code, hw]
  case iadd b | imul b | imad b | icmp b | shl b | shr b | shra b =>
    cases b <;> simp only [Bool.and_eq_true, Src2.ok] at hw
    case r =>
      refine ⟨_, candidate_intTyped rfl rfl rfl, ?_, ?_⟩
      · simp (disch := decide) only [cand, mkInt, mkRaw, Raw.sgn, Raw.sat, intMod, fieldRules, codeRules, Nat.reduceSub,
          Option.map_some]
      · simp [cand, mkInt, mkRaw, classBad_code, hw]
    case i =>
      refine ⟨_, candidate_intImm rfl rfl, ?_, ?_⟩
      · simp (disch := decide) only [cand, mkInt, mkI_fields, Raw.sgn, Raw.sat, Raw.iw, intMod, fieldRules, codeRules,
          Nat.reduceSub, Option.map_some]
      · simp [cand, mkInt, mkI_fields, classBad_code, hw]
  case rot b | bfx b | lea b | blut b | bfi b =>
    cases b <;> simp only [Bool.and_eq_true, Src2.ok] at hw
    case r =>
      refine ⟨_, candidate_intUntyped rfl rfl, ?_, ?_⟩
      · simp (disch := decide) only [cand, mkInt2, mkInt3, mkRaw, Raw.sgn, intMod, fieldRules, codeRules, Nat.reduceSub]
      · simp [cand, mkInt2, mkInt3, mkRaw, classBad_code, hw]
    case i =>
      refine ⟨_, candidate_intImm rfl rfl, ?_, ?_⟩
      · simp (disch := decide) only [cand, mkInt2, mkInt3, mkI_fields, Raw.sgn, intMod, fieldRules, codeRules, Nat.reduceSub]
      · simp [cand, mkInt2, mkInt3, mkI_fields, classBad_code, hw]
  case isad | funnel | popc | clz | ctz | brev | isel | iaddc | plut =>
    simp only [Bool.and_eq_true] at hw
    refine ⟨_, candidate_intUntyped rfl rfl, ?_, ?_⟩
    · simp (disch := decide) only [cand, mkRaw, Raw.sgn, intMod, fieldRules, codeRules, Nat.reduceSub]
    · simp [cand, mkRaw, classBad_code, hw]
  case idot4 xs ys _ _ _ _ _ | idot2 xs ys _ _ _ _ _ =>
    simp only [Bool.and_eq_true] at hw
    cases xs <;> cases ys
    all_goals
      refine ⟨_, candidate_intUntyped rfl rfl, ?_, ?_⟩
      · simp (disch := decide) only [idotCode, if_true, Bool.false_eq_true, if_false, cand, mkRaw, Raw.sat, intMod, fieldRules,
          codeRules, Nat.reduceSub]
      · simp [idotCode, cand, mkRaw, classBad_code, hw]

theorem Instr.reads_of_floating (hf : i.family = some .floating) : i.Reads := by
  cases i <;> cases hf
  all_goals
    unfold Instr.wf at hw
    unfold Instr.Reads encRaw
  case fmin | fmax | fminm | fmaxm | fcmp =>
    simp only [Bool.and_eq_true] at hw
    refine ⟨_, candidate_fltTyped rfl rfl rfl, ?_, ?_⟩
    · simp (disch := decide) only [cand, mkFlt, mkRaw, fieldRules, codeRules, Nat.reduceSub, Option.map_some, Option.bind_some]
    · simp [cand, mkFlt, mkRaw, Raw.dab, classBad_code, hw]
  case fadd ty _ _ _ b | fmul ty _ _ _ b | ffma ty _ _ _ b =>
    cases b <;> simp only [Bool.and_eq_true] at hw
    case r =>
      refine ⟨_, candidate_fltTyped rfl rfl rfl, ?_, ?_⟩
      · simp only [cand, mkFlt, mkRaw, codeRules, Option.map_some]
      · simp [cand, mkFlt, mkRaw, Raw.dab, Raw.dabc, classBad_code, hw]
    case i =>
      cases ty <;> simp [isRFmTy] at hw
      all_goals
        refine ⟨_, candidate_fltOther rfl rfl, ?_, ?_⟩
        · simp only [cand, mkI_fields, codeRules, Option.map_some]
        · simp [cand, mkI_fields, Raw.da, classBad_code, hw]
  case fclass | fdot2 | fdot4 | frnd | fscale | fgetexp | fgetmant | ferr =>
    simp only [Bool.and_eq_true] at hw
    refine ⟨_, candidate_fltOther rfl rfl, ?_, ?_⟩
    · simp (disch := decide) only [cand, mkRaw, tyMod2_fields, Raw.ty, fieldRules, codeRules, Nat.reduceSub, Option.map_some]
    · simp [cand, mkRaw, Raw.da, Raw.dab, Raw.dabc, classBad_code, hw]

theorem Instr.reads_of_convert (hf : i.family = some .convert) : i.Reads := by
  cases i <;> cases hf
  all_goals
    unfold Instr.wf at hw
    unfold Instr.Reads encRaw
    simp only [Bool.and_eq_true] at hw
  case cvtFf | cvtFi | cvtIf | cvtIi | cvts | cvtsr =>
    refine ⟨_, candidate_convert rfl rfl, ?_, ?_⟩
    · simp (disch := decide) only [cand, mkRaw, cvtMod2_fields, Raw.td, Raw.ts, Raw.part, codeRules, Option.map_some,
        Option.bind_some]
    · simp [cand, mkRaw, cvtMod2_fields, Raw.td, Raw.ts, cvtFs, codeRules, classBad_code, hw]
  case cvtef scl _ _ _ _ =>
    refine ⟨_, candidate_convert rfl rfl, ?_, ?_⟩
    · simp (disch := decide) only [cand, mkRaw, cvtMod2_fields, Raw.td, Raw.ts, Raw.part, fieldRules, codeRules,
        Option.bind_some, BEq.rfl, if_true]
    · simp (disch := decide) only [cand, mkRaw, cvtMod2_fields, fieldRules]
      cases scl <;> simp_all [classBad_code]
  case packB6 | unpkB6 | packTri | unpkTri =>
    refine ⟨_, candidate_convert rfl rfl, ?_, ?_⟩
    · simp (disch := decide) only [cand, mkRaw, fieldRules, codeRules, Nat.reduceSub]
      rfl
    · simp (disch := decide) only [cand, mkRaw, fieldRules]
      simp [Raw.da, Raw.dab, classBad_code, hw]
  case bscl =>
    refine ⟨_, candidate_convert rfl rfl, ?_, ?_⟩
    · simp (disch := decide) only [cand, mkRaw, Raw.part, fieldRules, codeRules, Nat.reduceSub]
    · simp [cand, mkRaw, classBad_code, hw]
  case rcp ty _ _ _ | rsq ty _ _ _ | sqrt ty _ _ _ | exp2 ty _ _ _ | log2 ty _ _ _ | sin ty _ _ _ | cos ty _ _ _
      | tanh ty _ _ _ =>
    cases ty <;> simp at hw
    all_goals
      refine ⟨_, candidate_convert rfl rfl, ?_, ?_⟩
      · simp only [sfu, cand, mkRaw, codeRules, Option.map_some]
      · simp [sfu, cand, mkRaw, Raw.da, classBad_code, hw]

theorem Instr.reads_of_move (hf : i.family = some .move) : i.Reads := by
  cases i <;> cases hf
  all_goals
    unfold Instr.wf at hw
    unfold Instr.Reads encRaw
    simp only [Bool.and_eq_true] at hw
    refine ⟨_, candidate_move rfl rfl, ?_, ?_⟩
    · simp (disch := decide) only [cand, mkI_fields, mkRaw, fieldRules, codeRules, Nat.reduceSub, Option.map_some,
        Option.bind_some]
    · simp [cand, mkI_fields, mkRaw, Raw.da, Raw.lx, classBad_code, hw]

theorem Instr.reads_of_memory (hf : i.family = some .memory) : i.Reads := by
  cases i <;> cases hf
  all_goals
    unfold Instr.wf at hw
    unfold Instr.Reads encRaw
    simp only [Bool.and_eq_true] at hw
  case ldg | stg | lds | sts =>
    refine ⟨_, candidate_memTyped (mkLs_op ..) rfl rfl, ?_,
      List.forall_mem_cons.mpr ⟨?_, mkLs_classes _ _ _ _ _ (by simp only [hw])⟩⟩
    · simp (disch := decide) only [cand, mkLs_fields, memMod, Raw.ord, Raw.scope, Raw.cp, Raw.m4, fieldRules, codeRules,
        Nat.reduceSub, Option.map_some]
    · simp only [mkLs_fields, classBad_code, hw]
  case ldc w _ _ _ _ _ =>
    cases w
    all_goals
      refine ⟨_, candidate_memOther rfl rfl, ?_, ?_⟩
      · simp (disch := decide) only [ldcCode, cand, mkM_fields, memMod, Raw.cp, Raw.m4, fieldRules, codeRules, Nat.reduceSub]
      · simp [ldcCode, cand, mkM_fields, classBad_code, hw]
  case atom w64 _ _ _ _ _ _ _ _ | atomc w64 _ _ _ _ _ _ _ | atoms w64 _ _ _ _ _ | red w64 _ _ _ _ _ _ _ =>
    cases w64
    all_goals
      refine ⟨_, candidate_memOther rfl rfl, ?_, ?_⟩
      · simp (disch := decide) only [atomCode, atomcCode, atomsCode, redCode, cand, mkM_fields, memMod, Raw.opc, Raw.ord,
          Raw.scope, Raw.cp, fieldRules, codeRules, Nat.reduceSub, Option.map_some, Option.bind_some]
      · simp [atomCode, atomcCode, atomsCode, redCode, cand, mkM_fields, Raw.atomFs, Raw.redFs, classBad_code, hw]
  case atomf ty _ nr _ _ _ _ _ _ _ =>
    cases ty
    all_goals
      refine ⟨_, candidate_memOther rfl rfl, ?_, ?_⟩
      · simp (disch := decide) only [atomfCode, cand, mkM_fields, memMod, Raw.opc, Raw.m4, Raw.ord, Raw.scope, Raw.cp,
          fieldRules, codeRules, Nat.reduceSub, Option.map_some, Option.bind_some]
      · simp (disch := decide) only [atomfCode, cand, mkM_fields, memMod, Raw.m4, fieldRules, Nat.reduceSub]
        cases nr <;> simp_all [mkM_fields, Raw.redFs, classBad_code]
  case fence | flush | inval | pref | renew | tsadv =>
    refine ⟨_, candidate_memOther rfl rfl, ?_, ?_⟩
    · simp (disch := decide) only [cand, mkM_fields, mkRaw, memMod, Raw.scope, Raw.cp, Raw.m4, fieldRules, codeRules,
        Nat.reduceSub]
    · simp [cand, mkM_fields, mkRaw, Raw.redFs, classBad_code, hw]

theorem Instr.reads_of_tile (hf : i.family = some .tile) : i.Reads := by
  cases i <;> cases hf
  all_goals
    unfold Instr.wf at hw
    unfold Instr.Reads encRaw
    simp only [Bool.and_eq_true] at hw
    refine ⟨_, candidate_tile rfl rfl, ?_, by simp [cand, mkRaw, classBad_code, hw]⟩
  case tstate | tstateArm =>
    simp only [cand, mkRaw, codeRules]
    rfl
  all_goals simp (disch := decide) only [cand, mkRaw, memMod, Raw.cp, fieldRules, codeRules, Nat.reduceSub]

theorem Instr.reads_of_queue (hf : i.family = some .queue) : i.Reads := by
  cases i <;> cases hf
  all_goals
    unfold Instr.wf at hw
    unfold Instr.Reads encRaw
    simp only [Bool.and_eq_true] at hw
    refine ⟨_, candidate_queue rfl rfl, ?_, ?_⟩
    · simp (disch := decide) only [cand, mkRaw, fieldRules, codeRules, Nat.reduceSub]
  case bara set _ _ =>
    simp (disch := decide) only [cand, mkRaw, fieldRules]
    cases set <;> simp_all [classBad_code]
  all_goals simp [cand, mkRaw, classBad_code, hw]

theorem Instr.reads_of_matrix (hf : i.family = some .matrix) : i.Reads := by
  cases i <;> cases hf
  all_goals
    unfold Instr.wf at hw
    unfold Instr.Reads encRaw
  case mswap | mst | mstz | msoft | mrdt | mzero | msrd | mswr =>
    simp only [Bool.and_eq_true] at hw
    refine ⟨_, candidate_matrix rfl rfl, ?_, ?_⟩
    · simp (disch := decide) only [cand, mkRaw, Raw.mf, fieldRules, codeRules, Nat.reduceSub, Option.map_some,
        Option.bind_some]
    · simp [cand, mkRaw, classBad_code, hw]
  case mlw arg =>
    cases arg with
    | drop => exact ⟨_, candidate_matrix rfl rfl, by simp [cand, mkRaw], by simp [cand, mkRaw]⟩
    | load t f nsw =>
      simp only [Bool.and_eq_true] at hw
      refine ⟨_, candidate_matrix rfl rfl, ?_, ?_⟩
      · simp (disch := decide) only [cand, mkRaw, Raw.mf, fieldRules, codeRules, Nat.reduceSub, Option.map_some]
        rfl
      · simp (disch := decide) only [cand, mkRaw, fieldRules]
        simp [classBad_code, hw]
  case msts nsa _ _ _ =>
    simp only [Bool.and_eq_true] at hw
    refine ⟨_, candidate_matrix rfl rfl, ?_, ?_⟩
    · simp (disch := decide) only [cand, mkRaw, Raw.mf, fieldRules, codeRules, Nat.reduceSub, Option.map_some]
    · simp (disch := decide) only [cand, mkRaw, fieldRules]
      cases nsa <;> simp_all [classBad_code]
  case mrd div _ _ _ _ _ =>
    cases div <;> simp only [Bool.and_eq_true] at hw
    all_goals
      refine ⟨_, candidate_matrix rfl rfl, ?_, ?_⟩
      · simp (disch := decide) only [cand, mkRaw, fieldRules, codeRules, Nat.reduceSub, Option.map_some]
        rfl
      · simp (disch := decide) only [cand, mkRaw, fieldRules, Nat.reduceSub]
        simp [classBad_code, hw]

theorem Instr.reads_of_tandem (hf : i.family = some .tandem) : i.Reads := by
  cases i <;> cases hf
  unfold Instr.wf at hw
  unfold Instr.Reads encRaw
  simp only [Bool.and_eq_true] at hw
  refine ⟨_, (candidate_tandem rfl).trans (if_pos ?_), ?_, by simp [cand]⟩
  · simp (disch := decide) only [fieldRules, Nat.reduceSub, hw]
  · simp only [cand, Raw.low64, low64_parts]
    simp (disch := decide) only [fieldRules, Nat.reduceSub]

theorem Instr.reads_of_isWord (word : i.isWord = true) : i.Reads := by
  rw [← family_isSome] at word
  obtain ⟨f, hf⟩ := Option.isSome_iff_exists.mp word
  cases f with
  | control => exact reads_of_control hw hf
  | integer => exact reads_of_integer hw hf
  | floating => exact reads_of_floating hw hf
  | convert => exact reads_of_convert hw hf
  | move => exact reads_of_move hw hf
  | memory => exact reads_of_memory hw hf
  | tile => exact reads_of_tile hw hf
  | queue => exact reads_of_queue hw hf
  | matrix => exact reads_of_matrix hw hf
  | tandem => exact reads_of_tandem hw hf

end

/-- What the map reads as a well-formed instruction passes steps 1 to 3 of decoding (05 R126). -/
theorem decodeRaw_encRaw {i : Instr} (reads : i.Reads) (hw : i.wf = true) : decodeRaw (encRaw i) = .ok i := by
  obtain ⟨c, entry, ins, accepted⟩ := reads
  have classes : c.fs.any (fun p => classBad p.1 p.2) = false :=
    List.any_eq_false.mpr fun p hp => ne_true_of_eq_false (accepted p hp)
  simp only [decodeRaw, entry, classes, ins, hw, Bool.false_eq_true, if_false, if_true]

end Sys2Proof
end

section
/-! PROPERTY. Decode and encode agree (05 R105 to R126), and the decoder reads the words that the spec writes out. -/

namespace Sys2Proof.Machine

/-- Settles O59: the bytes of a word give its fields back, the map's entry for its code gives the instruction back, and its fields
hold what well-formedness admits. -/
theorem encodeDecode : Obligations.EncodeDecode := by
  unfold Obligations.EncodeDecode
  intro i word hw
  rw [decodeBytes, ofBytes_encBytes]
  exact decodeRaw_encRaw (Instr.reads_of_isWord hw word) hw

/-- Settles O57: each of the four words is decoded. -/
theorem decodedWords : Obligations.DecodedWords := by
  unfold Obligations.DecodedWords
  refine ⟨?bra, ?atomf, ?mrd, ?sysc⟩
  case bra => decide
  case atomf => decide
  case mrd => decide
  case sysc => decide

end Sys2Proof.Machine
end

section
/-! SUPPORT. Shifts of an element, the first set bit, the number of set bits, and the fields of a word, bit by bit (07 R167, R171, R172). -/

namespace Sys2Proof

/-! ## Shifts of each element (07 R167) -/

theorem elemN_lt (x : Word) (w i : Nat) : elemN x w i < 2 ^ w := Nat.mod_lt _ (Nat.two_pow_pos w)

theorem flOr_map_zero (l : List Nat) : flOr (l.map fun _ => 0) = 0 := by
  induction l with
  | nil => rfl
  | cons i l ih => rw [List.map_cons, flOr_cons, ih, BitVec.or_self]

/-- A shift raises no flag. -/
theorem shiftElems_fl (w : Nat) (f : Nat → Nat → Nat → Nat) (a b : Word) : (shiftElems w f a b).fl = 0 :=
  (congrArg flOr List.map_map).trans (flOr_map_zero _)

/-- An element of a shift is the shifted element. -/
theorem elem_shiftElems (w : EW) (f : Nat → Nat → Nat → Nat) (a b : Word) {i : Nat} (hi : i < 64 / w.bits) :
    BitVec.ofNat w.bits (elemN (shiftElems w.bits f a b).d w.bits i) =
      BitVec.ofNat w.bits (f w.bits (elemN a w.bits i) (elemN b w.bits i)) := by
  apply BitVec.eq_of_toNat_eq
  rw [shiftElems, elemN_perElem _ hi, BitVec.toNat_ofNat, BitVec.toNat_ofNat, Nat.mod_mod]

section
variable {w x : Nat} (hx : x < 2 ^ w) (n : Nat)
include hx

theorem ofNat_shlN : BitVec.ofNat w (shlN w x n) = BitVec.ofNat w x <<< n := by
  apply BitVec.eq_of_toNat_eq
  rw [BitVec.toNat_ofNat, BitVec.toNat_shiftLeft, BitVec.toNat_ofNat, Nat.mod_eq_of_lt hx, Nat.shiftLeft_eq, shlN]
  split
  · exact Nat.mod_mod _ _
  · next past =>
    have all : x * 2 ^ n % 2 ^ w = 0 :=
      Nat.mod_eq_zero_of_dvd ((Nat.pow_dvd_pow 2 (Nat.le_of_not_lt past)).trans (Nat.dvd_mul_left _ _))
    rw [all, Nat.zero_mod]

theorem ofNat_shrN : BitVec.ofNat w (shrN w x n) = BitVec.ofNat w x >>> n := by
  have whole : shrN w x n = x / 2 ^ n := by
    unfold shrN
    split
    · rfl
    · next past =>
      exact (Nat.div_eq_of_lt (hx.trans_le (Nat.pow_le_pow_right (by decide) (Nat.le_of_not_lt past)))).symm
  apply BitVec.eq_of_toNat_eq
  rw [BitVec.toNat_ofNat, BitVec.toNat_ushiftRight, BitVec.toNat_ofNat, Nat.mod_eq_of_lt hx, Nat.shiftRight_eq_div_pow, whole,
    Nat.mod_eq_of_lt (Nat.lt_of_le_of_lt (Nat.div_le_self _ _) hx)]

/-- The two's complement value of an element. -/
theorem toI_eq_toInt (hw : 0 < w) : toI w true x = (BitVec.ofNat w x).toInt := by
  have half : 2 ^ w = 2 * 2 ^ (w - 1) := by rw [← Nat.pow_succ', Nat.succ_eq_add_one, Nat.sub_add_cancel hw]
  rw [BitVec.toInt_eq_toNat_cond, BitVec.toNat_ofNat, Nat.mod_eq_of_lt hx]
  simp only [toI, Bool.true_and, decide_eq_true_eq]
  split
  · rw [if_neg (by omega)]
  · rw [if_pos (by omega)]

/-- A count of the width or more leaves the copies of the sign that the division leaves. -/
theorem shraN_eq_wrapN (hw : 0 < w) : shraN w x n = wrapN w (toI w true x / ((2 ^ n : Nat) : Int)) := by
  unfold shraN
  dsimp only
  split
  · rfl
  next past =>
  have wide : 2 ^ w ≤ 2 ^ n := Nat.pow_le_pow_right (by decide) (Nat.le_of_not_lt past)
  have low := BitVec.le_toInt (BitVec.ofNat w x)
  have high := BitVec.toInt_lt (x := BitVec.ofNat w x)
  rw [← toI_eq_toInt hx hw] at low high
  have half : (2 : Int) ^ w = 2 * 2 ^ (w - 1) := by rw [← pow_succ', Nat.sub_add_cancel hw]
  have wide' : (2 : Int) ^ w ≤ ((2 ^ n : Nat) : Int) := by exact_mod_cast wide
  have pos : (0 : Int) < 2 ^ (w - 1) := by positivity
  split
  · next neg =>
    have q : toI w true x / ((2 ^ n : Nat) : Int) = -1 := by
      rw [Int.ediv_eq_iff_of_pos (by omega)]
      omega
    have ones : (-1 : Int) % 2 ^ w = 2 ^ w - 1 := by
      rw [← Int.add_emod_right]
      exact (congrArg (· % _) (by ring)).trans (Int.emod_eq_of_lt (by omega) (by omega : (2 : Int) ^ w - 1 < 2 ^ w))
    rw [q]
    apply Int.ofNat_inj.mp
    rw [wrapN_cast, ones, Nat.cast_sub Nat.one_le_two_pow, Nat.cast_pow]
    rfl
  · rw [Int.ediv_eq_zero_of_lt (by omega) (by omega)]
    rfl

theorem ofNat_shraN (hw : 0 < w) : BitVec.ofNat w (shraN w x n) = (BitVec.ofNat w x).sshiftRight n := by
  apply BitVec.eq_of_toNat_eq
  rw [shraN_eq_wrapN hx n hw, BitVec.sshiftRight_eq, BitVec.toNat_ofNat, BitVec.toNat_ofInt, wrapN_mod, toI_eq_toInt hx hw,
    Int.shiftRight_eq_div_pow, wrapN]

end

/-! ## The first set bit and the number of set bits (07 R171) -/

theorem firstFrom_none {p : Nat → Bool} {n : Nat} (h : ∀ k, k < n → p k = false) : firstFrom p n = n := by
  have none : (List.range n).find? p = none := List.find?_range_eq_none.mpr fun k hk => by rw [h k hk]; rfl
  rw [firstFrom, none, Option.getD_none]

theorem firstFrom_some {p : Nat → Bool} {n j : Nat} (hj : j < n) (h : p j = true) :
    firstFrom p n < n ∧ p (firstFrom p n) = true ∧ ∀ k, k < firstFrom p n → p k = false := by
  cases e : (List.range n).find? p with
  | none => simpa [h] using List.find?_range_eq_none.mp e j hj
  | some m =>
    obtain ⟨here, inside, before⟩ := List.find?_range_eq_some.mp e
    rw [firstFrom, e, Option.getD_some]
    exact ⟨List.mem_range.mp inside, here, fun k hk => by simpa using before k hk⟩

theorem firstFrom_le (p : Nat → Bool) (n : Nat) : firstFrom p n ≤ n := by
  by_cases h : ∃ j, j < n ∧ p j = true
  · obtain ⟨j, hj, hp⟩ := h
    exact (firstFrom_some hj hp).1.le
  · exact (firstFrom_none fun k hk => Bool.eq_false_iff.mpr fun hp => h ⟨k, hk, hp⟩).le

/-- A count of the bits of a word fits in a word. -/
theorem toNat_ofNat_count {n : Nat} (h : n ≤ 64) : (BitVec.ofNat 64 n : Word).toNat = n :=
  BitVec.toNat_ofNat n 64 ▸ Nat.mod_eq_of_lt (by omega)

/-- A word that is not zero has a set bit. -/
theorem exists_bit {a : Word} (h : a ≠ 0) : ∃ j, j < 64 ∧ a.getLsbD j = true := by
  by_contra none
  exact h (BitVec.eq_of_getLsbD_eq fun j hj => by simpa using fun b => none ⟨j, hj, b⟩)

theorem length_filter_bits (p : Nat → Bool) (l : List Nat) : (l.filter p).length = (l.map fun k => (p k).toNat).sum := by
  induction l with
  | nil => rfl
  | cons k l ih =>
    rw [List.filter_cons, List.map_cons, List.sum_cons, ← ih]
    cases p k with
    | false => simp
    | true => simp [Nat.add_comm]

theorem popcW_toNat (a : Word) : (popcW a).toNat = ((List.range 64).map fun k => (a.getLsbD k).toNat).sum := by
  rw [popcW, toNat_ofNat_count, length_filter_bits]
  exact (List.length_filter_le _ _).trans_eq List.length_range

theorem clzW_toNat (a : Word) : (clzW a).toNat = firstFrom (fun k => a.getLsbD (63 - k)) 64 := toNat_ofNat_count (firstFrom_le _ _)

theorem ctzW_toNat (a : Word) : (ctzW a).toNat = firstFrom a.getLsbD 64 := toNat_ofNat_count (firstFrom_le _ _)

theorem clzW_first {a : Word} (h : a ≠ 0) : (clzW a).toNat < 64 ∧ a.getLsbD (63 - (clzW a).toNat) = true ∧
    ∀ k, k < (clzW a).toNat → a.getLsbD (63 - k) = false := by
  obtain ⟨j, hj, bit⟩ := exists_bit h
  have top : a.getLsbD (63 - (63 - j)) = true := by rwa [Nat.sub_sub_self (by omega)]
  rw [clzW_toNat]
  exact firstFrom_some (p := fun k => a.getLsbD (63 - k)) (by omega) top

theorem ctzW_first {a : Word} (h : a ≠ 0) : (ctzW a).toNat < 64 ∧ a.getLsbD (ctzW a).toNat = true ∧
    ∀ k, k < (ctzW a).toNat → a.getLsbD k = false := by
  obtain ⟨j, hj, bit⟩ := exists_bit h
  rw [ctzW_toNat]
  exact firstFrom_some hj bit

/-! ## Tables, rotations and fields, bit by bit (07 R171, R172) -/

theorem getLsbD_blutW (tbl : BitVec 8) (a b c : Word) {k : Nat} (hk : k < 64) : (blutW tbl a b c).getLsbD k =
    tbl.getLsbD ((a.getLsbD k).toNat + 2 * (b.getLsbD k).toNat + 4 * (c.getLsbD k).toNat) := by
  have row (j : Nat) (x : Word) : (if tbl.getLsbD j then x else 0).getLsbD k = (tbl.getLsbD j && x.getLsbD k) := by
    cases tbl.getLsbD j with
    | false => simp
    | true => simp
  unfold blutW
  simp only [BitVec.getLsbD_or, row, BitVec.getLsbD_and, BitVec.getLsbD_not, hk, decide_true, Bool.true_and]
  -- the eight rows of the table
  cases a.getLsbD k <;> cases b.getLsbD k <;> cases c.getLsbD k <;> simp

theorem getLsbD_rotW (a b : Word) {k : Nat} (hk : k < 64) : (rotW a b).getLsbD ((k + b.toNat) % 64) = a.getLsbD k := by
  have r : b.toNat % 64 < 64 := Nat.mod_lt _ (by decide)
  rw [rotW, BitVec.getLsbD_rotateLeft, Nat.mod_mod, Nat.add_mod, Nat.mod_eq_of_lt hk]
  generalize b.toNat % 64 = n at r
  by_cases wraps : 64 ≤ k + n
  · have at_ : (k + n) % 64 = k + n - 64 := by omega
    rw [at_, decide_eq_true (by omega : k + n - 64 < n), cond_true, (by omega : 64 - n + (k + n - 64) = k)]
  · rw [Nat.mod_eq_of_lt (by omega), decide_eq_false (by omega : ¬k + n < n), cond_false, decide_eq_true (by omega : k + n < 64),
      Bool.true_and, Nat.add_sub_cancel]

theorem funnelW_eq (a b c : Word) : funnelW a b c = ((b ++ a) >>> (c.toNat % 64)).setWidth 64 := by
  apply BitVec.eq_of_toNat_eq
  rw [funnelW, BitVec.toNat_ofNat, BitVec.toNat_setWidth, BitVec.toNat_ushiftRight, BitVec.toNat_append,
    ← Nat.shiftLeft_add_eq_or_of_lt a.isLt, Nat.shiftLeft_eq]

theorem getLsbD_brevW (a : Word) {k : Nat} (hk : k < 64) : (brevW a).getLsbD k = a.getLsbD (63 - k) := by
  rw [brevW, BitVec.getLsbD_reverse, BitVec.getMsbD_eq_getLsbD, decide_eq_true hk, Bool.true_and]

theorem bfPos_eq (b : Word) : (b.extractLsb' 0 6).toNat = bfPos b := BitVec.extractLsb'_toNat 0 6 b

theorem bfLen_eq (b : Word) : min (b.extractLsb' 8 7).toNat (64 - bfPos b) = bfLen b :=
  congrArg (min · _) (BitVec.extractLsb'_toNat 8 7 b)

theorem bfLen_le (b : Word) : bfLen b ≤ 64 - bfPos b := min_le_right _ _

/-- The bits of a field's mask. -/
theorem testBit_fieldMask (len pos k : Nat) : ((2 ^ len - 1) * 2 ^ pos).testBit k = decide (pos ≤ k ∧ k < pos + len) := by
  rw [Nat.testBit_mul_two_pow, Nat.testBit_two_pow_sub_one, ← Bool.decide_and, decide_eq_decide]
  omega

theorem getLsbD_bfiW (a b c : Word) {k : Nat} (hk : k < 64) : (bfiW a b c).getLsbD k =
    if bfPos b ≤ k ∧ k < bfPos b + bfLen b then a.getLsbD (k - bfPos b) else c.getLsbD k := by
  simp only [bfiW, BitVec.getLsbD_or, BitVec.getLsbD_and, BitVec.getLsbD_not, BitVec.getLsbD_ofNat, BitVec.getLsbD_shiftLeft,
    testBit_fieldMask, hk, decide_true, Bool.true_and]
  by_cases inside : bfPos b ≤ k ∧ k < bfPos b + bfLen b
  · simp [inside, Nat.not_lt.mpr inside.1]
  · simp [inside]

/-- The bits of a field that stands at 0. -/
theorem testBit_field (a pos len k : Nat) : (a >>> pos % 2 ^ len).testBit k = (decide (k < len) && a.testBit (pos + k)) := by
  rw [Nat.testBit_mod_two_pow, Nat.testBit_shiftRight]

/-- The top bit of a number of `len` bits. -/
theorem le_iff_testBit_top {len f : Nat} (pos : 0 < len) (hf : f < 2 ^ len) : 2 ^ (len - 1) ≤ f ↔ f.testBit (len - 1) = true := by
  constructor
  · intro h
    have double : 2 ^ len = 2 ^ (len - 1) * 2 := by rw [← Nat.pow_succ, Nat.succ_eq_add_one, Nat.sub_add_cancel pos]
    have one : f / 2 ^ (len - 1) = 1 := Nat.div_eq_of_lt_le (by omega) (by omega)
    rw [Nat.testBit_eq_decide_div_mod_eq, one]
    rfl
  · exact Nat.ge_two_pow_of_testBit

/-- The top bit of a field, as the field's value has it. -/
theorem le_field_iff (a : Word) {pos len : Nat} (h : 0 < len) :
    2 ^ (len - 1) ≤ a.toNat >>> pos % 2 ^ len ↔ a.getLsbD (pos + len - 1) = true := by
  rw [le_iff_testBit_top h (Nat.mod_lt _ (Nat.two_pow_pos _)), testBit_field, decide_eq_true (Nat.sub_one_lt_of_lt h), Bool.true_and,
    Nat.add_sub_assoc h, BitVec.getLsbD]

/-- A field of `len` bits under ones. -/
theorem testBit_ones_above {len f k : Nat} (fits : len ≤ 64) (hf : f < 2 ^ len) (hk : k < 64) :
    (f + (2 ^ 64 - 2 ^ len)).testBit k = if k < len then f.testBit k else true := by
  have ones : 2 ^ 64 - 2 ^ len = 2 ^ len * (2 ^ (64 - len) - 1) := by
    rw [Nat.mul_sub, ← Nat.pow_add, Nat.add_sub_cancel' fits, Nat.mul_one]
  rw [ones, Nat.add_comm, Nat.testBit_two_pow_mul_add _ hf, Nat.testBit_two_pow_sub_one]
  split
  · rfl
  · exact decide_eq_true (by omega)

theorem getLsbD_bfxW (sgn : Bool) (a b : Word) {k : Nat} (hk : k < 64) : (bfxW sgn a b).getLsbD k =
    if k < bfLen b then a.getLsbD (bfPos b + k)
    else sgn && decide (0 < bfLen b) && a.getLsbD (bfPos b + bfLen b - 1) := by
  have fits : bfLen b ≤ 64 := (bfLen_le b).trans (Nat.sub_le _ _)
  have small : a.toNat >>> bfPos b % 2 ^ bfLen b < 2 ^ bfLen b := Nat.mod_lt _ (Nat.two_pow_pos _)
  have sign : (sgn && decide (0 < bfLen b) && decide (2 ^ (bfLen b - 1) ≤ a.toNat >>> bfPos b % 2 ^ bfLen b)) =
      (sgn && decide (0 < bfLen b) && a.getLsbD (bfPos b + bfLen b - 1)) := by
    by_cases pos : 0 < bfLen b
    · exact congrArg (sgn && decide (0 < bfLen b) && ·) (Bool.eq_iff_iff.mpr (decide_eq_true_iff.trans (le_field_iff a pos)))
    · simp [pos]
  unfold bfxW
  dsimp only
  rw [sign]
  cases sgn && decide (0 < bfLen b) && a.getLsbD (bfPos b + bfLen b - 1) with
  | false =>
    rw [if_neg Bool.false_ne_true, BitVec.getLsbD_ofNat, decide_eq_true hk, Bool.true_and, testBit_field]
    by_cases inside : k < bfLen b
    · simp [inside, BitVec.getLsbD]
    · simp [inside]
  | true =>
    rw [if_pos rfl, BitVec.getLsbD_ofNat, decide_eq_true hk, Bool.true_and, testBit_ones_above fits small hk, testBit_field]
    by_cases inside : k < bfLen b
    · simp [inside, BitVec.getLsbD]
    · simp [inside]

/-! ## The carry chain (07 R173) -/

/-- Sum and carry are the exact sum. -/
theorem iaddcW_exact (a b : Word) (p : Bool) :
    (iaddcW a b p).1.toNat + 2 ^ 64 * (iaddcW a b p).2.toNat = a.toNat + b.toNat + p.toNat := by
  have ha := a.isLt
  have hb := b.isLt
  have hp := p.toNat_le
  have cin : (if p then 1 else 0) = p.toNat := by cases p <;> rfl
  unfold iaddcW
  rw [cin]
  dsimp only
  rw [BitVec.toNat_ofNat]
  by_cases carry : 2 ^ 64 ≤ a.toNat + b.toNat + p.toNat
  · rw [decide_eq_true carry, Bool.toNat_true]
    omega
  · rw [decide_eq_false carry, Bool.toNat_false]
    omega

theorem toNat_append_words (hi lo : Word) : (hi ++ lo).toNat = 2 ^ 64 * hi.toNat + lo.toNat := by
  rw [BitVec.toNat_append, ← Nat.shiftLeft_add_eq_or_of_lt lo.isLt, Nat.shiftLeft_eq, Nat.mul_comm]

/-- Two words with the carry between them add 128-bit values. -/
theorem iaddcW_chain (a0 a1 b0 b1 : Word) :
    (iaddcW a1 b1 (iaddcW a0 b0 false).2).1 ++ (iaddcW a0 b0 false).1 = (a1 ++ a0) + (b1 ++ b0) := by
  have low := iaddcW_exact a0 b0 false
  have high := iaddcW_exact a1 b1 (iaddcW a0 b0 false).2
  apply BitVec.eq_of_toNat_eq
  rw [BitVec.toNat_add, toNat_append_words, toNat_append_words, toNat_append_words]
  have small := (iaddcW a0 b0 false).1.isLt
  have small' := (iaddcW a1 b1 (iaddcW a0 b0 false).2).1.isLt
  rw [Bool.toNat_false] at low
  omega

end Sys2Proof
end

section
/-! PROPERTY. The shifts, the bit functions and the carry chain of the integer family (07 R167, R171 to R173). -/

namespace Sys2Proof.Machine

/-- Settles O8: each element of a shift is the element of A shifted, whatever the count (`ofNat_shlN`, `ofNat_shrN`, `ofNat_shraN`). -/
theorem shiftElements : Obligations.ShiftElements := by
  unfold Obligations.ShiftElements
  intro w a b i hi el n
  have small := elemN_lt a w.bits i
  refine ⟨?shl, ?shr, ?shra, shiftElems_fl .., shiftElems_fl .., shiftElems_fl ..⟩
  case shl => exact (elem_shiftElems w shlN a b hi).trans (ofNat_shlN small n)
  case shr => exact (elem_shiftElems w shrN a b hi).trans (ofNat_shrN small n)
  case shra => exact (elem_shiftElems w shraN a b hi).trans (ofNat_shraN small n w.bits_pos)

/-- Settles O9: each function by the lemma about its bits. -/
theorem bitFunctions : Obligations.BitFunctions := by
  unfold Obligations.BitFunctions
  intro a b c tbl
  rw [bfPos_eq]
  intro pos len
  have field : len = bfLen b := bfLen_eq b
  rw [field]
  exact ⟨fun _ => getLsbD_blutW tbl a b c, fun _ => getLsbD_rotW a b, funnelW_eq a b c, popcW_toNat a, fun _ => getLsbD_brevW a,
    by decide, by decide, clzW_first, ctzW_first, fun _ => getLsbD_bfiW a b c, fun sgn _ => getLsbD_bfxW sgn a b⟩

/-- Settles O10: sum and carry are the exact sum, and two words chain by it. -/
theorem carryChain : Obligations.CarryChain := by
  unfold Obligations.CarryChain
  exact ⟨iaddcW_exact, iaddcW_chain⟩

end Sys2Proof.Machine
end

section
/-! SUPPORT. TRAP, BRK and RTT (07 R162, R163, 20 R447, R451, R453). -/

namespace Sys2Proof.Machine

/-! ## TRAP and BRK (07 R162) -/

/-- A change of the issuing group that no guard reads leaves the issue and its split. -/
theorem State.ctx?_updGroup {s : State} {h : Hdr} {x : Ctx} (hx : s.ctx? h = some x) {f : Group → Group}
    (guard : (f x.g).guard h = x.g.guard h) :
    (s.updGroup x.iss.who f).ctx? h = some { x with c := x.c.updGroup x.iss.who.grp f, g := f x.g } := by
  obtain ⟨hi, hc, hg, act, off⟩ := State.ctx?_some hx
  have hi' : (s.updGroup x.iss.who f).cur = some x.iss := hi
  obtain ⟨c, hc', hg'⟩ := State.group?_some (State.group?_updGroup (f := f) hg)
  have hc₂ := State.crew?_updGroup (f := f) hc
  obtain rfl := Option.some.inj (hc₂.symm.trans hc')
  simp only [State.ctx?, hi', hc₂, hg', Option.bind_some, Option.map_some, guard, ← act, ← off]

section
variable {h : Hdr} {s : State} {x : Ctx} (hx : s.ctx? h = some x) (cause : Nat) (code : BitVec 16)
include hx

/-- A trapping word with active lanes enters the handler for them, once its other lanes have gone on. -/
theorem State.trapWord_traps (act : x.act ≠ 0) (ready : trapReady s x = true) :
    ∃ g', QuietFrame s (s.trapWord h cause code) x.iss.who ∧ (s.trapWord h cause code).group? x.iss.who = some g' ∧
      Trapped (s.core x.c.core).trapbase (x.g.advance x.off x.iss.len) g'
        { cause := cause, lanes := x.act, info := code.setWidth 64, pc := x.iss.pc } := by
  have hx' := State.ctx?_updGroup hx (f := fun g => g.advance x.off x.iss.len) rfl
  obtain ⟨quiet, g', _, hg', _, _, trapped⟩ := State.trapIssue_traps hx' ready cause x.act (code.setWidth 64) 0
  rw [State.trapWord, State.withCtx_some hx, if_neg act]
  exact ⟨g', (Spends.updGroup s x.iss.who (fun g => g.advance x.off x.iss.len) 0 0).quiet.trans quiet, hg', trapped⟩

/-- Without an active lane a trapping word only goes on. -/
theorem State.trapWord_passes (act : x.act = 0) : Passed s (s.trapWord h cause code) x := by
  rw [State.trapWord, State.withCtx_some hx, if_pos act]
  exact State.retire_passed hx

end

/-! ## The barriers of a group that is back from its handler (20 R451) -/

/-- A barrier as it stands once group `grp` counts at it again. -/
def Crew.barAgain (c : Crew) (grp : Nat) (b : Bar) : Bar :=
  if b.arr.getLsbD grp && c.barFull b && b.mask != 0 then { b with phase := b.phase + 1, arr := 0 } else b

/-- One step of `Crew.countsAgain`. -/
def Crew.barRecheck (grp : Nat) (c : Crew) (k : Nat) : Crew :=
  if (c.bars.getD k {}).arr.getLsbD grp then c.barCheck k false else c

theorem Crew.barAgain_absent (c : Crew) (grp : Nat) : c.barAgain grp {} = {} := by
  simp [Crew.barAgain]

theorem Crew.bar_barRecheck (c : Crew) (grp k j : Nat) :
    (c.barRecheck grp k).bar j = if j = k then c.barAgain grp (c.bar k) else c.bar j := by
  have at_ (f : Bar → Bar) (absent : f {} = {}) : (lupd c.bars k f).getD j {} = if j = k then f (c.bar k) else c.bar j := by
    rw [List.getD_eq_getElem?_getD, lupd_getElem?, Crew.bar, Crew.bar, List.getD_eq_getElem?_getD, List.getD_eq_getElem?_getD]
    by_cases e : j = k
    · subst e
      rw [if_pos rfl, if_pos rfl]
      cases c.bars[j]? with
      | none => exact absent.symm
      | some b => rfl
    · rw [if_neg (Ne.symm e), if_neg e]
  unfold Crew.barRecheck Crew.barAgain
  rw [← Crew.bar]
  cases arrived : (c.bar k).arr.getLsbD grp with
  | false =>
    simp only [Bool.false_eq_true, if_false, Bool.false_and]
    split
    · next e => rw [e]
    · rfl
  | true => exact (at_ _ (by simp)).trans (by simp)

theorem Crew.groups_barRecheck (c : Crew) (grp k : Nat) : (c.barRecheck grp k).groups = c.groups := by
  unfold Crew.barRecheck
  split
  · rfl
  · rfl

theorem Crew.barFull_congr {c c' : Crew} (h : c'.groups = c.groups) (b : Bar) : c'.barFull b = c.barFull b := by
  rw [Crew.barFull, Crew.barFull, h]

theorem Crew.bar_foldl_barRecheck (grp j : Nat) : ∀ (ks : List Nat) (c : Crew), ks.Nodup →
    (ks.foldl (Crew.barRecheck grp) c).bar j = if j ∈ ks then c.barAgain grp (c.bar j) else c.bar j
  | [], c, _ => by simp
  | k :: ks, c, distinct => by
    obtain ⟨new, distinct⟩ := List.nodup_cons.mp distinct
    have again (b : Bar) : (c.barRecheck grp k).barAgain grp b = c.barAgain grp b := by
      rw [Crew.barAgain, Crew.barAgain, Crew.barFull_congr (c.groups_barRecheck grp k)]
    rw [List.foldl_cons, bar_foldl_barRecheck grp j ks _ distinct, again, Crew.bar_barRecheck]
    by_cases e : j = k
    · subst e
      simp [new]
    · simp [e]

/-- Each barrier is judged by itself. -/
theorem Crew.bar_countsAgain (c : Crew) (grp k : Nat) : (c.countsAgain grp).bar k = c.barAgain grp (c.bar k) := by
  refine (Crew.bar_foldl_barRecheck grp k (List.range c.bars.length) c List.nodup_range).trans ?_
  split
  · rfl
  · next absent =>
    have none : c.bar k = {} := List.getD_eq_default _ _ (by simpa using absent)
    rw [none, Crew.barAgain_absent]

/-- Lists that agree but for one entry that both hold are of one length. -/
theorem length_eq_of_getElem? {α : Type} {l l' : List α} {i : Nat} {a a' : α} (here : l[i]? = some a) (here' : l'[i]? = some a')
    (other : ∀ j, j ≠ i → l'[j]? = l[j]?) : l'.length = l.length := by
  have key (j : Nat) : l'[j]? = none ↔ l[j]? = none := by
    by_cases e : j = i
    · subst e
      simp [here, here']
    · rw [other j e]
  apply le_antisymm
  · exact List.getElem?_eq_none_iff.mp ((key _).mpr (List.getElem?_eq_none_iff.mpr le_rfl))
  · exact List.getElem?_eq_none_iff.mp ((key _).mp (List.getElem?_eq_none_iff.mpr le_rfl))

/-- Has every group of a barrier's mask arrived or finished, one group in handler mode taken as back from its handler? -/
def Crew.fullBack (c : Crew) (grp : Nat) (b : Bar) : Bool :=
  (List.range c.groups.length).all fun j =>
    let g := c.groups.getD j {}
    !b.mask.getLsbD j || (b.arr.getLsbD j && (!g.handler || j == grp)) || g.finished

/-- Once the group is out of its handler with lanes left, that is when the barrier is full. -/
theorem Crew.barFull_back {c c' : Crew} {grp : Nat} {g g' : Group} (here : c.groups[grp]? = some g) (here' : c'.groups[grp]? = some g')
    (other : ∀ j, j ≠ grp → c'.groups[j]? = c.groups[j]?) (mode : g.handler = true) (mode' : g'.handler = false)
    (remain : g'.remain ≠ 0) (b : Bar) : c'.barFull b = c.fullBack grp b := by
  rw [Crew.barFull, Crew.fullBack, length_eq_of_getElem? here here' other]
  refine congrArg _ (funext fun j => ?_)
  dsimp only
  rw [List.getD_eq_getElem?_getD, List.getD_eq_getElem?_getD]
  by_cases e : j = grp
  · subst e
    have going : g.finished = false := by rw [Group.finished, mode, Bool.not_true, Bool.false_and]
    have going' : g'.finished = false := by rw [Group.finished, beq_eq_false_iff_ne.mpr remain, Bool.and_false]
    simp [here, here', mode', going, going']
  · rw [other j e, beq_eq_false_iff_ne.mpr e, Bool.or_false]

/-! ## RTT (07 R163, 20 R453) -/

/-- The crew once one of its groups has returned: it counts again at the barriers, and a skipped matrix word is marked. -/
def Crew.returned (c : Crew) (grp : Nat) (skip : Bool) : Crew :=
  { c.countsAgain grp with mskip := c.mskip || (skip && c.ownMat grp) }

theorem Crew.returned_eq (c : Crew) (grp : Nat) (skip : Bool) :
    ∃ bars, c.returned grp skip = { c with bars := bars, mskip := c.mskip || (skip && c.ownMat grp) } := by
  obtain ⟨bars, e⟩ := c.countsAgain_eq grp
  exact ⟨bars, by rw [Crew.returned, e]⟩

theorem Crew.returned_id (c : Crew) (grp : Nat) (skip : Bool) : (c.returned grp skip).id = c.id := by
  obtain ⟨_, e⟩ := c.returned_eq grp skip
  rw [e]

theorem Crew.returned_groups (c : Crew) (grp : Nat) (skip : Bool) : (c.returned grp skip).groups = c.groups := by
  obtain ⟨_, e⟩ := c.returned_eq grp skip
  rw [e]

/-- The state once a group has returned from its handler. -/
def State.returned (s : State) (x : Ctx) (skip : Bool) : State :=
  ((s.spent { x.iss with act := x.iss.set }).updGroup x.iss.who fun g => g.rtt skip).updCrew x.iss.who.crew
    fun c => c.returned x.iss.who.grp skip

/-- The trap LP is LP again, the named lanes at TRAPPC or behind the word. -/
theorem Group.rtt_left (g : Group) (skip : Bool) :
    Left g (g.rtt skip) fun e => { e with pc := g.tpc.setWidth 48 + (if skip then BitVec.ofNat 48 g.skipLen else 0) } :=
  g.leaveTrap_left _ _

/-- A remaining lane of the trap LP remains. -/
theorem Group.remain_rtt {g : Group} (skip : Bool)
    (left : (List.range 32).any (fun l => (sget Lp.none g.trapLp l).st.remaining) = true) : (g.rtt skip).remain ≠ 0 := by
  obtain ⟨l, hl, remains⟩ := List.any_eq_true.mp left
  have hl := List.mem_range.mp hl
  intro none
  have gone := Group.remain_eq_zero_iff.mp none l hl
  rw [(g.rtt_left skip).lp l hl] at gone
  split at gone
  · exact absurd (remains.symm.trans gone) (by decide)
  · exact absurd (remains.symm.trans gone) (by decide)

section
variable {h : Hdr} {s : State} {x : Ctx} (hx : s.ctx? h = some x) (mode : x.g.handler = true) (skip : Bool)
include hx mode

/-- The state in which RTT has performed. -/
theorem execRtt_eq (settled : x.g.shadowPending = false) :
    exec (.rtt h skip) s = .next ((s.returned x skip).lanesGone x.iss.who) := by
  have holds : x.holds [] = true := rfl
  have rights : supervisor (s.core x.c.core).trapbase x.c.vf x.g = true := by rw [supervisor, mode, Bool.true_or]
  change Host.Outcome.next (s.withCtx h _) = _
  rw [State.withCtx_some hx, State.checked_go holds fun _ => rights, settled, Bool.and_false, if_neg Bool.false_ne_true, if_pos mode]
  rfl

/-- What RTT leaves of its group and its crew. -/
theorem State.returned_frame (left : (List.range 32).any (fun l => (sget Lp.none x.g.trapLp l).st.remaining) = true) :
    ∃ g' c', QuietFrame s (s.returned x skip) x.iss.who ∧ (s.returned x skip).group? x.iss.who = some g' ∧
      (s.returned x skip).crew? x.iss.who.crew = some c' ∧ g'.remain ≠ 0 ∧
      c' = { x.c with
        groups := c'.groups, bars := c'.bars, mskip := x.c.mskip || (skip && x.c.ownMat x.iss.who.grp) } ∧
      (∀ k, let b := x.c.bar k
        c'.bar k = if b.arr.getLsbD x.iss.who.grp && x.c.fullBack x.iss.who.grp b && b.mask != 0 then
          { b with phase := b.phase + 1, arr := 0 } else b) ∧
      Left x.g g' fun e => { e with pc := x.g.tpc.setWidth 48 + (if skip then BitVec.ofNat 48 x.g.skipLen else 0) } := by
  obtain ⟨_, hc, hg, _, _⟩ := State.ctx?_some hx
  let i : Issue := { x.iss with act := x.iss.set }
  obtain ⟨n, hg₁⟩ := State.group?_spent (i := i) hg
  have spends := (Spends.spent (i := i) hc).trans (.updGroup _ x.iss.who (fun g => g.rtt skip) _ _)
  have hg₂ := State.group?_updGroup (f := fun g => g.rtt skip) hg₁
  obtain ⟨gs, hc₂⟩ := spends.crew _ hc
  have id (c : Crew) := c.returned_id x.iss.who.grp skip
  have groups (c : Crew) := c.returned_groups x.iss.who.grp skip
  have remain := Group.remain_rtt (g := { x.g with lastIssue := n }) skip left
  have out : Left x.g (({ x.g with lastIssue := n } : Group).rtt skip) _ := (Group.rtt_left _ skip).congr ⟨rfl, rfl, rfl, rfl, rfl⟩
    ⟨rfl, rfl, rfl, rfl, rfl, rfl, rfl, rfl, rfl, rfl, rfl, rfl, rfl⟩
  have in_ {t : State} {c : Crew} (hc : t.crew? x.iss.who.crew = some c) (j : Nat) :
      t.group? { crew := x.iss.who.crew, grp := j } = c.groups[j]? := by rw [State.group?, hc, Option.bind_some]
  have full (b : Bar) := Crew.barFull_back (b := b) ((in_ hc _).symm.trans hg) ((in_ hc₂ _).symm.trans hg₂)
    (fun j e => (in_ hc₂ j).symm.trans ((spends.frame.groups j e).trans (in_ hc j))) mode out.mode remain
  refine ⟨_, _, spends.quiet.trans (.updCrew hc₂ id groups), State.group?_updCrew id groups hg₂, State.crew?_updCrew id hc₂, remain,
    ?_, fun k => ?_, out⟩
  · obtain ⟨_, e⟩ := Crew.returned_eq { x.c with groups := gs } x.iss.who.grp skip
    rw [e]
    rfl
  · refine (Crew.bar_countsAgain { x.c with groups := gs } x.iss.who.grp k).trans ?_
    rw [Crew.barAgain, full]
    rfl

end

end Sys2Proof.Machine
end

section
/-! PROPERTY. The words that enter a handler and that leave it (07 R162, R163, 20 R447, R453). -/

namespace Sys2Proof.Machine

/-- Settles O17: both words trap for their active lanes, and go on without one. -/
theorem trapWords : Obligations.TrapWords := by
  unfold Obligations.TrapWords
  refine ⟨?trap, ?trapNone, ?brk, ?brkNone⟩
  case trap =>
    intro h code s x hx act ready
    obtain ⟨g', done⟩ := State.trapWord_traps hx 0x0D code act ready
    exact ⟨_, g', rfl, done⟩
  case trapNone =>
    intro h code s x hx act
    obtain ⟨g', done⟩ := State.trapWord_passes hx 0x0D code act
    exact ⟨_, g', rfl, done⟩
  case brk =>
    intro h code s x hx act ready
    obtain ⟨g', done⟩ := State.trapWord_traps hx 0x0B code act ready
    exact ⟨_, g', rfl, done⟩
  case brkNone =>
    intro h code s x hx act
    obtain ⟨g', done⟩ := State.trapWord_passes hx 0x0B code act
    exact ⟨_, g', rfl, done⟩

/-- Settles O18: past its gates RTT returns, and as a lane of the trap LP remains nothing ends with it. -/
theorem rttWord : Obligations.RttWord := by
  unfold Obligations.RttWord
  intro h skip s x hx mode left settled
  obtain ⟨g', c', frame, group, crew, remain, only, bars, out⟩ := State.returned_frame hx mode skip left
  have stays := State.lanesGone_remain group remain
  exact ⟨_, g', c', (execRtt_eq hx mode skip settled).trans (congrArg _ stays), frame, group, crew, only, bars, out⟩

end Sys2Proof.Machine
end
